-- ==== Sys2Proof/Word.lean ====
section
/-! DEFINITION. Words and fixed-size tables: what the manual treats as bits is a bit vector (bytes, the frame clock);
a fixed number of like things (512 circuits, 128 ring cells) is a `Table`. -/

namespace Sys2Proof

/-- One byte on a link, in the overhead channel or in a sample position (R186). -/
abbrev Byte := BitVec 8

/-- A value of the frame clock FC: 32 bits, wrapping (R113). -/
abbrev FrameCount := BitVec 32

/-- A table of exactly `n` entries, indexed by `Fin n`. -/
structure Table (n : Nat) (α : Type) where
  data : List α
  size : data.length = n
  deriving DecidableEq, Repr

namespace Table

variable {n : Nat} {α β : Type}

/-- The table whose entry `i` is `f i`. -/
def ofFn (f : Fin n → α) : Table n α := ⟨List.ofFn f, by simp⟩

/-- The table with every entry equal to `a`. -/
def fill (a : α) : Table n α := ⟨List.replicate n a, by simp⟩

def get (t : Table n α) (i : Fin n) : α := t.data.get (i.cast t.size.symm)

def set (t : Table n α) (i : Fin n) (a : α) : Table n α := ⟨t.data.set i.val a, by simp [t.size]⟩

def modify (t : Table n α) (i : Fin n) (f : α → α) : Table n α := t.set i (f (t.get i))

/-- Apply `f` to every entry, with its index. -/
def mapIdx (t : Table n α) (f : Fin n → α → β) : Table n β := ofFn fun i => f i (t.get i)

def map (t : Table n α) (f : α → β) : Table n β := ⟨t.data.map f, by simp [t.size]⟩

end Table

end Sys2Proof
end

