-- ==== Sys2Proof/Config.lean ====
section
/-! DEFINITION. What one part fixes for good: the constants the chapters state as figures, and the free values, which
the manual leaves open. A free value has no body, so no claim can rest on what it is. -/

namespace Sys2Proof.Config

/-- FREE VALUE (assumption 10). The sense recorded beside J = 0: true for SKIPPED, false for REPEATED. R40 and R74 give
J = 0 no sense. Applied to the model's own count of free values drawn. -/
opaque zeroJSkipped : Nat → Bool

/-- FREE VALUE (assumption 11). The order, one of six (taken modulo 6), in which an outcome reaches the Batch Unit, the
Watch Unit and the report queue when more than one of them can hand a report (R19, R161). -/
opaque outcomeOrder : Nat → Nat

/-- FREE VALUE (assumption 12). Whether a slip's SLIP report reaches the queue before the reports the slip causes in the
Circuit Table (R95). -/
opaque slipReportFirst : Nat → Bool

/-- The enumerations that a reply or a report carries and whose bytes chapter 10 does not list (assumption 7). -/
inductive Enumeration where
  | side | spanState | huntPhase | delayRecord | slipKind | spanCause | spanReport | laneState | laneCause | workingCause
  | laneReport | timingSource | linkState | peerCause | failedTest | peerReport | matcherState | searchKind | matchResult
  | bucketKind | port | missSource | batchCause | eventClass | receiverState | slotPhase
  deriving DecidableEq, Repr

/-- FREE VALUE (assumption 7). The byte sent for value number `n` of an enumeration that section 10.2 leaves out. -/
opaque unlistedByte : Enumeration → Nat → Byte

/-- R42, R49: the drain, in frames. -/
def drainFrames : Nat := 8000

/-- R40, R105: frames in a second. -/
def framesPerSecond : Nat := 8000

/-- R127: the response timeout, in frames. -/
def responseFrames : Nat := 2000

/-- R118: the HELLO period, in frames. -/
def helloFrames : Nat := 800

/-- R119: the silence limit, in frames. -/
def silenceFrames : Nat := 2400

/-- R58: the service pause after a change of the working lane, in frames. -/
def pauseFrames : Nat := 800

/-- R112: the duplicate window after a change of the working lane, in frames. -/
def duplicateFrames : Nat := 256

/-- R99: the error interval, in frames. -/
def errorIntervalFrames : Nat := 8000

/-- R99: the overhead errors of one interval that take an UP lane to DEGRADED. -/
def degradeErrors : Nat := 16

/-- R175: the start-up period, in frames. -/
def startUpFrames : Nat := 160

/-- R176: the inter-byte limit of 10 ms, counted in 125 µs frames (assumption 4). -/
def interByteFrames : Nat := 80

/-- R14, R102, R103: the run of frames that recognises a condition or a bridge flag. -/
def recognitionRun : Nat := 16

/-- R61: the frames of priming. -/
def primingFrames : Nat := 128

/-- R111: the overhead transmit queue's depth. -/
def overheadDepth : Nat := 128

/-- R181: the report queue's depth. -/
def reportDepth : Nat := 32

/-- R177: the input queue's depth, and the most QUEUE_FULL answers a reply output holds. -/
def inputDepth : Nat := 4

/-- Where every count of the manual stops. -/
def countLimit : Nat := 65535

/-- R175: the revision of the parts this manual describes. -/
def revision : Nat := 1

end Sys2Proof.Config
end

