-- ==== Sys2Proof/Syntax.lean ====
section
/-! DEFINITION. The commands of the part: one constructor of `Instr` for each row of spec/opcode_table.json, in the
table's order, with the row's operands. A host command carries the port it is taken from, its tag and the values its
body spells (numbers as read, before the owning rule judges them, R186). An event carries the place it happens at and
what arrives there. -/

namespace Sys2Proof

abbrev CircuitNo := Fin 512
abbrev SpanNo := Fin 16
abbrev SlotNo := Fin 512
abbrev UnitNo := Fin 4
/-- A bearer timeslot of a span: index `i` is timeslot `i + 1`, so 0 to 30 stand for timeslots 1 to 31. -/
abbrev TimeslotNo := Fin 31

/-- The two management links (chapter 9). -/
inductive Port where
  | primary | craft
  deriving DecidableEq, Repr

/-- The two fibre lanes (chapter 5). -/
inductive Lane where
  | a | b
  deriving DecidableEq, Repr

/-- The line conditions; the codes are IDLE 00, SEIZED 01, ANSWERED 10, BLOCKED 11 (introduction, section 7). -/
inductive LineCondition where
  | idle | seized | answered | blocked
  deriving DecidableEq, Repr

/-- Handshake mode of the peer protocol (chapter 6). -/
inductive HandshakeMode where
  | twoWay | threeWay
  deriving DecidableEq, Repr

/-- A trunk code: route and member (R141). A code as received may lie outside 0..4095 and is then judged by the rule. -/
structure TrunkCode where
  route : Nat
  member : Nat
  deriving DecidableEq, Repr

/-- Decline reasons, in the order of section 10.2. -/
inductive DeclineReason where
  | unknownTrunk | slotConflict | busy | notReady | inhibited | noFallback
  deriving DecidableEq, Repr

/-- Reasons, in the order of section 10.2. -/
inductive Reason where
  | commanded | peerDeclined | peerTimeout | peerAbandoned | peerReverted | peerReleased | peerDown | noMatch
  | ambiguous | outOfWindow | bridgeLimit | deferLimit | laneLoss | holdExpired
  deriving DecidableEq, Repr

/-- How a command names its circuit: by number or by trunk code (R186, circuit selector). -/
inductive Selector where
  | number (circuit : Nat)
  | code (code : TrunkCode)
  deriving DecidableEq, Repr

/-- The levels of a port's two strap pins, true for high (R173). -/
structure Straps where
  first : Bool
  second : Bool
  deriving DecidableEq, Repr

/-- A byte of a management link as received: its eight bits, and whether its stop bit was in place (R173). -/
structure LinkByte where
  value : Byte
  stop : Bool
  deriving DecidableEq, Repr

/-- What the switch sends on one highway channel in one frame. -/
structure ChannelInput where
  sample : Byte
  code : LineCondition
  deriving DecidableEq, Repr

/-- A span frame: timeslots 0 to 31, one byte each (section 4.1). -/
abbrev SpanFrame := Table 32 Byte

/-- A lane frame: alignment word, overhead bytes, samples and control bytes (section 10.6). -/
structure LaneFrame where
  word : Table 4 Byte
  overhead : Table 16 Byte
  samples : Table 512 Byte
  control : Table 512 Byte
  deriving DecidableEq, Repr

/-- The nine optional parameters of SET NODE, as given (R23); a mode is an enumeration byte. -/
structure NodeSettings where
  node : Option Nat
  mode : Option Nat
  lead : Option Nat
  window : Option Nat
  retryLimit : Option Nat
  backoff : Option Nat
  bridgeLimit : Option Nat
  deferLimit : Option Nat
  idleCode : Option Nat
  deriving DecidableEq, Repr

/-- The five optional settings of SET SPAN, as given (R93). -/
structure SpanSettings where
  wlo : Option Int
  whi : Option Int
  tolerance : Option Nat
  slipReports : Option Bool
  autoRetire : Option Bool
  deriving DecidableEq, Repr

/-- The six optional settings of SET WATCH, as given (R169). -/
structure WatchSettings where
  enable : Option Bool
  value : Option Nat
  compare : Option Nat
  classes : Option Byte
  action : Option Nat
  combine : Option Nat
  deriving DecidableEq, Repr

/-- The operand of LOOKUP by its form byte (R155, R188). -/
inductive LookupOperand where
  | byCode (code : TrunkCode)
  | byBucket (bucket : Nat)
  | byRange (index : Nat)
  | unknownForm (form : Nat)
  deriving DecidableEq, Repr

/-- The commands and events of the part, one constructor for each row of spec/opcode_table.json. -/
inductive Instr where
  | powerOnReset (primary craft : Straps)
  | startUpEnd
  | siteFrame (switch : Table 512 ChannelInput)
  | targetReached (circuit : CircuitNo)
  | switchLineConditionChange (circuit : CircuitNo)
  | spanFrameReceived (span : SpanNo) (frame : SpanFrame)
  | frameAlignmentFound (span : SpanNo)
  | multiframeHuntLoss (span : SpanNo)
  | spanUp (span : SpanNo)
  | spanLossOfSignal (span : SpanNo)
  | spanBadAlignment (span : SpanNo)
  | laneFrameReceived (lane : Lane) (frame : LaneFrame)
  | slotLineConditionChange (slot : SlotNo)
  | bridgeFlagRecognised (slot : SlotNo)
  | laneUp (lane : Lane)
  | laneLossOfLight (lane : Lane)
  | laneAlignmentLoss (lane : Lane)
  | laneDegraded (lane : Lane)
  | errorIntervalEnd (lane : Lane)
  | holdOffExpiry
  | duplicateWindowExpiry
  | matcherStart
  | primingComplete (unit : UnitNo)
  | windowEnd (unit : UnitNo)
  | matchOutcome (unit : UnitNo)
  | servicePauseEnd
  | responseTimerExpiry (circuit : CircuitNo)
  | retryBackoffExpiry (circuit : CircuitNo)
  | bridgeLimitExpiry (circuit : CircuitNo)
  | deferLimitExpiry (circuit : CircuitNo)
  | fallbackHoldExpiry (circuit : CircuitNo)
  | drainEnd (circuit : CircuitNo)
  | helloTimerExpiry
  | silenceExpiry
  | receivedHello (node : Nat) (mode : HandshakeMode)
  | receivedPropose (code : TrunkCode) (slot : SlotNo) (number : Byte)
  | receivedAccept (code : TrunkCode) (slot : SlotNo) (number : Byte)
  | receivedDecline (code : TrunkCode) (number : Byte) (reason : DeclineReason)
  | receivedConfirm (code : TrunkCode) (number : Byte)
  | receivedSpliced (code : TrunkCode)
  | receivedAbandon (code : TrunkCode) (reason : Reason)
  | receivedRevert (code : TrunkCode)
  | receivedRevertDone (code : TrunkCode)
  | receivedRelease (code : TrunkCode)
  | attach (port : Port) (tag : Byte) (circuit : Nat) (copper : Option (Nat × Nat)) (fibre : Option Nat)
  | detach (port : Port) (tag : Byte) (circuit : Nat) (copper fibre : Bool)
  | activate (port : Port) (tag : Byte) (circuit : Nat)
  | setCircuit (port : Port) (tag : Byte) (circuit : Nat) (notify autoRelease : Option Bool) (hold : Option Nat) (inhibit : Option Bool)
  | queryCircuit (port : Port) (tag : Byte) (circuit : Nat) (clear : Bool)
  | migrate (port : Port) (tag : Byte) (circuit : Selector)
  | abandon (port : Port) (tag : Byte) (circuit : Selector)
  | revert (port : Port) (tag : Byte) (circuit : Selector)
  | release (port : Port) (tag : Byte) (circuit : Selector)
  | resume (port : Port) (tag : Byte) (circuit : Selector)
  | setNode (port : Port) (tag : Byte) (settings : NodeSettings)
  | queryAlignment (port : Port) (tag : Byte) (circuit : Option Nat) (first : Option Nat)
  | setSpan (port : Port) (tag : Byte) (span : Nat) (settings : SpanSettings)
  | spanStatus (port : Port) (tag : Byte) (span : Nat)
  | restartSpan (port : Port) (tag : Byte) (span : Nat)
  | retireSpan (port : Port) (tag : Byte) (span : Nat)
  | laneControlSelect (port : Port) (tag : Byte) (lane : Nat)
  | laneControlLockout (port : Port) (tag : Byte) (lane : Nat)
  | laneControlClear (port : Port) (tag : Byte) (lane : Nat)
  | laneControlShut (port : Port) (tag : Byte) (lane : Nat)
  | laneControlRestore (port : Port) (tag : Byte) (lane : Nat)
  | laneControlHoldOff (port : Port) (tag : Byte) (seconds : Nat)
  | laneStatus (port : Port) (tag : Byte)
  | setFrameClock (port : Port) (tag : Byte) (value : FrameCount)
  | peerStatus (port : Port) (tag : Byte) (clear : Bool)
  | addTrunk (port : Port) (tag : Byte) (code : TrunkCode) (circuit : Nat) (pinned : Option Bool)
  | addRange (port : Port) (tag : Byte) (route member size base : Nat)
  | rangeCheckBucket
  | rangeCheckComplete
  | removeTrunk (port : Port) (tag : Byte) (code : TrunkCode)
  | removeRange (port : Port) (tag : Byte) (index : Nat)
  | pin (port : Port) (tag : Byte) (code : TrunkCode)
  | unpin (port : Port) (tag : Byte) (code : TrunkCode)
  | purge (port : Port) (tag : Byte)
  | purgeBucket
  | purgeComplete
  | lookup (port : Port) (tag : Byte) (operand : LookupOperand)
  | queryMiss (port : Port) (tag : Byte) (clear : Bool)
  | openBatch (port : Port) (tag : Byte) (batch mode limit : Nat) (entries : List Selector)
  | cancelBatch (port : Port) (tag : Byte) (batch : Nat)
  | batchStatus (port : Port) (tag : Byte) (batch : Nat)
  | setWatch (port : Port) (tag : Byte) (watch : Nat) (settings : WatchSettings)
  | watchStatus (port : Port) (tag : Byte) (clear : Nat)
  | exchange (port : Port) (tag : Byte) (kind a stateA b stateB : Nat)
  | linkStatus (port : Port) (tag : Byte) (clear : Bool)
  | reset (port : Port) (tag : Byte)
  | managementFrameReceived (port : Port) (bytes : List LinkByte)
  | interByteTimeout (port : Port)
  | frameTransmitStart (port : Port)
  | frameTransmitEnd (port : Port)
  | laneLightReturn (lane : Lane)
  | spanSignalReturn (span : SpanNo)
  deriving DecidableEq, Repr

end Sys2Proof
end

