-- ==== Sys2Proof/Machine/State.lean ====
section
/-! DEFINITION. The state of the part as plain data: every holding of the chapters, the pins it drives, and the queue of
commands that wait. `State.reset` is the part right after power-on reset. -/

namespace Sys2Proof.Machine

/-- A count of frames remaining (introduction, section 7). `left` is the count. `due` says that the site frame just
begun takes the count from 1 to 0: the last lowering is the step of the timer's own expiry row (assumption 1). -/
structure Countdown where
  left : Nat
  due : Bool
  deriving DecidableEq, Repr

/-! ### Circuits (chapter 1) -/

/-- The seven path states (section 1.2). -/
inductive PathState where
  | vacant | copper | proposing | awaiting | measuring | aligned | fibre
  deriving DecidableEq, Repr

/-- A copper attachment: span and bearer timeslot (section 1.1). -/
structure CopperPosition where
  span : SpanNo
  timeslot : TimeslotNo
  deriving DecidableEq, Repr

/-- Fibre transmit (section 1.1): off, bridged, or draining with frames remaining. -/
inductive FibreTransmit where
  | off
  | bridged
  | draining (left : Countdown)
  deriving DecidableEq, Repr

inductive Role where
  | initiator | acceptor
  deriving DecidableEq, Repr

/-- Progress within MEASURING (section 1.1). -/
inductive SubStatus where
  | bridgeWait | queued | matching
  deriving DecidableEq, Repr

/-- The migration context (section 1.1). The field "fallback state" of the manual is KEPT exactly when a FIBRE circuit
holds a context (R4), so it is not stored twice: see `Circuit.fallback`. -/
structure Context where
  role : Role
  number : Byte
  attempts : Nat
  retryLimit : Nat
  bridgeLimit : Countdown
  bridgeCaptured : Nat
  backoff : Option Countdown
  sub : Option SubStatus
  delta : Option Int
  deferred : Bool
  held : Bool
  target : Option FrameCount
  deferLimit : Countdown
  peerSpliced : Bool
  hold : Option Countdown
  deriving DecidableEq, Repr

inductive OutcomeCode where
  | spliced | splicedIdle | rescued | collapsed | reverted | released | abandoned | activated
  deriving DecidableEq, Repr

/-- J with its sense (section 1.1). -/
structure SampleOffset where
  value : Int
  skipped : Bool
  deriving DecidableEq, Repr

/-- The outcome record (section 1.1). -/
structure OutcomeRecord where
  code : OutcomeCode
  reason : Option Reason
  decline : Option DeclineReason
  delta : Option Int
  buildOut : Nat
  offset : Option SampleOffset
  attemptsUsed : Nat
  stamp : FrameCount
  deriving DecidableEq, Repr

/-- One circuit record (section 1.1). -/
structure Circuit where
  copper : Option CopperPosition
  fibre : Option SlotNo
  code : Option TrunkCode
  state : PathState
  copperTransmit : Bool
  fibreTransmit : FibreTransmit
  buildOut : Nat
  conditioning : Bool
  notify : Bool
  autoRelease : Bool
  holdSeconds : Nat
  inhibit : Bool
  changed : Bool
  batch : Option (Fin 8)
  context : Option Context
  outcome : Option OutcomeRecord
  deriving DecidableEq, Repr

/-! ### Recognition (R14, R102, R103) -/

/-- A recognised line condition with its candidate and run. `due`: the run reaches 16 in this frame, and the change is the
step of the row that recognises it (assumption 1). -/
structure LineRecognition where
  recognised : LineCondition
  candidate : Option LineCondition
  run : Nat
  due : Bool
  deriving DecidableEq, Repr

/-- A recognised bridge flag and its run; `due` as in `LineRecognition`. -/
structure FlagRecognition where
  present : Bool
  run : Nat
  due : Bool
  deriving DecidableEq, Repr

/-- What one highway channel carries toward the switch. -/
structure ChannelOutput where
  sample : Byte
  code : LineCondition
  deriving DecidableEq, Repr

/-- A fibre receive route as a frame selects it (R8): the circuit's slot, and the build-out B that names the cell read. -/
structure FibreRoute where
  slot : SlotNo
  buildOut : Nat
  deriving DecidableEq, Repr

/-- The Highway Interface: the recognition of each channel, and for the frame in progress the route's sample and
condition of each channel and the idle code in force when the frame began (R8, R14, R15, R18). `fibreRoute` is the model's own: the
fibre route that the frame selected for a circuit, absent where it selected another route (assumption 29). -/
structure Highway where
  channels : Table 512 LineRecognition
  route : Table 512 ChannelOutput
  fibreRoute : Table 512 (Option FibreRoute)
  idleCode : Byte
  deriving DecidableEq, Repr

/-! ### Copper spans (chapter 4) -/

inductive SpanState where
  | down | up | retired
  deriving DecidableEq, Repr

inductive HuntPhase where
  | search | multiframe
  deriving DecidableEq, Repr

/-- The multiframe marker: 10 in the first multiframe of a pair, 01 in the second (R79). -/
inductive Marker where
  | first | second
  deriving DecidableEq, Repr

/-- The frame-alignment candidate (R78): bit position, count 1 or 2, and the bits until its next check is complete. -/
structure AlignmentCandidate where
  position : Nat
  count : Nat
  wait : Nat
  deriving DecidableEq, Repr

/-- The search for the alignment word over the bit stream (R78): the last bits received (newest last, at most 8), the
index modulo 512 of the next bit, the candidate, and whether the third word has been seen in this frame. -/
structure WordSearch where
  window : List Bool
  next : Nat
  candidate : Option AlignmentCandidate
  found : Bool
  deriving DecidableEq, Repr

/-- The multiframe candidate (R79): the marker value seen and the frames until the same position comes again. -/
structure MarkerCandidate where
  marker : Marker
  wait : Nat
  deriving DecidableEq, Repr

/-- The receive multiframe of an UP span (R83): the number of the next frame, the marker that the next frame 1 must
carry, and the codes gathered so far, absent when this multiframe is not to be taken. -/
structure Multiframe where
  next : Nat
  expect : Marker
  codes : Option (List LineCondition)
  deriving DecidableEq, Repr

/-- A measured differential delay with its source circuit and FC stamp (section 4.5). -/
structure DelayMeasure where
  delta : Int
  source : CircuitNo
  stamp : FrameCount
  deriving DecidableEq, Repr

/-- The span delay record (section 4.5). -/
inductive DelayRecord where
  | invalid
  | valid (m : DelayMeasure)
  | stale (m : DelayMeasure)
  deriving DecidableEq, Repr

/-- The samples of timeslots 1 to 31 of one span frame. -/
abbrev SpanSamples := Table 31 Byte

/-- One span unit (chapter 4). `recent` holds the two span frames received last (R80), `current` the copper receive
samples of the site frame in progress (R86), `transmit` the span frame sent in it (R85). `badDue` and `upDue` mark a
fourth bad word and a second marker whose own row has yet to be taken (assumption 1). -/
structure Span where
  state : SpanState
  phase : Option HuntPhase
  search : WordSearch
  marker : Option MarkerCandidate
  upDue : Bool
  nextEven : Bool
  badWords : Nat
  badDue : Bool
  lossOfSignal : Bool
  store : List SpanSamples
  last : Option SpanSamples
  recent : List SpanSamples
  current : SpanSamples
  multiframe : Multiframe
  conditions : Table 31 LineCondition
  candidates : Table 31 (Option LineCondition)
  deletions : Nat
  repetitions : Nat
  record : DelayRecord
  wlo : Int
  whi : Int
  tolerance : Nat
  slipReports : Bool
  autoRetire : Bool
  transmit : Option SpanFrame
  deriving DecidableEq, Repr

inductive SlipKind where
  | deletion | repetition
  deriving DecidableEq, Repr

/-! ### Fibre lanes and the frame clock (chapter 5) -/

inductive LaneState where
  | down | degraded | up
  deriving DecidableEq, Repr

inductive TimingSource where
  | laneA | laneB | holdover
  deriving DecidableEq, Repr

/-- The content of one slot of a received lane frame (R101, R190). -/
structure SlotContent where
  sample : Byte
  code : LineCondition
  flag : Bool
  deriving DecidableEq, Repr

/-- One lane (section 5.1). `receiver` holds the bytes of the overhead receiver from the sync byte on: empty in HUNT.
`content` is that of the lane frame completed last, `transmit` the frame sent in the site frame in progress (absent:
no light). `upDue` and `badDue` as in `Span`. -/
structure LaneRecord where
  state : LaneState
  candidate : Option Nat
  upDue : Bool
  badFrames : Nat
  badDue : Bool
  lossOfLight : Bool
  interval : Option Countdown
  errors : Option Nat
  lockout : Bool
  shutdown : Bool
  receiver : List Byte
  content : Table 512 SlotContent
  transmit : Option LaneFrame
  deriving DecidableEq, Repr

structure SlotRecognition where
  line : LineRecognition
  flag : FlagRecognition
  deriving DecidableEq, Repr

/-- A peer message (section 10.5). -/
inductive PeerMessage where
  | hello (node : Nat) (mode : HandshakeMode)
  | propose (code : TrunkCode) (slot : SlotNo) (number : Byte)
  | accept (code : TrunkCode) (slot : SlotNo) (number : Byte)
  | decline (code : TrunkCode) (number : Byte) (reason : DeclineReason)
  | confirm (code : TrunkCode) (number : Byte)
  | spliced (code : TrunkCode)
  | revert (code : TrunkCode)
  | revertDone (code : TrunkCode)
  | abandon (code : TrunkCode) (reason : Reason)
  | release (code : TrunkCode)
  deriving DecidableEq, Repr

/-- The Lane Interface (section 5.1). `sending` holds the bytes of the queue's head message not yet placed in a frame.
`slotsBefore` is the model's own: the slots' recognition as the frame in progress found it, from which that frame's content is
taken again when the working lane fails in it (assumption 29). -/
structure LaneInterface where
  a : LaneRecord
  b : LaneRecord
  working : Lane
  holdOffSeconds : Nat
  holdOff : Countdown
  fc : FrameCount
  timing : TimingSource
  slots : Table 512 SlotRecognition
  slotsBefore : Table 512 SlotRecognition
  queue : List PeerMessage
  sending : List Byte
  sequence : Byte
  lost : Nat
  lastSequence : Option Byte
  duplicate : Countdown
  deriving DecidableEq, Repr

/-! ### Path Alignment Unit (chapter 3) -/

inductive SearchKind where
  | full | confirm
  deriving DecidableEq, Repr

inductive MatcherState where
  | free | priming | window | done
  deriving DecidableEq, Repr

/-- A matcher's outcome, with the Δ it carries (R63, R64). -/
inductive MatchResult where
  | matched (delta : Int)
  | confirmed (delta : Int)
  | noMatch
  | ambiguous
  | confirmFailed
  deriving DecidableEq, Repr

/-- One matcher unit (section 3.1). `count` is the frame count in PRIMING and the window count in WINDOW. -/
structure Matcher where
  state : MatcherState
  circuit : Option CircuitNo
  kind : SearchKind
  wlo : Int
  whi : Int
  length : Nat
  candidates : List Int
  count : Nat
  history : Table 128 Byte
  outcome : Option MatchResult
  deriving DecidableEq, Repr

structure QueueEntry where
  circuit : CircuitNo
  kind : SearchKind
  deriving DecidableEq, Repr

/-- The Path Alignment Unit (section 3.1). -/
structure AlignmentUnit where
  rings : Table 512 (Table 128 Byte)
  units : Table 4 Matcher
  queue : List QueueEntry
  pause : Countdown
  deriving DecidableEq, Repr

/-! ### Peer Protocol Engine (chapter 6) -/

inductive LinkState where
  | down | up | mismatch
  deriving DecidableEq, Repr

structure PeerHeard where
  node : Nat
  mode : HandshakeMode
  stamp : FrameCount
  deriving DecidableEq, Repr

/-- The discard counts (section 6.1). -/
structure DiscardCounts where
  ignored : Nat
  unresolved : Nat
  stale : Nat
  inapplicable : Nat
  malformed : Nat
  deriving DecidableEq, Repr

structure AbandonHeard where
  code : TrunkCode
  reason : Reason
  stamp : FrameCount
  deriving DecidableEq, Repr

structure RevertDeclineHeard where
  code : TrunkCode
  stamp : FrameCount
  deriving DecidableEq, Repr

/-- The Peer Protocol Engine (section 6.1); the own node number and the mode stand in `NodeParams`. `received` counts by
message type 01H to 0AH, `declines` by decline reason. `inbox` holds the well-formed messages that the Lane Interface
has handed on and whose own rows have yet to take them, oldest first (assumption 3). -/
structure PeerEngine where
  state : LinkState
  hello : Option Countdown
  silence : Option Countdown
  heard : Option PeerHeard
  qualified : Option Nat
  counter : Byte
  response : Table 512 (Option Countdown)
  received : Table 10 Nat
  discards : DiscardCounts
  declines : Table 6 Nat
  lastAbandon : Option AbandonHeard
  lastRevertDecline : Option RevertDeclineHeard
  inbox : List PeerMessage
  deriving DecidableEq, Repr

/-! ### Trunk Directory (chapter 7) -/

structure RangeEntry where
  route : Nat
  member : Nat
  size : Nat
  base : Nat
  deriving DecidableEq, Repr

structure TrunkEntry where
  code : TrunkCode
  circuit : CircuitNo
  pinned : Bool
  deriving DecidableEq, Repr

inductive MissSource where
  | primary | craft | peer
  deriving DecidableEq, Repr

/-- The last-miss record (R144). `asked` is the type byte of the command or of the peer message. -/
structure MissRecord where
  code : TrunkCode
  source : MissSource
  asked : Byte
  h1 : Nat
  h2 : Nat
  stamp : FrameCount
  deriving DecidableEq, Repr

/-- A trunk entry found by a walk, with where it stands (R148). -/
structure FoundTrunk where
  bucket : Nat
  way : Nat
  code : TrunkCode
  deriving DecidableEq, Repr

/-- Busy state and walk (section 7.1). `next` is the next bucket, 128 when every bucket has been walked; `bucketDue` says
that this frame's bucket has yet to be walked. -/
inductive Walk where
  | idle
  | rangeCheck (next : Nat) (bucketDue : Bool) (port : Port) (tag : Byte) (pending : RangeEntry) (found : Option FoundTrunk)
  | purge (next : Nat) (bucketDue : Bool) (port : Port) (tag : Byte) (removed : Nat)
  deriving DecidableEq, Repr

structure Directory where
  ranges : Table 8 (Option RangeEntry)
  trunks : Table 128 (Table 4 (Option TrunkEntry))
  lastMiss : Option MissRecord
  missCount : Nat
  walk : Walk
  deriving DecidableEq, Repr

/-! ### Results, batches and watches (chapters 8 and 9) -/

/-- Result codes, in the order of section 9.7. -/
inductive ResultCode where
  | ok | unknownType | format | authority | queueFull | range | state | notFound | noCode | duplicate | shadowed
  | conflict | full | busy | mismatch | lineBusy | peerDown | inhibited | noFallback | spanDown | retired | holdOff
  deriving DecidableEq, Repr

inductive BatchMode where
  | serial | parallel
  deriving DecidableEq, Repr

inductive MemberStatus where
  | pending | active | done | failed | cancelled
  deriving DecidableEq, Repr

/-- A failed member's reason (section 8.1). -/
inductive MemberReason where
  | refused (result : ResultCode)
  | outcome (reason : Option Reason) (decline : Option DeclineReason)
  deriving DecidableEq, Repr

structure Member where
  circuit : CircuitNo
  status : MemberStatus
  reason : Option MemberReason
  deriving DecidableEq, Repr

/-- An open batch record (section 8.1); a closed record holds nothing. -/
structure Batch where
  mode : BatchMode
  limit : Nat
  members : List Member
  remaining : Nat
  port : Port
  tag : Byte
  opened : FrameCount
  deriving DecidableEq, Repr

inductive CompareType where
  | equal | below | atOrAbove
  deriving DecidableEq, Repr

inductive WatchAction where
  | report | reportAndHold
  deriving DecidableEq, Repr

/-- The event classes, in the order of section 8.4 (bit 7 down to bit 0 of the class byte, R188). -/
inductive EventClass where
  | migrateStart | aligned | splice | revert | abandon | release | line | slip
  deriving DecidableEq, Repr

structure WatchHit where
  circuit : CircuitNo
  cls : EventClass
  stamp : FrameCount
  deriving DecidableEq, Repr

structure Watch where
  enable : Bool
  value : Nat
  compare : CompareType
  classes : Byte
  action : WatchAction
  hit : Bool
  hits : Nat
  lastHit : Option WatchHit
  deriving DecidableEq, Repr

structure WatchUnit where
  first : Watch
  second : Watch
  joint : Bool
  deriving DecidableEq, Repr

/-! ### Node parameters (R23) -/

structure NodeParams where
  node : Nat
  mode : HandshakeMode
  lead : Nat
  window : Nat
  retryLimit : Nat
  backoff : Nat
  bridgeLimit : Nat
  deferLimit : Nat
  idleCode : Byte
  deriving DecidableEq, Repr

/-! ### Management links (chapter 9): reports and replies as fields; section 10.4's layouts are in Machine/Encoding.lean -/

inductive LineRate where
  | r57600 | r115200 | r460800 | r921600
  deriving DecidableEq, Repr

inductive ResetCause where
  | power | command
  deriving DecidableEq, Repr

inductive SpanDownCause where
  | alignment | signal | command
  deriving DecidableEq, Repr

inductive LaneCause where
  | aligned | alignment | light | errors | cleared
  deriving DecidableEq, Repr

inductive WorkingCause where
  | automatic | lockout | select
  deriving DecidableEq, Repr

inductive PeerDownCause where
  | silence | localChange | peerChange
  deriving DecidableEq, Repr

inductive FailedTest where
  | nodeZero | nodeEqual | mode
  deriving DecidableEq, Repr

inductive BatchCause where
  | completed | cancelled
  deriving DecidableEq, Repr

/-- A FAILED member of a BATCH report, with its list index (R162). -/
structure FailedMember where
  index : Nat
  circuit : CircuitNo
  reason : Option MemberReason
  deriving DecidableEq, Repr

structure BatchSummary where
  members : Nat
  done : Nat
  failed : Nat
  cancelled : Nat
  untracked : Nat
  deriving DecidableEq, Repr

/-- The members of a batch by status (R164). -/
structure StatusCounts where
  pending : Nat
  active : Nat
  done : Nat
  failed : Nat
  cancelled : Nat
  deriving DecidableEq, Repr

inductive SpanReportKind where
  | up (fill : Nat)
  | down (cause : SpanDownCause) (record : DelayRecord)
  | slip (kind : SlipKind) (fill : Nat) (record : DelayRecord)
  | retired
  deriving DecidableEq, Repr

inductive LaneReportKind where
  | state (lane : Lane) (before after : LaneState) (cause : LaneCause)
  | working (before after : Lane) (cause : WorkingCause) (fibreCircuits : Nat)
  deriving DecidableEq, Repr

inductive PeerReportKind where
  | up (node : Nat) (mode : HandshakeMode)
  | down (cause : PeerDownCause) (heard : Option Nat) (abandoned : Nat)
  | mismatch (test : FailedTest) (node : Nat) (mode : HandshakeMode) (abandoned : Nat)
  deriving DecidableEq, Repr

/-- The contents of a report (R182). -/
inductive ReportBody where
  | start (cause : ResetCause) (primary craft : LineRate)
  | circuit (circuit : CircuitNo) (code : Option TrunkCode) (outcome : OutcomeRecord)
  | batch (id : Fin 8) (mode : BatchMode) (cause : BatchCause) (summary : BatchSummary) (failed : List FailedMember)
  | watch (first second : Option Nat) (circuit : CircuitNo) (cls : EventClass) (outcome : Option OutcomeCode)
  | span (span : SpanNo) (kind : SpanReportKind)
  | lane (working : Lane) (timing : TimingSource) (kind : LaneReportKind)
  | peer (node : Nat) (mode : HandshakeMode) (kind : PeerReportKind)
  deriving DecidableEq, Repr

/-- A report as queued (R181, R182): the FC of the frame in which it was handed, the LOST mark and the contents. -/
structure Report where
  stamp : FrameCount
  lost : Bool
  body : ReportBody
  deriving DecidableEq, Repr

/-- Where a lookup found its code (R143). -/
inductive Found where
  | range (index : Fin 8)
  | trunk (bucket : Fin 128) (way : Fin 4) (pinned : Bool)
  deriving DecidableEq, Repr

/-- The seven port counts (section 9.1). -/
structure PortCounts where
  framesTaken : Nat
  crcDiscards : Nat
  timeoutDiscards : Nat
  lengthDiscards : Nat
  kindDiscards : Nat
  queueFullAnswered : Nat
  queueFullDropped : Nat
  deriving DecidableEq, Repr

/-- What QUERY CIRCUIT carries (R21). -/
structure CircuitView where
  circuit : CircuitNo
  record : Circuit
  busy : Bool
  switchCondition : LineCondition
  farCondition : LineCondition
  deriving DecidableEq, Repr

/-- A matcher unit as QUERY ALIGNMENT shows it (R75). -/
structure MatcherView where
  state : MatcherState
  circuit : Option CircuitNo
  kind : SearchKind
  wlo : Int
  whi : Int
  length : Nat
  count : Nat
  left : Nat
  lowest : Option Int
  highest : Option Int
  outcome : Option MatchResult
  deriving DecidableEq, Repr

/-- Where a circuit stands in the Path Alignment Unit (R76). -/
inductive AlignmentPlace where
  | nowhere
  | queue (position : Nat) (kind : SearchKind)
  | unit (unit : UnitNo)
  deriving DecidableEq, Repr

/-- One circuit's alignment (R76). -/
structure AlignmentView where
  state : PathState
  sub : Option SubStatus
  place : AlignmentPlace
  delta : Option Int
  buildOut : Nat
  target : Option FrameCount
  framesBefore : Option FrameCount
  ringWritten : Bool
  revertOffset : Option SampleOffset
  deriving DecidableEq, Repr

/-- What SPAN STATUS carries (R94). -/
structure SpanView where
  state : SpanState
  phase : Option HuntPhase
  lossOfSignal : Option Bool
  fill : Option Nat
  deletions : Nat
  repetitions : Nat
  record : DelayRecord
  wlo : Int
  whi : Int
  tolerance : Nat
  slipReports : Bool
  autoRetire : Bool
  occupied : Nat
  inFibre : Nat
  conditions : Table 31 LineCondition
  deriving DecidableEq, Repr

/-- One lane in LANE STATUS (R115). -/
structure LaneView where
  state : LaneState
  lossOfLight : Bool
  lockout : Bool
  shutdown : Bool
  errors : Option Nat
  interval : Option Nat
  deriving DecidableEq, Repr

/-- What LANE STATUS carries (R115). -/
structure LaneStatusView where
  a : LaneView
  b : LaneView
  working : Lane
  holdOff : Nat
  holdOffSeconds : Nat
  timing : TimingSource
  fc : FrameCount
  queued : Nat
  lost : Nat
  pause : Nat
  deriving DecidableEq, Repr

/-- What PEER STATUS carries (R139). -/
structure PeerView where
  state : LinkState
  qualified : Option Nat
  node : Nat
  mode : HandshakeMode
  hello : Option Nat
  heard : Option PeerHeard
  silence : Option Nat
  counter : Byte
  responses : Nat
  received : Table 10 Nat
  discards : DiscardCounts
  declines : Table 6 Nat
  lastAbandon : Option AbandonHeard
  lastRevertDecline : Option RevertDeclineHeard
  deriving DecidableEq, Repr

inductive ExecPhase where
  | taken | pending | sending
  deriving DecidableEq, Repr

/-- A command in an execution slot (section 9.4). -/
structure ExecSlot where
  phase : ExecPhase
  tag : Byte
  type : Byte
  deriving DecidableEq, Repr

/-- One port in LINK STATUS (R185). -/
structure PortView where
  rate : LineRate
  inFrame : Bool
  queued : Nat
  slot : Option ExecSlot
  fullAnswers : Nat
  counts : PortCounts
  deriving DecidableEq, Repr

/-- The missed code of a NOT_FOUND reply (R143). -/
structure MissFields where
  code : TrunkCode
  h1 : Nat
  h2 : Nat
  deriving DecidableEq, Repr

/-- A way of a bucket as LOOKUP shows it, with whether the bucket is its code's primary (R155). -/
structure WayView where
  entry : TrunkEntry
  isPrimary : Bool
  deriving DecidableEq, Repr

/-- A watch's settings, as the reply of SET WATCH carries them (R169). -/
structure WatchView where
  enable : Bool
  value : Nat
  compare : CompareType
  classes : Byte
  action : WatchAction
  deriving DecidableEq, Repr

/-- Both attachments and the state of a circuit (R10, R172). -/
structure AttachmentView where
  copper : Option CopperPosition
  fibre : Option SlotNo
  state : PathState
  deriving DecidableEq, Repr

/-- The body of a reply, after its result code: what the owning rule says it carries. -/
inductive ReplyBody where
  | empty
  | attachments (view : AttachmentView)
  | heldAttachment (copper : Option CopperPosition) (fibre : Option SlotNo)
  | occupant (circuit : CircuitNo) (onCopper : Bool)
  | options (notify autoRelease : Bool) (hold : Nat) (inhibit : Bool)
  | circuit (view : CircuitView)
  | missed (fields : MissFields)
  | migrated (circuit : CircuitNo) (number : Byte)
  | reverted (offset : Option SampleOffset)
  | resumed (target : Option FrameCount) (deferred : Bool)
  | nodeParams (params : NodeParams)
  | alignmentUnit (pause : Nat) (units : Table 4 MatcherView) (entries : Nat) (shown : List QueueEntry)
  | alignment (view : AlignmentView)
  | spanSettings (span : SpanNo) (wlo whi : Int) (tolerance : Nat) (slipReports autoRetire : Bool)
  | spanStatus (view : SpanView)
  | occupiedEntries (count : Nat)
  | holdOffLeft (frames : Nat)
  | laneSelection (working : Lane) (lockoutA lockoutB : Bool) (holdOff : Nat)
  | shutdowns (a b : Bool)
  | holdOffSetting (seconds : Nat)
  | laneStatus (view : LaneStatusView)
  | frameClock (old new : FrameCount)
  | peerStatus (view : PeerView)
  | trunkWritten (bucket : Fin 128) (way : Fin 4)
  | shadowedBy (index : Fin 8)
  | duplicateOf (circuit : CircuitNo) (bucket : Fin 128) (way : Fin 4)
  | heldCode (code : TrunkCode)
  | carriedCode (circuit : CircuitNo) (code : TrunkCode)
  | buckets (h1 h2 : Nat)
  | trunkInside (found : FoundTrunk)
  | rangeWritten (index : Fin 8)
  | circuitState (circuit : CircuitNo) (state : PathState)
  | trunkRemoved (circuit : CircuitNo) (bucket : Fin 128) (way : Fin 4)
  | rangeRemoved (circuits : Nat)
  | pinned (circuit : CircuitNo) (bucket : Fin 128) (way : Fin 4) (flag : Bool)
  | purged (removed : Nat)
  | lookupCode (circuit : CircuitNo) (found : Found) (state : PathState) (trunks ranges : Nat)
  | lookupMiss (fields : MissFields) (trunks ranges : Nat)
  | lookupBucket (ways : Table 4 (Option WayView)) (trunks ranges : Nat)
  | lookupRange (entry : Option RangeEntry) (trunks ranges : Nat)
  | miss (record : Option MissRecord) (count : Nat)
  | batchOpened (id : Fin 8) (mode : BatchMode) (limit started failed : Nat)
  | entry (index : Nat)
  | entryMissed (index : Nat) (fields : MissFields)
  | entryDuplicate (index earlier : Nat)
  | entryState (index : Nat) (state : PathState)
  | entryBatch (index : Nat) (id : Fin 8)
  | batchCancelled (summary : BatchSummary)
  | batchStatus (batch : Option (Batch × StatusCounts))
  | watchSettings (first second : WatchView) (joint : Bool)
  | watches (unit : WatchUnit)
  | states (a b : PathState)
  | busyCircuit (circuit : CircuitNo)
  | exchanged (a b : AttachmentView)
  | linkStatus (primary craft : PortView) (reports : Nat) (lostFlag : Bool) (reportsLost : Nat) (cause : ResetCause)
  deriving DecidableEq, Repr

/-- A command as queued by a port (R177): its tag, its type and its body. -/
structure QueuedCommand where
  tag : Byte
  type : Byte
  body : List Byte
  deriving DecidableEq, Repr

/-- A frame that a port sends: the reply of an executed command, a QUEUE_FULL answer, or a report. -/
inductive OutFrame where
  | reply (tag type : Byte) (result : ResultCode) (body : ReplyBody)
  | queueFull (tag type : Byte)
  | report (report : Report)
  deriving DecidableEq, Repr

/-- One port (section 9.1). `receiver` is absent in HUNT, and in IN-FRAME holds the bytes gathered after the sync byte;
`broken` says that a byte of the frame in progress came with its stop bit missing (R173). -/
structure PortRecord where
  rate : LineRate
  receiver : Option (List Byte)
  broken : Bool
  interByte : Option Countdown
  input : List QueuedCommand
  slot : Option ExecSlot
  output : List OutFrame
  transmitter : Option OutFrame
  counts : PortCounts
  deriving DecidableEq, Repr

/-- The Management Links (section 9.1). -/
structure Links where
  primary : PortRecord
  craft : PortRecord
  reports : List Report
  lostFlag : Bool
  reportsLost : Nat
  startUp : Countdown
  resetCause : ResetCause
  deriving DecidableEq, Repr

/-! ### The whole part -/

/-- The state of the part. `pending` is the queue of commands and events that wait for the model's step, first in, first
out; `freeCount` counts the free values drawn. Both are the model's own. -/
structure State where
  pending : List Instr
  node : NodeParams
  circuits : Table 512 Circuit
  timeslots : Table 16 (Table 31 (Option CircuitNo))
  slotOwners : Table 512 (Option CircuitNo)
  highway : Highway
  spans : Table 16 Span
  lanes : LaneInterface
  align : AlignmentUnit
  peer : PeerEngine
  directory : Directory
  batches : Table 8 (Option Batch)
  watches : WatchUnit
  links : Links
  freeCount : Nat
  deriving DecidableEq, Repr

/-- No command of this part stops it: a command turned away answers with a result code, and an event whose conditions do
not hold changes nothing (assumption 2). So no fault exists, and none is ever raised: safe. -/
inductive Fault where
  deriving DecidableEq, Repr

/-- Why a step answers no state. -/
inductive Refusal where
  /-- Raised by `exec` alone, for a row without a meaning; no row of this model is without one. Safe. -/
  | notModelled (mnemonic : String)
  deriving DecidableEq, Repr

/-- What a meaning answers. -/
abbrev Answer := Host.Outcome State Fault Refusal

/-! ### Reset values -/

/-- A count of `n` frames, freshly loaded. -/
def Countdown.load (n : Nat) : Countdown := ⟨n, false⟩

/-- R23's defaults. -/
def NodeParams.reset : NodeParams :=
  { node := 0, mode := .twoWay, lead := 8, window := 64, retryLimit := 3, backoff := 4000, bridgeLimit := 240000,
    deferLimit := 4800000, idleCode := 0x7F#8 }

/-- R2. -/
def Circuit.reset : Circuit :=
  { copper := none, fibre := none, code := none, state := .vacant, copperTransmit := false, fibreTransmit := .off,
    buildOut := 0, conditioning := true, notify := false, autoRelease := true, holdSeconds := 60, inhibit := false,
    changed := false, batch := none, context := none, outcome := none }

/-- R14, R96: IDLE with no candidate. -/
def LineRecognition.reset : LineRecognition := ⟨.idle, none, 0, false⟩

/-- R96: bridge flag absent, run 0. -/
def FlagRecognition.reset : FlagRecognition := ⟨false, 0, false⟩

/-- R2, R14; each channel gives the switch the idle code and BLOCKED, as every circuit is conditioned. -/
def Highway.reset : Highway :=
  { channels := .fill .reset, route := .fill ⟨0x7F#8, .blocked⟩, fibreRoute := .fill none, idleCode := 0x7F#8 }

def WordSearch.reset : WordSearch := ⟨[], 0, none, false⟩

/-- R77. The receive multiframe has no meaning in DOWN; its place is filled with frame 0 (assumption 9). `signal` is what
the line receiver shows, which no reset changes. -/
def Span.reset (signal : Bool) : Span :=
  { state := .down, phase := some .search, search := .reset, marker := none, upDue := false, nextEven := true,
    badWords := 0, badDue := false, lossOfSignal := signal, store := [], last := none, recent := [],
    current := .fill 0x7F#8, multiframe := ⟨0, .first, none⟩, conditions := .fill .blocked, candidates := .fill none,
    deletions := 0, repetitions := 0, record := .invalid, wlo := -96, whi := 8, tolerance := 2, slipReports := false,
    autoRetire := false, transmit := none }

/-- What a slot carries when nothing bridged is on it: the idle code, IDLE and a clear flag (R7, R101). -/
def SlotContent.idle (code : Byte) : SlotContent := ⟨code, .idle, false⟩

/-- R96. `light` is what the optical receiver shows (true: loss of light), which no reset changes. -/
def LaneRecord.reset (light : Bool) : LaneRecord :=
  { state := .down, candidate := none, upDue := false, badFrames := 0, badDue := false, lossOfLight := light,
    interval := none, errors := none, lockout := false, shutdown := false, receiver := [],
    content := .fill (.idle 0x7F#8), transmit := none }

/-- R96. -/
def LaneInterface.reset (lightA lightB : Bool) : LaneInterface :=
  { a := .reset lightA, b := .reset lightB, working := .a, holdOffSeconds := 10, holdOff := .load 0, fc := 0,
    timing := .holdover, slots := .fill ⟨.reset, .reset⟩, slotsBefore := .fill ⟨.reset, .reset⟩, queue := [], sending := [], sequence := 0,
    lost := 0, lastSequence := none, duplicate := .load 0 }

/-- R60. Search kind, captured window, M and frame count of a FREE unit have no meaning, and no rule gives them; their places
are filled as for a full search of the default window, with a count of 0 (assumption 9). -/
def Matcher.reset : Matcher :=
  { state := .free, circuit := none, kind := .full, wlo := -96, whi := 8, length := 64, candidates := [], count := 0,
    history := .fill 0x7F#8, outcome := none }

/-- R55, R57, R58, R60. -/
def AlignmentUnit.reset : AlignmentUnit :=
  { rings := .fill (.fill 0x7F#8), units := .fill .reset, queue := [], pause := .load 0 }

/-- R117. -/
def PeerEngine.reset : PeerEngine :=
  { state := .down, hello := none, silence := none, heard := none, qualified := none, counter := 0,
    response := .fill none, received := .fill 0, discards := ⟨0, 0, 0, 0, 0⟩, declines := .fill 0, lastAbandon := none,
    lastRevertDecline := none, inbox := [] }

/-- R140. -/
def Directory.reset : Directory :=
  { ranges := .fill none, trunks := .fill (.fill none), lastMiss := none, missCount := 0, walk := .idle }

/-- R165. -/
def Watch.reset : Watch :=
  { enable := false, value := 0, compare := .equal, classes := 0, action := .report, hit := false, hits := 0,
    lastHit := none }

def PortCounts.reset : PortCounts := ⟨0, 0, 0, 0, 0, 0, 0⟩

/-- R174. -/
def PortRecord.reset (rate : LineRate) : PortRecord :=
  { rate := rate, receiver := none, broken := false, interByte := none, input := [], slot := none, output := [], transmitter := none,
    counts := .reset }

/-- R174, R175. -/
def Links.reset (cause : ResetCause) (primary craft : LineRate) : Links :=
  { primary := .reset primary, craft := .reset craft, reports := [], lostFlag := false, reportsLost := 0,
    startUp := .load Config.startUpFrames, resetCause := cause }

/-- Every block at its reset values (R2, R23, R55, R77, R96, R117, R140, R157, R165, R174). The cause, the line rates and
what the line and optical receivers show come from outside; the model's own two fields are kept by the caller. -/
def State.resetWith (cause : ResetCause) (primary craft : LineRate) (signal : SpanNo → Bool) (lightA lightB : Bool)
    (pending : List Instr) (freeCount : Nat) : State :=
  { pending := pending, node := .reset, circuits := .fill .reset, timeslots := .fill (.fill none),
    slotOwners := .fill none, highway := .reset, spans := .ofFn fun i => .reset (signal i),
    lanes := .reset lightA lightB, align := .reset, peer := .reset, directory := .reset, batches := .fill none,
    watches := ⟨.reset, .reset, false⟩, links := .reset cause primary craft, freeCount := freeCount }

/-- The part right after power-on reset. DESIGN CHOICE (assumption 8): both pairs of straps low, no loss of signal and no
loss of light shown, no free value drawn. -/
def State.reset : State := .resetWith .power .r57600 .r57600 (fun _ => false) false false [] 0

end Sys2Proof.Machine
end

