-- ==== Sys2Proof/Machine/Encoding.lean ====
section
/-! DEFINITION. Chapter 10: field encoding, enumerations, CRC-16, command bodies, reply and report bodies, peer messages,
lane frames and span timeslot 0. -/

namespace Sys2Proof.Machine

/-! ### Bits, bytes and numbers (R186) -/

/-- The eight bits of a byte, most significant first (R190). -/
def byteBits (b : Byte) : List Bool := [7, 6, 5, 4, 3, 2, 1, 0].map fun i => b.getLsbD i

/-- The byte whose bits, most significant first, are the given eight. -/
def byteOfBits (bs : List Bool) : Byte := bs.foldl (fun acc b => acc * 2 + (if b then 1 else 0)) 0

def byteOf (n : Nat) : Byte := BitVec.ofNat 8 n

/-- Two bytes, most significant first. -/
def two (n : Nat) : List Byte := [byteOf (n / 256), byteOf n]

/-- Four bytes, most significant first. -/
def four (n : Nat) : List Byte := [byteOf (n / 16777216), byteOf (n / 65536), byteOf (n / 256), byteOf n]

/-- The number that two bytes spell. -/
def num2 (a b : Byte) : Nat := a.toNat * 256 + b.toNat

/-- The number that four bytes spell. -/
def num4 (a b c d : Byte) : Nat := a.toNat * 16777216 + b.toNat * 65536 + c.toNat * 256 + d.toNat

/-- A signed byte, in two's complement. -/
def signed (b : Byte) : Int := if b.toNat < 128 then (b.toNat : Int) else (b.toNat : Int) - 256

/-- The byte of a signed value in two's complement. -/
def signedByte (z : Int) : Byte := byteOf (z % 256).toNat

/-- Two bytes of a signed value in two's complement (J, R186). -/
def signedTwo (z : Int) : List Byte := two (z % 65536).toNat

def flagByte (b : Bool) : Byte := if b then 1 else 0

/-- A flag or presence byte: 00H or 01H, and nothing else (R186). -/
def readFlag (b : Byte) : Option Bool := if b = 0 then some false else if b = 1 then some true else none

/-- An optional field: a presence byte, then value bytes that are read only when the field is present (R186). -/
def readOptional {α : Type} (presence : Byte) (value : Option α) : Option (Option α) :=
  match readFlag presence with
  | some false => some none
  | some true => value.map some
  | none => none

/-- The bytes of an optional field of `width` value bytes: 00H in every value byte of an absent field (R186). -/
def optionalBytes (width : Nat) : Option (List Byte) → List Byte
  | none => 0 :: List.replicate width 0
  | some bs => 1 :: bs

/-! ### CRC-16 (R187) -/

/-- One bit into the register: polynomial 1021H. -/
def crcBit (reg : BitVec 16) (b : Bool) : BitVec 16 :=
  if reg.getLsbD 15 ^^ b then (reg <<< 1) ^^^ 0x1021#16 else reg <<< 1

/-- CRC-16 over bytes, each most significant bit first, register loaded with FFFFH, no final inversion. -/
def crc16 (bytes : List Byte) : BitVec 16 :=
  bytes.foldl (fun reg b => (byteBits b).foldl crcBit reg) 0xFFFF#16

/-- The CRC as sent: most significant byte first. -/
def crcBytes (bytes : List Byte) : List Byte := two (crc16 bytes).toNat

/-! ### Enumerations (section 10.2) -/

def conditionBits : LineCondition → Bool × Bool
  | .idle => (false, false)
  | .seized => (false, true)
  | .answered => (true, false)
  | .blocked => (true, true)

/-- The condition of two bits, more significant first. -/
def conditionOfBits : Bool → Bool → LineCondition
  | false, false => .idle
  | false, true => .seized
  | true, false => .answered
  | true, true => .blocked

def conditionCode : LineCondition → Nat
  | .idle => 0
  | .seized => 1
  | .answered => 2
  | .blocked => 3

def stateCode : PathState → Nat
  | .vacant => 0
  | .copper => 1
  | .proposing => 2
  | .awaiting => 3
  | .measuring => 4
  | .aligned => 5
  | .fibre => 6

/-- The state an enumeration byte names, if any (EXCHANGE's expected states, R171). -/
def stateOfCode : Nat → Option PathState
  | 0 => some .vacant
  | 1 => some .copper
  | 2 => some .proposing
  | 3 => some .awaiting
  | 4 => some .measuring
  | 5 => some .aligned
  | 6 => some .fibre
  | _ => none

def subCode : SubStatus → Nat
  | .bridgeWait => 0
  | .queued => 1
  | .matching => 2

def roleCode : Role → Nat
  | .initiator => 0
  | .acceptor => 1

def outcomeByte : OutcomeCode → Nat
  | .spliced => 0
  | .splicedIdle => 1
  | .rescued => 2
  | .collapsed => 3
  | .reverted => 4
  | .released => 5
  | .abandoned => 6
  | .activated => 7

def reasonCode : Reason → Nat
  | .commanded => 0
  | .peerDeclined => 1
  | .peerTimeout => 2
  | .peerAbandoned => 3
  | .peerReverted => 4
  | .peerReleased => 5
  | .peerDown => 6
  | .noMatch => 7
  | .ambiguous => 8
  | .outOfWindow => 9
  | .bridgeLimit => 10
  | .deferLimit => 11
  | .laneLoss => 12
  | .holdExpired => 13

def reasonOfCode : Nat → Option Reason
  | 0 => some .commanded
  | 1 => some .peerDeclined
  | 2 => some .peerTimeout
  | 3 => some .peerAbandoned
  | 4 => some .peerReverted
  | 5 => some .peerReleased
  | 6 => some .peerDown
  | 7 => some .noMatch
  | 8 => some .ambiguous
  | 9 => some .outOfWindow
  | 10 => some .bridgeLimit
  | 11 => some .deferLimit
  | 12 => some .laneLoss
  | 13 => some .holdExpired
  | _ => none

def declineCode : DeclineReason → Fin 6
  | .unknownTrunk => 0
  | .slotConflict => 1
  | .busy => 2
  | .notReady => 3
  | .inhibited => 4
  | .noFallback => 5

def declineOfCode : Nat → Option DeclineReason
  | 0 => some .unknownTrunk
  | 1 => some .slotConflict
  | 2 => some .busy
  | 3 => some .notReady
  | 4 => some .inhibited
  | 5 => some .noFallback
  | _ => none

def modeCode : HandshakeMode → Nat
  | .twoWay => 0
  | .threeWay => 1

def modeOfCode : Nat → Option HandshakeMode
  | 0 => some .twoWay
  | 1 => some .threeWay
  | _ => none

def laneCode : Lane → Nat
  | .a => 0
  | .b => 1

def laneOfCode : Nat → Option Lane
  | 0 => some .a
  | 1 => some .b
  | _ => none

def batchModeCode : BatchMode → Nat
  | .serial => 0
  | .parallel => 1

def memberStatusCode : MemberStatus → Nat
  | .pending => 0
  | .active => 1
  | .done => 2
  | .failed => 3
  | .cancelled => 4

def batchModeOfCode : Nat → Option BatchMode
  | 0 => some .serial
  | 1 => some .parallel
  | _ => none

def compareCode : CompareType → Nat
  | .equal => 0
  | .below => 1
  | .atOrAbove => 2

def actionCode : WatchAction → Nat
  | .report => 0
  | .reportAndHold => 1

/-- R188: 00H EQUAL, 01H BELOW, 02H AT-OR-ABOVE. -/
def compareOfCode : Nat → Option CompareType
  | 0 => some .equal
  | 1 => some .below
  | 2 => some .atOrAbove
  | _ => none

/-- R188: 00H REPORT, 01H REPORT-AND-HOLD. -/
def actionOfCode : Nat → Option WatchAction
  | 0 => some .report
  | 1 => some .reportAndHold
  | _ => none

/-- R188: 00H INDEPENDENT, 01H JOINT; true for JOINT. -/
def combineOfCode : Nat → Option Bool
  | 0 => some false
  | 1 => some true
  | _ => none

/-- The bit of a class in the class byte: bit 7 for MIGRATE-START down to bit 0 for SLIP (R188). -/
def classBit : EventClass → Nat
  | .migrateStart => 7
  | .aligned => 6
  | .splice => 5
  | .revert => 4
  | .abandon => 3
  | .release => 2
  | .line => 1
  | .slip => 0

/-- Result bytes, in the order of the table of section 9.7 (section 10.2). -/
def resultByte : ResultCode → Nat
  | .ok => 0x00
  | .unknownType => 0x01
  | .format => 0x02
  | .authority => 0x03
  | .queueFull => 0x04
  | .range => 0x05
  | .state => 0x06
  | .notFound => 0x07
  | .noCode => 0x08
  | .duplicate => 0x09
  | .shadowed => 0x0A
  | .conflict => 0x0B
  | .full => 0x0C
  | .busy => 0x0D
  | .mismatch => 0x0E
  | .lineBusy => 0x0F
  | .peerDown => 0x10
  | .inhibited => 0x11
  | .noFallback => 0x12
  | .spanDown => 0x13
  | .retired => 0x14
  | .holdOff => 0x15

/-- Line rates, in the order of the strap table (R173, START report). -/
def rateCode : LineRate → Nat
  | .r57600 => 0
  | .r115200 => 1
  | .r460800 => 2
  | .r921600 => 3

/-- R173: the rate that a pair of strap levels selects. -/
def strapRate (straps : Straps) : LineRate :=
  match straps.first, straps.second with
  | false, false => .r57600
  | false, true => .r115200
  | true, false => .r460800
  | true, true => .r921600

/-! ### Command types and classes (sections 10.3 and 9.4) -/

inductive CommandClass where
  | query | operate | provision
  deriving DecidableEq, Repr

/-- The class of the command that a type byte names (R178, section 10.3); absent: UNKNOWN_TYPE. -/
def commandClass (type : Byte) : Option CommandClass :=
  match type.toNat with
  | 0x10 | 0x11 | 0x12 | 0x13 => some .provision
  | 0x14 => some .query
  | 0x20 | 0x21 | 0x22 | 0x23 | 0x24 => some .operate
  | 0x25 => some .provision
  | 0x30 => some .query
  | 0x40 => some .provision
  | 0x41 => some .query
  | 0x42 => some .operate
  | 0x43 => some .provision
  | 0x50 | 0x51 | 0x52 => some .operate
  | 0x53 | 0x54 | 0x55 => some .provision
  | 0x56 => some .query
  | 0x57 => some .provision
  | 0x60 => some .query
  | 0x70 | 0x71 | 0x72 | 0x73 | 0x74 | 0x75 | 0x76 => some .provision
  | 0x77 | 0x78 => some .query
  | 0x80 | 0x81 => some .operate
  | 0x82 => some .query
  | 0x83 => some .operate
  | 0x84 => some .query
  | 0x85 => some .provision
  | 0x90 => some .query
  | 0x9F => some .provision
  | _ => none

/-! ### Command bodies (section 10.4, R188): what a body spells, absent when the port refuses it FORMAT (R178, R186) -/

def readSelector (form a b c : Byte) : Option Selector :=
  match readFlag form with
  | some false => some (.number (num2 a b))
  | some true => some (.code ⟨num2 a b, c.toNat⟩)
  | none => none

/-- The entries of OPEN BATCH, four bytes each. -/
def readSelectors : List Byte → Option (List Selector)
  | [] => some []
  | form :: a :: b :: c :: rest =>
    match readSelector form a b c, readSelectors rest with
    | some s, some ss => some (s :: ss)
    | _, _ => none
  | _ => none

def readAttach (port : Port) (tag : Byte) : List Byte → Option Instr
  | [c1, c2, cp, sp, ts, fp, s1, s2] =>
    match readOptional cp (some (sp.toNat, ts.toNat)), readOptional fp (some (num2 s1 s2)) with
    | some copper, some fibre => some (.attach port tag (num2 c1 c2) copper fibre)
    | _, _ => none
  | _ => none

def readDetach (port : Port) (tag : Byte) : List Byte → Option Instr
  | [c1, c2, cf, ff] =>
    match readFlag cf, readFlag ff with
    | some copper, some fibre => some (.detach port tag (num2 c1 c2) copper fibre)
    | _, _ => none
  | _ => none

def readCircuitOnly (mk : Nat → Instr) : List Byte → Option Instr
  | [c1, c2] => some (mk (num2 c1 c2))
  | _ => none

def readByteOnly (mk : Nat → Instr) : List Byte → Option Instr
  | [b] => some (mk b.toNat)
  | _ => none

def readFlagOnly (mk : Bool → Instr) : List Byte → Option Instr
  | [b] => (readFlag b).map mk
  | _ => none

def readNothing (c : Instr) : List Byte → Option Instr
  | [] => some c
  | _ => none

def readSelectorOnly (mk : Selector → Instr) : List Byte → Option Instr
  | [f, a, b, c] => (readSelector f a b c).map mk
  | _ => none

def readCodeOnly (mk : TrunkCode → Instr) : List Byte → Option Instr
  | [r1, r2, m] => some (mk ⟨num2 r1 r2, m.toNat⟩)
  | _ => none

def readSetCircuit (port : Port) (tag : Byte) : List Byte → Option Instr
  | [c1, c2, np, n, ap, a, hp, h1, h2, ip, i] =>
    match readOptional np (readFlag n), readOptional ap (readFlag a), readOptional hp (some (num2 h1 h2)),
      readOptional ip (readFlag i) with
    | some notify, some auto, some hold, some inhibit => some (.setCircuit port tag (num2 c1 c2) notify auto hold inhibit)
    | _, _, _, _ => none
  | _ => none

def readQueryCircuit (port : Port) (tag : Byte) : List Byte → Option Instr
  | [c1, c2, f] => (readFlag f).map fun clear => .queryCircuit port tag (num2 c1 c2) clear
  | _ => none

/-- The fields of SET NODE in the order of R23's table: the first five, then the last four. -/
def readSetNode (port : Port) (tag : Byte) : List Byte → Option Instr
  | [np, n1, n2, mp, m, lp, l, wp, w, rp, r, bp, b1, b2, gp, g1, g2, g3, g4, dp, d1, d2, d3, d4, ip, i] =>
    match readOptional np (some (num2 n1 n2)), readOptional mp (some m.toNat), readOptional lp (some l.toNat),
      readOptional wp (some w.toNat), readOptional rp (some r.toNat) with
    | some node, some mode, some lead, some window, some retry =>
      match readOptional bp (some (num2 b1 b2)), readOptional gp (some (num4 g1 g2 g3 g4)),
        readOptional dp (some (num4 d1 d2 d3 d4)), readOptional ip (some i.toNat) with
      | some backoff, some bridge, some defer, some code =>
        some (.setNode port tag ⟨node, mode, lead, window, retry, backoff, bridge, defer, code⟩)
      | _, _, _, _ => none
    | _, _, _, _, _ => none
  | _ => none

def readQueryAlignment (port : Port) (tag : Byte) : List Byte → Option Instr
  | [cp, c1, c2, fp, f1, f2] =>
    match readOptional cp (some (num2 c1 c2)), readOptional fp (some (num2 f1 f2)) with
    | some circuit, some first => some (.queryAlignment port tag circuit first)
    | _, _ => none
  | _ => none

def readSetSpan (port : Port) (tag : Byte) : List Byte → Option Instr
  | [sp, lp, l, hp, h, tp, t, rp, r, ap, a] =>
    match readOptional lp (some (signed l)), readOptional hp (some (signed h)), readOptional tp (some t.toNat),
      readOptional rp (readFlag r), readOptional ap (readFlag a) with
    | some wlo, some whi, some tol, some slips, some auto => some (.setSpan port tag sp.toNat ⟨wlo, whi, tol, slips, auto⟩)
    | _, _, _, _, _ => none
  | _ => none

def readSetFrameClock (port : Port) (tag : Byte) : List Byte → Option Instr
  | [a, b, c, d] => some (.setFrameClock port tag (BitVec.ofNat 32 (num4 a b c d)))
  | _ => none

def readAddTrunk (port : Port) (tag : Byte) : List Byte → Option Instr
  | [r1, r2, m, c1, c2, pp, p] =>
    (readOptional pp (readFlag p)).map fun pinned => .addTrunk port tag ⟨num2 r1 r2, m.toNat⟩ (num2 c1 c2) pinned
  | _ => none

def readAddRange (port : Port) (tag : Byte) : List Byte → Option Instr
  | [r1, r2, m, s1, s2, b1, b2] => some (.addRange port tag (num2 r1 r2) m.toNat (num2 s1 s2) (num2 b1 b2))
  | _ => none

/-- R188: the operand's first byte is the bucket or the range index; the two bytes after it are not read
(assumption 16). -/
def readLookup (port : Port) (tag : Byte) : List Byte → Option Instr
  | [f, a, b, c] =>
    some (.lookup port tag
      (match f.toNat with
        | 0 => .byCode ⟨num2 a b, c.toNat⟩
        | 1 => .byBucket a.toNat
        | 2 => .byRange a.toNat
        | n => .unknownForm n))
  | _ => none

def readOpenBatch (port : Port) (tag : Byte) : List Byte → Option Instr
  | id :: mode :: limit :: count :: rest =>
    match readSelectors rest with
    | some entries =>
      if entries.length = count.toNat then some (.openBatch port tag id.toNat mode.toNat limit.toNat entries) else none
    | none => none
  | _ => none

def readSetWatch (port : Port) (tag : Byte) : List Byte → Option Instr
  | [w, ep, e, vp, v1, v2, cp, c, kp, k, ap, a, jp, j] =>
    match readOptional ep (readFlag e), readOptional vp (some (num2 v1 v2)), readOptional cp (some c.toNat),
      readOptional kp (some k), readOptional ap (some a.toNat), readOptional jp (some j.toNat) with
    | some enable, some value, some cmp, some classes, some action, some combine =>
      some (.setWatch port tag w.toNat ⟨enable, value, cmp, classes, action, combine⟩)
    | _, _, _, _, _, _ => none
  | _ => none

def readExchange (port : Port) (tag : Byte) : List Byte → Option Instr
  | [k, a1, a2, ea, b1, b2, eb] => some (.exchange port tag k.toNat (num2 a1 a2) ea.toNat (num2 b1 b2) eb.toNat)
  | _ => none

/-- The command that a queued command spells on a port: absent for an unknown type or a body that is refused FORMAT. -/
def parseCommand (port : Port) (q : QueuedCommand) : Option Instr :=
  match q.type.toNat with
  | 0x10 => readAttach port q.tag q.body
  | 0x11 => readDetach port q.tag q.body
  | 0x12 => readCircuitOnly (.activate port q.tag) q.body
  | 0x13 => readSetCircuit port q.tag q.body
  | 0x14 => readQueryCircuit port q.tag q.body
  | 0x20 => readSelectorOnly (.migrate port q.tag) q.body
  | 0x21 => readSelectorOnly (.abandon port q.tag) q.body
  | 0x22 => readSelectorOnly (.revert port q.tag) q.body
  | 0x23 => readSelectorOnly (.release port q.tag) q.body
  | 0x24 => readSelectorOnly (.resume port q.tag) q.body
  | 0x25 => readSetNode port q.tag q.body
  | 0x30 => readQueryAlignment port q.tag q.body
  | 0x40 => readSetSpan port q.tag q.body
  | 0x41 => readByteOnly (.spanStatus port q.tag) q.body
  | 0x42 => readByteOnly (.restartSpan port q.tag) q.body
  | 0x43 => readByteOnly (.retireSpan port q.tag) q.body
  | 0x50 => readByteOnly (.laneControlSelect port q.tag) q.body
  | 0x51 => readByteOnly (.laneControlLockout port q.tag) q.body
  | 0x52 => readByteOnly (.laneControlClear port q.tag) q.body
  | 0x53 => readByteOnly (.laneControlShut port q.tag) q.body
  | 0x54 => readByteOnly (.laneControlRestore port q.tag) q.body
  | 0x55 => readByteOnly (.laneControlHoldOff port q.tag) q.body
  | 0x56 => readNothing (.laneStatus port q.tag) q.body
  | 0x57 => readSetFrameClock port q.tag q.body
  | 0x60 => readFlagOnly (.peerStatus port q.tag) q.body
  | 0x70 => readAddTrunk port q.tag q.body
  | 0x71 => readAddRange port q.tag q.body
  | 0x72 => readCodeOnly (.removeTrunk port q.tag) q.body
  | 0x73 => readByteOnly (.removeRange port q.tag) q.body
  | 0x74 => readCodeOnly (.pin port q.tag) q.body
  | 0x75 => readCodeOnly (.unpin port q.tag) q.body
  | 0x76 => readNothing (.purge port q.tag) q.body
  | 0x77 => readLookup port q.tag q.body
  | 0x78 => readFlagOnly (.queryMiss port q.tag) q.body
  | 0x80 => readOpenBatch port q.tag q.body
  | 0x81 => readByteOnly (.cancelBatch port q.tag) q.body
  | 0x82 => readByteOnly (.batchStatus port q.tag) q.body
  | 0x83 => readSetWatch port q.tag q.body
  | 0x84 => readByteOnly (.watchStatus port q.tag) q.body
  | 0x85 => readExchange port q.tag q.body
  | 0x90 => readFlagOnly (.linkStatus port q.tag) q.body
  | 0x9F => readNothing (.reset port q.tag) q.body
  | _ => none

/-! ### The command as a host sends it -/

def selectorBytes : Selector → List Byte
  | .number n => 0 :: two n ++ [0]
  | .code c => 1 :: two c.route ++ [byteOf c.member]

def codeBytes (c : TrunkCode) : List Byte := two c.route ++ [byteOf c.member]

def optionalFlag (f : Option Bool) : List Byte := optionalBytes 1 (f.map fun b => [flagByte b])
def optionalOne (n : Option Nat) : List Byte := optionalBytes 1 (n.map fun b => [byteOf b])
def optionalTwo (n : Option Nat) : List Byte := optionalBytes 2 (n.map two)
def optionalFour (n : Option Nat) : List Byte := optionalBytes 4 (n.map four)
def optionalSigned (n : Option Int) : List Byte := optionalBytes 1 (n.map fun z => [signedByte z])

/-- The body of SET NODE, and of its OK reply (section 10.4). -/
def nodeBytes (p : NodeSettings) : List Byte :=
  optionalTwo p.node ++ optionalOne p.mode ++ optionalOne p.lead ++ optionalOne p.window ++ optionalOne p.retryLimit ++
    optionalTwo p.backoff ++ optionalFour p.bridgeLimit ++ optionalFour p.deferLimit ++ optionalOne p.idleCode

/-- The settings of SET SPAN after the span byte, and of its OK reply (section 10.4). -/
def spanBytes (p : SpanSettings) : List Byte :=
  optionalSigned p.wlo ++ optionalSigned p.whi ++ optionalOne p.tolerance ++ optionalFlag p.slipReports ++
    optionalFlag p.autoRetire

def lookupBytes : LookupOperand → List Byte
  | .byCode c => 0 :: codeBytes c
  | .byBucket b => [1, byteOf b, 0, 0]
  | .byRange i => [2, byteOf i, 0, 0]
  | .unknownForm f => [byteOf f, 0, 0, 0]

/-- The command frame of a host command: the port, and the tag, type and body it carries. Absent for an event. -/
def commandFrame : Instr → Option (Port × QueuedCommand)
  | .attach p t c cu fi => some (p, ⟨t, 0x10, two c ++ optionalBytes 2 (cu.map fun x => [byteOf x.1, byteOf x.2]) ++ optionalTwo fi⟩)
  | .detach p t c cu fi => some (p, ⟨t, 0x11, two c ++ [flagByte cu, flagByte fi]⟩)
  | .activate p t c => some (p, ⟨t, 0x12, two c⟩)
  | .setCircuit p t c n a h i => some (p, ⟨t, 0x13, two c ++ optionalFlag n ++ optionalFlag a ++ optionalTwo h ++ optionalFlag i⟩)
  | .queryCircuit p t c f => some (p, ⟨t, 0x14, two c ++ [flagByte f]⟩)
  | .migrate p t s => some (p, ⟨t, 0x20, selectorBytes s⟩)
  | .abandon p t s => some (p, ⟨t, 0x21, selectorBytes s⟩)
  | .revert p t s => some (p, ⟨t, 0x22, selectorBytes s⟩)
  | .release p t s => some (p, ⟨t, 0x23, selectorBytes s⟩)
  | .resume p t s => some (p, ⟨t, 0x24, selectorBytes s⟩)
  | .setNode p t x => some (p, ⟨t, 0x25, nodeBytes x⟩)
  | .queryAlignment p t c f => some (p, ⟨t, 0x30, optionalTwo c ++ optionalTwo f⟩)
  | .setSpan p t n x => some (p, ⟨t, 0x40, byteOf n :: spanBytes x⟩)
  | .spanStatus p t n => some (p, ⟨t, 0x41, [byteOf n]⟩)
  | .restartSpan p t n => some (p, ⟨t, 0x42, [byteOf n]⟩)
  | .retireSpan p t n => some (p, ⟨t, 0x43, [byteOf n]⟩)
  | .laneControlSelect p t n => some (p, ⟨t, 0x50, [byteOf n]⟩)
  | .laneControlLockout p t n => some (p, ⟨t, 0x51, [byteOf n]⟩)
  | .laneControlClear p t n => some (p, ⟨t, 0x52, [byteOf n]⟩)
  | .laneControlShut p t n => some (p, ⟨t, 0x53, [byteOf n]⟩)
  | .laneControlRestore p t n => some (p, ⟨t, 0x54, [byteOf n]⟩)
  | .laneControlHoldOff p t n => some (p, ⟨t, 0x55, [byteOf n]⟩)
  | .laneStatus p t => some (p, ⟨t, 0x56, []⟩)
  | .setFrameClock p t v => some (p, ⟨t, 0x57, four v.toNat⟩)
  | .peerStatus p t f => some (p, ⟨t, 0x60, [flagByte f]⟩)
  | .addTrunk p t c n f => some (p, ⟨t, 0x70, codeBytes c ++ two n ++ optionalFlag f⟩)
  | .addRange p t r m s b => some (p, ⟨t, 0x71, two r ++ [byteOf m] ++ two s ++ two b⟩)
  | .removeTrunk p t c => some (p, ⟨t, 0x72, codeBytes c⟩)
  | .removeRange p t i => some (p, ⟨t, 0x73, [byteOf i]⟩)
  | .pin p t c => some (p, ⟨t, 0x74, codeBytes c⟩)
  | .unpin p t c => some (p, ⟨t, 0x75, codeBytes c⟩)
  | .purge p t => some (p, ⟨t, 0x76, []⟩)
  | .lookup p t o => some (p, ⟨t, 0x77, lookupBytes o⟩)
  | .queryMiss p t f => some (p, ⟨t, 0x78, [flagByte f]⟩)
  | .openBatch p t i m l es => some (p, ⟨t, 0x80, [byteOf i, byteOf m, byteOf l, byteOf es.length] ++ (es.map selectorBytes).flatten⟩)
  | .cancelBatch p t i => some (p, ⟨t, 0x81, [byteOf i]⟩)
  | .batchStatus p t i => some (p, ⟨t, 0x82, [byteOf i]⟩)
  | .setWatch p t w x => some (p, ⟨t, 0x83, byteOf w :: optionalFlag x.enable ++ optionalTwo x.value ++ optionalOne x.compare ++
      optionalBytes 1 (x.classes.map fun b => [b]) ++ optionalOne x.action ++ optionalOne x.combine⟩)
  | .watchStatus p t w => some (p, ⟨t, 0x84, [byteOf w]⟩)
  | .exchange p t k a ea b eb => some (p, ⟨t, 0x85, byteOf k :: two a ++ [byteOf ea] ++ two b ++ [byteOf eb]⟩)
  | .linkStatus p t f => some (p, ⟨t, 0x90, [flagByte f]⟩)
  | .reset p t => some (p, ⟨t, 0x9F, []⟩)
  | .powerOnReset _ _ => none
  | .startUpEnd => none
  | .siteFrame _ => none
  | .targetReached _ => none
  | .switchLineConditionChange _ => none
  | .spanFrameReceived _ _ => none
  | .frameAlignmentFound _ => none
  | .multiframeHuntLoss _ => none
  | .spanUp _ => none
  | .spanLossOfSignal _ => none
  | .spanBadAlignment _ => none
  | .laneFrameReceived _ _ => none
  | .slotLineConditionChange _ => none
  | .bridgeFlagRecognised _ => none
  | .laneUp _ => none
  | .laneLossOfLight _ => none
  | .laneAlignmentLoss _ => none
  | .laneDegraded _ => none
  | .errorIntervalEnd _ => none
  | .holdOffExpiry => none
  | .duplicateWindowExpiry => none
  | .matcherStart => none
  | .primingComplete _ => none
  | .windowEnd _ => none
  | .matchOutcome _ => none
  | .servicePauseEnd => none
  | .responseTimerExpiry _ => none
  | .retryBackoffExpiry _ => none
  | .bridgeLimitExpiry _ => none
  | .deferLimitExpiry _ => none
  | .fallbackHoldExpiry _ => none
  | .drainEnd _ => none
  | .helloTimerExpiry => none
  | .silenceExpiry => none
  | .receivedHello _ _ => none
  | .receivedPropose _ _ _ => none
  | .receivedAccept _ _ _ => none
  | .receivedDecline _ _ _ => none
  | .receivedConfirm _ _ => none
  | .receivedSpliced _ => none
  | .receivedAbandon _ _ => none
  | .receivedRevert _ => none
  | .receivedRevertDone _ => none
  | .receivedRelease _ => none
  | .rangeCheckBucket => none
  | .rangeCheckComplete => none
  | .purgeBucket => none
  | .purgeComplete => none
  | .managementFrameReceived _ _ => none
  | .interByteTimeout _ => none
  | .frameTransmitStart _ => none
  | .frameTransmitEnd _ => none
  | .laneLightReturn _ => none
  | .spanSignalReturn _ => none

/-! ### Management frames (section 10.3) -/

/-- A management frame: sync, length, kind, tag, type, body and CRC (R187). -/
def managementFrame (kind tag type : Byte) (body : List Byte) : List Byte :=
  let covered := two body.length ++ [kind, tag, type] ++ body
  0xA5 :: covered ++ crcBytes covered

/-! ### Reply and report bodies whose layout section 10.4 gives -/

def copperBytes (c : Option CopperPosition) : List Byte :=
  optionalBytes 2 (c.map fun x => [byteOf x.span.val, byteOf (x.timeslot.val + 1)])

/-- J: presence, two bytes and sense (R186). -/
def offsetBytes (j : Option SampleOffset) : List Byte :=
  optionalBytes 3 (j.map fun x => signedTwo x.value ++ [flagByte x.skipped])

/-- The outcome record, 17 bytes. -/
def outcomeBytes (o : OutcomeRecord) : List Byte :=
  [byteOf (outcomeByte o.code)] ++ optionalOne (o.reason.map reasonCode) ++
    optionalOne (o.decline.map fun d => (declineCode d).val) ++ optionalSigned o.delta ++ [byteOf o.buildOut] ++
    offsetBytes o.offset ++ [byteOf o.attemptsUsed] ++ four o.stamp.toNat

/-- Fibre transmit and the drain remaining, which is 0 unless draining. -/
def transmitBytes : FibreTransmit → List Byte
  | .off => [0] ++ two 0
  | .bridged => [1] ++ two 0
  | .draining left => [2] ++ two left.left

/-- The 40 value bytes of the migration context; `kept` says that the fallback state is KEPT. -/
def contextBytes (kept : Bool) (x : Context) : List Byte :=
  [byteOf (roleCode x.role), x.number, byteOf x.attempts, byteOf x.retryLimit] ++ four x.bridgeLimit.left ++
    four x.bridgeCaptured ++ optionalFour (x.backoff.map Countdown.left) ++ optionalOne (x.sub.map subCode) ++
    optionalSigned x.delta ++ [flagByte x.deferred, flagByte x.held] ++ optionalFour (x.target.map BitVec.toNat) ++
    four x.deferLimit.left ++ [flagByte x.peerSpliced] ++ optionalOne (if kept then some 0 else none) ++
    optionalFour (x.hold.map Countdown.left)

/-- The QUERY CIRCUIT reply after its result byte. -/
def circuitViewBytes (v : CircuitView) : List Byte :=
  let r := v.record
  two v.circuit.val ++ [byteOf (stateCode r.state)] ++ copperBytes r.copper ++ optionalTwo (r.fibre.map Fin.val) ++
    optionalBytes 3 (r.code.map codeBytes) ++ [flagByte r.copperTransmit] ++ transmitBytes r.fibreTransmit ++
    [byteOf r.buildOut, flagByte r.conditioning, flagByte r.notify, flagByte r.autoRelease] ++ two r.holdSeconds ++
    [flagByte r.inhibit, flagByte r.changed] ++ optionalOne (r.batch.map Fin.val) ++
    [flagByte v.busy, byteOf (conditionCode v.switchCondition), byteOf (conditionCode v.farCondition)] ++
    optionalBytes 40 (r.context.map (contextBytes (r.state == .fibre))) ++ optionalBytes 17 (r.outcome.map outcomeBytes)

/-- The node parameters in force, as SET NODE's OK reply repeats them: every presence byte 01H. -/
def paramsInForce (p : NodeParams) : NodeSettings :=
  { node := some p.node, mode := some (modeCode p.mode), lead := some p.lead, window := some p.window,
    retryLimit := some p.retryLimit, backoff := some p.backoff, bridgeLimit := some p.bridgeLimit,
    deferLimit := some p.deferLimit, idleCode := some p.idleCode.toNat }

/-! ### Bodies whose fields the owning rules name, in the order in which they name them (R186; assumption 7) -/

/-- A value of an enumeration that section 10.2 does not list, by its place in the list of its rule. -/
def unlisted (e : Config.Enumeration) (n : Nat) : List Byte := [Config.unlistedByte e n]

def laneByte (l : Lane) : Byte := byteOf (laneCode l)

/-- A list: its count, then the entries (R186). -/
def listBytes {α : Type} (entry : α → List Byte) (xs : List α) : List Byte := byteOf xs.length :: (xs.map entry).flatten

/-- A circuit's attachments and state (R10, R11, R172). -/
def attachmentBytes (v : AttachmentView) : List Byte :=
  copperBytes v.copper ++ optionalTwo (v.fibre.map Fin.val) ++ [byteOf (stateCode v.state)]

/-- The missed code with h1 and h2 (R143). -/
def missBytes (m : MissFields) : List Byte := codeBytes m.code ++ [byteOf m.h1, byteOf m.h2]

def spanStateBytes : SpanState → List Byte
  | .down => unlisted .spanState 0
  | .up => unlisted .spanState 1
  | .retired => unlisted .spanState 2

def huntPhaseBytes : HuntPhase → List Byte
  | .search => unlisted .huntPhase 0
  | .multiframe => unlisted .huntPhase 1

def delayMeasureBytes (m : DelayMeasure) : List Byte := [signedByte m.delta] ++ two m.source.val ++ four m.stamp.toNat

/-- The span delay record: its state and, when not INVALID, Δ, source circuit and FC stamp (R94, R95). -/
def delayRecordBytes : DelayRecord → List Byte
  | .invalid => unlisted .delayRecord 0 ++ optionalBytes 7 none
  | .valid m => unlisted .delayRecord 1 ++ optionalBytes 7 (some (delayMeasureBytes m))
  | .stale m => unlisted .delayRecord 2 ++ optionalBytes 7 (some (delayMeasureBytes m))

def laneStateBytes : LaneState → List Byte
  | .down => unlisted .laneState 0
  | .degraded => unlisted .laneState 1
  | .up => unlisted .laneState 2

def timingBytes : TimingSource → List Byte
  | .laneA => unlisted .timingSource 0
  | .laneB => unlisted .timingSource 1
  | .holdover => unlisted .timingSource 2

def searchKindBytes : SearchKind → List Byte
  | .full => unlisted .searchKind 0
  | .confirm => unlisted .searchKind 1

def matcherStateBytes : MatcherState → List Byte
  | .free => unlisted .matcherState 0
  | .priming => unlisted .matcherState 1
  | .window => unlisted .matcherState 2
  | .done => unlisted .matcherState 3

/-- A matcher's outcome with its Δ. -/
def matchResultBytes : MatchResult → List Byte
  | .matched d => unlisted .matchResult 0 ++ optionalSigned (some d)
  | .noMatch => unlisted .matchResult 1 ++ optionalSigned none
  | .ambiguous => unlisted .matchResult 2 ++ optionalSigned none
  | .confirmed d => unlisted .matchResult 3 ++ optionalSigned (some d)
  | .confirmFailed => unlisted .matchResult 4 ++ optionalSigned none

/-- One matcher unit (R75). -/
def matcherBytes (v : MatcherView) : List Byte :=
  matcherStateBytes v.state ++ optionalTwo (v.circuit.map Fin.val) ++ searchKindBytes v.kind ++
    [signedByte v.wlo, signedByte v.whi, byteOf v.length, byteOf v.count, byteOf v.left] ++ optionalSigned v.lowest ++
    optionalSigned v.highest ++ optionalBytes 3 (v.outcome.map matchResultBytes)

def queueEntryBytes (e : QueueEntry) : List Byte := two e.circuit.val ++ searchKindBytes e.kind

/-- Where a circuit stands in the unit (R76): a queue position with its search kind, a unit, or neither. -/
def placeBytes : AlignmentPlace → List Byte
  | .nowhere => optionalBytes 3 none ++ optionalOne none
  | .queue position kind => optionalBytes 3 (some (two position ++ searchKindBytes kind)) ++ optionalOne none
  | .unit u => optionalBytes 3 none ++ optionalOne (some u.val)

/-- The QUERY ALIGNMENT reply for a circuit (R76). -/
def alignmentViewBytes (v : AlignmentView) : List Byte :=
  [byteOf (stateCode v.state)] ++ optionalOne (v.sub.map subCode) ++ placeBytes v.place ++ optionalSigned v.delta ++
    [byteOf v.buildOut] ++ optionalFour (v.target.map BitVec.toNat) ++ optionalFour (v.framesBefore.map BitVec.toNat) ++
    [flagByte v.ringWritten] ++ offsetBytes v.revertOffset

/-- The SPAN STATUS reply (R94). -/
def spanViewBytes (v : SpanView) : List Byte :=
  spanStateBytes v.state ++ optionalBytes 1 (v.phase.map huntPhaseBytes) ++ optionalFlag v.lossOfSignal ++
    optionalOne v.fill ++ two v.deletions ++ two v.repetitions ++ delayRecordBytes v.record ++
    [signedByte v.wlo, signedByte v.whi, byteOf v.tolerance, flagByte v.slipReports, flagByte v.autoRetire,
      byteOf v.occupied, byteOf v.inFibre] ++ v.conditions.data.map fun x => byteOf (conditionCode x)

def laneViewBytes (v : LaneView) : List Byte :=
  laneStateBytes v.state ++ [flagByte v.lossOfLight, flagByte v.lockout, flagByte v.shutdown] ++ optionalTwo v.errors ++
    optionalTwo v.interval

/-- The LANE STATUS reply (R115). -/
def laneStatusBytes (v : LaneStatusView) : List Byte :=
  laneViewBytes v.a ++ laneViewBytes v.b ++ [laneByte v.working] ++ four v.holdOff ++ [byteOf v.holdOffSeconds] ++
    timingBytes v.timing ++ four v.fc.toNat ++ [byteOf v.queued] ++ two v.lost ++ two v.pause

def linkStateBytes : LinkState → List Byte
  | .down => unlisted .linkState 0
  | .up => unlisted .linkState 1
  | .mismatch => unlisted .linkState 2

def modeByte (m : HandshakeMode) : Byte := byteOf (modeCode m)

/-- The PEER STATUS reply (R139). -/
def peerViewBytes (v : PeerView) : List Byte :=
  linkStateBytes v.state ++ optionalTwo v.qualified ++ two v.node ++ [modeByte v.mode] ++ optionalTwo v.hello ++
    optionalBytes 7 (v.heard.map fun h => two h.node ++ [modeByte h.mode] ++ four h.stamp.toNat) ++
    optionalTwo v.silence ++ [v.counter] ++ two v.responses ++ (v.received.data.map two).flatten ++
    two v.discards.ignored ++ two v.discards.unresolved ++ two v.discards.stale ++ two v.discards.inapplicable ++
    two v.discards.malformed ++ (v.declines.data.map two).flatten ++
    optionalBytes 8 (v.lastAbandon.map fun h => codeBytes h.code ++ [byteOf (reasonCode h.reason)] ++ four h.stamp.toNat) ++
    optionalBytes 7 (v.lastRevertDecline.map fun h => codeBytes h.code ++ four h.stamp.toNat)

/-- Where a lookup found its code: a range index, or bucket, way and pinned flag (R155). -/
def foundBytes : Found → List Byte
  | .range i => optionalOne (some i.val) ++ optionalBytes 3 none
  | .trunk b w pinned => optionalOne none ++ optionalBytes 3 (some [byteOf b.val, byteOf w.val, flagByte pinned])

/-- The numbers of valid trunk and range entries (R155). -/
def entryCountBytes (trunks ranges : Nat) : List Byte := two trunks ++ [byteOf ranges]

/-- A way of a bucket, free or valid (R155). -/
def wayBytes (w : Option WayView) : List Byte :=
  optionalBytes 7 (w.map fun v => codeBytes v.entry.code ++ two v.entry.circuit.val ++ [flagByte v.entry.pinned] ++
    unlisted .bucketKind (if v.isPrimary then 0 else 1))

def rangeBytes (e : RangeEntry) : List Byte := two e.route ++ [byteOf e.member] ++ two e.size ++ two e.base

def missSourceBytes : MissSource → List Byte
  | .primary => unlisted .missSource 0
  | .craft => unlisted .missSource 1
  | .peer => unlisted .missSource 2

/-- The last-miss record (R144). -/
def missRecordBytes (m : MissRecord) : List Byte :=
  codeBytes m.code ++ missSourceBytes m.source ++ [m.asked, byteOf m.h1, byteOf m.h2] ++ four m.stamp.toNat

def portBytes : Port → List Byte
  | .primary => unlisted .port 0
  | .craft => unlisted .port 1

/-- A member's reason: a result code, or an outcome's reason and decline reason (section 8.1). -/
def memberReasonBytes : Option MemberReason → List Byte
  | none => optionalOne none ++ optionalOne none ++ optionalOne none
  | some (.refused result) => optionalOne (some (resultByte result)) ++ optionalOne none ++ optionalOne none
  | some (.outcome reason decline) =>
    optionalOne none ++ optionalOne (reason.map reasonCode) ++ optionalOne (decline.map fun d => (declineCode d).val)

def memberBytes (m : Member) : List Byte :=
  two m.circuit.val ++ [byteOf (memberStatusCode m.status)] ++ memberReasonBytes m.reason

/-- The BATCH STATUS reply (R164): closed with no contents, or open with the whole record. No layout is given. DESIGN CHOICE
(assumption 60): a flag byte (R186) says which, 00H for closed with nothing after it and 01H for open before the record. -/
def batchStatusBytes : Option (Batch × StatusCounts) → List Byte
  | none => [flagByte false]
  | some (b, n) =>
    [flagByte true, byteOf (batchModeCode b.mode), byteOf b.limit] ++ portBytes b.port ++ [b.tag] ++ four b.opened.toNat ++
      [byteOf b.remaining, byteOf n.pending, byteOf n.active, byteOf n.done, byteOf n.failed, byteOf n.cancelled] ++
      listBytes memberBytes b.members

/-- The counts of a batch's closing (R162, R163). No layout is given. DESIGN CHOICE (assumption 53): the untracked count, which R162
names for a cancelled batch, is a plain byte in every closing, 0 for a COMPLETED batch, with no presence byte before it. -/
def summaryBytes (n : BatchSummary) : List Byte :=
  [byteOf n.members, byteOf n.done, byteOf n.failed, byteOf n.cancelled, byteOf n.untracked]

/-- A watch's settings, but for the combine mode (section 8.4). -/
def watchBytes (w : WatchView) : List Byte :=
  [flagByte w.enable] ++ two w.value ++ [byteOf (compareCode w.compare), w.classes, byteOf (actionCode w.action)]

def eventClassBytes (cls : EventClass) : List Byte := unlisted .eventClass (7 - classBit cls)

/-- Hit flag, hit count and last hit (R170). -/
def hitBytes (w : Watch) : List Byte :=
  [flagByte w.hit, byteOf w.hits] ++
    optionalBytes 7 (w.lastHit.map fun h => two h.circuit.val ++ eventClassBytes h.cls ++ four h.stamp.toNat)

def Watch.view (w : Watch) : WatchView := ⟨w.enable, w.value, w.compare, w.classes, w.action⟩

/-- Phase of an execution slot, and the command in it (R185). -/
def slotBytes : Option ExecSlot → List Byte
  | none => unlisted .slotPhase 0 ++ optionalBytes 2 none
  | some x =>
    unlisted .slotPhase (match x.phase with | .taken => 1 | .pending => 2 | .sending => 3) ++
      optionalBytes 2 (some [x.tag, x.type])

/-- One port in LINK STATUS (R185). -/
def portViewBytes (v : PortView) : List Byte :=
  [byteOf (rateCode v.rate)] ++ unlisted .receiverState (if v.inFrame then 1 else 0) ++ [byteOf v.queued] ++
    slotBytes v.slot ++ [byteOf v.fullAnswers] ++ two v.counts.framesTaken ++ two v.counts.crcDiscards ++
    two v.counts.timeoutDiscards ++ two v.counts.lengthDiscards ++ two v.counts.kindDiscards ++
    two v.counts.queueFullAnswered ++ two v.counts.queueFullDropped

/-- The START report: 00H POWER, 01H COMMAND (section 10.4). -/
def resetCauseByte : ResetCause → Byte
  | .power => 0
  | .command => 1

/-- The body of a reply after its result byte: the details that the owning rule names (R187). -/
def replyBodyBytes : ReplyBody → List Byte
  | .empty => []
  | .attachments v => attachmentBytes v
  | .heldAttachment copper fibre => copperBytes copper ++ optionalTwo (fibre.map Fin.val)
  | .occupant c onCopper => two c.val ++ unlisted .side (if onCopper then 0 else 1)
  | .options n a h i => [flagByte n, flagByte a] ++ two h ++ [flagByte i]
  | .circuit v => circuitViewBytes v
  | .missed m => missBytes m
  | .migrated c n => two c.val ++ [n]
  | .reverted j => offsetBytes j
  | .resumed target deferred => optionalFour (target.map BitVec.toNat) ++ [flagByte deferred]
  | .nodeParams p => nodeBytes (paramsInForce p)
  | .alignmentUnit pause units entries shown =>
    two pause ++ (units.data.map matcherBytes).flatten ++ two entries ++ listBytes queueEntryBytes shown
  | .alignment v => alignmentViewBytes v
  | .spanSettings n lo hi t r a => byteOf n.val :: spanBytes ⟨some lo, some hi, some t, some r, some a⟩
  | .spanStatus v => spanViewBytes v
  | .occupiedEntries n => [byteOf n]
  | .holdOffLeft n => four n
  | .laneSelection w la lb n => [laneByte w, flagByte la, flagByte lb] ++ four n
  | .shutdowns a b => [flagByte a, flagByte b]
  | .holdOffSetting n => [byteOf n]
  | .laneStatus v => laneStatusBytes v
  | .frameClock old new => four old.toNat ++ four new.toNat
  | .peerStatus v => peerViewBytes v
  | .trunkWritten b w => [byteOf b.val, byteOf w.val]
  | .shadowedBy i => [byteOf i.val]
  | .duplicateOf c b w => two c.val ++ [byteOf b.val, byteOf w.val]
  | .heldCode code => codeBytes code
  | .carriedCode c code => two c.val ++ codeBytes code
  | .buckets h1 h2 => [byteOf h1, byteOf h2]
  | .trunkInside f => [byteOf f.bucket, byteOf f.way] ++ codeBytes f.code
  | .rangeWritten i => [byteOf i.val]
  | .circuitState c st => two c.val ++ [byteOf (stateCode st)]
  | .trunkRemoved c b w => two c.val ++ [byteOf b.val, byteOf w.val]
  | .rangeRemoved n => two n
  | .pinned c b w flag => two c.val ++ [byteOf b.val, byteOf w.val, flagByte flag]
  | .purged n => two n
  | .lookupCode c found st trunks ranges =>
    two c.val ++ foundBytes found ++ [byteOf (stateCode st)] ++ entryCountBytes trunks ranges
  | .lookupMiss m trunks ranges => missBytes m ++ entryCountBytes trunks ranges
  | .lookupBucket ways trunks ranges => (ways.data.map wayBytes).flatten ++ entryCountBytes trunks ranges
  | .lookupRange e trunks ranges => optionalBytes 7 (e.map rangeBytes) ++ entryCountBytes trunks ranges
  | .miss m n => optionalBytes 11 (m.map missRecordBytes) ++ two n
  | .batchOpened id mode limit started failed =>
    [byteOf id.val, byteOf (batchModeCode mode), byteOf limit, byteOf started, byteOf failed]
  | .entry i => [byteOf i]
  | .entryMissed i m => byteOf i :: missBytes m
  | .entryDuplicate i j => [byteOf i, byteOf j]
  | .entryState i st => [byteOf i, byteOf (stateCode st)]
  | .entryBatch i id => [byteOf i, byteOf id.val]
  | .batchCancelled n => summaryBytes n
  | .batchStatus b => batchStatusBytes b
  | .watchSettings first second joint => watchBytes first ++ [flagByte joint] ++ watchBytes second
  | .watches u =>
    watchBytes u.first.view ++ [flagByte u.joint] ++ hitBytes u.first ++ watchBytes u.second.view ++ hitBytes u.second
  | .states a b => [byteOf (stateCode a), byteOf (stateCode b)]
  | .busyCircuit c => two c.val
  | .exchanged a b => attachmentBytes a ++ attachmentBytes b
  | .linkStatus primary craft reports lostFlag lost cause =>
    portViewBytes primary ++ portViewBytes craft ++ [byteOf reports, flagByte lostFlag] ++ two lost ++ [resetCauseByte cause]

/-- The characters of a text, one byte each in their ASCII values (START report). -/
def asciiBytes (text : String) : List Byte := text.toList.map fun c => byteOf c.toNat

/-- A FAILED member of a BATCH report (R162). -/
def failedMemberBytes (m : FailedMember) : List Byte :=
  byteOf m.index :: two m.circuit.val ++ memberReasonBytes m.reason

def spanCauseBytes : SpanDownCause → List Byte
  | .alignment => unlisted .spanCause 0
  | .signal => unlisted .spanCause 1
  | .command => unlisted .spanCause 2

/-- A SPAN report's kind byte and the kind's body (R95, R187). -/
def spanReportBytes : SpanReportKind → List Byte
  | .up fill => unlisted .spanReport 0 ++ [byteOf fill]
  | .down cause record => unlisted .spanReport 1 ++ spanCauseBytes cause ++ delayRecordBytes record
  | .slip kind fill record =>
    unlisted .spanReport 2 ++ unlisted .slipKind (match kind with | .deletion => 0 | .repetition => 1) ++ [byteOf fill] ++
      delayRecordBytes record
  | .retired => unlisted .spanReport 3

def laneCauseBytes : LaneCause → List Byte
  | .aligned => unlisted .laneCause 0
  | .alignment => unlisted .laneCause 1
  | .light => unlisted .laneCause 2
  | .errors => unlisted .laneCause 3
  | .cleared => unlisted .laneCause 4

def workingCauseBytes : WorkingCause → List Byte
  | .automatic => unlisted .workingCause 0
  | .lockout => unlisted .workingCause 1
  | .select => unlisted .workingCause 2

/-- The kind byte of a LANE report (R116, R187). -/
def laneKindBytes : LaneReportKind → List Byte
  | .state .. => unlisted .laneReport 0
  | .working .. => unlisted .laneReport 1

/-- The body of a LANE report's kind (R116). -/
def laneReportBytes : LaneReportKind → List Byte
  | .state lane before after cause =>
    laneByte lane :: laneStateBytes before ++ laneStateBytes after ++ laneCauseBytes cause
  | .working before after cause n => [laneByte before, laneByte after] ++ workingCauseBytes cause ++ two n

def peerCauseBytes : PeerDownCause → List Byte
  | .silence => unlisted .peerCause 0
  | .localChange => unlisted .peerCause 1
  | .peerChange => unlisted .peerCause 2

def failedTestBytes : FailedTest → List Byte
  | .nodeZero => unlisted .failedTest 0
  | .nodeEqual => unlisted .failedTest 1
  | .mode => unlisted .failedTest 2

/-- The kind byte of a PEER report (R123, R187). -/
def peerKindBytes : PeerReportKind → List Byte
  | .up .. => unlisted .peerReport 0
  | .down .. => unlisted .peerReport 1
  | .mismatch .. => unlisted .peerReport 2

/-- The body of a PEER report's kind (R123). -/
def peerReportBytes : PeerReportKind → List Byte
  | .up node mode => two node ++ [modeByte mode]
  | .down cause heard n => peerCauseBytes cause ++ optionalTwo heard ++ two n
  | .mismatch test node mode n => failedTestBytes test ++ two node ++ [modeByte mode] ++ two n

/-- The contents of a report after FC and LOST (R182). No layout is given for the watches that hit. DESIGN CHOICE (assumption 54): a
WATCH report writes them as two flag bytes, watch 0 then watch 1. -/
def contentBytes : ReportBody → List Byte
  | .start cause primary craft =>
    asciiBytes "ASHMORA" ++ asciiBytes "M512" ++
      [byteOf Config.revision, resetCauseByte cause, byteOf (rateCode primary), byteOf (rateCode craft)]
  | .circuit c code o => two c.val ++ optionalBytes 3 (code.map codeBytes) ++ outcomeBytes o
  | .batch id mode cause n failed =>
    [byteOf id.val, byteOf (batchModeCode mode)] ++
      unlisted .batchCause (match cause with | .completed => 0 | .cancelled => 1) ++ summaryBytes n ++
      listBytes failedMemberBytes failed
  | .watch first second c cls outcome =>
    [flagByte first.isSome, flagByte second.isSome] ++ two c.val ++ eventClassBytes cls ++ optionalOne first ++
      optionalOne second ++ optionalOne (outcome.map outcomeByte)
  | .span n kind => byteOf n.val :: spanReportBytes kind
  | .lane working timing kind => laneKindBytes kind ++ [laneByte working] ++ timingBytes timing ++ laneReportBytes kind
  | .peer node mode kind => peerKindBytes kind ++ two node ++ [modeByte mode] ++ peerReportBytes kind

/-- A report's body: FC, the LOST mark and the contents (R187). -/
def reportBodyBytes (r : Report) : List Byte := four r.stamp.toNat ++ [flagByte r.lost] ++ contentBytes r.body

/-- The report types 0E0H to 0E6H (section 10.3). -/
def reportType : ReportBody → Byte
  | .start .. => 0xE0
  | .circuit .. => 0xE1
  | .batch .. => 0xE2
  | .watch .. => 0xE3
  | .span .. => 0xE4
  | .lane .. => 0xE5
  | .peer .. => 0xE6

/-- The bytes that a transmitter sends for a frame (R187). -/
def outFrameBytes : OutFrame → List Byte
  | .reply tag type result body =>
    managementFrame 0x02 tag type (byteOf (resultByte result) :: replyBodyBytes body)
  | .queueFull tag type => managementFrame 0x02 tag type [byteOf (resultByte .queueFull)]
  | .report r => managementFrame 0x03 0 (reportType r.body) (reportBodyBytes r)

/-! ### Peer messages (section 10.5, R189) -/

/-- The type of a message, less one: the index of its receive count. -/
def messageIndex : PeerMessage → Fin 10
  | .hello .. => 0
  | .propose .. => 1
  | .accept .. => 2
  | .decline .. => 3
  | .confirm .. => 4
  | .spliced .. => 5
  | .revert .. => 6
  | .revertDone .. => 7
  | .abandon .. => 8
  | .release .. => 9

def messageType (m : PeerMessage) : Byte := byteOf ((messageIndex m).val + 1)

/-- The content of a message after its type byte. -/
def messageContent : PeerMessage → List Byte
  | .hello node mode => two node ++ [byteOf (modeCode mode)]
  | .propose code slot number => codeBytes code ++ two slot.val ++ [number]
  | .accept code slot number => codeBytes code ++ two slot.val ++ [number]
  | .decline code number reason => codeBytes code ++ [number, byteOf (declineCode reason).val]
  | .confirm code number => codeBytes code ++ [number]
  | .spliced code => codeBytes code
  | .revert code => codeBytes code
  | .revertDone code => codeBytes code
  | .abandon code reason => codeBytes code ++ [byteOf (reasonCode reason)]
  | .release code => codeBytes code

def messageBody (m : PeerMessage) : List Byte := messageType m :: messageContent m

/-- A message framed for the overhead channel with its sequence (R111). -/
def overheadFrame (sequence : Byte) (m : PeerMessage) : List Byte :=
  let covered := byteOf (messageBody m).length :: sequence :: messageBody m
  0xC3 :: covered ++ crcBytes covered

/-- A trunk code of a received message; absent: the route lies above 4095 (R189). -/
def readCode (r1 r2 m : Byte) : Option TrunkCode :=
  if num2 r1 r2 < 4096 then some ⟨num2 r1 r2, m.toNat⟩ else none

/-- A slot of a received message; absent: above 511 (R189). -/
def readSlot (a b : Byte) : Option SlotNo := if h : num2 a b < 512 then some ⟨num2 a b, h⟩ else none

def readCodeMessage (mk : TrunkCode → PeerMessage) : List Byte → Option PeerMessage
  | [r1, r2, m] => (readCode r1 r2 m).map mk
  | _ => none

def readSlotMessage (mk : TrunkCode → SlotNo → Byte → PeerMessage) : List Byte → Option PeerMessage
  | [r1, r2, m, s1, s2, n] =>
    match readCode r1 r2 m, readSlot s1 s2 with
    | some code, some slot => some (mk code slot n)
    | _, _ => none
  | _ => none

def readHello : List Byte → Option PeerMessage
  | [n1, n2, m] => (modeOfCode m.toNat).map fun mode => .hello (num2 n1 n2) mode
  | _ => none

def readDecline : List Byte → Option PeerMessage
  | [r1, r2, m, n, d] =>
    match readCode r1 r2 m, declineOfCode d.toNat with
    | some code, some reason => some (.decline code n reason)
    | _, _ => none
  | _ => none

def readConfirm : List Byte → Option PeerMessage
  | [r1, r2, m, n] => (readCode r1 r2 m).map fun code => .confirm code n
  | _ => none

def readAbandon : List Byte → Option PeerMessage
  | [r1, r2, m, x] =>
    match readCode r1 r2 m, reasonOfCode x.toNat with
    | some code, some reason => some (.abandon code reason)
    | _, _ => none
  | _ => none

/-- The message that a received body spells; absent: MALFORMED (R189). -/
def parseMessage : List Byte → Option PeerMessage
  | [] => none
  | type :: content =>
    match type.toNat with
    | 1 => readHello content
    | 2 => readSlotMessage .propose content
    | 3 => readSlotMessage .accept content
    | 4 => readDecline content
    | 5 => readConfirm content
    | 6 => readCodeMessage .spliced content
    | 7 => readCodeMessage .revert content
    | 8 => readCodeMessage .revertDone content
    | 9 => readAbandon content
    | 10 => readCodeMessage .release content
    | _ => none

/-- What an overhead receiver makes of its bytes: the valid messages found (sequence and body), the messages discarded
for a bad length or CRC, and the bytes it keeps (R112). -/
structure OverheadScan where
  messages : List (Byte × List Byte)
  errors : Nat
  rest : List Byte
  deriving DecidableEq, Repr

/-- R112, by fuel (each turn uses up at least one byte): in HUNT skip to a sync byte; discard at a length outside 1..48
and at a CRC that does not check, and hunt again from the byte after the sync byte. -/
def scanOverhead : Nat → List Byte → OverheadScan
  | 0, bytes => ⟨[], 0, bytes⟩
  | fuel + 1, bytes =>
    match bytes with
    | [] => ⟨[], 0, []⟩
    | sync :: after =>
      if sync ≠ 0xC3 then scanOverhead fuel after
      else match after with
        | [] => ⟨[], 0, [sync]⟩
        | length :: _ =>
          if length.toNat = 0 ∨ 48 < length.toNat then
            let r := scanOverhead fuel after
            ⟨r.messages, r.errors + 1, r.rest⟩
          else if after.length < length.toNat + 4 then ⟨[], 0, bytes⟩
          else
            let covered := after.take (length.toNat + 2)
            if crcBytes covered = (after.drop (length.toNat + 2)).take 2 then
              let r := scanOverhead fuel (after.drop (length.toNat + 4))
              ⟨((covered.drop 1).headD 0, covered.drop 2) :: r.messages, r.errors, r.rest⟩
            else
              let r := scanOverhead fuel after
              ⟨r.messages, r.errors + 1, r.rest⟩

/-! ### Lane frames and span timeslot 0 (section 10.6, R190) -/

/-- The lane alignment word: 0B1H, 4EH, 27H, 0D8H. -/
def laneWord : Table 4 Byte := ⟨[0xB1, 0x4E, 0x27, 0xD8], rfl⟩

/-- A slot's control byte: the line condition in bits 7 and 6, the bridge flag in bit 5, the rest 0. -/
def controlByte (code : LineCondition) (flag : Bool) : Byte :=
  byteOfBits [(conditionBits code).1, (conditionBits code).2, flag, false, false, false, false, false]

/-- The content of slot `i` of a received lane frame; the five lower control bits are ignored. -/
def slotContent (f : LaneFrame) (i : SlotNo) : SlotContent :=
  let c := f.control.get i
  ⟨f.samples.get i, conditionOfBits (c.getLsbD 7) (c.getLsbD 6), c.getLsbD 5⟩

/-- The span alignment word. -/
def spanWord : Byte := 0x2D

/-- The marker's two bits: 10 in the first multiframe of a pair, 01 in the second (R79). -/
def markerBits : Marker → Bool × Bool
  | .first => (true, false)
  | .second => (false, true)

def otherMarker : Marker → Marker
  | .first => .second
  | .second => .first

/-- The marker in bits 7 and 6 of a timeslot 0; absent when they are neither 10 nor 01. -/
def readMarker (b : Byte) : Option Marker :=
  match b.getLsbD 7, b.getLsbD 6 with
  | true, false => some .first
  | false, true => some .second
  | _, _ => none

/-- The condition in bits `2 i + 1` and `2 i` of a timeslot 0. -/
def codeAt (b : Byte) (i : Nat) : LineCondition := conditionOfBits (b.getLsbD (2 * i + 1)) (b.getLsbD (2 * i))

/-- The codes of timeslots 1, 2 and 3 in frame 1's timeslot 0. -/
def firstCodes (b : Byte) : List LineCondition := [codeAt b 2, codeAt b 1, codeAt b 0]

/-- The four codes of another odd frame's timeslot 0. -/
def fourCodes (b : Byte) : List LineCondition := [codeAt b 3, codeAt b 2, codeAt b 1, codeAt b 0]

end Sys2Proof.Machine
end

