-- ==== Sys2Proof/Machine/Access.lean ====
section
/-! DEFINITION. Reading and writing the parts of State: the one home of each register and the operations on countdowns
and counts. -/

namespace Sys2Proof.Machine

/-! ### Counts and countdowns -/

/-- Raise a count by one; every count of the manual stops at 65535. -/
def raise (n : Nat) : Nat := if n < Config.countLimit then n + 1 else n

/-- What one site frame does to a countdown: lower it, and leave the last lowering to the expiry's own row. -/
def Countdown.tick (t : Countdown) : Countdown :=
  if t.left ≤ 1 then ⟨t.left, t.left == 1⟩ else ⟨t.left - 1, false⟩

/-- A countdown that stops running: an expiry not yet taken is no longer due. -/
def Countdown.stop (t : Countdown) : Countdown := ⟨t.left, false⟩

/-! ### Lanes and ports -/

def otherLane : Lane → Lane
  | .a => .b
  | .b => .a

def LaneInterface.lane (l : LaneInterface) : Lane → LaneRecord
  | .a => l.a
  | .b => l.b

def LaneInterface.setLane (l : LaneInterface) (i : Lane) (r : LaneRecord) : LaneInterface :=
  match i with
  | .a => { l with a := r }
  | .b => { l with b := r }

def Links.port (l : Links) : Port → PortRecord
  | .primary => l.primary
  | .craft => l.craft

def Links.setPort (l : Links) (p : Port) (r : PortRecord) : Links :=
  match p with
  | .primary => { l with primary := r }
  | .craft => { l with craft := r }

/-! ### Whole-block updates -/

def State.setPending (s : State) (x : List Instr) : State := { s with pending := x }
def State.setNode (s : State) (x : NodeParams) : State := { s with node := x }
def State.setCircuits (s : State) (x : Table 512 Circuit) : State := { s with circuits := x }
def State.setTimeslots (s : State) (x : Table 16 (Table 31 (Option CircuitNo))) : State := { s with timeslots := x }
def State.setSlotOwners (s : State) (x : Table 512 (Option CircuitNo)) : State := { s with slotOwners := x }
def State.setHighway (s : State) (x : Highway) : State := { s with highway := x }
def State.setSpans (s : State) (x : Table 16 Span) : State := { s with spans := x }
def State.setLanes (s : State) (x : LaneInterface) : State := { s with lanes := x }
def State.setAlign (s : State) (x : AlignmentUnit) : State := { s with align := x }
def State.setPeer (s : State) (x : PeerEngine) : State := { s with peer := x }
def State.setDirectory (s : State) (x : Directory) : State := { s with directory := x }
def State.setBatches (s : State) (x : Table 8 (Option Batch)) : State := { s with batches := x }
def State.setWatches (s : State) (x : WatchUnit) : State := { s with watches := x }
def State.setLinks (s : State) (x : Links) : State := { s with links := x }
def State.setFreeCount (s : State) (x : Nat) : State := { s with freeCount := x }

/-! ### Single entries -/

def State.fc (s : State) : FrameCount := s.lanes.fc

def State.circuit (s : State) (c : CircuitNo) : Circuit := s.circuits.get c

def State.span (s : State) (n : SpanNo) : Span := s.spans.get n

def State.setSpan (s : State) (n : SpanNo) (x : Span) : State := s.setSpans (s.spans.set n x)

def State.lane (s : State) (i : Lane) : LaneRecord := s.lanes.lane i

def State.setLane (s : State) (i : Lane) (x : LaneRecord) : State := s.setLanes (s.lanes.setLane i x)

def State.unit (s : State) (u : UnitNo) : Matcher := s.align.units.get u

def State.setUnit (s : State) (u : UnitNo) (x : Matcher) : State :=
  s.setAlign { s.align with units := s.align.units.set u x }

def State.port (s : State) (p : Port) : PortRecord := s.links.port p

def State.setPort (s : State) (p : Port) (x : PortRecord) : State := s.setLinks (s.links.setPort p x)

def State.batch (s : State) (b : Fin 8) : Option Batch := s.batches.get b

def State.setBatch (s : State) (b : Fin 8) (x : Option Batch) : State := s.setBatches (s.batches.set b x)

/-- The circuit that a timeslot's occupancy entry names (R9). -/
def State.timeslotOwner (s : State) (p : CopperPosition) : Option CircuitNo := (s.timeslots.get p.span).get p.timeslot

def State.setTimeslotOwner (s : State) (p : CopperPosition) (c : Option CircuitNo) : State :=
  s.setTimeslots (s.timeslots.set p.span ((s.timeslots.get p.span).set p.timeslot c))

/-- The circuit that a slot's occupancy entry names (R9). -/
def State.slotOwner (s : State) (n : SlotNo) : Option CircuitNo := s.slotOwners.get n

def State.setSlotOwner (s : State) (n : SlotNo) (c : Option CircuitNo) : State :=
  s.setSlotOwners (s.slotOwners.set n c)

/-- Every circuit number, ascending: the order in which a step that concerns many circuits takes them (assumption 13). -/
def allCircuits : List CircuitNo := List.finRange 512

/-- Draw one free value: the count it is drawn at, and the state with the count advanced. -/
def State.drawn (s : State) : State := s.setFreeCount (s.freeCount + 1)

/-- Start-up has ended (R175). -/
def State.running (s : State) : Bool := s.links.startUp.left == 0

/-- R175: whether the ports judge a frame completed now: after start-up, and in the frame in which it ends. -/
def State.judging (s : State) : Bool := s.running || s.links.startUp.due

/-! ### Views of a circuit record -/

/-- R4: a FIBRE circuit with a context is FIBRE-KEPT. -/
def Circuit.kept (r : Circuit) : Bool := r.state == .fibre && r.context.isSome

/-- R4: a FIBRE circuit without a context is FIBRE-RELEASED. -/
def Circuit.released (r : Circuit) : Bool := r.state == .fibre && r.context.isNone

/-- "PROPOSING through ALIGNED" (introduction, section 7). -/
def Circuit.migrating (r : Circuit) : Bool :=
  match r.state with
  | .proposing | .awaiting | .measuring | .aligned => true
  | .vacant | .copper | .fibre => false

/-- MEASURING or ALIGNED. -/
def Circuit.bridgedState (r : Circuit) : Bool :=
  match r.state with
  | .measuring | .aligned => true
  | .vacant | .copper | .proposing | .awaiting | .fibre => false

/-- The measured Δ of a circuit, absent without a context. -/
def Circuit.delta (r : Circuit) : Option Int := r.context.bind Context.delta

def Circuit.sub (r : Circuit) : Option SubStatus := r.context.bind Context.sub

def Circuit.draining (r : Circuit) : Bool :=
  match r.fibreTransmit with
  | .draining _ => true
  | .off | .bridged => false

/-- R19: attempts used, 0 without a context. -/
def Circuit.attemptsUsed (r : Circuit) : Nat :=
  match r.context with
  | some x => x.retryLimit - x.attempts
  | none => 0

/-- The span of a circuit's copper attachment. -/
def Circuit.spanNo (r : Circuit) : Option SpanNo := r.copper.map CopperPosition.span

/-- R68: the build-out computed from a Δ. -/
def buildOutOf (delta : Int) : Nat := (-delta).toNat

/-- R68: the range of a measured Δ. -/
def inDeltaRange (d : Int) : Bool := decide (-127 ≤ d) && decide (d ≤ 127)

/-- A Δ that leaves -127..+127 is removed (R69). -/
def keepDelta (d : Int) : Option Int := if inDeltaRange d then some d else none

/-- The Δ of a VALID span delay record (R33, R52, R59). -/
def DelayRecord.validDelta : DelayRecord → Option Int
  | .valid m => some m.delta
  | .stale _ => none
  | .invalid => none

end Sys2Proof.Machine
end

