-- ==== Sys2Proof/Machine/Flags.lean ====
section
/-! DEFINITION. Recognition of line conditions and bridge flags (R14, R84, R102, R103), the idle and busy test (R16), and
conditioning (R17, R18). -/

namespace Sys2Proof.Machine

/-- One frame's code into a recognised condition (R14, R102). The sixteenth frame of a run marks the change due: the
change is the step of the row that recognises it. -/
def LineRecognition.take (r : LineRecognition) (code : LineCondition) : LineRecognition :=
  if code = r.recognised then { r with candidate := none, run := 0, due := false }
  else if r.candidate = some code then
    if r.run + 1 < Config.recognitionRun then { r with run := r.run + 1, due := false } else { r with due := true }
  else { r with candidate := some code, run := 1, due := false }

/-- The step that recognises the candidate (R14, R102). -/
def LineRecognition.recognise (r : LineRecognition) : LineRecognition :=
  match r.candidate with
  | some code => ⟨code, none, 0, false⟩
  | none => { r with due := false }

/-- What a channel or a slot holds in the frame in progress: in the sixteenth frame of a run the candidate already, whose
event is its own row's step (R14, R102). -/
def LineRecognition.shown (r : LineRecognition) : LineCondition :=
  if r.due then r.candidate.getD r.recognised else r.recognised

/-- One frame's bridge flag into a recognised flag (R103). -/
def FlagRecognition.take (r : FlagRecognition) (flag : Bool) : FlagRecognition :=
  if flag = r.present then { r with run := 0, due := false }
  else if r.run + 1 < Config.recognitionRun then { r with run := r.run + 1, due := false }
  else { r with due := true }

/-- The step that recognises the other flag value (R103). -/
def FlagRecognition.recognise (r : FlagRecognition) : FlagRecognition := ⟨!r.present, 0, false⟩

/-- R102, R103: the content of one frame into a slot's recognition. -/
def SlotRecognition.hear (r : SlotRecognition) (x : SlotContent) : SlotRecognition := ⟨r.line.take x.code, r.flag.take x.flag⟩

/-- R105: candidates and runs go, recognised values stay. -/
def SlotRecognition.restart (r : SlotRecognition) : SlotRecognition :=
  ⟨⟨r.line.recognised, none, 0, false⟩, ⟨r.flag.present, 0, false⟩⟩

/-- R100: fibre unavailable; the flag becomes absent too. -/
def SlotRecognition.unavailable (r : SlotRecognition) : SlotRecognition :=
  ⟨⟨r.line.recognised, none, 0, false⟩, ⟨false, 0, false⟩⟩

/-- A count of UP lanes above zero: "a lane is UP". -/
def LaneInterface.anyUp (l : LaneInterface) : Bool := l.a.state == .up || l.b.state == .up

/-- R113: the timing source that the lane states and the working lane select. -/
def LaneInterface.timingOf (l : LaneInterface) : TimingSource :=
  match l.working, l.a.state, l.b.state with
  | .a, .up, _ => .laneA
  | .a, _, .up => .laneB
  | .b, _, .up => .laneB
  | .b, .up, _ => .laneA
  | _, _, _ => .holdover

/-- R17: whether a record is conditioned, from its state and route, its span and the lanes. -/
def conditioned (spans : Table 16 Span) (lanes : LaneInterface) (r : Circuit) : Bool :=
  match r.state with
  | .vacant => true
  | .fibre => !lanes.anyUp
  | .copper | .proposing | .awaiting | .measuring | .aligned =>
    match r.copper with
    | some p => (spans.get p.span).state == .down
    | none => true

/-- The record with its conditioning evaluated (R17). -/
def evaluated (spans : Table 16 Span) (lanes : LaneInterface) (r : Circuit) : Circuit :=
  { r with conditioning := conditioned spans lanes r }

/-- Write a circuit record. Conditioning is evaluated with each write, so at every event R17 names. -/
def State.putCircuit (s : State) (c : CircuitNo) (r : Circuit) : State :=
  s.setCircuits (s.circuits.set c (evaluated s.spans s.lanes r))

/-- Evaluate the conditioning of every circuit (R17: a span or the count of UP lanes has changed). -/
def State.evaluateAll (s : State) : State := s.setCircuits (s.circuits.map (evaluated s.spans s.lanes))

/-- The recognised line condition from the switch on a circuit's channel (R14). -/
def State.switchCondition (s : State) (c : CircuitNo) : LineCondition := (s.highway.channels.get c).recognised

/-- The recognised copper condition of a position (R84). -/
def State.copperCondition (s : State) (p : CopperPosition) : LineCondition := (s.span p.span).conditions.get p.timeslot

/-- The recognised line condition of a slot (R102). -/
def State.slotCondition (s : State) (n : SlotNo) : LineCondition := (s.lanes.slots.get n).line.recognised

/-- The far-end condition on the route a circuit receives from, `slot` giving that of a slot; BLOCKED for a VACANT circuit
(R15, R16). -/
def State.farBy (s : State) (slot : SlotNo → LineCondition) (r : Circuit) : LineCondition :=
  match r.state with
  | .vacant => .blocked
  | .fibre =>
    match r.fibre with
    | some n => slot n
    | none => .blocked
  | .copper | .proposing | .awaiting | .measuring | .aligned =>
    match r.copper with
    | some p => s.copperCondition p
    | none => .blocked

/-- The recognised far-end condition on a circuit's receive route (R16). -/
def State.farCondition (s : State) (r : Circuit) : LineCondition := s.farBy s.slotCondition r

/-- The far-end condition that the Highway Interface gives the switch in this frame (R15, R102). -/
def State.farShown (s : State) (r : Circuit) : LineCondition := s.farBy (fun n => (s.lanes.slots.get n).line.shown) r

/-- SEIZED or ANSWERED. -/
def conditionBusy : LineCondition → Bool
  | .seized | .answered => true
  | .idle | .blocked => false

/-- R16: busy when either input is SEIZED or ANSWERED; idle otherwise. -/
def State.busy (s : State) (c : CircuitNo) : Bool :=
  conditionBusy (s.switchCondition c) || conditionBusy (s.farCondition (s.circuit c))

/-- The bridge flag of a circuit's slot as recognised (R103); clear without a fibre attachment. -/
def State.flagPresent (s : State) (c : CircuitNo) : Bool :=
  match (s.circuit c).fibre with
  | some n => (s.lanes.slots.get n).flag.present
  | none => false

/-- Whether the span of a circuit's copper attachment is DOWN. -/
def State.spanDownOf (s : State) (r : Circuit) : Bool :=
  match r.copper with
  | some p => (s.span p.span).state == .down
  | none => false

/-- Whether the span of a circuit's copper attachment is UP. -/
def State.spanUpOf (s : State) (r : Circuit) : Bool :=
  match r.copper with
  | some p => (s.span p.span).state == .up
  | none => false

/-- The copper receive sample of a position in this site frame: the store's read while the span is UP, and otherwise
the idle code in force (R82, R86). -/
def State.copperSample (s : State) (p : CopperPosition) : Byte :=
  if (s.span p.span).state = .up then (s.span p.span).current.get p.timeslot else s.node.idleCode

/-- What the switch is given on a circuit's channel (R15, R18): the idle code and BLOCKED while conditioning is on, and
otherwise the sample and condition of the route selected at the frame. -/
def State.highwayOut (s : State) (c : CircuitNo) : ChannelOutput :=
  if (s.circuit c).conditioning then ⟨s.highway.idleCode, .blocked⟩ else s.highway.route.get c

end Sys2Proof.Machine
end

