-- ==== Sys2Proof/Machine/Ops.lean ====
section
/-! DEFINITION. The shared operations of the blocks: reports, peer messages, watches, the directory's lookups, matcher and
ring requests, occupancy, response timers. -/

namespace Sys2Proof.Machine

/-! ### Reports (R181) -/

/-- Hand a report to the report queue: at the tail with the LOST mark if the flag is set, or lost when 32 are queued. -/
def State.handReport (s : State) (body : ReportBody) : State :=
  if s.links.reports.length < Config.reportDepth then
    s.setLinks { s.links with reports := s.links.reports ++ [⟨s.fc, s.links.lostFlag, body⟩], lostFlag := false }
  else s.setLinks { s.links with lostFlag := true, reportsLost := raise s.links.reportsLost }

/-! ### Peer messages (R111, R125) -/

/-- Hand a message to the tail of the overhead transmit queue, or lose it when 128 are queued. -/
def State.queueMessage (s : State) (m : PeerMessage) : State :=
  if s.lanes.queue.length < Config.overheadDepth then s.setLanes { s.lanes with queue := s.lanes.queue ++ [m] }
  else s.setLanes { s.lanes with lost := raise s.lanes.lost }

/-- Hand a message for a circuit: it carries the code that the record holds in this step (R125). -/
def State.sendFor (s : State) (c : CircuitNo) (m : TrunkCode → PeerMessage) : State :=
  match (s.circuit c).code with
  | some code => s.queueMessage (m code)
  | none => s

/-- Send a DECLINE and raise the declines-sent count of its reason (R125). -/
def State.sendDecline (s : State) (code : TrunkCode) (number : Byte) (reason : DeclineReason) : State :=
  (s.setPeer { s.peer with declines := s.peer.declines.modify (declineCode reason) raise }).queueMessage
    (.decline code number reason)

/-! ### Response timers and proposal numbers (R126, R127) -/

def State.setResponse (s : State) (c : CircuitNo) (t : Option Countdown) : State :=
  s.setPeer { s.peer with response := s.peer.response.set c t }

def State.startResponse (s : State) (c : CircuitNo) : State := s.setResponse c (some (.load Config.responseFrames))

def State.stopResponse (s : State) (c : CircuitNo) : State := s.setResponse c none

/-- The counter after a number has been taken (R126). -/
def State.takeNumber (s : State) : State := s.setPeer { s.peer with counter := s.peer.counter + 1 }

/-! ### Watches (R166, R167, R168) -/

/-- Whether a circuit passes a watch's compare. -/
def Watch.passes (w : Watch) (c : CircuitNo) : Bool :=
  match w.compare with
  | .equal => c.val == w.value
  | .below => decide (c.val < w.value)
  | .atOrAbove => decide (w.value ≤ c.val)

/-- R166: whether a watch matches an event. -/
def Watch.eventMatch (w : Watch) (c : CircuitNo) (cls : EventClass) : Bool :=
  w.enable && w.classes.getLsbD (classBit cls) && w.passes c

/-- Which watches an event hits, under the combine mode (R166). -/
def WatchUnit.hits (u : WatchUnit) (c : CircuitNo) (cls : EventClass) : Bool × Bool :=
  let m0 := u.first.eventMatch c cls
  let m1 := u.second.eventMatch c cls
  if u.joint then (m0 && m1, m0 && m1) else (m0, m1)

/-- R167: record a hit. -/
def Watch.recordHit (w : Watch) (c : CircuitNo) (cls : EventClass) (fc : FrameCount) : Watch :=
  { w with hit := true, hits := if w.hits < 255 then w.hits + 1 else w.hits, lastHit := some ⟨c, cls, fc⟩ }

/-- Hand an event to the Watch Unit (R167): each watch hit records it, and one WATCH report is handed. -/
def State.watchEvent (s : State) (c : CircuitNo) (cls : EventClass) (outcome : Option OutcomeCode) : State :=
  let h := s.watches.hits c cls
  if h.1 || h.2 then
    let first := if h.1 then s.watches.first.recordHit c cls s.fc else s.watches.first
    let second := if h.2 then s.watches.second.recordHit c cls s.fc else s.watches.second
    (s.setWatches { s.watches with first := first, second := second }).handReport
      (.watch (if h.1 then some first.hits else none) (if h.2 then some second.hits else none) c cls outcome)
  else s

/-- R168: the answer to an ALIGNED event, from the settings in force: HOLD when a watch that hits has the hold action. -/
def State.watchHolds (s : State) (c : CircuitNo) : Bool :=
  let h := s.watches.hits c .aligned
  (h.1 && s.watches.first.action == .reportAndHold) || (h.2 && s.watches.second.action == .reportAndHold)

/-! ### Trunk Directory lookups (R141 to R144) -/

/-- The primary bucket of a code (R142). -/
def primaryBucket (code : TrunkCode) : Fin 128 := ⟨(code.route * 7 + code.member) % 128, Nat.mod_lt _ (by decide)⟩

/-- The secondary bucket: 127 less the primary (R142). -/
def secondaryBucket (code : TrunkCode) : Fin 128 := (primaryBucket code).rev

/-- R141: whether a range entry covers a code. -/
def RangeEntry.covers (e : RangeEntry) (code : TrunkCode) : Bool :=
  code.route == e.route && decide (e.member ≤ code.member) && decide (code.member < e.member + e.size)

/-- The circuit `n`, if there is one of that number. -/
def circuitOf (n : Nat) : Option CircuitNo := if h : n < 512 then some ⟨n, h⟩ else none

/-- The circuit that a range entry gives for a code it covers (R141). -/
def RangeEntry.circuitFor (e : RangeEntry) (code : TrunkCode) : Option CircuitNo :=
  circuitOf (e.base + (code.member - e.member))

/-- The first valid range entry, in index order, that covers a code. -/
def Directory.findRange (d : Directory) (code : TrunkCode) : Option (Fin 8 × RangeEntry) :=
  (List.finRange 8).findSome? fun i =>
    match d.ranges.get i with
    | some e => if e.covers code then some (i, e) else none
    | none => none

/-- The first way of a bucket, in way order, whose valid entry holds a code. -/
def Directory.findWay (d : Directory) (b : Fin 128) (code : TrunkCode) : Option (Fin 4 × TrunkEntry) :=
  (List.finRange 4).findSome? fun w =>
    match (d.trunks.get b).get w with
    | some e => if e.code = code then some (w, e) else none
    | none => none

/-- The trunk entry of a code: the primary bucket's ways, then the secondary's (R143). -/
def Directory.findTrunk (d : Directory) (code : TrunkCode) : Option (Fin 128 × Fin 4 × TrunkEntry) :=
  match d.findWay (primaryBucket code) code with
  | some (w, e) => some (primaryBucket code, w, e)
  | none =>
    match d.findWay (secondaryBucket code) code with
    | some (w, e) => some (secondaryBucket code, w, e)
    | none => none

/-- R143: resolve a code: the ranges, then the two buckets. -/
def Directory.lookup (d : Directory) (code : TrunkCode) : Option (CircuitNo × Found) :=
  match d.findRange code with
  | some (i, e) => (e.circuitFor code).map fun c => (c, .range i)
  | none =>
    match d.findTrunk code with
    | some (b, w, e) => some (e.circuit, .trunk b w e.pinned)
    | none => none

def missFields (code : TrunkCode) : MissFields := ⟨code, (primaryBucket code).val, (secondaryBucket code).val⟩

/-- R144: a miss writes the last-miss record and raises the miss count. -/
def State.recordMiss (s : State) (code : TrunkCode) (source : MissSource) (asked : Byte) : State :=
  s.setDirectory { s.directory with
    lastMiss := some ⟨code, source, asked, (primaryBucket code).val, (secondaryBucket code).val, s.fc⟩
    missCount := raise s.directory.missCount }

def portSource : Port → MissSource
  | .primary => .primary
  | .craft => .craft

/-- The directory is walking (section 7.1). -/
def Directory.busy (d : Directory) : Bool :=
  match d.walk with
  | .idle => false
  | .rangeCheck .. | .purge .. => true

/-- Write or clear the trunk-code field of a circuit, in the step that writes or removes its entry (R145). -/
def State.setCode (s : State) (c : CircuitNo) (code : Option TrunkCode) : State :=
  s.putCircuit c { s.circuit c with code := code }

def Directory.setTrunk (d : Directory) (b : Fin 128) (w : Fin 4) (e : Option TrunkEntry) : Directory :=
  { d with trunks := d.trunks.set b ((d.trunks.get b).set w e) }

/-- Remove a trunk entry: its way becomes free and its circuit's code is cleared, in one step (R149, R153). -/
def State.removeTrunkAt (s : State) (b : Fin 128) (w : Fin 4) (e : TrunkEntry) : State :=
  (s.setDirectory (s.directory.setTrunk b w none)).setCode e.circuit none

/-! ### Attachments and occupancy (R6, R9) -/

/-- Empty or fill the occupancy entry of a copper position that may be absent. -/
def State.markCopper (s : State) (p : Option CopperPosition) (c : Option CircuitNo) : State :=
  match p with
  | some p => s.setTimeslotOwner p c
  | none => s

/-- Empty or fill the occupancy entry of a slot that may be absent. -/
def State.markFibre (s : State) (n : Option SlotNo) (c : Option CircuitNo) : State :=
  match n with
  | some n => s.setSlotOwner n c
  | none => s

/-- R55: fill a circuit's fibre delay ring with the idle code in force. -/
def State.fillRing (s : State) (c : CircuitNo) : State :=
  s.setAlign { s.align with rings := s.align.rings.set c (.fill s.node.idleCode) }

/-- The number of a span's 31 occupancy entries that name a circuit. -/
def State.occupiedEntries (s : State) (n : SpanNo) : Nat := ((s.timeslots.get n).data.filter Option.isSome).length

def State.attachments (s : State) (c : CircuitNo) : AttachmentView :=
  ⟨(s.circuit c).copper, (s.circuit c).fibre, (s.circuit c).state⟩

/-! ### Path Alignment Unit requests (R57, R59, R61, R67) -/

/-- Add a circuit at the tail of the matcher queue (R57). -/
def State.joinQueue (s : State) (c : CircuitNo) (kind : SearchKind) : State :=
  s.setAlign { s.align with queue := s.align.queue ++ [⟨c, kind⟩] }

/-- A unit given up: FREE, with no circuit, candidates or outcome; the history ring is kept (R60, R63, R67). No rule gives the
frame count that QUERY ALIGNMENT shows of a FREE unit; it becomes 0 (assumption 9). -/
def Matcher.freed (m : Matcher) : Matcher := { m with state := .free, circuit := none, candidates := [], count := 0, outcome := none }

/-- R67: release a circuit's queue place and matcher unit; nothing when it has neither. -/
def State.releaseMatcher (s : State) (c : CircuitNo) : State :=
  s.setAlign { s.align with
    queue := s.align.queue.filter fun e => e.circuit ≠ c
    units := s.align.units.map fun m => if m.circuit = some c then m.freed else m }

/-- Every integer of a window, in order (R59). -/
def windowCandidates (wlo whi : Int) : List Int := (List.range (whi - wlo + 1).toNat).map fun i => wlo + (i : Int)

/-- R59: search kind and candidate set over a captured window. A CONFIRM takes the record's one value when the record is
VALID and its Δ lies within the window, and becomes FULL otherwise. -/
def candidateSet (kind : SearchKind) (wlo whi : Int) (record : DelayRecord) : SearchKind × List Int :=
  match kind, record.validDelta with
  | .confirm, some d => if wlo ≤ d ∧ d ≤ whi then (.confirm, [d]) else (.full, windowCandidates wlo whi)
  | .confirm, none => (.full, windowCandidates wlo whi)
  | .full, _ => (.full, windowCandidates wlo whi)

/-- R61: restart priming, with the candidate set rebuilt from the captured window and the record. -/
def Matcher.restart (m : Matcher) (kind : SearchKind) (record : DelayRecord) : Matcher :=
  let k := candidateSet kind m.wlo m.whi record
  { m with state := .priming, kind := k.1, candidates := k.2, count := 0, outcome := none }

/-- The span delay record that a unit's circuit reads. -/
def State.recordOf (s : State) (c : CircuitNo) : DelayRecord :=
  match (s.circuit c).copper with
  | some p => (s.span p.span).record
  | none => .invalid

/-! ### Counts of circuits -/

/-- The circuits then in PROPOSING through ALIGNED. -/
def State.migratingCircuits (s : State) : List CircuitNo := allCircuits.filter fun c => (s.circuit c).migrating

/-- The number of circuits in FIBRE (R105). -/
def State.fibreCount (s : State) : Nat := (allCircuits.filter fun c => (s.circuit c).state = .fibre).length

end Sys2Proof.Machine
end

