-- ==== Sys2Proof/Machine/Intake.lean ====
section
/-! DEFINITION. How a port takes a command and answers it (R178, R179): the head of its queue into its execution slot, the
port's own checks, the owning block's rule, and the reply. -/

namespace Sys2Proof.Machine

/-- What an owning block makes of a command: the state, and the reply's result and body, absent when a walk has begun and
the reply is built when it completes (R179). -/
abbrev Handled := State × Option (ResultCode × ReplyBody)

/-- A reply built in the step in which the command is taken. -/
def answered (s : State) (result : ResultCode) (body : ReplyBody) : Handled := (s, some (result, body))

/-- R178: the head command into the execution slot, in phase TAKEN. -/
def State.takeHead (s : State) (port : Port) (q : QueuedCommand) (rest : List QueuedCommand) : State :=
  s.setPort port { s.port port with input := rest, slot := some ⟨.taken, q.tag, q.type⟩ }

/-- R178: a reply for the command in the execution slot: into the reply output, and the slot to SENDING. -/
def State.reply (s : State) (port : Port) (result : ResultCode) (body : ReplyBody) : State :=
  match (s.port port).slot with
  | some e =>
    s.setPort port { s.port port with
      output := (s.port port).output ++ [.reply e.tag e.type result body], slot := some { e with phase := .sending } }
  | none => s

/-- R179: the slot holds the command while a walk of the directory runs for it. -/
def State.pend (s : State) (port : Port) : State :=
  match (s.port port).slot with
  | some e => s.setPort port { s.port port with slot := some { e with phase := .pending } }
  | none => s

/-- R178, check 2: a PROVISION command on the craft port. -/
def lacksAuthority (port : Port) (type : Byte) : Bool := port == .craft && commandClass type == some .provision

/-- R178: the port may take the head of its queue: start-up has ended and the slot is empty. -/
def State.mayTake (s : State) (port : Port) : Bool := s.running && (s.port port).slot.isNone

/-- A handled command's state, with its reply or its walk in the slot. -/
def Handled.finish (port : Port) (h : Handled) : State :=
  match h.2 with
  | some r => h.1.reply port r.1 r.2
  | none => h.1.pend port

/-- R178: a host command. The row is the taking of the queue's head that spells it; where the port cannot take it, nothing
happens (assumption 2). -/
def runCommand (c : Instr) (port : Port) (rule : State → Handled) (s : State) : Answer :=
  match (s.port port).input with
  | q :: rest =>
    if s.mayTake port ∧ parseCommand port q = some c then
      if lacksAuthority port q.type then .next ((s.takeHead port q rest).reply port .authority .empty)
      else .next ((rule (s.takeHead port q rest)).finish port)
    else .next s
  | [] => .next s

/-- R178: the result of a head that spells no command. -/
def portRefusal (port : Port) (type : Byte) : ResultCode :=
  if commandClass type = none then .unknownType else if lacksAuthority port type then .authority else .format

/-- R178: a head that spells no command is refused by the port in the step in which the port comes to it. -/
def State.takeRefused (s : State) (port : Port) : State :=
  match (s.port port).input with
  | q :: rest =>
    if s.mayTake port ∧ parseCommand port q = none then
      (s.takeHead port q rest).reply port (portRefusal port q.type) .empty
    else s
  | [] => s

end Sys2Proof.Machine
end

