-- ==== Sys2Proof/Machine/Operands.lean ====
section
/-! DEFINITION. Operands of the host commands (R183, R186): identifiers in their ranges, and circuit selectors (R25). -/

namespace Sys2Proof.Machine

/-- R183: a trunk code in its ranges. -/
def codeValid (c : TrunkCode) : Bool := decide (c.route < 4096) && decide (c.member < 256)

/-- A span number in its range. -/
def spanOf (n : Nat) : Option SpanNo := if h : n < 16 then some ⟨n, h⟩ else none

/-- A slot number in its range. -/
def slotOf (n : Nat) : Option SlotNo := if h : n < 512 then some ⟨n, h⟩ else none

/-- A bearer timeslot 1 to 31. -/
def timeslotOf (n : Nat) : Option TimeslotNo := if h : n - 1 < 31 ∧ 1 ≤ n then some ⟨n - 1, h.1⟩ else none

/-- A batch id in its range. -/
def batchOf (n : Nat) : Option (Fin 8) := if h : n < 8 then some ⟨n, h⟩ else none

/-- What a circuit selector resolves to: the circuit, or the refusal. -/
inductive Resolved where
  | circuit (c : CircuitNo)
  | refused (result : ResultCode) (body : ReplyBody)
  | missed (code : TrunkCode)

/-- R25, checks 1 to 3: a selector against the directory. -/
def State.resolve (s : State) : Selector → Resolved
  | .number n =>
    match circuitOf n with
    | some c => .circuit c
    | none => .refused .range .empty
  | .code code =>
    if codeValid code = false then .refused .range .empty
    else if s.directory.busy then .refused .busy .empty
    else match s.directory.lookup code with
      | some (c, _) => .circuit c
      | none => .missed code

/-- A command that names its circuit by a selector: its rule for the circuit, or the refusal; a miss is recorded with the
port and the command's type (R144) and its reply carries the miss fields. -/
def State.withSelector (s : State) (port : Port) (type : Byte) (sel : Selector) (rule : CircuitNo → Handled) : Handled :=
  match s.resolve sel with
  | .circuit c => rule c
  | .refused result body => answered s result body
  | .missed code => answered (s.recordMiss code (portSource port) type) .notFound (.missed (missFields code))

end Sys2Proof.Machine
end

