-- ==== Sys2Proof/Machine/Outcomes.lean ====
section
/-! DEFINITION. The start of a migration (R24, R25), the Batch Unit's steps (R157 to R163), and the writing of an outcome
with its three handings (R19). -/

namespace Sys2Proof.Machine

/-! ### Starting a migration -/

/-- R24: a new migration context with the captured retry limit and bridge limit; every other field is clear or absent,
and a timer never loaded stands at 0. -/
def newContext (node : NodeParams) (role : Role) (number : Byte) : Context :=
  { role := role, number := number, attempts := node.retryLimit, retryLimit := node.retryLimit, bridgeLimit := .load 0,
    bridgeCaptured := node.bridgeLimit, backoff := none, sub := none, delta := none, deferred := false, held := false,
    target := none, deferLimit := .load 0, peerSpliced := false, hold := none }

/-- R25, checks 4 to 7: the refusal of a MIGRATE for a circuit, if any. -/
def State.migrateRefusal (s : State) (c : CircuitNo) : Option ResultCode :=
  let r := s.circuit c
  if r.state ≠ .copper ∨ r.fibre = none then some .state
  else if r.code = none then some .noCode
  else if r.inhibit then some .inhibited
  else if s.peer.state ≠ .up then some .peerDown
  else none

/-- PROPOSE for a circuit: its code, its slot and its context's number (R25, R28); the response timer starts. -/
def State.sendPropose (s : State) (c : CircuitNo) (number : Byte) : State :=
  match (s.circuit c).fibre with
  | some slot => (s.sendFor c fun code => .propose code slot number).startResponse c
  | none => s

/-- R25: the step that a MIGRATE takes when its checks pass. -/
def State.startMigration (s : State) (c : CircuitNo) : State :=
  let r := s.circuit c
  let number := s.peer.counter
  let s := s.takeNumber
  let s := s.putCircuit c { r with state := .proposing, buildOut := 0, context := some (newContext s.node .initiator number) }
  (s.sendPropose c number).watchEvent c .migrateStart none

/-! ### Batches -/

def Batch.count (b : Batch) (status : MemberStatus) : Nat := (b.members.filter fun m => m.status = status).length

/-- R157: a member's change of status, with remaining set to the members then PENDING or ACTIVE. -/
def Batch.setMember (b : Batch) (i : Nat) (m : Member) : Batch :=
  let members := b.members.set i m
  { b with
    members := members
    remaining := (members.filter fun m => m.status = .pending ∨ m.status = .active).length }

def Batch.summary (b : Batch) : BatchSummary :=
  ⟨b.members.length, b.count .done, b.count .failed, b.count .cancelled, b.count .active⟩

/-- The FAILED members in list order, with their list indexes (R162). -/
def Batch.failedMembers (b : Batch) : List FailedMember :=
  b.members.zipIdx.filterMap fun (m, i) => if m.status = .failed then some ⟨i, m.circuit, m.reason⟩ else none

/-- R162: the closing step: the BATCH report, the memberships cleared, the record closed. -/
def State.closeBatch (s : State) (id : Fin 8) (cause : BatchCause) : State :=
  match s.batch id with
  | some b =>
    let s := s.handReport (.batch id b.mode cause b.summary b.failedMembers)
    let s := b.members.foldl (fun s m => s.putCircuit m.circuit { s.circuit m.circuit with batch := none }) s
    s.setBatch id none
  | none => s

/-- A start step's progress: the state, and the members started and failed so far. -/
structure StartProgress where
  state : State
  started : Nat
  failed : Nat

/-- R159: one member in a start step: started while fewer members are ACTIVE than the limit, if it is PENDING. -/
def startMember (id : Fin 8) (p : StartProgress) (i : Nat) : StartProgress :=
  match p.state.batch id with
  | some b =>
    match b.members[i]? with
    | some m =>
      if b.count .active < b.limit ∧ m.status = .pending then
        match p.state.migrateRefusal m.circuit with
        | none => ⟨(p.state.startMigration m.circuit).setBatch id (some (b.setMember i { m with status := .active })), p.started + 1, p.failed⟩
        | some result =>
          ⟨p.state.setBatch id (some (b.setMember i { m with status := .failed, reason := some (.refused result) })), p.started, p.failed + 1⟩
      else p
    | none => p
  | none => p

/-- R159: a start step, PENDING members in list order; a batch left with nothing remaining closes. -/
def State.startStep (s : State) (id : Fin 8) : StartProgress :=
  match s.batch id with
  | some b =>
    let p := (List.range b.members.length).foldl (startMember id) ⟨s, 0, 0⟩
    match p.state.batch id with
    | some b => if b.remaining = 0 then { p with state := p.state.closeBatch id .completed } else p
    | none => p
  | none => ⟨s, 0, 0⟩

/-- R160: what an outcome does to a member, if anything: its new status and reason. -/
def memberAfter (m : Member) (o : OutcomeRecord) : Option Member :=
  match m.status, o.code with
  | .active, .spliced | .active, .splicedIdle | .active, .rescued => some { m with status := .done }
  | .pending, .spliced | .pending, .splicedIdle | .pending, .rescued => some { m with status := .done }
  | .active, .abandoned => some { m with status := .failed, reason := some (.outcome o.reason o.decline) }
  | _, _ => none

/-- R160: the Batch Unit takes an outcome of a circuit that carries a membership. -/
def State.batchOutcome (s : State) (c : CircuitNo) (o : OutcomeRecord) : State :=
  match (s.circuit c).batch with
  | some id =>
    match s.batch id with
    | some b =>
      match b.members.findIdx? fun m => m.circuit = c with
      | some i =>
        match b.members[i]?.bind fun m => memberAfter m o with
        | some m => ((s.setBatch id (some (b.setMember i m))).startStep id).state
        | none => s
      | none => s
    | none => s
  | none => s

/-! ### Outcomes (R19) -/

/-- The event class of an outcome; COLLAPSED and ACTIVATED belong to none (section 8.4). -/
def outcomeClass : OutcomeCode → Option EventClass
  | .spliced | .splicedIdle | .rescued => some .splice
  | .reverted => some .revert
  | .abandoned => some .abandon
  | .released => some .release
  | .collapsed | .activated => none

/-- R19: the Watch Unit takes an outcome and classes it. -/
def State.watchOutcome (s : State) (c : CircuitNo) (code : OutcomeCode) : State :=
  match outcomeClass code with
  | some cls => s.watchEvent c cls (some code)
  | none => s

/-- R19: a CIRCUIT report when notify is on. -/
def State.reportOutcome (s : State) (c : CircuitNo) (o : OutcomeRecord) : State :=
  if (s.circuit c).notify then s.handReport (.circuit c (s.circuit c).code o) else s

/-- How many of the three handings of an outcome can hand a report. -/
def State.outcomeParties (s : State) (c : CircuitNo) (code : OutcomeCode) : Nat :=
  let watched := match outcomeClass code with
    | some cls => (s.watches.hits c cls).1 || (s.watches.hits c cls).2
    | none => false
  (if (s.circuit c).batch.isSome then 1 else 0) + (if watched then 1 else 0) + (if (s.circuit c).notify then 1 else 0)

/-- R19, R161: hand an outcome to the Batch Unit, the Watch Unit and the report queue. Where two or more of them can hand
a report the reports may come in any order, so the order is a free value (assumption 11). -/
def State.handOutcome (s : State) (c : CircuitNo) (o : OutcomeRecord) : State :=
  if s.outcomeParties c o.code ≤ 1 then ((s.batchOutcome c o).watchOutcome c o.code).reportOutcome c o
  else
    let t := s.drawn
    match Config.outcomeOrder s.freeCount % 6 with
    | 0 => ((t.batchOutcome c o).watchOutcome c o.code).reportOutcome c o
    | 1 => ((t.batchOutcome c o).reportOutcome c o).watchOutcome c o.code
    | 2 => ((t.watchOutcome c o.code).batchOutcome c o).reportOutcome c o
    | 3 => ((t.watchOutcome c o.code).reportOutcome c o).batchOutcome c o
    | 4 => ((t.reportOutcome c o).batchOutcome c o).watchOutcome c o.code
    | _ => ((t.reportOutcome c o).watchOutcome c o.code).batchOutcome c o

/-- R19: write a whole new outcome record, set the changed flag and hand the outcome on. -/
def State.writeOutcome (s : State) (c : CircuitNo) (o : OutcomeRecord) : State :=
  (s.putCircuit c { s.circuit c with outcome := some o, changed := true }).handOutcome c o

end Sys2Proof.Machine
end

