-- ==== Sys2Proof/Machine/Batches.lean ====
section
/-! DEFINITION. The rows of the Batch Unit and the Watch Unit (chapter 8). -/

namespace Sys2Proof.Machine

/-! ### OPEN BATCH (R158, R159) -/

/-- R158, check 1: an entry outside its ranges. -/
def entryOutOfRange : Selector → Bool
  | .number n => (circuitOf n).isNone
  | .code code => !codeValid code

/-- Whether an entry is given by trunk code. -/
def entryByCode : Selector → Bool
  | .number _ => false
  | .code _ => true

/-- R158, check 5: what an entry resolves to: a circuit, or the code that misses. -/
def State.resolveEntry (s : State) : Selector → Option CircuitNo
  | .number n => circuitOf n
  | .code code => (s.directory.lookup code).map Prod.fst

/-- R158: the refusal of an entry that does not resolve: the miss is recorded. -/
def State.entryMiss (s : State) (port : Port) (i : Nat) : Selector → Handled
  | .number _ => answered s .range (.entry i)
  | .code code => answered (s.recordMiss code (portSource port) 0x80) .notFound (.entryMissed i (missFields code))

/-- R158, check 5: the entries one by one, `done` being what the earlier ones resolved to. -/
def State.examineEntries (s : State) (port : Port) (done : List CircuitNo) : List Selector → Except Handled (List CircuitNo)
  | [] => .ok done
  | e :: rest =>
    match s.resolveEntry e with
    | none => .error (s.entryMiss port done.length e)
    | some c =>
      match done.findIdx? fun d => d = c with
      | some earlier => .error (answered s .duplicate (.entryDuplicate done.length earlier))
      | none =>
        if (s.circuit c).state ≠ .copper then .error (answered s .state (.entryState done.length (s.circuit c).state))
        else match (s.circuit c).batch with
          | some id => .error (answered s .conflict (.entryBatch done.length id))
          | none => s.examineEntries port (done ++ [c]) rest

/-- R158: the effective parallel limit. -/
def effectiveLimit (mode : BatchMode) (limit : Nat) : Nat :=
  match mode with
  | .serial => 1
  | .parallel => if limit < 1 then 1 else if 16 < limit then 16 else limit

/-- R159: the record as it opens. -/
def openedBatch (port : Port) (tag : Byte) (mode : BatchMode) (limit : Nat) (circuits : List CircuitNo) (fc : FrameCount) : Batch :=
  { mode := mode, limit := effectiveLimit mode limit, members := circuits.map fun c => ⟨c, .pending, none⟩,
    remaining := circuits.length, port := port, tag := tag, opened := fc }

/-- R159: the opening step, with its start step. -/
def State.openBatch (s : State) (id : Fin 8) (b : Batch) : StartProgress :=
  let s := s.setBatch id (some b)
  let s := b.members.foldl (fun s m => s.putCircuit m.circuit { s.circuit m.circuit with batch := some id }) s
  s.startStep id

/-- R158, R159. DESIGN CHOICE (assumption 59): a batch id out of range is refused first, so the RANGE reply carries no index where an
entry is out of range too. -/
def ruleOpenBatch (port : Port) (tag : Byte) (batch mode limit : Nat) (entries : List Selector) (s : State) : Handled :=
  match batchOf batch with
  | none => answered s .range .empty
  | some id =>
    match entries.findIdx? entryOutOfRange with
    | some i => answered s .range (.entry i)
    | none =>
      match batchModeOfCode mode with
      | none => answered s .format .empty
      | some m =>
        if entries.length = 0 ∨ 64 < entries.length then answered s .format .empty
        else if (s.batch id).isSome then answered s .busy .empty
        else match (if s.directory.busy then entries.findIdx? entryByCode else none) with
          | some i => answered s .busy (.entry i)
          | none =>
            match s.examineEntries port [] entries with
            | .error h => h
            | .ok circuits =>
              let b := openedBatch port tag m limit circuits s.fc
              let p := s.openBatch id b
              answered p.state .ok (.batchOpened id m b.limit p.started p.failed)

/-- OPEN BATCH (R158). -/
def execOpenBatch (port : Port) (tag : Byte) (batch mode limit : Nat) (entries : List Selector) (s : State) : Answer :=
  runCommand (.openBatch port tag batch mode limit entries) port (ruleOpenBatch port tag batch mode limit entries) s

/-! ### CANCEL BATCH and BATCH STATUS (R163, R164) -/

/-- R163: every PENDING member becomes CANCELLED. -/
def Batch.cancelled (b : Batch) : Batch :=
  { b with
    members := b.members.map fun m => if m.status = .pending then { m with status := .cancelled } else m
    remaining := b.count .active }

/-- R163. -/
def ruleCancelBatch (batch : Nat) (s : State) : Handled :=
  match batchOf batch with
  | none => answered s .range .empty
  | some id =>
    match s.batch id with
    | some b => answered ((s.setBatch id (some b.cancelled)).closeBatch id .cancelled) .ok (.batchCancelled b.cancelled.summary)
    | none => answered s .state .empty

/-- CANCEL BATCH (R163). -/
def execCancelBatch (port : Port) (tag : Byte) (batch : Nat) (s : State) : Answer :=
  runCommand (.cancelBatch port tag batch) port (ruleCancelBatch batch) s

/-- R164: the count of each status. -/
def Batch.statusCounts (b : Batch) : StatusCounts :=
  ⟨b.count .pending, b.count .active, b.count .done, b.count .failed, b.count .cancelled⟩

/-- R164. -/
def ruleBatchStatus (batch : Nat) (s : State) : Handled :=
  match batchOf batch with
  | none => answered s .range .empty
  | some id => answered s .ok (.batchStatus ((s.batch id).map fun b => (b, b.statusCounts)))

/-- BATCH STATUS (R164). -/
def execBatchStatus (port : Port) (tag : Byte) (batch : Nat) (s : State) : Answer :=
  runCommand (.batchStatus port tag batch) port (ruleBatchStatus batch) s

/-! ### SET WATCH and WATCH STATUS (R169, R170) -/

/-- R169: a SET WATCH that names no field. -/
def noWatchSettings (p : WatchSettings) : Bool :=
  p.enable.isNone && p.value.isNone && p.compare.isNone && p.classes.isNone && p.action.isNone && p.combine.isNone

/-- An enumeration byte that names no value of its list. -/
def badCode {α : Type} (read : Nat → Option α) : Option Nat → Bool
  | some n => (read n).isNone
  | none => false

/-- R169, check 2. -/
def badWatch (watch : Nat) (p : WatchSettings) : Bool :=
  noWatchSettings p || badCode compareOfCode p.compare || badCode actionOfCode p.action || badCode combineOfCode p.combine ||
    (watch == 1 && p.combine.isSome)

/-- R169: the named fields written; the hits are kept. -/
def Watch.apply (w : Watch) (p : WatchSettings) : Watch :=
  { w with
    enable := p.enable.getD w.enable
    value := p.value.getD w.value
    compare := (p.compare.bind compareOfCode).getD w.compare
    classes := p.classes.getD w.classes
    action := (p.action.bind actionOfCode).getD w.action }

/-- R169: the unit after a SET WATCH on watch 0 or watch 1. -/
def WatchUnit.apply (u : WatchUnit) (watch : Nat) (p : WatchSettings) : WatchUnit :=
  if watch = 0 then { u with first := u.first.apply p, joint := (p.combine.bind combineOfCode).getD u.joint }
  else { u with second := u.second.apply p }

/-- R169: both watches' settings, as the reply of SET WATCH carries them. -/
def WatchUnit.settingsReply (u : WatchUnit) : ReplyBody := .watchSettings u.first.view u.second.view u.joint

/-- R169. -/
def ruleSetWatch (watch : Nat) (p : WatchSettings) (s : State) : Handled :=
  if 2 ≤ watch ∨ 512 ≤ p.value.getD 0 then answered s .range .empty
  else if badWatch watch p then answered s .format .empty
  else answered (s.setWatches (s.watches.apply watch p)) .ok (s.watches.apply watch p).settingsReply

/-- SET WATCH (R169). -/
def execSetWatch (port : Port) (tag : Byte) (watch : Nat) (settings : WatchSettings) (s : State) : Answer :=
  runCommand (.setWatch port tag watch settings) port (ruleSetWatch watch settings) s

/-- R170: a watch without its hits. -/
def Watch.cleared (w : Watch) : Watch := { w with hit := false, hits := 0, lastHit := none }

/-- R170, R188: the clearing byte: watch 0 in its lowest bit, watch 1 in the next. -/
def WatchUnit.cleared (u : WatchUnit) (clear : Nat) : WatchUnit :=
  { u with
    first := if clear % 2 = 1 then u.first.cleared else u.first
    second := if 2 ≤ clear then u.second.cleared else u.second }

/-- R170. -/
def ruleWatchStatus (clear : Nat) (s : State) : Handled :=
  if 4 ≤ clear then answered s .range .empty
  else answered (s.setWatches (s.watches.cleared clear)) .ok (.watches s.watches)

/-- WATCH STATUS (R170). -/
def execWatchStatus (port : Port) (tag : Byte) (clear : Nat) (s : State) : Answer :=
  runCommand (.watchStatus port tag clear) port (ruleWatchStatus clear) s

end Sys2Proof.Machine
end

