-- ==== Sys2Proof/Machine/SpanUnit.lean ====
section
/-! DEFINITION. One span unit: the elastic store (R86), the adjustment of the delay record (R88), the hunt (R78, R79),
settings (R93), and retirement (R90, R91). -/

namespace Sys2Proof.Machine

/-! ### The delay record (R88) -/

/-- What a slip adds to a delay: a deletion raises Δ by one, a repetition lowers it by one (R69, R88). -/
def slipDelta : SlipKind → Int
  | .deletion => 1
  | .repetition => -1

/-- R88: a slip on a record; a Δ that leaves the range makes the record INVALID. -/
def DelayRecord.slip (r : DelayRecord) (kind : SlipKind) : DelayRecord :=
  match r with
  | .invalid => .invalid
  | .valid m => if inDeltaRange (m.delta + slipDelta kind) then .valid { m with delta := m.delta + slipDelta kind } else .invalid
  | .stale m => if inDeltaRange (m.delta + slipDelta kind) then .stale { m with delta := m.delta + slipDelta kind } else .invalid

/-- VALID becomes STALE; Δ, source and stamp are kept (R88, R89). -/
def DelayRecord.staled : DelayRecord → DelayRecord
  | .valid m => .stale m
  | .stale m => .stale m
  | .invalid => .invalid

/-- R88: a MATCH reaches the record of a span that is UP, and of no other. -/
def Span.matched (u : Span) (m : DelayMeasure) : Span := if u.state = .up then { u with record := .valid m } else u

/-! ### The elastic store (R86) -/

/-- The depth of the elastic store. -/
def storeDepth : Nat := 4

/-- R86: a received frame into the store of an UP span; a write that finds 4 unread frames discards the oldest. The
second component says that the write slips. -/
def Span.write (u : Span) (frame : SpanSamples) : Span × Bool :=
  if u.store.length < storeDepth then ({ u with store := u.store ++ [frame] }, false)
  else ({ u with store := u.store.drop 1 ++ [frame] }, true)

/-- R86: the read of one site frame from the store of an UP span. With no unread frame the last one is given again, or
the idle code when there is none, and the read slips. -/
def Span.read (u : Span) (idle : Byte) : Span × Bool :=
  match u.store with
  | frame :: rest => ({ u with store := rest, last := some frame, current := frame }, false)
  | [] => ({ u with current := u.last.getD (.fill idle) }, true)

/-- Count a slip of either kind (R87, step 1). -/
def Span.countSlip (u : Span) (kind : SlipKind) : Span :=
  match kind with
  | .deletion => { u with deletions := raise u.deletions }
  | .repetition => { u with repetitions := raise u.repetitions }

/-! ### The hunt (R78, R79) -/

/-- DOWN in SEARCH with no candidates and a bad-word count of 0 (R79, R82, R92). -/
def Span.hunt (u : Span) : Span :=
  { u with state := .down, phase := some .search, search := .reset, marker := none, upDue := false, nextEven := true,
           badWords := 0, badDue := false }

/-- The value of the last eight bits of a window, oldest first; absent while fewer have come. -/
def lastWord (window : List Bool) : Option Byte := if window.length = 8 then some (byteOfBits window) else none

/-- The start of the eight bits that end at index `i`, modulo 512. -/
def wordStart (i : Nat) : Nat := (i + 505) % 512

/-- R78: one received bit in SEARCH. With no candidate, eight bits that equal the word make one. With a candidate only
the check 512 bits on is made: a match raises the count, to frame alignment found at 3; a failure removes the candidate,
and the search resumes with the bits that follow (assumption 21). -/
def WordSearch.bit (w : WordSearch) (b : Bool) : WordSearch :=
  let window := (w.window ++ [b]).drop (w.window.length + 1 - 8)
  let i := w.next
  let w := { w with window := window, next := (i + 1) % 512 }
  match w.candidate with
  | none =>
    if lastWord window = some spanWord then { w with candidate := some ⟨wordStart i, 1, 512⟩ } else w
  | some c =>
    if c.wait ≤ 1 then
      if lastWord window = some spanWord then
        if c.count + 1 < 3 then { w with candidate := some ⟨c.position, c.count + 1, 512⟩ }
        else { w with found := true }
      else { w with candidate := none }
    else { w with candidate := some { c with wait := c.wait - 1 } }

/-- The bits of a span frame, in order: timeslot 0 first, each most significant bit first (R190). -/
def frameBits (f : SpanFrame) : List Bool := (f.data.map byteBits).flatten

/-- R78: the bits of one frame time in SEARCH; nothing more is examined once alignment is found. -/
def WordSearch.feed (w : WordSearch) (bits : List Bool) : WordSearch :=
  bits.foldl (fun w b => if w.found then w else w.bit b) w

/-- The samples of timeslots 1 to 31 of a span frame. -/
def spanSamples (f : SpanFrame) : SpanSamples := .ofFn fun i => f.get i.succ

/-- The timeslot 0 of a span frame. -/
def slotZero (f : SpanFrame) : Byte := f.get 0

/-- R79, R81: one even frame's word: a good word clears the count; the fourth bad one in a row marks the loss due, and is
taken by the row of that loss (assumption 1). -/
def Span.checkWord (u : Span) (f : SpanFrame) : Span :=
  if slotZero f = spanWord then { u with badWords := 0, badDue := false }
  else if u.badWords + 1 < 4 then { u with badWords := u.badWords + 1 }
  else { u with badDue := true }

/-- R79: one odd frame in MULTIFRAME: the marker candidate is taken, checked sixteen frames on, or dropped. -/
def Span.checkMarker (u : Span) (f : SpanFrame) : Span :=
  match u.marker with
  | none => { u with marker := (readMarker (slotZero f)).map fun m => ⟨m, 16⟩ }
  | some c =>
    if c.wait = 0 then
      if readMarker (slotZero f) = some (otherMarker c.marker) then { u with upDue := true }
      else { u with marker := none }
    else u

/-- The wait of a marker candidate runs by one with every frame received. -/
def Span.waitMarker (u : Span) : Span :=
  match u.marker with
  | some c => { u with marker := some { c with wait := c.wait - 1 } }
  | none => u

/-! ### Line conditions (R83, R84) -/

/-- R83: what one frame of the receive multiframe adds: frame 1 checks the marker and gives three codes, each later odd
frame gives four. -/
def Multiframe.take (m : Multiframe) (f : SpanFrame) : Multiframe :=
  if m.next = 1 then
    if readMarker (slotZero f) = some m.expect then { m with codes := some (firstCodes (slotZero f)) } else { m with codes := none }
  else if m.next % 2 = 1 then { m with codes := m.codes.map fun l => l ++ fourCodes (slotZero f) }
  else m

/-- The number and the expected marker after a frame: numbers run 0 to 15, and the marker alternates (R79, R83). -/
def Multiframe.advance (m : Multiframe) : Multiframe :=
  if m.next = 15 then ⟨0, otherMarker m.expect, none⟩ else { m with next := m.next + 1 }

/-- R84: one timeslot's code at a multiframe end: the recognised condition and the candidate after it. -/
def copperTake (recognised : LineCondition) (candidate : Option LineCondition) (code : LineCondition) :
    LineCondition × Option LineCondition :=
  if code = recognised then (recognised, none)
  else if candidate = some code then (code, none)
  else (recognised, some code)

/-! ### Settings (R93) -/

/-- The value nearest to `z` in `lo..hi`. -/
def clampInt (lo hi z : Int) : Int := if z < lo then lo else if hi < z then hi else z

/-- The value nearest to `n` in `lo..hi`. -/
def clampNat (lo hi n : Nat) : Nat := if n < lo then lo else if hi < n then hi else n

/-- R93, step 1: the pair as given or in force; absent when Wlo would exceed Whi. -/
def windowPair (u : Span) (p : SpanSettings) : Option (Int × Int) :=
  if p.whi.getD u.whi < p.wlo.getD u.wlo then none else some (p.wlo.getD u.wlo, p.whi.getD u.whi)

/-- R93: apply the settings given. -/
def Span.applySettings (u : Span) (p : SpanSettings) : Span :=
  let pair := match windowPair u p with
    | some w => (if p.wlo.isSome then clampInt (-127) 0 w.1 else u.wlo, if p.whi.isSome then clampInt 0 127 w.2 else u.whi)
    | none => (u.wlo, u.whi)
  { u with
    wlo := pair.1
    whi := pair.2
    tolerance := match p.tolerance with | some t => clampNat 0 8 t | none => u.tolerance
    slipReports := p.slipReports.getD u.slipReports
    autoRetire := p.autoRetire.getD u.autoRetire }

/-! ### Retirement (R90, R91) -/

/-- R90: a span unit retired: no hunt, an empty store, every condition BLOCKED, the record INVALID. -/
def Span.retired (u : Span) : Span :=
  { u with state := .retired, phase := none, search := .reset, marker := none, upDue := false, nextEven := true,
           badWords := 0, badDue := false, store := [], last := none, recent := [], conditions := .fill .blocked,
           candidates := .fill none, record := .invalid }

/-- R90: retire a span and report it. -/
def State.retireSpan (s : State) (n : SpanNo) : State :=
  ((s.setSpan n (s.span n).retired).evaluateAll).handReport (.span n .retired)

/-- R91: what a fallback release does to the span of the freed timeslot. -/
def State.autoRetire (s : State) (n : SpanNo) : State :=
  if (s.span n).autoRetire ∧ s.occupiedEntries n = 0 ∧ (s.span n).state ≠ .retired then s.retireSpan n else s

end Sys2Proof.Machine
end

