-- ==== Sys2Proof/Machine/Migration.lean ====
section
/-! DEFINITION. The transitions of a circuit that more than one row shares: measuring (R32, R33), aligning (R35, R36),
splicing (R40, R48, R191), abandoning (R42), releasing (R45, R46), reverting (R49), rescue (R52), loss of fibre (R53). -/

namespace Sys2Proof.Machine

/-- Write the context of a circuit that has one. -/
def State.putContext (s : State) (c : CircuitNo) (x : Context) : State :=
  s.putCircuit c { s.circuit c with context := some x }

/-! ### J with its sense (R40, R48, R73, R74) -/

/-- J of a given value; the sense beside 0 is a free value (assumption 10). -/
def State.offset (s : State) (value : Int) (skipped : Bool) : State × SampleOffset :=
  if value = 0 then (s.drawn, ⟨0, Config.zeroJSkipped s.freeCount⟩) else (s, ⟨value, skipped⟩)

/-- R40: J of a splice with a measured Δ: +Δ REPEATED above zero, and 0 otherwise. -/
def State.spliceOffset (s : State) (delta : Int) : State × SampleOffset := s.offset (max delta 0) false

/-- R74: J of a revert; absent without a measured Δ. -/
def State.revertOffset (s : State) (r : Circuit) : State × Option SampleOffset :=
  match r.delta with
  | some d => ((s.offset (d + r.buildOut) (decide (0 < d + r.buildOut))).1,
      some (s.offset (d + r.buildOut) (decide (0 < d + r.buildOut))).2)
  | none => (s, none)

/-! ### Release and collapse -/

/-- The record of R42, R46 and R49's circuit back in COPPER: B = 0 (R3) and no context (R4). -/
def Circuit.backToCopper (r : Circuit) (transmit : FibreTransmit) : Circuit :=
  { r with state := .copper, buildOut := 0, fibreTransmit := transmit, context := none }

/-- R46: the release of a fallback. -/
def State.releaseFallback (s : State) (c : CircuitNo) (reason : Reason) : State :=
  let r := s.circuit c
  let s := s.markCopper r.copper none
  let s := s.putCircuit c { r with copper := none, copperTransmit := false, context := none }
  let s := s.writeOutcome c ⟨.released, some reason, none, r.delta, r.buildOut, none, r.attemptsUsed, s.fc⟩
  let s := if reason = .peerReleased then s else s.sendFor c .release
  match r.copper with
  | some p => s.autoRetire p.span
  | none => s

/-- R45: whether the release test passes: the hold has expired, peer-spliced is set and auto-release is on. -/
def Circuit.releaseDue (r : Circuit) : Bool :=
  match r.state, r.context with
  | .fibre, some x => r.autoRelease && x.peerSpliced && (x.hold.map Countdown.left == some 0)
  | _, _ => false

/-- R45: the release test. -/
def State.releaseTest (s : State) (c : CircuitNo) : State :=
  if (s.circuit c).releaseDue then s.releaseFallback c .holdExpired else s

/-- R48: the collapse test: an idle FIBRE circuit with B > 0 gives its build-out up. -/
def State.collapseTest (s : State) (c : CircuitNo) : State :=
  let r := s.circuit c
  if r.state = .fibre ∧ 0 < r.buildOut ∧ s.busy c = false then
    (s.putCircuit c { r with buildOut := 0 }).writeOutcome c
      ⟨.collapsed, none, none, r.delta, 0, some ⟨r.buildOut, true⟩, r.attemptsUsed, s.fc⟩
  else s

/-! ### Splicing (R40) -/

/-- R40: the context as a splice leaves it: the hold loaded, and everything of the migration in progress removed. The
peer-spliced flag stays. -/
def Context.spliced (x : Context) (holdSeconds : Nat) : Context :=
  { x with sub := none, target := none, deferred := false, held := false, deferLimit := x.deferLimit.stop,
           bridgeLimit := x.bridgeLimit.stop, backoff := none, hold := some (.load (holdSeconds * Config.framesPerSecond)) }

/-- R40, R191: a splice of a circuit with a context, then the release test and the collapse test. -/
def State.splice (s : State) (c : CircuitNo) (code : OutcomeCode) (buildOut : Nat) (delta : Option Int)
    (offset : Option SampleOffset) : State :=
  let r := s.circuit c
  match r.context with
  | some x =>
    let s := s.releaseMatcher c
    let s := s.putCircuit c { r with state := .fibre, buildOut := buildOut, context := some (x.spliced r.holdSeconds) }
    let s := s.sendFor c .spliced
    let s := s.writeOutcome c ⟨code, none, none, delta, buildOut, offset, r.attemptsUsed, s.fc⟩
    (s.releaseTest c).collapseTest c
  | none => s

/-- R33, case 2, and R34: the splice of an idle circuit without a delay. -/
def State.spliceSilent (s : State) (c : CircuitNo) : State := s.splice c .splicedIdle 0 none none

/-- R36, R41: the splice of an ALIGNED circuit at its measured Δ and its B. -/
def State.spliceAligned (s : State) (c : CircuitNo) (code : OutcomeCode) : State :=
  match (s.circuit c).delta with
  | some d => (s.spliceOffset d).1.splice c code (s.circuit c).buildOut (some d) (some (s.spliceOffset d).2)
  | none => s.splice c code (s.circuit c).buildOut none none

/-- R52: the Δ that a rescue records: the measured one, or that of the record handed with the DOWN event if VALID. -/
def rescueDelta (r : Circuit) (handed : DelayRecord) : Option Int :=
  match r.delta with
  | some d => some d
  | none => handed.validDelta

/-- R52: the rescue of a bridged circuit whose span is DOWN. -/
def State.rescue (s : State) (c : CircuitNo) (handed : DelayRecord) : State :=
  let delta := rescueDelta (s.circuit c) handed
  s.splice c .rescued ((delta.map buildOutOf).getD 0) delta none

/-! ### Abandoning (R42) and reverting (R49) -/

/-- R42: fibre transmit after an abandonment. -/
def drainBridge : FibreTransmit → FibreTransmit
  | .bridged => .draining (.load Config.drainFrames)
  | .off => .off
  | .draining left => .draining left

/-- R42: whether an abandonment of this reason sends ABANDON. -/
def abandonSends : Reason → Bool
  | .peerDeclined | .peerAbandoned => false
  | _ => true

/-- R42: abandonment. -/
def State.abandon (s : State) (c : CircuitNo) (reason : Reason) (decline : Option DeclineReason) : State :=
  let r := s.circuit c
  let s := (s.stopResponse c).releaseMatcher c
  let s := s.putCircuit c (r.backToCopper (drainBridge r.fibreTransmit))
  let s := s.writeOutcome c ⟨.abandoned, some reason, decline, r.delta, 0, none, r.attemptsUsed, s.fc⟩
  if abandonSends reason then s.sendFor c fun code => .abandon code reason else s

/-- R24: consume an attempt: abandon when none remains, and otherwise lower the count and go on. -/
def State.consumeAttempt (s : State) (c : CircuitNo) (reason : Reason) (goOn : State → State) : State :=
  match (s.circuit c).context with
  | some x =>
    if x.attempts = 0 then s.abandon c reason none
    else goOn (s.putContext c { x with attempts := x.attempts - 1 })
  | none => s

/-- R49: the message a revert hands to the Peer Protocol Engine, by its reason. -/
def revertMessage : Reason → Option (TrunkCode → PeerMessage)
  | .commanded => some .revert
  | .peerReverted => some .revertDone
  | _ => none

/-- R49: the revert of a FIBRE-KEPT circuit. -/
def State.revertCircuit (s : State) (c : CircuitNo) (reason : Reason) : State :=
  let r := s.circuit c
  let j := s.revertOffset r
  let s := j.1.putCircuit c (r.backToCopper (.draining (.load Config.drainFrames)))
  let s := s.writeOutcome c ⟨.reverted, some reason, none, r.delta, 0, j.2, r.attemptsUsed, s.fc⟩
  match revertMessage reason with
  | some m => s.sendFor c m
  | none => s

/-! ### Measuring (R32, R33) -/

/-- R32: the context at an entry to MEASURING. -/
def Context.measuring (x : Context) (sub : SubStatus) : Context :=
  { x with bridgeLimit := .load x.bridgeCaptured, target := none, deferred := false, held := false,
           deferLimit := x.deferLimit.stop, sub := some sub }

/-- R32: an entry to MEASURING of a circuit with a context. -/
def State.enterMeasuring (s : State) (c : CircuitNo) (sub : SubStatus) : State :=
  match (s.circuit c).context with
  | some x => s.putCircuit c { s.circuit c with state := .measuring, buildOut := 0, context := some (x.measuring sub) }
  | none => s

/-- R33, case 3: QUEUED, asking for a confirm match when the span's record is VALID. -/
def State.queueForMatch (s : State) (c : CircuitNo) (x : Context) : State :=
  (s.putContext c { x with sub := some .queued }).joinQueue c
    (if (s.recordOf c).validDelta.isSome then .confirm else .full)

/-- R33: the test of BRIDGE-WAIT. A rescue here comes after the DOWN event, so it finds the record INVALID (R52). -/
def State.bridgeWaitTest (s : State) (c : CircuitNo) : State :=
  match (s.circuit c).state, (s.circuit c).context with
  | .measuring, some x =>
    if x.sub = some .bridgeWait ∧ s.flagPresent c = true then
      if s.spanDownOf (s.circuit c) then s.rescue c .invalid
      else if s.busy c = false then s.spliceSilent c
      else if x.backoff = none then s.queueForMatch c x
      else s
    else s
  | _, _ => s

/-- R32, R33: an entry to MEASURING with sub-status BRIDGE-WAIT, and the test made at it. -/
def State.enterBridgeWait (s : State) (c : CircuitNo) : State := (s.enterMeasuring c .bridgeWait).bridgeWaitTest c

/-- R37, R38: back to MEASURING, QUEUED for a full search, with the measured Δ removed. -/
def State.requeueFull (s : State) (c : CircuitNo) : State :=
  match (s.circuit c).context with
  | some x => (((s.putContext c { x with delta := none }).enterMeasuring c .queued)).joinQueue c .full
  | none => s

/-! ### Aligned (R35, R36) -/

/-- Whether a busy circuit at a measured Δ lies over the repeat tolerance of its span (R35). -/
def State.overTolerance (s : State) (c : CircuitNo) (x : Context) : Bool :=
  match x.delta, (s.circuit c).copper with
  | some d, some p => s.busy c && decide (((s.span p.span).tolerance : Int) < d)
  | _, _ => false

/-- R35: the ALIGNED evaluation. -/
def State.alignedEvaluation (s : State) (c : CircuitNo) : State :=
  match (s.circuit c).context with
  | some x =>
    if x.held then s.putContext c { x with deferred := false, target := none, deferLimit := x.deferLimit.stop }
    else if s.overTolerance c x then
      let s := s.putContext c { x with deferred := true, target := none }
      if x.deferLimit.left = 0 then s.abandon c .deferLimit none else s
    else
      s.putContext c { x with deferred := false, deferLimit := x.deferLimit.stop,
                              target := some (x.target.getD (s.fc + BitVec.ofNat 32 s.node.lead)) }
  | none => s

/-- R35: entry to ALIGNED at a measured Δ. The answer of the Watch Unit is taken from the settings at the event (R168). -/
def State.enterAligned (s : State) (c : CircuitNo) (delta : Int) : State :=
  match (s.circuit c).context with
  | some x =>
    let held := x.held || s.watchHolds c
    let s := s.putCircuit c { s.circuit c with
      state := .aligned
      buildOut := buildOutOf delta
      context := some { x with delta := some delta, sub := none, bridgeLimit := x.bridgeLimit.stop,
                               deferLimit := .load s.node.deferLimit, held := held } }
    (s.watchEvent c .aligned none).alignedEvaluation c
  | none => s

/-- R37: an ALIGNED circuit takes the Δ that a slip has adjusted, and the B computed from it. -/
def State.takeSlippedDelta (s : State) (c : CircuitNo) (delta : Int) : State :=
  match (s.circuit c).context, (s.circuit c).copper with
  | some x, some p =>
    if (s.span p.span).wlo ≤ delta ∧ delta ≤ (s.span p.span).whi then
      (s.putCircuit c { s.circuit c with buildOut := buildOutOf delta, context := some { x with delta := some delta } }).alignedEvaluation c
    else (s.putContext c { x with delta := keepDelta delta }).consumeAttempt c .outOfWindow fun s => s.requeueFull c
  | _, _ => s

/-! ### The idle and busy result (R16) -/

/-- R16: a circuit has become idle. -/
def State.becameIdle (s : State) (c : CircuitNo) : State :=
  match (s.circuit c).state, (s.circuit c).context with
  | .measuring, _ => s.bridgeWaitTest c
  | .aligned, some x =>
    if x.deferred then (if s.flagPresent c then s.spliceAligned c .splicedIdle else s.enterBridgeWait c) else s
  | .fibre, _ => s.collapseTest c
  | _, _ => s

/-- R16, R36: a circuit has become busy. -/
def State.becameBusy (s : State) (c : CircuitNo) : State :=
  if (s.circuit c).state = .aligned then s.alignedEvaluation c else s

/-- R16: the states in which a change of an input is a LINE event. -/
def lineWatched : PathState → Bool
  | .proposing | .awaiting | .measuring | .aligned | .fibre => true
  | .vacant | .copper => false

/-- R16: a recognised input of a circuit has changed; `wasBusy` is the result before it. The LINE event comes first
(assumption 17). -/
def State.inputChanged (s : State) (c : CircuitNo) (wasBusy : Bool) : State :=
  let s := if lineWatched (s.circuit c).state then s.watchEvent c .line none else s
  if wasBusy ∧ s.busy c = false then s.becameIdle c
  else if wasBusy = false ∧ s.busy c = true then s.becameBusy c
  else s

/-! ### Mass events (assumption 13) -/

/-- R52: one circuit of a span that goes DOWN. -/
def State.spanLostFor (handed : DelayRecord) (s : State) (c : CircuitNo) : State :=
  match (s.circuit c).context with
  | some x =>
    if (s.circuit c).bridgedState = false then s
    else if s.flagPresent c then s.rescue c handed
    else if x.sub = some .queued ∨ x.sub = some .matching then
      (s.releaseMatcher c).putContext c { x with sub := some .bridgeWait }
    else s
  | none => s

/-- R52: the circuits attached to a span in MEASURING or ALIGNED. -/
def State.bridgedOn (s : State) (n : SpanNo) : List CircuitNo :=
  allCircuits.filter fun c => (s.circuit c).spanNo = some n ∧ (s.circuit c).bridgedState = true

/-- R52: the Circuit Table takes a DOWN event with the record handed. -/
def State.spanLost (s : State) (n : SpanNo) (handed : DelayRecord) : State :=
  (s.bridgedOn n).foldl (State.spanLostFor handed) s.evaluateAll

/-- R53: one circuit at the loss of fibre. -/
def State.fibreLostFor (s : State) (c : CircuitNo) : State :=
  if (s.circuit c).migrating then s.abandon c .laneLoss none
  else if (s.circuit c).kept ∧ s.spanUpOf (s.circuit c) then s.revertCircuit c .laneLoss
  else s

/-- R53: the circuits that the loss of fibre concerns. -/
def State.fibreUsers (s : State) : List CircuitNo :=
  allCircuits.filter fun c => (s.circuit c).migrating || (s.circuit c).kept

/-- R53: loss of fibre, once conditioning has been evaluated (R100). -/
def State.fibreLost (s : State) : State := s.fibreUsers.foldl State.fibreLostFor s.evaluateAll

/-- R44: one circuit at the loss of the peer link. -/
def State.linkLostFor (s : State) (c : CircuitNo) : State :=
  if (s.circuit c).migrating then s.abandon c .peerDown none else s

/-- R44, R122: every migration in progress is abandoned with PEER-DOWN. -/
def State.abandonAll (s : State) : State := s.migratingCircuits.foldl State.linkLostFor s

end Sys2Proof.Machine
end

