-- ==== Sys2Proof/Machine/Alignment.lean ====
section
/-! DEFINITION. The Path Alignment Unit (chapter 3): its part of a site frame, of a slip, of a working-lane change and of a
load of FC, and the rows MATCHER_START, PRIMING_COMPLETE, WINDOW_END, MATCH_OUTCOME, SERVICE_PAUSE_END and
TARGET_REACHED. -/

namespace Sys2Proof.Machine

/-! ### Cells -/

/-- The ring cell of a frame: FC modulo 128 (R54). -/
def cellOf (fc : FrameCount) : Fin 128 := ⟨fc.toNat % 128, Nat.mod_lt _ (by decide)⟩

/-- The cell `b` frames back (R56, R62). -/
def cellBack (fc : FrameCount) (b : Nat) : Fin 128 := cellOf (fc - BitVec.ofNat 32 b)

def State.ring (s : State) (c : CircuitNo) : Table 128 Byte := s.align.rings.get c

/-! ### One site frame (R60, R61, R62) -/

/-- R62: whether a candidate survives the frame, from the copper history and the fibre ring after their writes. -/
def survives (history ring : Table 128 Byte) (fc : FrameCount) (k : Int) : Bool :=
  if 0 ≤ k then ring.get (cellOf fc) == history.get (cellBack fc k.toNat)
  else history.get (cellOf fc) == ring.get (cellBack fc (-k).toNat)

/-- R60 to R62: a unit's site frame: the copper sample is written, then PRIMING counts and WINDOW tests. The step that
leaves PRIMING or WINDOW is the unit's own row (assumption 1). -/
def Matcher.frame (m : Matcher) (fc : FrameCount) (sample : Byte) (ring : Table 128 Byte) : Matcher :=
  match m.state with
  | .priming =>
    { m with history := m.history.set (cellOf fc) sample, count := if m.count < Config.primingFrames then m.count + 1 else m.count }
  | .window =>
    let history := m.history.set (cellOf fc) sample
    if m.count < m.length then
      { m with history := history, candidates := m.candidates.filter fun k => survives history ring fc k, count := m.count + 1 }
    else { m with history := history }
  | .free | .done => m

/-- The copper receive sample of a circuit in this site frame; the idle code without an attachment. -/
def State.copperSampleOf (s : State) (c : CircuitNo) : Byte :=
  match (s.circuit c).copper with
  | some p => s.copperSample p
  | none => s.node.idleCode

/-- The site frame of one unit. -/
def State.frameUnit (s : State) (m : Matcher) : Matcher :=
  match m.circuit with
  | some c => m.frame s.fc (s.copperSampleOf c) (s.ring c)
  | none => m

def State.frameUnits (s : State) : State := s.setAlign { s.align with units := s.align.units.map s.frameUnit }

/-- R65: a clear bridge flag, as received on the circuit's slot in this frame, restarts a unit's priming. -/
def State.flagClearUnit (s : State) (content : SlotNo → SlotContent) (m : Matcher) : Matcher :=
  match m.state, m.circuit with
  | .priming, some c | .window, some c =>
    match (s.circuit c).fibre with
    | some n => if (content n).flag then m else m.restart m.kind (s.recordOf c)
    | none => m
  | _, _ => m

def State.flagClearUnits (s : State) (content : SlotNo → SlotContent) : State :=
  s.setAlign { s.align with units := s.align.units.map (s.flagClearUnit content) }

/-! ### Slips (R65, R69) -/

/-- R65: the pending outcome of a unit in DONE after a slip. -/
def MatchResult.slip (wlo whi : Int) (kind : SlipKind) : MatchResult → MatchResult
  | .matched d => if wlo ≤ d + slipDelta kind ∧ d + slipDelta kind ≤ whi then .matched (d + slipDelta kind) else .noMatch
  | .confirmed d => if wlo ≤ d + slipDelta kind ∧ d + slipDelta kind ≤ whi then .confirmed (d + slipDelta kind) else .noMatch
  | .noMatch => .noMatch
  | .ambiguous => .ambiguous
  | .confirmFailed => .confirmFailed

/-- R65: a slip at a unit that works on a circuit of the span; `record` is the span's record after its adjustment. -/
def Matcher.slip (m : Matcher) (kind : SlipKind) (record : DelayRecord) : Matcher :=
  match m.state with
  | .priming | .window => m.restart m.kind record
  | .done => { m with outcome := m.outcome.map (MatchResult.slip m.wlo m.whi kind) }
  | .free => m

def State.slipUnit (s : State) (n : SpanNo) (kind : SlipKind) (m : Matcher) : Matcher :=
  match m.circuit with
  | some c => if (s.circuit c).spanNo = some n then m.slip kind (s.span n).record else m
  | none => m

def State.slipUnits (s : State) (n : SpanNo) (kind : SlipKind) : State :=
  s.setAlign { s.align with units := s.align.units.map (s.slipUnit n kind) }

/-- R69: one circuit's measured Δ at a slip. -/
def State.slipCircuit (kind : SlipKind) (s : State) (c : CircuitNo) : State :=
  match (s.circuit c).context with
  | some x =>
    match x.delta, (s.circuit c).state with
    | some d, .aligned => s.takeSlippedDelta c (d + slipDelta kind)
    | some d, .measuring | some d, .fibre => s.putContext c { x with delta := keepDelta (d + slipDelta kind) }
    | _, _ => s
  | none => s

/-- R69: the circuits attached to a span that hold a measured Δ in MEASURING, ALIGNED or FIBRE-KEPT. -/
def State.measuredOn (s : State) (n : SpanNo) : List CircuitNo :=
  allCircuits.filter fun c =>
    (s.circuit c).spanNo = some n ∧ ((s.circuit c).bridgedState = true ∨ (s.circuit c).kept = true) ∧ (s.circuit c).delta.isSome

/-- R87, step 3: the slip at the Path Alignment Unit. -/
def State.slipAlign (s : State) (n : SpanNo) (kind : SlipKind) : State :=
  (s.measuredOn n).foldl (State.slipCircuit kind) (s.slipUnits n kind)

/-- R87, steps 1 and 2. -/
def Span.slipped (u : Span) (kind : SlipKind) : Span := { u.countSlip kind with record := u.record.slip kind }

/-- R87, step 5: the SLIP report, when slip reports are on. -/
def State.slipReport (s : State) (n : SpanNo) (kind : SlipKind) (fill : Nat) (record : DelayRecord) : State :=
  if (s.span n).slipReports then s.handReport (.span n (.slip kind fill record)) else s

/-- Whether a slip's SLIP report can meet a report of another block in the queue: one of the Circuit Table (R95), or a WATCH report
of step 4 (R181). Both come of circuits in MEASURING or ALIGNED on the span. -/
def State.slipOrderOpen (s : State) (n : SpanNo) : Bool := (s.span n).slipReports && !(s.bridgedOn n).isEmpty

/-- R87: the slip step, `fill` being the store's fill after the slip. R95 leaves open whether the SLIP report takes its place before
or after the reports of the Circuit Table, and R181 whether before or after the WATCH reports of step 4. DESIGN CHOICE (assumption
12): a free value puts it before all of them or after all of them. -/
def State.slipStep (s : State) (n : SpanNo) (kind : SlipKind) (fill : Nat) : State :=
  let bridged := s.bridgedOn n
  let early := s.slipOrderOpen n && Config.slipReportFirst s.freeCount
  let s := if s.slipOrderOpen n then s.drawn else s
  let s := s.setSpan n ((s.span n).slipped kind)
  let record := (s.span n).record
  let s := if early then s.slipReport n kind fill record else s
  let s := s.slipAlign n kind
  let s := bridged.foldl (fun s c => s.watchEvent c .slip none) s
  if early then s else s.slipReport n kind fill record

/-! ### A working-lane change (R66, R70) -/

/-- R66: a unit at a change of the working lane. -/
def Matcher.laneChange (m : Matcher) (record : DelayRecord) : Matcher :=
  match m.state with
  | .priming | .window | .done => m.restart .full record
  | .free => m

def State.laneChangeUnit (s : State) (m : Matcher) : Matcher :=
  match m.circuit with
  | some c => m.laneChange (s.recordOf c)
  | none => m

/-- R70: whether a change of the working lane removes a circuit's measured Δ. -/
def deltaLostAtLaneChange : PathState → Bool
  | .measuring | .fibre => true
  | .vacant | .copper | .proposing | .awaiting | .aligned => false

/-- R70: the record of a circuit after a change of the working lane. -/
def Circuit.laneChanged (r : Circuit) : Circuit :=
  if deltaLostAtLaneChange r.state then { r with context := r.context.map fun x => { x with delta := none } } else r

/-- R58, R66, R70: what the Path Alignment Unit does at a change of the working lane. -/
def State.laneChangeAlign (s : State) : State :=
  let s := s.setAlign { s.align with pause := .load Config.pauseFrames, units := s.align.units.map s.laneChangeUnit }
  (s.setCircuits (s.circuits.map Circuit.laneChanged))

/-- R38: an ALIGNED circuit goes back to the queue. -/
def State.requeueFor (s : State) (c : CircuitNo) : State := if (s.circuit c).state = .aligned then s.requeueFull c else s

/-- R38: every ALIGNED circuit goes back to the queue, in ascending order (assumption 13). -/
def State.requeueAligned (s : State) : State := allCircuits.foldl State.requeueFor s

/-! ### A load of FC (R72) -/

/-- R72: a ring with every cell moved on by `shift`. -/
def shiftRing (ring : Table 128 Byte) (shift : FrameCount) : Table 128 Byte :=
  .ofFn fun i => ring.get (cellOf (BitVec.ofNat 32 i.val - shift))

/-- R72: the targets and the rings at a load of FC, `shift` being the new value less the old. -/
def State.shiftFrameClock (s : State) (shift : FrameCount) : State :=
  let s := s.setAlign { s.align with
    rings := s.align.rings.map fun r => shiftRing r shift
    units := s.align.units.map fun m => { m with history := shiftRing m.history shift } }
  s.setCircuits (s.circuits.map fun r => { r with context := r.context.map fun x => { x with target := x.target.map (· + shift) } })

/-! ### Rows -/

/-- The lowest-numbered FREE unit (R58). -/
def State.freeUnit (s : State) : Option UnitNo := (List.finRange 4).find? fun u => (s.unit u).state = .free

/-- R59: what a unit captures at its start. -/
def State.startedUnit (s : State) (u : UnitNo) (e : QueueEntry) : Matcher :=
  let window := match (s.circuit e.circuit).copper with
    | some p => ((s.span p.span).wlo, (s.span p.span).whi)
    | none => (0, 0)
  let k := candidateSet e.kind window.1 window.2 (s.recordOf e.circuit)
  { s.unit u with
    state := .priming, circuit := some e.circuit, kind := k.1, wlo := window.1, whi := window.2, length := s.node.window,
    candidates := k.2, count := 0, outcome := none }

/-- R58: the request for MATCHING, discarded when it finds the circuit out of QUEUED. -/
def State.setMatching (s : State) (c : CircuitNo) : State :=
  match (s.circuit c).state, (s.circuit c).context with
  | .measuring, some x => if x.sub = some .queued then s.putContext c { x with sub := some .matching } else s
  | _, _ => s

/-- MATCHER_START (R58, R59): the head entry to the lowest FREE unit. -/
def execMatcherStart (s : State) : Answer :=
  match s.align.queue, s.freeUnit with
  | e :: rest, some u =>
    if s.align.pause.left = 0 then
      let s := s.setAlign { s.align with queue := rest }
      .next ((s.setUnit u (s.startedUnit u e)).setMatching e.circuit)
    else .next s
  | _, _ => .next s

/-- PRIMING_COMPLETE (R61). -/
def execPrimingComplete (u : UnitNo) (s : State) : Answer :=
  if (s.unit u).state = .priming ∧ (s.unit u).count = Config.primingFrames then
    .next (s.setUnit u { s.unit u with state := .window, count := 0 })
  else .next s

/-- R63, R64: the outcome that a window's end decides. -/
def Matcher.decide (m : Matcher) : MatchResult :=
  match m.kind, m.candidates with
  | .full, [k] => .matched k
  | .full, [] => .noMatch
  | .full, _ => .ambiguous
  | .confirm, k :: _ => .confirmed k
  | .confirm, [] => .confirmFailed

/-- R63: a MATCH writes the record of the circuit's span. -/
def State.writeMatch (s : State) (c : CircuitNo) (d : Int) : State :=
  match (s.circuit c).copper with
  | some p => s.setSpan p.span ((s.span p.span).matched ⟨d, c, s.fc⟩)
  | none => s

/-- WINDOW_END (R63, R64): the outcome is decided, the unit enters DONE, and a MATCH writes the record. -/
def execWindowEnd (u : UnitNo) (s : State) : Answer :=
  let m := s.unit u
  if m.state = .window ∧ m.count = m.length then
    let t := s.setUnit u { m with state := .done, outcome := some m.decide }
    match m.decide, m.circuit with
    | .matched d, some c => .next (t.writeMatch c d)
    | _, _ => .next t
  else .next s

/-- R34, R88: CONFIRM-FAILED makes a VALID record of the circuit's span STALE. -/
def State.staleRecord (s : State) (c : CircuitNo) : State :=
  match (s.circuit c).copper with
  | some p => s.setSpan p.span { s.span p.span with record := (s.span p.span).record.staled }
  | none => s

/-- R34: NO-MATCH or AMBIGUOUS. -/
def State.matchFailed (s : State) (c : CircuitNo) (reason : Reason) : State :=
  if s.busy c = false ∧ s.flagPresent c = true then s.spliceSilent c
  else s.consumeAttempt c reason fun s =>
    match (s.circuit c).context with
    | some x => s.putContext c { x with sub := some .bridgeWait, backoff := some (.load s.node.backoff) }
    | none => s

/-- R34: the Circuit Table takes an outcome, once the unit has been released. -/
def State.takeMatch (s : State) (c : CircuitNo) (x : Context) : MatchResult → State
  | .matched d => s.enterAligned c d
  | .confirmed d => s.enterAligned c d
  | .confirmFailed => ((s.staleRecord c).putContext c { x with sub := some .queued }).joinQueue c .full
  | .noMatch => s.matchFailed c .noMatch
  | .ambiguous => s.matchFailed c .ambiguous

/-- MATCH_OUTCOME (R34): the outcome is taken when the circuit is in MATCHING and discarded otherwise; the unit becomes
FREE either way. -/
def execMatchOutcome (u : UnitNo) (s : State) : Answer :=
  match (s.unit u).state, (s.unit u).outcome, (s.unit u).circuit with
  | .done, some result, some c =>
    match (s.circuit c).state, (s.circuit c).context with
    | .measuring, some x =>
      if x.sub = some .matching then .next ((s.setUnit u (s.unit u).freed).takeMatch c x result)
      else .next (s.setUnit u (s.unit u).freed)
    | _, _ => .next (s.setUnit u (s.unit u).freed)
  | _, _, _ => .next s

/-- SERVICE_PAUSE_END (R58). -/
def execServicePauseEnd (s : State) : Answer :=
  if s.align.pause.due then .next (s.setAlign { s.align with pause := .load 0 }) else .next s

/-- R71: the reach test, across the wrap of FC. -/
def reached (fc target : FrameCount) : Bool := decide ((fc - target).toNat < 2147483648)

/-- R41: S is removed and the circuit goes back to BRIDGE-WAIT, or is spliced at its target. -/
def State.atTarget (s : State) (c : CircuitNo) : State :=
  if s.flagPresent c then s.spliceAligned c .spliced else s.enterBridgeWait c

/-- TARGET_REACHED (R41, R71). -/
def execTargetReached (c : CircuitNo) (s : State) : Answer :=
  match (s.circuit c).state, (s.circuit c).context.bind Context.target with
  | .aligned, some target => if reached s.fc target then .next (s.atTarget c) else .next s
  | _, _ => .next s

end Sys2Proof.Machine
end

