-- ==== Sys2Proof/Machine/CircuitCommands.lean ====
section
/-! DEFINITION. The commands on circuits (chapters 1 and 2, and EXCHANGE of chapter 8), and QUERY ALIGNMENT. -/

namespace Sys2Proof.Machine

/-! ### ATTACH (R10) -/

/-- R10, check 1: a copper position in its ranges. -/
def positionOf (x : Nat × Nat) : Option CopperPosition :=
  match spanOf x.1, timeslotOf x.2 with
  | some n, some t => some ⟨n, t⟩
  | _, _ => none

/-- An optional operand in its range: absent stays absent; `none` when it lies outside. -/
def optionalOperand {α β : Type} (read : α → Option β) : Option α → Option (Option β)
  | some x => (read x).map some
  | none => some none

/-- The circuit other than `c` that an occupancy entry names. -/
def otherOwner (owner : Option CircuitNo) (c : CircuitNo) : Option CircuitNo :=
  match owner with
  | some d => if d = c then none else some d
  | none => none

/-- R10, check 5: the circuit that occupies a named position, and whether on its copper side. -/
def State.occupantOf (s : State) (c : CircuitNo) (copper : Option CopperPosition) (fibre : Option SlotNo) :
    Option (CircuitNo × Bool) :=
  match copper.bind fun p => otherOwner (s.timeslotOwner p) c with
  | some d => some (d, true)
  | none => (fibre.bind fun n => otherOwner (s.slotOwner n) c).map fun d => (d, false)

/-- R10: whether a named span is RETIRED. -/
def State.spanRetired (s : State) (copper : Option CopperPosition) : Bool :=
  match copper with
  | some p => (s.span p.span).state == .retired
  | none => false

/-- R10: a circuit's record after an ATTACH. -/
def Circuit.attached (r : Circuit) (copper : Option CopperPosition) (fibre : Option SlotNo) : Circuit :=
  match copper with
  | some p => { r with copper := some p, fibre := fibre.or r.fibre, state := .copper, copperTransmit := true, buildOut := 0 }
  | none => { r with fibre := fibre.or r.fibre }

/-- R10, once the checks pass. -/
def State.attach (s : State) (c : CircuitNo) (copper : Option CopperPosition) (fibre : Option SlotNo) : State :=
  let t := (s.markCopper copper (some c)).markFibre fibre (some c)
  let t := t.putCircuit c ((s.circuit c).attached copper fibre)
  if fibre.isSome then t.fillRing c else t

/-- R10, checks 2 to 5. -/
def State.attachChecked (s : State) (c : CircuitNo) (copper : Option CopperPosition) (fibre : Option SlotNo) : Handled :=
  let r := s.circuit c
  if r.state ≠ .vacant ∧ r.state ≠ .copper then answered s .state .empty
  else if (copper.isSome ∧ r.copper.isSome) ∨ (fibre.isSome ∧ r.fibre.isSome) then
    answered s .conflict (.heldAttachment (if copper.isSome then r.copper else none) (if fibre.isSome then r.fibre else none))
  else if s.spanRetired copper then answered s .retired .empty
  else match s.occupantOf c copper fibre with
    | some (d, side) => answered s .conflict (.occupant d side)
    | none => answered (s.attach c copper fibre) .ok (.attachments ((s.attach c copper fibre).attachments c))

/-- R10. -/
def ruleAttach (circuit : Nat) (copper : Option (Nat × Nat)) (fibre : Option Nat) (s : State) : Handled :=
  if copper.isNone ∧ fibre.isNone then answered s .format .empty
  else match circuitOf circuit, optionalOperand positionOf copper, optionalOperand slotOf fibre with
    | some c, some p, some n => s.attachChecked c p n
    | _, _, _ => answered s .range .empty

/-- ATTACH (R10). -/
def execAttach (port : Port) (tag : Byte) (circuit : Nat) (copper : Option (Nat × Nat)) (fibre : Option Nat) (s : State) : Answer :=
  runCommand (.attach port tag circuit copper fibre) port (ruleAttach circuit copper fibre) s

/-! ### DETACH (R11, R12) -/

/-- R12, checks 2 to 4: whether the fibre side may be taken. -/
def Circuit.fibreDetachable (r : Circuit) : Bool :=
  (r.state == .vacant || r.state == .copper || r.released) && r.fibre.isSome && !r.draining

/-- R11, R12: the checks of the sides named. -/
def Circuit.detachable (r : Circuit) (copper fibre : Bool) : Bool := (!copper || r.state == .copper) && (!fibre || r.fibreDetachable)

/-- R11: the copper side of a record. -/
def Circuit.withoutCopper (r : Circuit) : Circuit := { r with copper := none, copperTransmit := false, state := .vacant, buildOut := 0 }

/-- R12: the fibre side of a record; a FIBRE-RELEASED circuit becomes VACANT. -/
def Circuit.withoutFibre (r : Circuit) : Circuit :=
  if r.state = .fibre then { r with fibre := none, fibreTransmit := .off, buildOut := 0, state := .vacant } else { r with fibre := none }

/-- R11, R12, once the checks pass: both sides in one step. -/
def State.detach (s : State) (c : CircuitNo) (copper fibre : Bool) : State :=
  let r := s.circuit c
  let t := if copper then s.markCopper r.copper none else s
  let t := if fibre then t.markFibre r.fibre none else t
  let r := if fibre then r.withoutFibre else r
  let r := if copper then r.withoutCopper else r
  t.putCircuit c r

/-- R11, R12. DESIGN CHOICE (assumption 55): the OK of a DETACH of the fibre side alone carries the attachments and state too; R12
says only that the reply is OK, and R11 names them. -/
def ruleDetach (circuit : Nat) (copper fibre : Bool) (s : State) : Handled :=
  if copper = false ∧ fibre = false then answered s .format .empty
  else match circuitOf circuit with
    | some c =>
      if (s.circuit c).detachable copper fibre then
        answered (s.detach c copper fibre) .ok (.attachments ((s.detach c copper fibre).attachments c))
      else answered s .state .empty
    | none => answered s .range .empty

/-- DETACH (R11, R12). -/
def execDetach (port : Port) (tag : Byte) (circuit : Nat) (copper fibre : Bool) (s : State) : Answer :=
  runCommand (.detach port tag circuit copper fibre) port (ruleDetach circuit copper fibre) s

/-! ### ACTIVATE (R13) -/

/-- R13, once the checks pass. -/
def State.activate (s : State) (c : CircuitNo) : State :=
  let s := s.putCircuit c { s.circuit c with state := .fibre, context := none, fibreTransmit := .bridged }
  s.writeOutcome c ⟨.activated, none, none, none, (s.circuit c).buildOut, none, 0, s.fc⟩

/-- R13. -/
def ruleActivate (circuit : Nat) (s : State) : Handled :=
  match circuitOf circuit with
  | some c =>
    if (s.circuit c).state ≠ .vacant ∨ (s.circuit c).fibre = none ∨ (s.circuit c).draining = true then answered s .state .empty
    else if s.peer.state ≠ .up then answered s .peerDown .empty
    else answered (s.activate c) .ok .empty
  | none => answered s .range .empty

/-- ACTIVATE (R13). -/
def execActivate (port : Port) (tag : Byte) (circuit : Nat) (s : State) : Answer :=
  runCommand (.activate port tag circuit) port (ruleActivate circuit) s

/-! ### SET CIRCUIT and QUERY CIRCUIT (R20, R21) -/

/-- R20: the options written; a hold over 3600 s is set to 3600 s. -/
def Circuit.withOptions (r : Circuit) (notify autoRelease : Option Bool) (hold : Option Nat) (inhibit : Option Bool) : Circuit :=
  { r with
    notify := notify.getD r.notify
    autoRelease := autoRelease.getD r.autoRelease
    holdSeconds := match hold with | some h => min h 3600 | none => r.holdSeconds
    inhibit := inhibit.getD r.inhibit }

def Circuit.optionsReply (r : Circuit) : ReplyBody := .options r.notify r.autoRelease r.holdSeconds r.inhibit

/-- R20: the options written, and the release test when auto-release is turned on (R45). -/
def State.setOptions (s : State) (c : CircuitNo) (notify autoRelease : Option Bool) (hold : Option Nat) (inhibit : Option Bool) : State :=
  let s := s.putCircuit c ((s.circuit c).withOptions notify autoRelease hold inhibit)
  if autoRelease = some true then s.releaseTest c else s

/-- R20. -/
def ruleSetCircuit (circuit : Nat) (notify autoRelease : Option Bool) (hold : Option Nat) (inhibit : Option Bool) (s : State) : Handled :=
  if notify.isNone ∧ autoRelease.isNone ∧ hold.isNone ∧ inhibit.isNone then answered s .format .empty
  else match circuitOf circuit with
    | some c =>
      answered (s.setOptions c notify autoRelease hold inhibit) .ok
        ((s.setOptions c notify autoRelease hold inhibit).circuit c).optionsReply
    | none => answered s .range .empty

/-- SET CIRCUIT (R20). -/
def execSetCircuit (port : Port) (tag : Byte) (circuit : Nat) (notify autoRelease : Option Bool) (hold : Option Nat)
    (inhibit : Option Bool) (s : State) : Answer :=
  runCommand (.setCircuit port tag circuit notify autoRelease hold inhibit) port (ruleSetCircuit circuit notify autoRelease hold inhibit) s

/-- R21: what QUERY CIRCUIT carries. -/
def State.circuitView (s : State) (c : CircuitNo) : CircuitView :=
  ⟨c, s.circuit c, s.busy c, s.switchCondition c, s.farCondition (s.circuit c)⟩

/-- R21: the changed flag cleared. -/
def State.clearChanged (s : State) (c : CircuitNo) : State := s.putCircuit c { s.circuit c with changed := false }

/-- R21. -/
def ruleQueryCircuit (circuit : Nat) (clear : Bool) (s : State) : Handled :=
  match circuitOf circuit with
  | some c => answered (if clear then s.clearChanged c else s) .ok (.circuit (s.circuitView c))
  | none => answered s .range .empty

/-- QUERY CIRCUIT (R21). -/
def execQueryCircuit (port : Port) (tag : Byte) (circuit : Nat) (clear : Bool) (s : State) : Answer :=
  runCommand (.queryCircuit port tag circuit clear) port (ruleQueryCircuit circuit clear) s

/-! ### MIGRATE, ABANDON, REVERT, RELEASE, RESUME -/

/-- R25, checks 4 to 7, for a circuit. -/
def State.migrate (s : State) (c : CircuitNo) : Handled :=
  match s.migrateRefusal c with
  | some result => answered s result .empty
  | none => answered (s.startMigration c) .ok (.migrated c s.peer.counter)

/-- R25. -/
def ruleMigrate (port : Port) (sel : Selector) (s : State) : Handled := s.withSelector port 0x20 sel fun c => s.migrate c

/-- MIGRATE (R25). -/
def execMigrate (port : Port) (tag : Byte) (circuit : Selector) (s : State) : Answer :=
  runCommand (.migrate port tag circuit) port (ruleMigrate port circuit) s

/-- R43. -/
def ruleAbandon (port : Port) (sel : Selector) (s : State) : Handled :=
  s.withSelector port 0x21 sel fun c =>
    if (s.circuit c).migrating then answered (s.abandon c .commanded none) .ok .empty else answered s .state .empty

/-- ABANDON (R43). -/
def execAbandon (port : Port) (tag : Byte) (circuit : Selector) (s : State) : Answer :=
  runCommand (.abandon port tag circuit) port (ruleAbandon port circuit) s

/-- R50, checks 2 to 4, for a circuit. -/
def State.revert (s : State) (c : CircuitNo) : Handled :=
  if (s.circuit c).state ≠ .fibre then answered s .state .empty
  else if (s.circuit c).released then answered s .noFallback .empty
  else if s.spanDownOf (s.circuit c) then answered s .spanDown .empty
  else answered (s.revertCircuit c .commanded) .ok (.reverted (s.revertOffset (s.circuit c)).2)

/-- R50. -/
def ruleRevert (port : Port) (sel : Selector) (s : State) : Handled := s.withSelector port 0x22 sel fun c => s.revert c

/-- REVERT (R50). -/
def execRevert (port : Port) (tag : Byte) (circuit : Selector) (s : State) : Answer :=
  runCommand (.revert port tag circuit) port (ruleRevert port circuit) s

/-- R47: whether RELEASE may be taken. -/
def Circuit.releasable (r : Circuit) : Bool := r.kept && (r.context.map Context.peerSpliced == some true)

/-- R47. -/
def ruleRelease (port : Port) (sel : Selector) (s : State) : Handled :=
  s.withSelector port 0x23 sel fun c =>
    if (s.circuit c).releasable then answered (s.releaseFallback c .commanded) .ok .empty else answered s .state .empty

/-- RELEASE (R47). -/
def execRelease (port : Port) (tag : Byte) (circuit : Selector) (s : State) : Answer :=
  runCommand (.release port tag circuit) port (ruleRelease port circuit) s

/-- R39: HELD cleared and the ALIGNED evaluation made; the reply carries S, or that the circuit was deferred. -/
def State.resume (s : State) (c : CircuitNo) (x : Context) : Handled :=
  let t := s.putContext c { x with held := false }
  let u := t.alignedEvaluation c
  answered u .ok (.resumed ((u.circuit c).context.bind Context.target) (t.overTolerance c { x with held := false }))

/-- R39. -/
def ruleResume (port : Port) (sel : Selector) (s : State) : Handled :=
  s.withSelector port 0x24 sel fun c =>
    match (s.circuit c).state, (s.circuit c).context with
    | .aligned, some x => if x.held then s.resume c x else answered s .state .empty
    | _, _ => answered s .state .empty

/-- RESUME (R39). -/
def execResume (port : Port) (tag : Byte) (circuit : Selector) (s : State) : Answer :=
  runCommand (.resume port tag circuit) port (ruleResume port circuit) s

/-! ### QUERY ALIGNMENT (R75, R76) -/

def Matcher.view (m : Matcher) : MatcherView :=
  { state := m.state, circuit := m.circuit, kind := m.kind, wlo := m.wlo, whi := m.whi, length := m.length, count := m.count,
    left := m.candidates.length, lowest := m.candidates.min?, highest := m.candidates.max?, outcome := m.outcome }

/-- R75. -/
def State.alignmentUnitView (s : State) (first : Nat) : ReplyBody :=
  .alignmentUnit s.align.pause.left (s.align.units.map Matcher.view) s.align.queue.length ((s.align.queue.drop first).take 64)

/-- R76: where a circuit stands in the unit. -/
def State.alignmentPlace (s : State) (c : CircuitNo) : AlignmentPlace :=
  match (List.finRange 4).find? fun u => (s.unit u).circuit = some c with
  | some u => .unit u
  | none =>
    match s.align.queue.zipIdx.find? fun e => e.1.circuit = c with
    | some (e, i) => .queue i e.kind
    | none => .nowhere

/-- R76: one circuit's alignment. -/
def State.alignmentView (s : State) (c : CircuitNo) : AlignmentView :=
  let r := s.circuit c
  let target := r.context.bind Context.target
  { state := r.state, sub := r.sub, place := s.alignmentPlace c, delta := r.delta, buildOut := r.buildOut, target := target,
    framesBefore := target.map fun t => t - s.fc
    ringWritten := r.fibre.isSome && s.lanes.anyUp
    revertOffset := if r.kept then (s.revertOffset r).2 else none }

/-- R75, R76; the position is not read when a circuit is present (R188). -/
def ruleQueryAlignment (circuit first : Option Nat) (s : State) : Handled :=
  match circuit with
  | some n =>
    match circuitOf n with
    | some c => answered s .ok (.alignment (s.alignmentView c))
    | none => answered s .range .empty
  | none => if 512 ≤ first.getD 0 then answered s .range .empty else answered s .ok (s.alignmentUnitView (first.getD 0))

/-- QUERY ALIGNMENT (R75, R76). -/
def execQueryAlignment (port : Port) (tag : Byte) (circuit first : Option Nat) (s : State) : Answer :=
  runCommand (.queryAlignment port tag circuit first) port (ruleQueryAlignment circuit first) s

/-! ### EXCHANGE (R171, R172) -/

/-- R172, COPPER: a record after the swap gives it a copper attachment, or none. -/
def Circuit.withCopper (r : Circuit) (copper : Option CopperPosition) : Circuit :=
  { r with copper := copper, copperTransmit := copper.isSome, state := if copper.isSome then .copper else .vacant }

/-- R172, COPPER: both records and the occupancy entries. -/
def State.exchangeCopper (s : State) (a b : CircuitNo) : State :=
  let t := (s.markCopper (s.circuit a).copper (some b)).markCopper (s.circuit b).copper (some a)
  (t.putCircuit a ((s.circuit a).withCopper (s.circuit b).copper)).putCircuit b ((s.circuit b).withCopper (s.circuit a).copper)

/-- R55: the ring of a circuit that holds a fibre attachment is filled. -/
def State.fillAttachedRing (s : State) (c : CircuitNo) : State := if (s.circuit c).fibre.isSome then s.fillRing c else s

/-- R172, FIBRE: both records, the occupancy entries and the rings. -/
def State.exchangeFibre (s : State) (a b : CircuitNo) : State :=
  let t := (s.markFibre (s.circuit a).fibre (some b)).markFibre (s.circuit b).fibre (some a)
  let t := (t.putCircuit a { s.circuit a with fibre := (s.circuit b).fibre }).putCircuit b { s.circuit b with fibre := (s.circuit a).fibre }
  (t.fillAttachedRing a).fillAttachedRing b

/-- VACANT or COPPER (R171, check 4). -/
def Circuit.settled (r : Circuit) : Bool := r.state == .vacant || r.state == .copper

/-- R171, checks 5 and 6, and R172. DESIGN CHOICE (assumption 49): when a and b are both busy, the LINE-BUSY reply carries a. -/
def State.exchange (s : State) (copper : Bool) (a b : CircuitNo) : Handled :=
  if copper then
    if s.busy a then answered s .lineBusy (.busyCircuit a)
    else if s.busy b then answered s .lineBusy (.busyCircuit b)
    else answered (s.exchangeCopper a b) .ok (.exchanged ((s.exchangeCopper a b).attachments a) ((s.exchangeCopper a b).attachments b))
  else if (s.circuit a).draining ∨ (s.circuit b).draining then answered s .state .empty
  else answered (s.exchangeFibre a b) .ok (.exchanged ((s.exchangeFibre a b).attachments a) ((s.exchangeFibre a b).attachments b))

/-- EXCHANGE's kind: 00H FIBRE, 01H COPPER; true for COPPER (section 10.4). -/
def exchangeKind : Nat → Option Bool
  | 0 => some false
  | 1 => some true
  | _ => none

/-- R171. -/
def ruleExchange (kind a stateA b stateB : Nat) (s : State) : Handled :=
  match circuitOf a, circuitOf b with
  | some a, some b =>
    match exchangeKind kind, stateOfCode stateA, stateOfCode stateB with
    | some copper, some sa, some sb =>
      if a = b then answered s .format .empty
      else if (s.circuit a).state ≠ sa ∨ (s.circuit b).state ≠ sb then
        answered s .mismatch (.states (s.circuit a).state (s.circuit b).state)
      else if (s.circuit a).settled = false ∨ (s.circuit b).settled = false then answered s .state .empty
      else s.exchange copper a b
    | _, _, _ => answered s .format .empty
  | _, _ => answered s .range .empty

/-- EXCHANGE (R171). -/
def execExchange (port : Port) (tag : Byte) (kind a stateA b stateB : Nat) (s : State) : Answer :=
  runCommand (.exchange port tag kind a stateA b stateB) port (ruleExchange kind a stateA b stateB) s

end Sys2Proof.Machine
end

