-- ==== Sys2Proof/Machine/LaneUnit.lean ====
section
/-! DEFINITION. The Lane Interface's operations: frames of one lane (R97, R98, R99), the overhead channel (R111, R112), the
working lane (R104, R105) and the availability of fibre (R100). -/

namespace Sys2Proof.Machine

/-! ### One lane -/

/-- A lane is framed when it is UP or DEGRADED (section 5.1). -/
def LaneRecord.framed (l : LaneRecord) : Bool :=
  match l.state with
  | .up | .degraded => true
  | .down => false

/-- R97: one frame of a lane that hunts: the eighth word in a row marks the lane due to go UP. No overhead byte is read, not even of
that eighth frame (assumption 63). -/
def LaneRecord.huntFrame (l : LaneRecord) (good : Bool) : LaneRecord :=
  if good then
    if (l.candidate.getD 0) + 1 < 8 then { l with candidate := some ((l.candidate.getD 0) + 1), upDue := false }
    else { l with upDue := true }
  else { l with candidate := none, upDue := false }

/-- R98: the alignment check of one frame of a framed lane: the fourth bad frame in a row marks the loss due. -/
def LaneRecord.checkFrame (l : LaneRecord) (good : Bool) : LaneRecord :=
  if good then { l with badFrames := 0, badDue := false }
  else if l.badFrames + 1 < 4 then { l with badFrames := l.badFrames + 1 }
  else { l with badDue := true }

/-- R99: errors raise the interval error count, which stops at 65535. -/
def LaneRecord.countErrors (l : LaneRecord) (n : Nat) : LaneRecord :=
  { l with errors := l.errors.map fun e => min (e + n) Config.countLimit }

/-- R97: a lane that goes UP from DOWN; its overhead receiver reads from the next frame on (assumption 63). -/
def LaneRecord.raised (l : LaneRecord) : LaneRecord :=
  { l with state := .up, candidate := none, upDue := false, badFrames := 0, badDue := false,
           interval := some (.load Config.errorIntervalFrames), errors := some 0, receiver := [] }

/-- R98: a lane that goes DOWN. -/
def LaneRecord.lowered (l : LaneRecord) : LaneRecord :=
  { l with state := .down, candidate := none, upDue := false, badFrames := 0, badDue := false, interval := none,
           errors := none, receiver := [] }

/-- R99: the end of an error interval: a DEGRADED lane without errors becomes UP, and the interval begins again. -/
def LaneRecord.endInterval (l : LaneRecord) : LaneRecord :=
  { l with
    state := if l.state = .degraded ∧ l.errors = some 0 then .up else l.state
    interval := some (.load Config.errorIntervalFrames)
    errors := some 0 }

/-! ### Received overhead (R112) -/

/-- R112: a sequence that may have been delivered from the old lane already. -/
def LaneInterface.duplicateSequence (l : LaneInterface) (sequence : Byte) : Bool :=
  match l.lastSequence with
  | some last => decide (0 < l.duplicate.left) && (sequence == last || decide (128 ≤ (sequence - last).toNat))
  | none => false

/-- The index of a type's receive count: types 01H to 0AH. -/
def typeIndex (type : Byte) : Option (Fin 10) := if h : type.toNat - 1 < 10 ∧ 1 ≤ type.toNat then some ⟨type.toNat - 1, h.1⟩ else none

/-- R124, case 1: a malformed message raises the receive count of its type, when it has one, and the MALFORMED count. -/
def PeerEngine.countMalformed (p : PeerEngine) (body : List Byte) : PeerEngine :=
  let p := match body.head?.bind typeIndex with
    | some i => { p with received := p.received.modify i raise }
    | none => p
  { p with discards := { p.discards with malformed := raise p.discards.malformed } }

/-- R112: a valid message of the working lane handed to the Peer Protocol Engine. A well-formed one waits in the inbox
for its own row; a malformed one is discarded here (assumption 3). -/
def State.deliver (s : State) (sequence : Byte) (body : List Byte) : State :=
  if s.lanes.duplicateSequence sequence then s
  else
    let s := s.setLanes { s.lanes with lastSequence := some sequence }
    match parseMessage body with
    | some m => s.setPeer { s.peer with inbox := s.peer.inbox ++ [m] }
    | none => s.setPeer (s.peer.countMalformed body)

/-- R112: the overhead bytes of one received frame of a framed lane. DESIGN CHOICE (assumption 56): the messages of the frame are
handed on here, while the lane still is in the state in which the frame found it, also where the frame's 16th error (R99) or fourth
bad word (R98) then takes the only UP lane out of UP; that change is a later row. -/
def State.receiveOverhead (s : State) (i : Lane) (bytes : List Byte) : State :=
  let gathered := (s.lane i).receiver ++ bytes
  let scan := scanOverhead (gathered.length + 1) gathered
  let s := s.setLane i { (s.lane i).countErrors scan.errors with receiver := scan.rest }
  if s.lanes.working = i ∧ s.lanes.anyUp = true then
    scan.messages.foldl (fun s m => s.deliver m.1 m.2) s
  else s

/-! ### Transmitted overhead (R111) -/

/-- R111: the next overhead byte, and the interface after it. -/
def LaneInterface.nextByte (l : LaneInterface) : Byte × LaneInterface :=
  match l.sending, l.queue with
  | b :: rest, _ => (b, { l with sending := rest, queue := if rest.isEmpty then l.queue.drop 1 else l.queue })
  | [], [] => (0, l)
  | [], m :: _ => (0xC3, { l with sending := (overheadFrame l.sequence m).drop 1, sequence := l.sequence + 1 })

/-- R111: the next `n` overhead bytes. -/
def LaneInterface.nextBytes : Nat → LaneInterface → List Byte × LaneInterface
  | 0, l => ([], l)
  | n + 1, l => (l.nextByte.1 :: (nextBytes n l.nextByte.2).1, (nextBytes n l.nextByte.2).2)

/-! ### Slot content (R101) -/

/-- R101: the content of a slot in this frame: that of the working lane's last frame while it is framed, and otherwise
the idle code, IDLE and a clear flag. -/
def State.slotNow (s : State) (n : SlotNo) : SlotContent :=
  if (s.lane s.lanes.working).framed then (s.lane s.lanes.working).content.get n else .idle s.node.idleCode

/-! ### The working lane (R104, R105) -/

/-- R104: the lane the test moves to, if it moves. -/
def LaneInterface.testTarget (l : LaneInterface) : Option Lane :=
  let w := l.lane l.working
  let o := l.lane (otherLane l.working)
  if (w.state ≠ .up ∨ w.lockout = true) ∧ o.state = .up ∧ o.lockout = false then some (otherLane l.working) else none

/-- The interface with its timing source chosen again (R113). -/
def LaneInterface.retimed (l : LaneInterface) : LaneInterface := { l with timing := l.timingOf }

/-- R105, steps 1 to 4. -/
def LaneInterface.switched (l : LaneInterface) : LaneInterface :=
  { l with
    working := otherLane l.working
    holdOff := .load (l.holdOffSeconds * Config.framesPerSecond)
    slots := l.slots.map SlotRecognition.restart
    slotsBefore := l.slotsBefore.map SlotRecognition.restart
    duplicate := .load Config.duplicateFrames }.retimed

/-- R89: every VALID span delay record becomes STALE. -/
def State.staleRecords (s : State) : State := s.setSpans (s.spans.map fun u => { u with record := u.record.staled })

/-- R105: a change of the working lane. -/
def State.changeWorking (s : State) (cause : WorkingCause) : State :=
  let old := s.lanes.working
  let s := s.setLanes s.lanes.switched
  let s := s.staleRecords.laneChangeAlign.requeueAligned
  s.handReport (.lane s.lanes.working s.lanes.timing (.working old s.lanes.working cause s.fibreCount))

/-- R104: the working-lane test. -/
def State.workingTest (s : State) (cause : WorkingCause) : State :=
  match s.lanes.testTarget with
  | some _ => s.changeWorking cause
  | none => s

/-! ### Availability (R100) -/

/-- R100: fibre becomes unavailable, once the lane's state has changed. -/
def State.fibreUnavailable (s : State) : State :=
  (s.setLanes { s.lanes with
    slots := s.lanes.slots.map SlotRecognition.unavailable
    slotsBefore := s.lanes.slotsBefore.map SlotRecognition.unavailable }).fibreLost

/-- R100: the step taken when the count of UP lanes has passed between zero and non-zero. -/
def State.availability (s : State) (wasUp : Bool) : State :=
  if wasUp ∧ s.lanes.anyUp = false then s.fibreUnavailable
  else if wasUp = false ∧ s.lanes.anyUp = true then s.evaluateAll
  else s

/-- R116: the interface as the event leaves it: working lane and timing source for the STATE report. -/
def LaneInterface.settled (l : LaneInterface) : LaneInterface :=
  match l.testTarget with
  | some _ => l.switched
  | none => l.retimed

/-- A lane's record changes state: the timing source is chosen again (R113) and a STATE report is handed (R116). -/
def State.laneState (s : State) (i : Lane) (after : LaneRecord) (cause : LaneCause) : State :=
  let before := (s.lane i).state
  let s := s.setLanes (s.lanes.setLane i after).retimed
  s.handReport (.lane s.lanes.settled.working s.lanes.settled.timing (.state i before after.state cause))

/-- R97: a lane goes UP. -/
def State.laneRaised (s : State) (i : Lane) : State :=
  ((s.laneState i (s.lane i).raised .aligned).workingTest .automatic).availability s.lanes.anyUp

/-- R102, R103: the recognition of every slot, taken again from where the frame found it with IDLE and a clear flag. -/
def State.idleSlots (s : State) : State :=
  s.setLanes { s.lanes with slots := s.lanes.slotsBefore.map fun r => r.hear (.idle s.node.idleCode) }

/-- R54: the idle code in this frame's cell of the ring of every circuit with a fibre attachment. -/
def State.idleRings (s : State) : State :=
  s.setAlign { s.align with
    rings := s.align.rings.mapIdx fun c r => if (s.circuit c).fibre.isSome then r.set (cellOf s.fc) s.node.idleCode else r }

/-- R8, R15, R56: what the switch is then given on a fibre route, by the route that the frame selected: the idle code at B = 0, and
the condition of the slot. -/
def State.idleRoute (s : State) (o : ChannelOutput) : Option FibreRoute → ChannelOutput
  | some r => ⟨if r.buildOut = 0 then s.node.idleCode else o.sample, (s.lanes.slots.get r.slot).line.shown⟩
  | none => o

/-- R8: the routes that the frame selected, of which the fibre ones are given what they then carry. A change of state since the
frame's selection changes no route of this frame. -/
def State.idleRoutes (s : State) : State :=
  s.setHighway { s.highway with route := s.highway.route.mapIdx fun c o => s.idleRoute o (s.highway.fibreRoute.get c) }

/-- R101, with the remark of R105: the working lane has failed in this frame with the other lane UP, so the frame's content of
every slot is the idle code, IDLE and a clear flag. It takes the place of what SITE_FRAME handed on from the lane's last frame:
each slot's recognition is taken again from where the frame found it, the ring of each circuit with a fibre attachment holds the
idle code in the frame's cell, a unit in PRIMING or WINDOW restarts (R65), and the switch is given what a circuit whose route of the
frame is fibre then receives (R8, assumption 29). -/
def State.idleFrame (s : State) : State :=
  (s.idleSlots.idleRings.flagClearUnits fun _ => .idle s.node.idleCode).idleRoutes

/-- R98: a framed lane goes DOWN. DESIGN CHOICE (assumption 57): where a lane has gone UP earlier in the frame, the frame takes the
idle content of R101 although no lane was UP as it began. DESIGN CHOICE (assumption 61): where the lane has become the working lane
earlier in the frame, by SELECT, LOCKOUT or the working-lane test, the frame takes the idle content too, by the remark of R105, and not
the content of the old lane. DESIGN CHOICE (assumption 62): where no lane is UP any more, the ring cells that SITE_FRAME has written in
the frame stay. -/
def State.laneLowered (s : State) (i : Lane) (cause : LaneCause) : State :=
  let t := s.laneState i (s.lane i).lowered cause
  let t := if s.lanes.working = i ∧ t.lanes.anyUp = true then t.idleFrame else t
  (t.availability s.lanes.anyUp).workingTest .automatic

/-- R99: a change between UP and DEGRADED. DESIGN CHOICE (assumption 62): where no lane is UP any more, the ring cells that SITE_FRAME
has written in the frame stay. -/
def State.laneGraded (s : State) (i : Lane) (after : LaneRecord) (cause : LaneCause) : State :=
  ((s.laneState i after cause).availability s.lanes.anyUp).workingTest .automatic

end Sys2Proof.Machine
end

