-- ==== Sys2Proof/Machine/Frame.lean ====
section
/-! DEFINITION. The site frame (R113) and what else time and the outside bring to the whole part: power-on reset, the end of
start-up, a channel's recognised condition, and the expiries of a circuit's timers. -/

namespace Sys2Proof.Machine

/-! ### What the part sends in a frame (R6, R7, R85, R110) -/

/-- What a circuit is sent with toward the line: the switch's sample, and the condition from the switch, a change of which
takes effect in the sixteenth frame that carries the new code (R14, its remark). -/
def State.outbound (s : State) (switch : Table 512 ChannelInput) (c : CircuitNo) : ChannelOutput :=
  ⟨(switch.get c).sample, (s.highway.channels.get c).shown⟩

/-- R6: what a bearer timeslot is sent with. -/
def State.timeslotOut (s : State) (switch : Table 512 ChannelInput) (p : CopperPosition) : ChannelOutput :=
  match s.timeslotOwner p with
  | some c => if (s.circuit c).copperTransmit then s.outbound switch c else ⟨s.node.idleCode, .blocked⟩
  | none => ⟨s.node.idleCode, .blocked⟩

/-- R7: what a fibre slot is sent with. -/
def State.slotOut (s : State) (switch : Table 512 ChannelInput) (n : SlotNo) : SlotContent :=
  match s.slotOwner n with
  | some c =>
    match (s.circuit c).fibreTransmit with
    | .bridged | .draining _ => ⟨(s.outbound switch c).sample, (s.outbound switch c).code, true⟩
    | .off => .idle s.node.idleCode
  | none => .idle s.node.idleCode

/-- R85: the marker of the transmit multiframe that a frame lies in. -/
def transmitMarker (fc : FrameCount) : Marker := if fc.toNat / 16 % 2 = 0 then .first else .second

/-- A byte of four conditions, each more significant bit first (R190). -/
def conditionByte (a b c d : Bool × Bool) : Byte := byteOfBits [a.1, a.2, b.1, b.2, c.1, c.2, d.1, d.2]

/-- R83, R85: timeslot 0 of a transmitted frame, `code i` being what timeslot `i + 1` is sent with. -/
def transmitZero (fc : FrameCount) (code : TimeslotNo → LineCondition) : Byte :=
  let m := fc.toNat % 16
  let at_ (t : Nat) : Bool × Bool := if h : t - 1 < 31 then conditionBits (code ⟨t - 1, h⟩) else (false, false)
  if m % 2 = 0 then spanWord
  else if m = 1 then conditionByte (markerBits (transmitMarker fc)) (at_ 1) (at_ 2) (at_ 3)
  else conditionByte (at_ (2 * m - 2)) (at_ (2 * m - 1)) (at_ (2 * m)) (at_ (2 * m + 1))

/-- R85: the span frame sent in the site frame in progress. -/
def State.spanOut (s : State) (switch : Table 512 ChannelInput) (n : SpanNo) : SpanFrame :=
  if (s.span n).state = .retired then .fill 0xFF
  else .ofFn fun t =>
    if h : t.val = 0 then transmitZero s.fc fun i => (s.timeslotOut switch ⟨n, i⟩).code
    else (s.timeslotOut switch ⟨n, t.pred (Fin.ne_of_val_ne h)⟩).sample

/-- Sixteen bytes as the overhead of a lane frame. -/
def overheadTable (bytes : List Byte) : Table 16 Byte := .ofFn fun i => bytes.getD i.val 0

/-- R110, R190: the lane frame sent in the site frame in progress, around its overhead bytes. -/
def State.laneOut (s : State) (switch : Table 512 ChannelInput) (overhead : List Byte) : LaneFrame :=
  { word := laneWord
    overhead := overheadTable overhead
    samples := .ofFn fun n => (s.slotOut switch n).sample
    control := .ofFn fun n => controlByte (s.slotOut switch n).code (s.slotOut switch n).flag }

/-- R109: a lane whose shutdown flag is set sends no light. -/
def LaneRecord.send (l : LaneRecord) (f : LaneFrame) : LaneRecord :=
  { l with transmit := if l.shutdown then none else some f }

/-- R85, R110: the transmit side of one site frame. -/
def State.transmitFrame (s : State) (switch : Table 512 ChannelInput) : State :=
  let o := LaneInterface.nextBytes 16 s.lanes
  let f := s.laneOut switch o.1
  let spans := s.spans.mapIdx fun n u => { u with transmit := some (s.spanOut switch n) }
  (s.setLanes { o.2 with a := o.2.a.send f, b := o.2.b.send f }).setSpans spans

/-! ### Countdowns -/

/-- The drain of a fibre transmit (R7). -/
def FibreTransmit.tick : FibreTransmit → FibreTransmit
  | .draining left => .draining left.tick
  | .bridged => .bridged
  | .off => .off

/-- The timers of a context in one frame, by the circuit's state (R28, R32, R33, R36, R45). -/
def Context.tick (x : Context) (state : PathState) : Context :=
  match state with
  | .proposing => { x with backoff := x.backoff.map Countdown.tick }
  | .measuring => { x with backoff := x.backoff.map Countdown.tick, bridgeLimit := x.bridgeLimit.tick }
  | .aligned => if x.deferred then { x with deferLimit := x.deferLimit.tick } else x
  | .fibre => { x with hold := x.hold.map Countdown.tick }
  | .vacant | .copper | .awaiting => x

def Circuit.tick (r : Circuit) : Circuit :=
  { r with fibreTransmit := r.fibreTransmit.tick, context := r.context.map fun x => x.tick r.state }

/-- The lanes' error intervals, the hold-off and the duplicate window (R99, R106, R112). -/
def LaneInterface.tick (l : LaneInterface) : LaneInterface :=
  { l with
    a := { l.a with interval := l.a.interval.map Countdown.tick }
    b := { l.b with interval := l.b.interval.map Countdown.tick }
    holdOff := l.holdOff.tick
    duplicate := l.duplicate.tick }

/-- The HELLO timer, the silence remaining and the response timers (R118, R120, R127). -/
def PeerEngine.tick (p : PeerEngine) : PeerEngine :=
  { p with
    hello := p.hello.map Countdown.tick
    silence := p.silence.map Countdown.tick
    response := p.response.map fun t => t.map Countdown.tick }

/-- The directory's bucket of this frame (R148, R153). -/
def Walk.tick : Walk → Walk
  | .rangeCheck next _ port tag entry found => .rangeCheck next (decide (next < 128)) port tag entry found
  | .purge next _ port tag removed => .purge next (decide (next < 128)) port tag removed
  | .idle => .idle

/-- The inter-byte timers (R176, assumption 4). -/
def Links.tickBytes (l : Links) : Links :=
  { l with
    primary := { l.primary with interByte := l.primary.interByte.map Countdown.tick }
    craft := { l.craft with interByte := l.craft.interByte.map Countdown.tick } }

/-- Every count of frames remaining, lowered once (introduction, section 7). -/
def State.tickAll (s : State) : State :=
  { s with
    circuits := s.circuits.map Circuit.tick
    lanes := s.lanes.tick
    align := { s.align with pause := s.align.pause.tick }
    peer := s.peer.tick
    directory := { s.directory with walk := s.directory.walk.tick }
    links := s.links.tickBytes }

/-! ### The receive side of a frame -/

/-- R113: FC advances by one. -/
def State.advanceClock (s : State) : State := s.setLanes { s.lanes with fc := s.lanes.fc + 1 }

/-- R14: the switch's codes of this frame. -/
def State.takeSwitchCodes (s : State) (switch : Table 512 ChannelInput) : State :=
  s.setHighway { s.highway with
    channels := s.highway.channels.mapIdx fun c r => r.take (switch.get c).code
    idleCode := s.node.idleCode }

/-- R86: the store's read of every UP span. -/
def State.readStores (s : State) : State :=
  s.setSpans (s.spans.map fun u => if u.state = .up then (u.read s.node.idleCode).1 else u)

/-- R86: the spans whose read of this frame slips. -/
def State.repeating (s : State) : List SpanNo :=
  (List.finRange 16).filter fun n => (s.span n).state = .up ∧ ((s.span n).read s.node.idleCode).2 = true

/-- R102, R103: the slot recognition of one frame, which is taken while a lane is UP; what the frame found is kept (assumption
29). -/
def State.takeSlots (s : State) : State :=
  s.setLanes { s.lanes with
    slots := if s.lanes.anyUp then s.lanes.slots.mapIdx fun n r => r.hear (s.slotNow n) else s.lanes.slots
    slotsBefore := s.lanes.slots }

/-- R54: one cell of the ring of every circuit with a fibre attachment, while a lane is UP. -/
def State.writeRings (s : State) : State :=
  if s.lanes.anyUp then
    s.setAlign { s.align with
      rings := s.align.rings.mapIdx fun c r =>
        match (s.circuit c).fibre with
        | some n => r.set (cellOf s.fc) (s.slotNow n).sample
        | none => r }
  else s

/-- R8, R15, R56: the sample and the condition of a circuit's selected receive route. -/
def State.routeOf (s : State) (c : CircuitNo) : ChannelOutput :=
  match (s.circuit c).state with
  | .vacant => ⟨s.node.idleCode, .blocked⟩
  | .fibre => ⟨(s.ring c).get (cellBack s.fc (s.circuit c).buildOut), s.farShown (s.circuit c)⟩
  | .copper | .proposing | .awaiting | .measuring | .aligned => ⟨s.copperSampleOf c, s.farShown (s.circuit c)⟩

/-- R8: the fibre route of a record: its slot and its build-out, in FIBRE alone. -/
def Circuit.fibreRoute (r : Circuit) : Option FibreRoute :=
  if r.state = .fibre then r.fibre.map fun n => ⟨n, r.buildOut⟩ else none

/-- R8: the selection of a frame's receive routes. -/
def State.selectRoutes (s : State) : State :=
  s.setHighway { s.highway with route := .ofFn s.routeOf, fibreRoute := .ofFn fun c => (s.circuit c).fibreRoute }

/-- The content of one running site frame, but for the slips its reads cause. DESIGN CHOICE (assumption 46): the window's
count and R65's restart are the frame's own work, so a clear bridge flag in the very frame in which the count reaches M
restarts the match, and its WINDOW_END finds no window ended. -/
def State.frameWork (s : State) (switch : Table 512 ChannelInput) : State :=
  let s := s.advanceClock.tickAll
  let s := (s.takeSwitchCodes switch).transmitFrame switch
  let s := s.readStores
  let s := s.takeSlots.writeRings
  let s := s.frameUnits.flagClearUnits s.slotNow
  s.selectRoutes

/-- R175: a frame of start-up: start-up remaining and the inter-byte timers run, and nothing else. -/
def State.startUpFrame (s : State) : State := s.setLinks { s.links.tickBytes with startUp := s.links.startUp.tick }

/-- SITE_FRAME (R113, R175): the frame in which start-up remaining reaches 0 takes the switch's codes already (R14). A read
that finds no unread frame takes its slip step once the frame's work is done (assumption 14). DESIGN CHOICE (assumption 52): a
repetition slip so comes before every WINDOW_END of its frame, where R88 allows either order. -/
def execSiteFrame (switch : Table 512 ChannelInput) (s : State) : Answer :=
  if s.running then
    .next (s.repeating.foldl (fun t n => t.slipStep n .repetition 0) (s.frameWork switch))
  else if s.startUpFrame.links.startUp.due then .next (s.startUpFrame.takeSwitchCodes switch)
  else .next s.startUpFrame

/-! ### Reset and start-up (R174, R175) -/

/-- POWER_ON_RESET (R174): what the line and optical receivers show is kept, and the straps are read (R173). -/
def execPowerOnReset (primary craft : Straps) (s : State) : Answer :=
  .next (.resetWith .power (strapRate primary) (strapRate craft) (fun n => (s.span n).lossOfSignal) s.lanes.a.lossOfLight
    s.lanes.b.lossOfLight s.pending s.freeCount)

/-- The switch's side of the first frame as START_UP_END sends it: its samples are the idle code, as no circuit is attached
yet; its codes were taken by the SITE_FRAME that brought start-up remaining to 0 (assumption 15). -/
def quietSwitch (idle : Byte) : Table 512 ChannelInput := .fill ⟨idle, .idle⟩

/-- START_UP_END (R175): the first frame, FC = 0, is sent, the START report is handed, and the ports begin to take commands:
a head that spells none is refused at once (R178). -/
def execStartUpEnd (s : State) : Answer :=
  if s.links.startUp.due then
    let s := s.setLinks { s.links with startUp := .load 0 }
    let s := s.transmitFrame (quietSwitch s.node.idleCode)
    let s := s.handReport (.start s.links.resetCause s.links.primary.rate s.links.craft.rate)
    .next ((s.takeRefused .primary).takeRefused .craft)
  else .next s

/-! ### Rows of a circuit's inputs and timers -/

/-- SWITCH_LINE_CONDITION_CHANGE (R14, R16). -/
def execSwitchLineConditionChange (c : CircuitNo) (s : State) : Answer :=
  if (s.highway.channels.get c).due then
    let t := s.setHighway { s.highway with channels := s.highway.channels.modify c LineRecognition.recognise }
    .next (t.inputChanged c (s.busy c))
  else .next s

/-- R28: with attempts left, a new number and a backoff. -/
def State.backOff (s : State) (c : CircuitNo) : State :=
  match (s.circuit c).context with
  | some x => s.takeNumber.putContext c { x with number := s.peer.counter, backoff := some (.load s.node.backoff) }
  | none => s

/-- RESPONSE_TIMER_EXPIRY (R28, R31, R127). -/
def execResponseTimerExpiry (c : CircuitNo) (s : State) : Answer :=
  if (s.peer.response.get c).map Countdown.due = some true then
    let t := s.stopResponse c
    match (s.circuit c).state with
    | .proposing => .next (t.consumeAttempt c .peerTimeout fun t => t.backOff c)
    | .awaiting => .next (t.abandon c .peerTimeout none)
    | .vacant | .copper | .measuring | .aligned | .fibre => .next t
  else .next s

/-- RETRY_BACKOFF_EXPIRY (R28, R33). -/
def execRetryBackoffExpiry (c : CircuitNo) (s : State) : Answer :=
  match (s.circuit c).context with
  | some x =>
    if x.backoff.map Countdown.due = some true then
      let t := s.putContext c { x with backoff := none }
      match (s.circuit c).state with
      | .proposing => .next (t.sendPropose c x.number)
      | .measuring => .next (t.bridgeWaitTest c)
      | .vacant | .copper | .awaiting | .aligned | .fibre => .next t
    else .next s
  | none => .next s

/-- BRIDGE_LIMIT_EXPIRY (R32). -/
def execBridgeLimitExpiry (c : CircuitNo) (s : State) : Answer :=
  if (s.circuit c).state = .measuring ∧ ((s.circuit c).context.map fun x => x.bridgeLimit.due) = some true then
    .next (s.abandon c .bridgeLimit none)
  else .next s

/-- DEFER_LIMIT_EXPIRY (R36). -/
def execDeferLimitExpiry (c : CircuitNo) (s : State) : Answer :=
  if (s.circuit c).state = .aligned ∧ ((s.circuit c).context.map fun x => x.deferred && x.deferLimit.due) = some true then
    .next (s.abandon c .deferLimit none)
  else .next s

/-- FALLBACK_HOLD_EXPIRY (R45): the hold stands at 0, and the release test is made. -/
def execFallbackHoldExpiry (c : CircuitNo) (s : State) : Answer :=
  match (s.circuit c).state, (s.circuit c).context with
  | .fibre, some x =>
    if x.hold.map Countdown.due = some true then .next ((s.putContext c { x with hold := some (.load 0) }).releaseTest c)
    else .next s
  | _, _ => .next s

/-- DRAIN_END (R7). -/
def execDrainEnd (c : CircuitNo) (s : State) : Answer :=
  match (s.circuit c).fibreTransmit with
  | .draining left => if left.due then .next (s.putCircuit c { s.circuit c with fibreTransmit := .off }) else .next s
  | .bridged => .next s
  | .off => .next s

end Sys2Proof.Machine
end

