-- ==== Sys2Proof/Machine/Lanes.lean ====
section
/-! DEFINITION. The rows of the Lane Interface (chapter 5). -/

namespace Sys2Proof.Machine

/-! ### Received frames (R97, R98, R101) -/

/-- R190: the slot content of a frame. -/
def frameContent (f : LaneFrame) : Table 512 SlotContent := .ofFn (slotContent f)

/-- LANE_FRAME_RECEIVED (R97, R98, R101, R112). A lane without light takes nothing. DESIGN CHOICE (assumption 63): of the eighth
frame, with which the lane is to go UP, the word and the slot content are taken (R97, R101), and the overhead bytes are not read: the
lane is still DOWN here, and its overhead receiver begins with the next frame. -/
def execLaneFrameReceived (i : Lane) (f : LaneFrame) (s : State) : Answer :=
  if s.running ∧ (s.lane i).lossOfLight = false then
    if (s.lane i).framed then
      let t := s.setLane i { (s.lane i).checkFrame (f.word == laneWord) with content := frameContent f }
      .next (t.receiveOverhead i f.overhead.data)
    else .next (s.setLane i { (s.lane i).huntFrame (f.word == laneWord) with content := frameContent f })
  else .next s

/-! ### Recognition (R102, R103) -/

/-- A step of recognition that has been taken on a slot; it stands when the frame's content is taken again (assumption 29). -/
def State.updateSlot (s : State) (n : SlotNo) (f : SlotRecognition → SlotRecognition) : State :=
  s.setLanes { s.lanes with slots := s.lanes.slots.modify n f, slotsBefore := s.lanes.slotsBefore.modify n f }

/-- SLOT_LINE_CONDITION_CHANGE (R102): an input of the idle and busy test of a circuit that receives from the slot. -/
def execSlotLineConditionChange (n : SlotNo) (s : State) : Answer :=
  let r := s.lanes.slots.get n
  if r.line.due then
    let t := s.updateSlot n fun x => { x with line := r.line.recognise }
    match s.slotOwner n with
    | some c => if (s.circuit c).state = .fibre then .next (t.inputChanged c (s.busy c)) else .next t
    | none => .next t
  else .next s

/-- R33, R52: a circuit's flag is recognised as present. -/
def State.flagRecognised (s : State) (c : CircuitNo) : State :=
  if (s.circuit c).bridgedState = true ∧ s.spanDownOf (s.circuit c) = true then s.rescue c .invalid else s.bridgeWaitTest c

/-- BRIDGE_FLAG_RECOGNISED (R103). -/
def execBridgeFlagRecognised (n : SlotNo) (s : State) : Answer :=
  let r := s.lanes.slots.get n
  if r.flag.due then
    let t := s.updateSlot n fun x => { x with flag := r.flag.recognise }
    match s.slotOwner n with
    | some c => if r.flag.recognise.present then .next (t.flagRecognised c) else .next t
    | none => .next t
  else .next s

/-! ### Lane states -/

/-- LANE_UP (R97). -/
def execLaneUp (i : Lane) (s : State) : Answer :=
  if (s.lane i).state = .down ∧ (s.lane i).upDue = true then .next (s.laneRaised i) else .next s

/-- LANE_LOSS_OF_LIGHT (R97, R98): a framed lane goes DOWN; a lane in DOWN gives its candidate up. -/
def execLaneLossOfLight (i : Lane) (s : State) : Answer :=
  let t := s.setLane i { s.lane i with lossOfLight := true }
  if (s.lane i).framed then .next (t.laneLowered i .light)
  else .next (t.setLane i { t.lane i with candidate := none, upDue := false })

/-- LANE_ALIGNMENT_LOSS (R98). -/
def execLaneAlignmentLoss (i : Lane) (s : State) : Answer :=
  if (s.lane i).framed = true ∧ (s.lane i).badDue = true then .next (s.laneLowered i .alignment) else .next s

/-- LANE_DEGRADED (R99). -/
def execLaneDegraded (i : Lane) (s : State) : Answer :=
  if (s.lane i).state = .up ∧ Config.degradeErrors ≤ (s.lane i).errors.getD 0 then
    .next (s.laneGraded i { s.lane i with state := .degraded } .errors)
  else .next s

/-- ERROR_INTERVAL_END (R99). -/
def execErrorIntervalEnd (i : Lane) (s : State) : Answer :=
  if (s.lane i).framed = true ∧ ((s.lane i).interval.map Countdown.due) = some true then
    if (s.lane i).endInterval.state = (s.lane i).state then .next (s.setLane i (s.lane i).endInterval)
    else .next (s.laneGraded i (s.lane i).endInterval .cleared)
  else .next s

/-- LANE_LIGHT_RETURN (R97): the indication goes; the lane in DOWN has no candidate. -/
def execLaneLightReturn (i : Lane) (s : State) : Answer := .next (s.setLane i { s.lane i with lossOfLight := false })

/-- HOLD_OFF_EXPIRY (R106). -/
def execHoldOffExpiry (s : State) : Answer :=
  if s.lanes.holdOff.due then .next (s.setLanes { s.lanes with holdOff := .load 0 }) else .next s

/-- DUPLICATE_WINDOW_EXPIRY (R112). -/
def execDuplicateWindowExpiry (s : State) : Answer :=
  if s.lanes.duplicate.due then .next (s.setLanes { s.lanes with duplicate := .load 0 }) else .next s

/-! ### Commands (R106 to R109, R114, R115) -/

/-- A command that names a lane; any other value is refused FORMAT. -/
def withLane (s : State) (lane : Nat) (rule : Lane → Handled) : Handled :=
  match laneOfCode lane with
  | some i => rule i
  | none => answered s .format .empty

/-- R107. -/
def ruleSelect (lane : Nat) (s : State) : Handled :=
  withLane s lane fun i =>
    if s.lanes.working = i then answered s .ok .empty
    else if (s.lane i).state ≠ .up then answered s .state .empty
    else if (s.lane i).lockout then answered s .state .empty
    else if 0 < s.lanes.holdOff.left then answered s .holdOff (.holdOffLeft s.lanes.holdOff.left)
    else answered (s.changeWorking .select) .ok .empty

/-- LANE CONTROL SELECT (R107). -/
def execLaneControlSelect (port : Port) (tag : Byte) (lane : Nat) (s : State) : Answer :=
  runCommand (.laneControlSelect port tag lane) port (ruleSelect lane) s

/-- R108: what the reply to LOCKOUT and CLEAR carries. -/
def State.selection (s : State) : ReplyBody :=
  .laneSelection s.lanes.working s.lanes.a.lockout s.lanes.b.lockout s.lanes.holdOff.left

/-- R108: a lockout flag written, and the working-lane test made. -/
def State.setLockout (s : State) (i : Lane) (flag : Bool) (cause : WorkingCause) : State :=
  (s.setLane i { s.lane i with lockout := flag }).workingTest cause

/-- R108, LOCKOUT. -/
def ruleLockout (lane : Nat) (s : State) : Handled :=
  withLane s lane fun i =>
    if (s.lane i).lockout then answered s .ok s.selection
    else if (s.lane (otherLane i)).lockout then answered s .state .empty
    else answered (s.setLockout i true .lockout) .ok (s.setLockout i true .lockout).selection

/-- LANE CONTROL LOCKOUT (R108). -/
def execLaneControlLockout (port : Port) (tag : Byte) (lane : Nat) (s : State) : Answer :=
  runCommand (.laneControlLockout port tag lane) port (ruleLockout lane) s

/-- R108, CLEAR. -/
def ruleClear (lane : Nat) (s : State) : Handled :=
  withLane s lane fun i =>
    if (s.lane i).lockout then answered (s.setLockout i false .automatic) .ok (s.setLockout i false .automatic).selection
    else answered s .ok s.selection

/-- LANE CONTROL CLEAR (R108). -/
def execLaneControlClear (port : Port) (tag : Byte) (lane : Nat) (s : State) : Answer :=
  runCommand (.laneControlClear port tag lane) port (ruleClear lane) s

/-- R109: a transmit shutdown flag written. -/
def State.setShutdown (s : State) (i : Lane) (flag : Bool) : State := s.setLane i { s.lane i with shutdown := flag }

/-- R109: what the reply to SHUT and RESTORE carries. -/
def State.shutdownFlags (s : State) : ReplyBody := .shutdowns s.lanes.a.shutdown s.lanes.b.shutdown

/-- R109, SHUT. -/
def ruleShut (lane : Nat) (s : State) : Handled :=
  withLane s lane fun i =>
    if (s.lane i).shutdown then answered s .ok s.shutdownFlags
    else if (s.lane (otherLane i)).shutdown then answered s .state .empty
    else answered (s.setShutdown i true) .ok (s.setShutdown i true).shutdownFlags

/-- LANE CONTROL SHUT (R109). -/
def execLaneControlShut (port : Port) (tag : Byte) (lane : Nat) (s : State) : Answer :=
  runCommand (.laneControlShut port tag lane) port (ruleShut lane) s

/-- R109, RESTORE. -/
def ruleRestore (lane : Nat) (s : State) : Handled :=
  withLane s lane fun i => answered (s.setShutdown i false) .ok (s.setShutdown i false).shutdownFlags

/-- LANE CONTROL RESTORE (R109). -/
def execLaneControlRestore (port : Port) (tag : Byte) (lane : Nat) (s : State) : Answer :=
  runCommand (.laneControlRestore port tag lane) port (ruleRestore lane) s

/-- R106: the hold-off setting, in seconds, at most 60. -/
def ruleHoldOff (seconds : Nat) (s : State) : Handled :=
  let n := min seconds 60
  answered (s.setLanes { s.lanes with holdOffSeconds := n }) .ok (.holdOffSetting n)

/-- LANE CONTROL HOLD-OFF (R106). -/
def execLaneControlHoldOff (port : Port) (tag : Byte) (seconds : Nat) (s : State) : Answer :=
  runCommand (.laneControlHoldOff port tag seconds) port (ruleHoldOff seconds) s

def LaneRecord.view (l : LaneRecord) : LaneView :=
  ⟨l.state, l.lossOfLight, l.lockout, l.shutdown, if l.framed then l.errors else none,
    if l.framed then l.interval.map Countdown.left else none⟩

/-- R115: what LANE STATUS carries. -/
def State.laneStatusView (s : State) : LaneStatusView :=
  ⟨s.lanes.a.view, s.lanes.b.view, s.lanes.working, s.lanes.holdOff.left, s.lanes.holdOffSeconds, s.lanes.timing, s.fc,
    s.lanes.queue.length, s.lanes.lost, s.align.pause.left⟩

/-- R115. -/
def ruleLaneStatus (s : State) : Handled := answered s .ok (.laneStatus s.laneStatusView)

/-- LANE STATUS (R115). -/
def execLaneStatus (port : Port) (tag : Byte) (s : State) : Answer :=
  runCommand (.laneStatus port tag) port ruleLaneStatus s

/-- R72, R114: a load of FC. -/
def State.loadFrameClock (s : State) (value : FrameCount) : State :=
  (s.shiftFrameClock (value - s.fc)).setLanes { s.lanes with fc := value }

/-- R114. -/
def ruleSetFrameClock (value : FrameCount) (s : State) : Handled :=
  answered (s.loadFrameClock value) .ok (.frameClock s.fc value)

/-- SET FRAME CLOCK (R114). -/
def execSetFrameClock (port : Port) (tag : Byte) (value : FrameCount) (s : State) : Answer :=
  runCommand (.setFrameClock port tag value) port (ruleSetFrameClock value) s

end Sys2Proof.Machine
end

