-- ==== Sys2Proof/Machine/Links.lean ====
section
/-! DEFINITION. The rows of the Management Links (chapter 9). -/

namespace Sys2Proof.Machine

/-! ### Receiving (R175 to R177) -/

/-- R176: a receiver in HUNT, with no inter-byte timer. -/
def PortRecord.hunting (p : PortRecord) : PortRecord := { p with receiver := none, broken := false, interByte := none }

def PortRecord.countLength (p : PortRecord) : PortRecord :=
  { p with counts := { p.counts with lengthDiscards := raise p.counts.lengthDiscards } }

def PortRecord.countCrc (p : PortRecord) : PortRecord :=
  { p with counts := { p.counts with crcDiscards := raise p.counts.crcDiscards } }

def PortRecord.countTimeout (p : PortRecord) : PortRecord :=
  { p with counts := { p.counts with timeoutDiscards := raise p.counts.timeoutDiscards } }

def PortRecord.countKind (p : PortRecord) : PortRecord :=
  { p with counts := { p.counts with kindDiscards := raise p.counts.kindDiscards } }

/-- The QUEUE_FULL answers in a reply output. -/
def fullAnswers (output : List OutFrame) : Nat :=
  (output.filter fun f =>
    match f with
    | .queueFull _ _ => true
    | .reply .. | .report _ => false).length

/-- R177: a COMMAND that checks: into the input queue, or answered QUEUE_FULL, or dropped. -/
def PortRecord.queueCommand (p : PortRecord) (q : QueuedCommand) : PortRecord :=
  if p.input.length < Config.inputDepth then
    { p with input := p.input ++ [q], counts := { p.counts with framesTaken := raise p.counts.framesTaken } }
  else if fullAnswers p.output < Config.inputDepth then
    { p with output := p.output ++ [.queueFull q.tag q.type],
             counts := { p.counts with queueFullAnswered := raise p.counts.queueFullAnswered } }
  else { p with counts := { p.counts with queueFullDropped := raise p.counts.queueFullDropped } }

/-- R177: a complete frame that checks, by its kind; the bytes are those after the sync byte and before the CRC. -/
def PortRecord.judgeFrame (p : PortRecord) : List Byte → PortRecord
  | _ :: _ :: kind :: tag :: type :: body => if kind = 1 then p.queueCommand ⟨tag, type, body⟩ else p.countKind
  | _ => p.countKind

/-- R173, R176: whether a complete frame's CRC checks; with a stop bit missing in it, it fails. -/
def PortRecord.crcHolds (p : PortRecord) (bytes : List Byte) : Bool :=
  !p.broken && crcBytes (bytes.take (bytes.length - 2)) == bytes.drop (bytes.length - 2)

/-- R175, R176: a frame whose last CRC byte has come; in start-up it is discarded uncounted. -/
def PortRecord.completeFrame (p : PortRecord) (judging : Bool) (bytes : List Byte) : PortRecord :=
  if judging then
    if p.crcHolds bytes then p.hunting.judgeFrame (bytes.take (bytes.length - 2)) else p.hunting.countCrc
  else p.hunting

/-- R176: a byte gathered, and the inter-byte timer restarted. -/
def PortRecord.gather (p : PortRecord) (bytes : List Byte) : PortRecord :=
  { p with receiver := some bytes, interByte := some (.load Config.interByteFrames) }

/-- R176: a byte in IN-FRAME, the gathered bytes now being `bytes`. -/
def PortRecord.inFrame (p : PortRecord) (judging : Bool) (bytes : List Byte) : PortRecord :=
  match bytes with
  | l1 :: l2 :: _ =>
    if 1020 < num2 l1 l2 then p.hunting.countLength
    else if bytes.length = num2 l1 l2 + 7 then p.completeFrame judging bytes
    else p.gather bytes
  | _ => p.gather bytes

/-- R173, R176: one byte of the input line, taken as received whether or not its stop bit is in place. -/
def PortRecord.receiveByte (p : PortRecord) (judging : Bool) (b : LinkByte) : PortRecord :=
  match p.receiver with
  | none => if b.value = 0xA5 then { p with broken := !b.stop }.gather [] else p
  | some bytes => { p with broken := p.broken || !b.stop }.inFrame judging (bytes ++ [b.value])

/-- One byte at a port, and the refusal of a head that spells no command (R178). -/
def State.receiveByte (port : Port) (s : State) (b : LinkByte) : State :=
  (s.setPort port ((s.port port).receiveByte s.judging b)).takeRefused port

/-- MANAGEMENT_FRAME_RECEIVED (R176, R177): a run of bytes on a port's input line, such as one whole frame. -/
def execManagementFrameReceived (port : Port) (bytes : List LinkByte) (s : State) : Answer :=
  .next (bytes.foldl (State.receiveByte port) s)

/-- INTER_BYTE_TIMEOUT (R176). -/
def execInterByteTimeout (port : Port) (s : State) : Answer :=
  if (s.port port).receiver.isSome = true ∧ (s.port port).interByte.map Countdown.due = some true then
    .next (s.setPort port (s.port port).hunting.countTimeout)
  else .next s

/-! ### Sending (R180, R184) -/

/-- R180: the transmitter takes a frame. -/
def State.startReport (s : State) (port : Port) : State :=
  match port, s.links.reports with
  | .primary, r :: rest =>
    (s.setLinks { s.links with reports := rest }).setPort .primary { s.links.primary with transmitter := some (.report r) }
  | .primary, [] => s
  | .craft, _ => s

/-- FRAME_TRANSMIT_START (R180): an idle transmitter takes the oldest reply, or on the primary port the head report. -/
def execFrameTransmitStart (port : Port) (s : State) : Answer :=
  if s.running ∧ (s.port port).transmitter = none then
    match (s.port port).output with
    | f :: rest => .next (s.setPort port { s.port port with output := rest, transmitter := some f })
    | [] => .next (s.startReport port)
  else .next s

/-- R174, R184: the part after a RESET: cause COMMAND, the line rates kept. -/
def State.commandReset (s : State) : State :=
  .resetWith .command s.links.primary.rate s.links.craft.rate (fun n => (s.span n).lossOfSignal) s.lanes.a.lossOfLight
    s.lanes.b.lossOfLight s.pending s.freeCount

/-- R178: the execution slot empties, and the next head is refused at once if it spells no command. -/
def State.endReply (s : State) (port : Port) : State :=
  (s.setPort port { s.port port with transmitter := none, slot := none }).takeRefused port

/-- FRAME_TRANSMIT_END (R178, R180, R184): after the OK of a RESET, the part resets. -/
def execFrameTransmitEnd (port : Port) (s : State) : Answer :=
  match (s.port port).transmitter with
  | some (.reply _ type result _) =>
    if port = .primary ∧ type = 0x9F ∧ result = .ok then .next s.commandReset else .next (s.endReply port)
  | some (.queueFull _ _) => .next (s.setPort port { s.port port with transmitter := none })
  | some (.report _) => .next (s.setPort port { s.port port with transmitter := none })
  | none => .next s

/-! ### LINK STATUS and RESET (R184, R185) -/

def PortRecord.view (p : PortRecord) : PortView :=
  ⟨p.rate, p.receiver.isSome, p.input.length, p.slot, fullAnswers p.output, p.counts⟩

/-- R185: what LINK STATUS carries. -/
def State.linkView (s : State) : ReplyBody :=
  .linkStatus s.links.primary.view s.links.craft.view s.links.reports.length s.links.lostFlag s.links.reportsLost s.links.resetCause

/-- R185: the counts cleared; the lost flag stays. -/
def Links.cleared (l : Links) : Links :=
  { l with
    primary := { l.primary with counts := .reset }
    craft := { l.craft with counts := .reset }
    reportsLost := 0 }

/-- R185. -/
def ruleLinkStatus (clear : Bool) (s : State) : Handled :=
  answered (if clear then s.setLinks s.links.cleared else s) .ok s.linkView

/-- LINK STATUS (R185). -/
def execLinkStatus (port : Port) (tag : Byte) (clear : Bool) (s : State) : Answer :=
  runCommand (.linkStatus port tag clear) port (ruleLinkStatus clear) s

/-- R184, step 1. -/
def ruleReset (s : State) : Handled := answered s .ok .empty

/-- RESET (R184): the OK reply is built; the part resets when its last byte has been sent. -/
def execReset (port : Port) (tag : Byte) (s : State) : Answer := runCommand (.reset port tag) port ruleReset s

end Sys2Proof.Machine
end

