-- ==== Sys2Proof/Machine/Peer.lean ====
section
/-! DEFINITION. The Peer Protocol Engine (chapter 6): the peer link, the received messages, SET NODE and PEER STATUS. -/

namespace Sys2Proof.Machine

/-! ### The peer link (R118 to R123) -/

/-- R123: a PEER report with the own node number and mode in force. -/
def State.peerReport (s : State) (kind : PeerReportKind) : State := s.handReport (.peer s.node.node s.node.mode kind)

/-- The node number last heard, if any. -/
def State.heardNode (s : State) : Option Nat := s.peer.heard.map PeerHeard.node

/-- R122: the link leaves UP: state, report with the count of circuits it abandons, and the abandonments. -/
def State.leaveUp (s : State) (after : LinkState) (kind : Nat → PeerReportKind) : State :=
  let count := s.migratingCircuits.length
  ((s.setPeer { s.peer with state := after, qualified := none }).peerReport (kind count)).abandonAll

/-- R119: the link enters UP with a qualified peer node. -/
def State.enterUp (s : State) (node : Nat) (mode : HandshakeMode) : State :=
  (s.setPeer { s.peer with state := .up, qualified := some node }).peerReport (.up node mode)

/-- R120, R121: a link that goes DOWN for a cause, by its state. -/
def State.linkDown (s : State) (cause : PeerDownCause) : State :=
  match s.peer.state with
  | .up => s.leaveUp .down fun n => .down cause s.heardNode n
  | .mismatch => (s.setPeer { s.peer with state := .down }).peerReport (.down cause s.heardNode 0)
  | .down => s

/-- R119, R123: the test that a HELLO fails, if any, in the order of the table of kinds. -/
def helloTest (own : Nat) (ownMode : HandshakeMode) (node : Nat) (mode : HandshakeMode) : Option FailedTest :=
  if node = 0 then some .nodeZero else if node = own then some .nodeEqual else if mode ≠ ownMode then some .mode else none

/-- R119: a HELLO judged while the own node number is set. -/
def State.judgeHello (s : State) (node : Nat) (mode : HandshakeMode) : State :=
  match helloTest s.node.node s.node.mode node mode, s.peer.state with
  | none, .down => s.enterUp node mode
  | none, .mismatch => s.enterUp node mode
  | none, .up =>
    if s.peer.qualified = some node then s
    else (s.leaveUp .down fun n => .down .peerChange s.heardNode n).enterUp node mode
  | some t, .down => (s.setPeer { s.peer with state := .mismatch }).peerReport (.mismatch t node mode 0)
  | some _, .mismatch => s
  | some t, .up => s.leaveUp .mismatch fun n => .mismatch t node mode n

/-- R119: a valid HELLO. -/
def State.takeHello (s : State) (node : Nat) (mode : HandshakeMode) : State :=
  let s := s.setPeer { s.peer with heard := some ⟨node, mode, s.fc⟩, silence := some (.load Config.silenceFrames) }
  if s.node.node = 0 then s else s.judgeHello node mode

/-- R118: a HELLO with the own values, and the timer loaded again. -/
def State.sendHello (s : State) : State :=
  (s.setPeer { s.peer with hello := some (.load Config.helloFrames) }).queueMessage (.hello s.node.node s.node.mode)

/-- HELLO_TIMER_EXPIRY (R118). -/
def execHelloTimerExpiry (s : State) : Answer :=
  if s.peer.hello.map Countdown.due = some true then .next s.sendHello else .next s

/-- SILENCE_EXPIRY (R120). -/
def execSilenceExpiry (s : State) : Answer :=
  if s.peer.silence.map Countdown.due = some true then
    .next ((s.setPeer { s.peer with silence := none }).linkDown .silence)
  else .next s

/-! ### Received messages (R124) -/

/-- R124: the message at the head of the inbox is taken and the receive count of its type rises. A row whose message is
not at the head changes nothing (assumptions 2 and 3). -/
def takeMessage (m : PeerMessage) (rule : State → State) (s : State) : Answer :=
  match s.peer.inbox with
  | h :: rest =>
    if h = m then
      .next (rule (s.setPeer { s.peer with inbox := rest, received := s.peer.received.modify (messageIndex m) raise }))
    else .next s
  | [] => .next s

def State.setDiscards (s : State) (d : DiscardCounts) : State := s.setPeer { s.peer with discards := d }

def State.countIgnored (s : State) : State := s.setDiscards { s.peer.discards with ignored := raise s.peer.discards.ignored }

def State.countUnresolved (s : State) : State :=
  s.setDiscards { s.peer.discards with unresolved := raise s.peer.discards.unresolved }

def State.countStale (s : State) : State := s.setDiscards { s.peer.discards with stale := raise s.peer.discards.stale }

def State.countInapplicable (s : State) : State :=
  s.setDiscards { s.peer.discards with inapplicable := raise s.peer.discards.inapplicable }

/-- R124, cases 3, 5 and 6: a migration message, by the link state and the resolution of its code. -/
def dispatch (m : PeerMessage) (code : TrunkCode) (miss : State → State) (rule : CircuitNo → State → State) (s : State) : State :=
  if s.peer.state ≠ .up then s.countIgnored
  else match s.directory.lookup code with
    | some (c, _) => rule c s
    | none => miss (s.recordMiss code .peer (messageType m))

/-- RECEIVED_HELLO (R119). -/
def execReceivedHello (node : Nat) (mode : HandshakeMode) (s : State) : Answer :=
  takeMessage (.hello node mode) (fun s => s.takeHello node mode) s

/-! ### Proposing and accepting (R26, R29, R30, R128 to R134) -/

/-- R29, R30: an acceptor that has bridged and answered goes on by the handshake mode: AWAITING with its response timer,
or MEASURING in BRIDGE-WAIT. -/
def State.acceptorGoesOn (s : State) (c : CircuitNo) : State :=
  match s.node.mode with
  | .threeWay => (s.putCircuit c { s.circuit c with state := .awaiting, buildOut := 0 }).startResponse c
  | .twoWay => s.enterMeasuring c .bridgeWait

/-- R29: the slot attached at an acceptance. -/
def State.attachProposed (s : State) (c : CircuitNo) (slot : SlotNo) : State :=
  if (s.circuit c).fibre.isSome then s
  else ((s.setSlotOwner slot (some c)).putCircuit c { s.circuit c with fibre := some slot }).fillRing c

/-- R29: acceptance. The test of BRIDGE-WAIT comes after the step's own event (assumption 18). -/
def State.acceptProposal (s : State) (c : CircuitNo) (code : TrunkCode) (slot : SlotNo) (number : Byte) : State :=
  let s := s.attachProposed c slot
  let s := s.putCircuit c { s.circuit c with fibreTransmit := .bridged, context := some (newContext s.node .acceptor number) }
  let s := s.queueMessage (.accept code slot number)
  ((s.acceptorGoesOn c).watchEvent c .migrateStart none).bridgeWaitTest c

/-- R30: a circuit that yields at a collision. -/
def State.yieldTo (s : State) (c : CircuitNo) (code : TrunkCode) (slot : SlotNo) (number : Byte) : State :=
  match (s.circuit c).context with
  | some x =>
    let s := s.stopResponse c
    let s := s.putCircuit c { s.circuit c with
      fibreTransmit := .bridged, context := some { x with role := .acceptor, number := number, backoff := none } }
    ((s.queueMessage (.accept code slot number)).acceptorGoesOn c).bridgeWaitTest c
  | none => s

/-- R131: a repeated proposal. -/
def State.repeatProposal (s : State) (c : CircuitNo) (x : Context) (code : TrunkCode) (slot : SlotNo) (number : Byte) : State :=
  let s := (s.putContext c { x with number := number }).queueMessage (.accept code slot number)
  if (s.circuit c).state = .awaiting then s.startResponse c else s

/-- Whether a slot's occupancy entry names another circuit (R128). -/
def State.slotTaken (s : State) (slot : SlotNo) (c : CircuitNo) : Bool :=
  match s.slotOwner slot with
  | some d => d != c
  | none => false

/-- R128: a PROPOSE for a circuit in COPPER. -/
def State.proposeToCopper (s : State) (c : CircuitNo) (code : TrunkCode) (slot : SlotNo) (number : Byte) : State :=
  if (s.circuit c).inhibit then s.sendDecline code number .inhibited
  else match (s.circuit c).fibre with
    | some n => if n = slot then s.acceptProposal c code slot number else s.sendDecline code number .slotConflict
    | none => if s.slotTaken slot c then s.sendDecline code number .slotConflict else s.acceptProposal c code slot number

/-- R130: a collision, settled by node number. -/
def State.collide (s : State) (c : CircuitNo) (code : TrunkCode) (slot : SlotNo) (number : Byte) : State :=
  if (s.peer.qualified.getD 0) < s.node.node then s.countInapplicable else s.yieldTo c code slot number

/-- R128, R131: a PROPOSE for an acceptor in AWAITING or MEASURING; an initiator in MEASURING is NOT-READY. -/
def State.proposeAgain (s : State) (c : CircuitNo) (x : Context) (code : TrunkCode) (slot : SlotNo) (number : Byte) : State :=
  if x.role = .initiator then s.sendDecline code number .notReady
  else if (s.circuit c).fibre = some slot then s.repeatProposal c x code slot number
  else s.sendDecline code number .slotConflict

/-- R128: a PROPOSE for a circuit. -/
def State.takePropose (c : CircuitNo) (code : TrunkCode) (slot : SlotNo) (number : Byte) (s : State) : State :=
  match (s.circuit c).state, (s.circuit c).context with
  | .copper, _ => s.proposeToCopper c code slot number
  | .proposing, _ =>
    if (s.circuit c).fibre = some slot then s.collide c code slot number else s.sendDecline code number .slotConflict
  | .awaiting, some x => s.proposeAgain c x code slot number
  | .measuring, some x => s.proposeAgain c x code slot number
  | .vacant, _ | .aligned, _ | .fibre, _ => s.sendDecline code number .notReady
  | .awaiting, none | .measuring, none => s.sendDecline code number .notReady

/-- R124, case 4: a PROPOSE while the directory is busy is declined without a lookup. -/
def State.judgePropose (code : TrunkCode) (slot : SlotNo) (number : Byte) (s : State) : State :=
  if s.peer.state = .up ∧ s.directory.busy = true then s.sendDecline code number .busy
  else dispatch (.propose code slot number) code (fun s => s.sendDecline code number .unknownTrunk)
    (fun c s => s.takePropose c code slot number) s

/-- RECEIVED_PROPOSE (R128). -/
def execReceivedPropose (code : TrunkCode) (slot : SlotNo) (number : Byte) (s : State) : Answer :=
  takeMessage (.propose code slot number) (State.judgePropose code slot number) s

/-- R26: an ACCEPT that matches. -/
def State.accepted (s : State) (c : CircuitNo) (number : Byte) : State :=
  let s := s.stopResponse c
  let s := s.putCircuit c { s.circuit c with fibreTransmit := .bridged }
  let s := if s.node.mode = .threeWay then s.sendFor c fun code => .confirm code number else s
  s.enterBridgeWait c

/-- R132: an ACCEPT for a circuit. -/
def State.takeAccept (c : CircuitNo) (slot : SlotNo) (number : Byte) (s : State) : State :=
  match (s.circuit c).context with
  | some x =>
    if x.number ≠ number then s.countStale
    else if (s.circuit c).state ≠ .proposing then s.countInapplicable
    else if x.backoff.isSome then s.countStale
    else if (s.circuit c).fibre = some slot then s.accepted c number
    else s.countInapplicable
  | none => s.countInapplicable

/-- RECEIVED_ACCEPT (R132). -/
def execReceivedAccept (code : TrunkCode) (slot : SlotNo) (number : Byte) (s : State) : Answer :=
  takeMessage (.accept code slot number) (dispatch (.accept code slot number) code State.countUnresolved fun c s => s.takeAccept c slot number) s

/-- R133: a DECLINE for a circuit. -/
def State.takeDecline (c : CircuitNo) (code : TrunkCode) (number : Byte) (reason : DeclineReason) (s : State) : State :=
  if reason = .noFallback then (s.setPeer { s.peer with lastRevertDecline := some ⟨code, s.fc⟩ }).countInapplicable
  else match (s.circuit c).context with
    | some x =>
      if x.number ≠ number then s.countStale
      else if (s.circuit c).state ≠ .proposing then s.countInapplicable
      else if x.backoff.isSome then s.countStale
      else s.abandon c .peerDeclined (some reason)
    | none => s.countInapplicable

/-- RECEIVED_DECLINE (R133). -/
def execReceivedDecline (code : TrunkCode) (number : Byte) (reason : DeclineReason) (s : State) : Answer :=
  takeMessage (.decline code number reason)
    (dispatch (.decline code number reason) code State.countUnresolved fun c s => s.takeDecline c code number reason) s

/-- R134: a CONFIRM for a circuit. -/
def State.takeConfirm (c : CircuitNo) (number : Byte) (s : State) : State :=
  match (s.circuit c).context with
  | some x =>
    if x.number ≠ number then s.countStale
    else if (s.circuit c).state = .awaiting then (s.stopResponse c).enterBridgeWait c
    else s.countInapplicable
  | none => s.countInapplicable

/-- RECEIVED_CONFIRM (R134). -/
def execReceivedConfirm (code : TrunkCode) (number : Byte) (s : State) : Answer :=
  takeMessage (.confirm code number) (dispatch (.confirm code number) code State.countUnresolved fun c s => s.takeConfirm c number) s

/-! ### After the bridge (R135 to R138) -/

/-- R135: SPLICED for a circuit. -/
def State.takeSpliced (c : CircuitNo) (s : State) : State :=
  match (s.circuit c).context with
  | some x => (s.putContext c { x with peerSpliced := true }).releaseTest c
  | none => s.countInapplicable

/-- RECEIVED_SPLICED (R135). -/
def execReceivedSpliced (code : TrunkCode) (s : State) : Answer :=
  takeMessage (.spliced code) (dispatch (.spliced code) code State.countUnresolved State.takeSpliced) s

/-- R51, R136: whether a received ABANDON reverts a circuit. -/
def State.abandonReverts (s : State) (r : Circuit) : Bool :=
  r.kept && s.spanUpOf r && (r.context.map Context.peerSpliced == some false)

/-- R136: an ABANDON for a circuit. -/
def State.takeAbandon (c : CircuitNo) (code : TrunkCode) (reason : Reason) (s : State) : State :=
  let s := s.setPeer { s.peer with lastAbandon := some ⟨code, reason, s.fc⟩ }
  if (s.circuit c).migrating then s.abandon c .peerAbandoned none
  else if s.abandonReverts (s.circuit c) then s.revertCircuit c .peerAbandoned
  else s.countInapplicable

/-- RECEIVED_ABANDON (R136). -/
def execReceivedAbandon (code : TrunkCode) (reason : Reason) (s : State) : Answer :=
  takeMessage (.abandon code reason) (dispatch (.abandon code reason) code State.countUnresolved fun c s => s.takeAbandon c code reason) s

/-- R137: the DECLINE that answers a REVERT. -/
def State.noFallback (code : TrunkCode) (s : State) : State := s.sendDecline code 0 .noFallback

/-- R137: a REVERT for a circuit. DESIGN CHOICE (assumption 48): in PROPOSING through ALIGNED it is taken as an ABANDON, but it
carries no reason, so the last ABANDON received stays as it was. -/
def State.takeRevert (c : CircuitNo) (code : TrunkCode) (s : State) : State :=
  match (s.circuit c).state with
  | .fibre =>
    if (s.circuit c).kept ∧ s.spanUpOf (s.circuit c) = true then s.revertCircuit c .peerReverted else s.noFallback code
  | .proposing | .awaiting | .measuring | .aligned => (s.abandon c .peerAbandoned none).queueMessage (.revertDone code)
  | .copper => s.queueMessage (.revertDone code)
  | .vacant => s.noFallback code

/-- RECEIVED_REVERT (R137). -/
def execReceivedRevert (code : TrunkCode) (s : State) : Answer :=
  takeMessage (.revert code) (dispatch (.revert code) code (State.noFallback code) fun c s => s.takeRevert c code) s

/-- R138: REVERT-DONE for a circuit. -/
def State.takeRevertDone (c : CircuitNo) (s : State) : State :=
  if (s.circuit c).draining then s.putCircuit c { s.circuit c with fibreTransmit := .off } else s.countInapplicable

/-- RECEIVED_REVERT_DONE (R138). -/
def execReceivedRevertDone (code : TrunkCode) (s : State) : Answer :=
  takeMessage (.revertDone code) (dispatch (.revertDone code) code State.countUnresolved State.takeRevertDone) s

/-- R138: RELEASE for a circuit. -/
def State.takeRelease (c : CircuitNo) (s : State) : State :=
  if (s.circuit c).kept then s.releaseFallback c .peerReleased else s.countInapplicable

/-- RECEIVED_RELEASE (R138). -/
def execReceivedRelease (code : TrunkCode) (s : State) : Answer :=
  takeMessage (.release code) (dispatch (.release code) code State.countUnresolved State.takeRelease) s

/-! ### SET NODE (R23, R118, R121) and PEER STATUS (R139) -/

/-- R23: a SET NODE that names no parameter. -/
def noNodeSettings (p : NodeSettings) : Bool :=
  p.node.isNone && p.mode.isNone && p.lead.isNone && p.window.isNone && p.retryLimit.isNone && p.backoff.isNone &&
    p.bridgeLimit.isNone && p.deferLimit.isNone && p.idleCode.isNone

/-- R23: a mode that is neither TWO-WAY nor THREE-WAY. -/
def badMode (p : NodeSettings) : Bool :=
  match p.mode with
  | some m => (modeOfCode m).isNone
  | none => false

/-- A parameter given, adjusted to its range, or the one in force (R23). -/
def adjusted (lo hi inForce : Nat) : Option Nat → Nat
  | some n => clampNat lo hi n
  | none => inForce

/-- R23: the parameters after a SET NODE. -/
def NodeParams.apply (q : NodeParams) (p : NodeSettings) : NodeParams :=
  { node := adjusted 0 65535 q.node p.node
    mode := ((p.mode.bind modeOfCode).getD q.mode)
    lead := adjusted 2 64 q.lead p.lead
    window := adjusted 16 255 q.window p.window
    retryLimit := adjusted 0 7 q.retryLimit p.retryLimit
    backoff := adjusted 400 32000 q.backoff p.backoff
    bridgeLimit := adjusted 8000 960000 q.bridgeLimit p.bridgeLimit
    deferLimit := adjusted 0 28800000 q.deferLimit p.deferLimit
    idleCode := (p.idleCode.map byteOf).getD q.idleCode }

/-- R118: the HELLO timer after a write that changes the node number or the mode. -/
def State.rehello (s : State) : State :=
  if s.node.node = 0 then s.setPeer { s.peer with hello := none } else s.sendHello

/-- R118, R121: a changed node number or mode: the HELLO first, then the link (assumption 19). -/
def State.localChange (s : State) : State :=
  let s := s.rehello
  (s.setPeer { s.peer with silence := none }).linkDown .localChange

/-- R23, R121: the node parameters written. -/
def State.writeNode (s : State) (p : NodeSettings) : State :=
  let q := s.node.apply p
  let t := s.setNode q
  if q.node ≠ s.node.node ∨ q.mode ≠ s.node.mode then t.localChange else t

/-- R23. -/
def ruleSetNode (p : NodeSettings) (s : State) : Handled :=
  if noNodeSettings p then answered s .format .empty
  else if badMode p then answered s .format .empty
  else answered (s.writeNode p) .ok (.nodeParams (s.writeNode p).node)

/-- SET NODE (R23). -/
def execSetNode (port : Port) (tag : Byte) (settings : NodeSettings) (s : State) : Answer :=
  runCommand (.setNode port tag settings) port (ruleSetNode settings) s

/-- R139: what PEER STATUS carries. -/
def State.peerView (s : State) : PeerView :=
  { state := s.peer.state, qualified := s.peer.qualified, node := s.node.node, mode := s.node.mode,
    hello := s.peer.hello.map Countdown.left, heard := s.peer.heard, silence := s.peer.silence.map Countdown.left,
    counter := s.peer.counter, responses := (s.peer.response.data.filter Option.isSome).length,
    received := s.peer.received, discards := s.peer.discards, declines := s.peer.declines,
    lastAbandon := s.peer.lastAbandon, lastRevertDecline := s.peer.lastRevertDecline }

/-- R139: the counts and the last-received records cleared. -/
def PeerEngine.cleared (p : PeerEngine) : PeerEngine :=
  { p with received := .fill 0, discards := ⟨0, 0, 0, 0, 0⟩, declines := .fill 0, lastAbandon := none, lastRevertDecline := none }

/-- R139. -/
def rulePeerStatus (clear : Bool) (s : State) : Handled :=
  answered (if clear then s.setPeer s.peer.cleared else s) .ok (.peerStatus s.peerView)

/-- PEER STATUS (R139). -/
def execPeerStatus (port : Port) (tag : Byte) (clear : Bool) (s : State) : Answer :=
  runCommand (.peerStatus port tag clear) port (rulePeerStatus clear) s

end Sys2Proof.Machine
end

