-- ==== Sys2Proof/Machine/Spans.lean ====
section
/-! DEFINITION. The rows of the Span Interface (chapter 4). -/

namespace Sys2Proof.Machine

/-! ### A received span frame (R78, R79, R81, R83, R84, R86) -/

/-- R84: the recognised condition and the candidate of one timeslot. -/
def Span.setCondition (u : Span) (i : TimeslotNo) (x : LineCondition × Option LineCondition) : Span :=
  { u with conditions := u.conditions.set i x.1, candidates := u.candidates.set i x.2 }

/-- R16: whether a circuit's selected receive route is copper. -/
def onCopper : PathState → Bool
  | .copper | .proposing | .awaiting | .measuring | .aligned => true
  | .vacant | .fibre => false

/-- R84: the recognised condition and the candidate of one timeslot after its code at a multiframe end. -/
def Span.afterCode (u : Span) (x : TimeslotNo × LineCondition) : LineCondition × Option LineCondition :=
  copperTake (u.conditions.get x.1) (u.candidates.get x.1) x.2

/-- R84: one timeslot's code at a multiframe end. A change is an event for the circuit of the occupancy entry, and an
input of its idle and busy test where the circuit receives from copper. A span that an earlier timeslot's event has
retired (R91) takes no more codes. -/
def State.takeCopperCode (n : SpanNo) (s : State) (x : TimeslotNo × LineCondition) : State :=
  if (s.span n).state = .up then
    let after := (s.span n).afterCode x
    let t := s.setSpan n ((s.span n).setCondition x.1 after)
    match s.timeslotOwner ⟨n, x.1⟩ with
    | some c =>
      if after.1 ≠ (s.span n).conditions.get x.1 ∧ onCopper (s.circuit c).state = true then t.inputChanged c (s.busy c) else t
    | none => t
  else s

/-- R83, R84: the end of a multiframe: its 31 codes in timeslot order, or none of them and no candidates. -/
def State.endMultiframe (s : State) (n : SpanNo) (codes : Option (List LineCondition)) : State :=
  match codes with
  | some l => ((List.finRange 31).zip l).foldl (State.takeCopperCode n) s
  | none => s.setSpan n { s.span n with candidates := .fill none }

/-- R79: one span frame in MULTIFRAME. A marker seen and not yet acted on is looked for again. -/
def Span.huntFrame (u : Span) (f : SpanFrame) : Span :=
  let u := { u with
    recent := (u.recent ++ [spanSamples f]).drop (u.recent.length + 1 - 2)
    marker := if u.upDue then none else u.marker
    upDue := false }.waitMarker
  let v := if u.nextEven then u.checkWord f else u.checkMarker f
  { v with nextEven := !u.nextEven }

/-- R81, R83: the signalling of one frame of an UP span: the word check of an even frame, and the multiframe's codes. -/
def Span.signalFrame (u : Span) (f : SpanFrame) : Span :=
  let v := if u.multiframe.next % 2 = 0 then u.checkWord f else u
  { v with multiframe := (u.multiframe.take f).advance }

/-- R83: the codes of a multiframe that a frame ends: absent when the frame is not its last. -/
def Span.endedCodes (u : Span) (f : SpanFrame) : Option (Option (List LineCondition)) :=
  if u.multiframe.next = 15 then some (u.multiframe.take f).codes else none

/-- R86: the write of a received frame into the store of a span that is UP, with its deletion slip. -/
def State.storeFrame (s : State) (n : SpanNo) (f : SpanFrame) : State :=
  if (s.span n).state = .up then
    let w := (s.span n).write (spanSamples f)
    let s := s.setSpan n w.1
    if w.2 then s.slipStep n .deletion w.1.store.length else s
  else s

/-- R83, R84: the signalling of one frame of an UP span, and the codes of a multiframe that it ends. -/
def State.signalFrame (s : State) (n : SpanNo) (f : SpanFrame) : State :=
  let t := s.setSpan n ((s.span n).signalFrame f)
  match (s.span n).endedCodes f with
  | some codes => t.endMultiframe n codes
  | none => t

/-- R83 to R87: one span frame of an UP span. DESIGN CHOICE (assumption 47): the line-condition events of a multiframe that
the frame ends come before the frame's write into the store and its deletion slip; the manual gives no order. A span
that one of those events retires takes no write (R90, R91). DESIGN CHOICE (assumption 50): the fourth frame in a row with a bad
word is written, with its deletion slip, before the row of the loss takes the span DOWN, where R82 allows either order. -/
def State.upFrame (s : State) (n : SpanNo) (f : SpanFrame) : State := (s.signalFrame n f).storeFrame n f

/-- SPAN_FRAME_RECEIVED (R86): the next 256 bits of a span's receive stream. In SEARCH they are examined bit by bit; from
the frame boundary on they are a span frame. A RETIRED span, and a span without signal, takes nothing. -/
def execSpanFrameReceived (n : SpanNo) (f : SpanFrame) (s : State) : Answer :=
  if s.running ∧ (s.span n).lossOfSignal = false then
    match (s.span n).state, (s.span n).phase with
    | .up, _ => .next (s.upFrame n f)
    | .down, some .search =>
      .next (s.setSpan n { s.span n with search := (s.span n).search.feed (frameBits f) })
    | .down, some .multiframe => .next (s.setSpan n ((s.span n).huntFrame f))
    | .down, none => .next s
    | .retired, _ => .next s
  else .next s

/-- FRAME_ALIGNMENT_FOUND (R78). The frame that carried the third word is even, so the next one is odd. -/
def execFrameAlignmentFound (n : SpanNo) (s : State) : Answer :=
  if (s.span n).state = .down ∧ (s.span n).phase = some .search ∧ (s.span n).search.found = true then
    .next (s.setSpan n { (s.span n).hunt with phase := some .multiframe, nextEven := false, recent := [] })
  else .next s

/-- MULTIFRAME_HUNT_LOSS (R79). -/
def execMultiframeHuntLoss (n : SpanNo) (s : State) : Answer :=
  if (s.span n).state = .down ∧ (s.span n).phase = some .multiframe ∧ (s.span n).badDue = true then
    .next (s.setSpan n (s.span n).hunt)
  else .next s

/-! ### Up and down -/

/-- R80, steps 1 to 5: a span unit that goes UP. The first multiframe is already begun and is not taken. -/
def Span.raised (u : Span) : Span :=
  { u with state := .up, phase := none, search := .reset, marker := none, upDue := false, badWords := 0, badDue := false,
           multiframe := ⟨2, (u.marker.map fun c => otherMarker c.marker).getD .first, none⟩, store := u.recent, last := none, recent := [],
           deletions := 0, repetitions := 0, candidates := .fill none }

/-- R80: the span goes UP. -/
def State.spanRaised (s : State) (n : SpanNo) : State :=
  let s := (s.setSpan n (s.span n).raised).evaluateAll
  s.handReport (.span n (.up (s.span n).store.length))

/-- SPAN_UP (R80). -/
def execSpanUp (n : SpanNo) (s : State) : Answer :=
  if (s.span n).state = .down ∧ (s.span n).upDue = true then .next (s.spanRaised n) else .next s

/-- R82, steps 1 to 3: a span unit that goes DOWN. -/
def Span.lowered (u : Span) : Span := { u.hunt with store := [], last := none, recent := [], candidates := .fill none }

/-- R82: the span goes DOWN. DESIGN CHOICE (assumption 51): the steps stand in the order in which R82 lists them, so a rescue whose
fallback is released at once (R45) and whose release retires the span (R91) hands the RETIRED report first, and the DOWN report
follows for a span that is already RETIRED. -/
def State.spanLowered (s : State) (n : SpanNo) (cause : SpanDownCause) : State :=
  let handed := (s.span n).record
  let s := (s.setSpan n (s.span n).lowered).spanLost n handed
  let s := s.setSpan n { s.span n with record := .invalid }
  s.handReport (.span n (.down cause handed))

/-- R78, R79, R81: a loss of signal by span state; a RETIRED span is not concerned. -/
def State.signalLost (s : State) (n : SpanNo) : State :=
  match (s.span n).state with
  | .up => s.spanLowered n .signal
  | .down => s.setSpan n (s.span n).hunt
  | .retired => s

/-- SPAN_LOSS_OF_SIGNAL (R78, R79, R81). -/
def execSpanLossOfSignal (n : SpanNo) (s : State) : Answer :=
  .next ((s.setSpan n { s.span n with lossOfSignal := true }).signalLost n)

/-- SPAN_BAD_ALIGNMENT (R81). -/
def execSpanBadAlignment (n : SpanNo) (s : State) : Answer :=
  if (s.span n).state = .up ∧ (s.span n).badDue = true then .next (s.spanLowered n .alignment) else .next s

/-- SPAN_SIGNAL_RETURN (R78): the indication goes; a DOWN span is in SEARCH with no candidate already. -/
def execSpanSignalReturn (n : SpanNo) (s : State) : Answer :=
  .next (s.setSpan n { s.span n with lossOfSignal := false })

/-! ### Commands (R90, R92, R93, R94) -/

/-- R93: a SET SPAN that names no setting. -/
def noSpanSettings (p : SpanSettings) : Bool :=
  p.wlo.isNone && p.whi.isNone && p.tolerance.isNone && p.slipReports.isNone && p.autoRetire.isNone

/-- R93: the five settings as an OK reply carries them. -/
def Span.settingsReply (u : Span) (n : SpanNo) : ReplyBody :=
  .spanSettings n u.wlo u.whi u.tolerance u.slipReports u.autoRetire

/-- R93. -/
def ruleSetSpan (span : Nat) (p : SpanSettings) (s : State) : Handled :=
  match spanOf span with
  | some n =>
    if noSpanSettings p then answered s .format .empty
    else
      let t := s.setSpan n ((s.span n).applySettings p)
      answered t .ok ((t.span n).settingsReply n)
  | none => answered s .range .empty

/-- SET SPAN (R93). -/
def execSetSpan (port : Port) (tag : Byte) (span : Nat) (settings : SpanSettings) (s : State) : Answer :=
  runCommand (.setSpan port tag span settings) port (ruleSetSpan span settings) s

/-- R94: the number of a span's occupied circuits that are in FIBRE. -/
def State.occupantsInFibre (s : State) (n : SpanNo) : Nat :=
  ((s.timeslots.get n).data.filter fun e =>
    match e with
    | some c => (s.circuit c).state == .fibre
    | none => false).length

/-- R94: what SPAN STATUS carries. -/
def State.spanView (s : State) (n : SpanNo) : SpanView :=
  let u := s.span n
  { state := u.state
    phase := if u.state = .down then u.phase else none
    lossOfSignal := if u.state = .retired then none else some u.lossOfSignal
    fill := if u.state = .up then some u.store.length else none
    deletions := u.deletions, repetitions := u.repetitions, record := u.record, wlo := u.wlo, whi := u.whi,
    tolerance := u.tolerance, slipReports := u.slipReports, autoRetire := u.autoRetire,
    occupied := s.occupiedEntries n, inFibre := s.occupantsInFibre n, conditions := u.conditions }

/-- R94. -/
def ruleSpanStatus (span : Nat) (s : State) : Handled :=
  match spanOf span with
  | some n => answered s .ok (.spanStatus (s.spanView n))
  | none => answered s .range .empty

/-- SPAN STATUS (R94). -/
def execSpanStatus (port : Port) (tag : Byte) (span : Nat) (s : State) : Answer :=
  runCommand (.spanStatus port tag span) port (ruleSpanStatus span) s

/-- R92: a restart by span state. -/
def State.restart (s : State) (n : SpanNo) : State :=
  match (s.span n).state with
  | .up => s.spanLowered n .command
  | .down => s.setSpan n (s.span n).hunt
  | .retired => s.setSpan n (s.span n).hunt

/-- R92. -/
def ruleRestartSpan (span : Nat) (s : State) : Handled :=
  match spanOf span with
  | some n => answered (s.restart n) .ok .empty
  | none => answered s .range .empty

/-- RESTART SPAN (R92). -/
def execRestartSpan (port : Port) (tag : Byte) (span : Nat) (s : State) : Answer :=
  runCommand (.restartSpan port tag span) port (ruleRestartSpan span) s

/-- R90. -/
def ruleRetireSpan (span : Nat) (s : State) : Handled :=
  match spanOf span with
  | some n =>
    if (s.span n).state = .retired then answered s .state .empty
    else if s.occupiedEntries n ≠ 0 then answered s .state (.occupiedEntries (s.occupiedEntries n))
    else answered (s.retireSpan n) .ok .empty
  | none => answered s .range .empty

/-- RETIRE SPAN (R90). -/
def execRetireSpan (port : Port) (tag : Byte) (span : Nat) (s : State) : Answer :=
  runCommand (.retireSpan port tag span) port (ruleRetireSpan span) s

end Sys2Proof.Machine
end

