-- ==== Sys2Proof/Machine/Trunks.lean ====
section
/-! DEFINITION. The rows of the Trunk Directory (chapter 7). -/

namespace Sys2Proof.Machine

/-! ### Entries -/

/-- The number of valid trunk entries. -/
def Directory.trunkCount (d : Directory) : Nat := (d.trunks.data.map fun b => (b.data.filter Option.isSome).length).sum

/-- The number of valid range entries. -/
def Directory.rangeCount (d : Directory) : Nat := (d.ranges.data.filter Option.isSome).length

/-- The first free way of a bucket, in way order (R142). -/
def Directory.freeWay (d : Directory) (b : Fin 128) : Option (Fin 4) :=
  (List.finRange 4).find? fun w => ((d.trunks.get b).get w).isNone

/-- R142: the way that a new entry for a code takes: in the primary bucket, or in the secondary when that is full. -/
def Directory.place (d : Directory) (code : TrunkCode) : Option (Fin 128 × Fin 4) :=
  match d.freeWay (primaryBucket code) with
  | some w => some (primaryBucket code, w)
  | none => (d.freeWay (secondaryBucket code)).map fun w => (secondaryBucket code, w)

/-- The lowest-numbered invalid range entry. -/
def Directory.freeRange (d : Directory) : Option (Fin 8) := (List.finRange 8).find? fun i => (d.ranges.get i).isNone

/-- The circuits of a range, with the code that each carries (R141). -/
def RangeEntry.members (e : RangeEntry) : List (CircuitNo × TrunkCode) :=
  (List.range e.size).filterMap fun i => (circuitOf (e.base + i)).map fun c => (c, ⟨e.route, e.member + i⟩)

/-- Whether two ranges cover a common code. -/
def RangeEntry.overlaps (a b : RangeEntry) : Bool :=
  a.route == b.route && decide (a.member < b.member + b.size) && decide (b.member < a.member + a.size)

/-- The lowest range entry that covers a code of a new range (R147, check 5). -/
def Directory.overlapping (d : Directory) (e : RangeEntry) : Option (Fin 8) :=
  (List.finRange 8).find? fun i => (d.ranges.get i).any fun x => x.overlaps e

/-- R149, R150: the states in which a circuit's code may not be removed. -/
def Circuit.holdsCode (r : Circuit) : Bool := r.migrating || r.kept

/-! ### ADD TRUNK (R146) -/

/-- R146, once the checks pass: the entry and the circuit's code. -/
def State.writeTrunk (s : State) (b : Fin 128) (w : Fin 4) (e : TrunkEntry) : State :=
  (s.setDirectory (s.directory.setTrunk b w (some e))).setCode e.circuit (some e.code)

/-- R146, checks 3 to 6. -/
def State.addTrunk (s : State) (code : TrunkCode) (c : CircuitNo) (pinned : Bool) : Handled :=
  match s.directory.findRange code with
  | some (i, _) => answered s .shadowed (.shadowedBy i)
  | none =>
    match s.directory.findTrunk code with
    | some (b, w, e) => answered s .duplicate (.duplicateOf e.circuit b w)
    | none =>
      match (s.circuit c).code with
      | some carried => answered s .conflict (.heldCode carried)
      | none =>
        match s.directory.place code with
        | some (b, w) => answered (s.writeTrunk b w ⟨code, c, pinned⟩) .ok (.trunkWritten b w)
        | none => answered s .full (.buckets (primaryBucket code).val (secondaryBucket code).val)

/-- R146. -/
def ruleAddTrunk (code : TrunkCode) (circuit : Nat) (pinned : Option Bool) (s : State) : Handled :=
  match circuitOf circuit with
  | some c =>
    if codeValid code = false then answered s .range .empty
    else if s.directory.busy then answered s .busy .empty
    else s.addTrunk code c (pinned.getD false)
  | none => answered s .range .empty

/-- ADD TRUNK (R146). -/
def execAddTrunk (port : Port) (tag : Byte) (code : TrunkCode) (circuit : Nat) (pinned : Option Bool) (s : State) : Answer :=
  runCommand (.addTrunk port tag code circuit pinned) port (ruleAddTrunk code circuit pinned) s

/-! ### ADD RANGE (R147, R148) -/

/-- R141: the sizes of a range. -/
def rangeSizes : List Nat := [1, 2, 4, 8, 16, 32, 64, 128, 256]

def State.setWalk (s : State) (w : Walk) : State := s.setDirectory { s.directory with walk := w }

/-- R147. -/
def ruleAddRange (port : Port) (tag : Byte) (e : RangeEntry) (s : State) : Handled :=
  if 4096 ≤ e.route ∨ 256 ≤ e.member ∨ 512 ≤ e.base ∨ 512 < e.base + e.size then answered s .range .empty
  else if rangeSizes.contains e.size = false ∨ e.member % e.size ≠ 0 then answered s .format .empty
  else if s.directory.busy then answered s .busy .empty
  else if s.directory.freeRange = none then answered s .full .empty
  else match s.directory.overlapping e with
    | some i => answered s .shadowed (.shadowedBy i)
    | none => (s.setWalk (.rangeCheck 0 false port tag e none), none)

/-- ADD RANGE (R147). -/
def execAddRange (port : Port) (tag : Byte) (route member size base : Nat) (s : State) : Answer :=
  runCommand (.addRange port tag route member size base) port (ruleAddRange port tag ⟨route, member, size, base⟩) s

/-- The bucket of a number, if there is one. -/
def bucketOf (n : Nat) : Option (Fin 128) := if h : n < 128 then some ⟨n, h⟩ else none

/-- R148: the first trunk entry of a bucket that lies inside a range. -/
def Directory.insideBucket (d : Directory) (e : RangeEntry) (b : Fin 128) : Option FoundTrunk :=
  (List.finRange 4).findSome? fun w =>
    match (d.trunks.get b).get w with
    | some t => if e.covers t.code then some ⟨b.val, w.val, t.code⟩ else none
    | none => none

/-- RANGE_CHECK_BUCKET (R148): this frame's bucket. -/
def execRangeCheckBucket (s : State) : Answer :=
  match s.directory.walk with
  | .rangeCheck next due port tag e found =>
    match bucketOf next with
    | some b =>
      if due then
        .next (s.setWalk (.rangeCheck (next + 1) false port tag e (if found.isSome then found else s.directory.insideBucket e b)))
      else .next s
    | none => .next s
  | .idle => .next s
  | .purge .. => .next s

/-- R148: a range entry written, with the codes of its circuits. -/
def State.writeRange (s : State) (i : Fin 8) (e : RangeEntry) : State :=
  e.members.foldl (fun s m => s.setCode m.1 (some m.2))
    (s.setDirectory { s.directory with ranges := s.directory.ranges.set i (some e) })

/-- R148: the completion of a range check. -/
def State.completeRange (s : State) (e : RangeEntry) (found : Option FoundTrunk) : Handled :=
  match found with
  | some t => answered s .shadowed (.trunkInside t)
  | none =>
    match e.members.findSome? fun m => (s.circuit m.1).code.map fun code => (m.1, code) with
    | some (c, code) => answered s .conflict (.carriedCode c code)
    | none =>
      match s.directory.freeRange with
      | some i => answered (s.writeRange i e) .ok (.rangeWritten i)
      | none => answered s .full .empty

/-- RANGE_CHECK_COMPLETE (R148). -/
def execRangeCheckComplete (s : State) : Answer :=
  match s.directory.walk with
  | .rangeCheck next _ port _ e found =>
    if next = 128 then .next (((s.setWalk .idle).completeRange e found).finish port) else .next s
  | .idle => .next s
  | .purge .. => .next s

/-! ### Removing and pinning (R149 to R151) -/

/-- R149, R151, checks 1 to 4: the trunk entry that a code resolves to, or the refusal; `range` is what the SHADOWED reply
carries. -/
def State.withTrunk (s : State) (port : Port) (type : Byte) (code : TrunkCode) (range : Fin 8 → ReplyBody)
    (rule : Fin 128 → Fin 4 → TrunkEntry → Handled) : Handled :=
  if codeValid code = false then answered s .range .empty
  else if s.directory.busy then answered s .busy .empty
  else match s.directory.findRange code with
    | some (i, _) => answered s .shadowed (range i)
    | none =>
      match s.directory.findTrunk code with
      | some (b, w, e) => rule b w e
      | none => answered (s.recordMiss code (portSource port) type) .notFound (.missed (missFields code))

/-- R149. -/
def ruleRemoveTrunk (port : Port) (code : TrunkCode) (s : State) : Handled :=
  s.withTrunk port 0x72 code .shadowedBy fun b w e =>
    if (s.circuit e.circuit).holdsCode then answered s .state (.circuitState e.circuit (s.circuit e.circuit).state)
    else answered (s.removeTrunkAt b w e) .ok (.trunkRemoved e.circuit b w)

/-- REMOVE TRUNK (R149). -/
def execRemoveTrunk (port : Port) (tag : Byte) (code : TrunkCode) (s : State) : Answer :=
  runCommand (.removeTrunk port tag code) port (ruleRemoveTrunk port code) s

/-- R150: a range entry removed, with the codes of its circuits. -/
def State.removeRangeAt (s : State) (i : Fin 8) (e : RangeEntry) : State :=
  e.members.foldl (fun s m => s.setCode m.1 none)
    (s.setDirectory { s.directory with ranges := s.directory.ranges.set i none })

/-- R150. -/
def ruleRemoveRange (index : Nat) (s : State) : Handled :=
  match batchOf index with
  | some i =>
    if s.directory.busy then answered s .busy .empty
    else match s.directory.ranges.get i with
      | some e =>
        match e.members.find? fun m => (s.circuit m.1).holdsCode with
        | some m => answered s .state (.circuitState m.1 (s.circuit m.1).state)
        | none => answered (s.removeRangeAt i e) .ok (.rangeRemoved e.size)
      | none => answered s .notFound .empty
  | none => answered s .range .empty

/-- REMOVE RANGE (R150). -/
def execRemoveRange (port : Port) (tag : Byte) (index : Nat) (s : State) : Answer :=
  runCommand (.removeRange port tag index) port (ruleRemoveRange index) s

/-- R151: the pinned flag written. -/
def State.writePin (s : State) (b : Fin 128) (w : Fin 4) (e : TrunkEntry) (flag : Bool) : State :=
  s.setDirectory (s.directory.setTrunk b w (some { e with pinned := flag }))

/-- R151. -/
def rulePin (port : Port) (type : Byte) (code : TrunkCode) (flag : Bool) (s : State) : Handled :=
  s.withTrunk port type code (fun _ => .empty) fun b w e => answered (s.writePin b w e flag) .ok (.pinned e.circuit b w flag)

/-- PIN (R151). -/
def execPin (port : Port) (tag : Byte) (code : TrunkCode) (s : State) : Answer :=
  runCommand (.pin port tag code) port (rulePin port 0x74 code true) s

/-- UNPIN (R151). -/
def execUnpin (port : Port) (tag : Byte) (code : TrunkCode) (s : State) : Answer :=
  runCommand (.unpin port tag code) port (rulePin port 0x75 code false) s

/-! ### PURGE (R152, R153) -/

/-- R152. -/
def rulePurge (port : Port) (tag : Byte) (s : State) : Handled :=
  if s.directory.busy then answered s .busy .empty else (s.setWalk (.purge 0 false port tag 0), none)

/-- PURGE (R152). -/
def execPurge (port : Port) (tag : Byte) (s : State) : Answer := runCommand (.purge port tag) port (rulePurge port tag) s

/-- R153: one way of a bucket: removed when it is unpinned and its circuit holds no migration and no fallback. -/
def purgeWay (b : Fin 128) (p : State × Nat) (w : Fin 4) : State × Nat :=
  match (p.1.directory.trunks.get b).get w with
  | some e =>
    if e.pinned = false ∧ (p.1.circuit e.circuit).holdsCode = false then (p.1.removeTrunkAt b w e, p.2 + 1) else p
  | none => p

/-- R153: a bucket walked: the state, and the entries removed so far. -/
def State.purgeBucket (s : State) (b : Fin 128) (removed : Nat) : State × Nat := (List.finRange 4).foldl (purgeWay b) (s, removed)

/-- PURGE_BUCKET (R153): this frame's bucket. -/
def execPurgeBucket (s : State) : Answer :=
  match s.directory.walk with
  | .purge next due port tag removed =>
    match bucketOf next with
    | some b =>
      if due then .next ((s.purgeBucket b removed).1.setWalk (.purge (next + 1) false port tag (s.purgeBucket b removed).2))
      else .next s
    | none => .next s
  | .idle => .next s
  | .rangeCheck .. => .next s

/-- PURGE_COMPLETE (R153). -/
def execPurgeComplete (s : State) : Answer :=
  match s.directory.walk with
  | .purge next _ port _ removed =>
    if next = 128 then .next ((answered (s.setWalk .idle) .ok (.purged removed)).finish port) else .next s
  | .idle => .next s
  | .rangeCheck .. => .next s

/-! ### Observing (R155, R156) -/

/-- R155, by trunk code. -/
def State.lookupCode (s : State) (port : Port) (code : TrunkCode) : Handled :=
  let d := s.directory
  if codeValid code = false then answered s .range .empty
  else match d.lookup code with
    | some (c, found) => answered s .ok (.lookupCode c found (s.circuit c).state d.trunkCount d.rangeCount)
    | none =>
      answered (s.recordMiss code (portSource port) 0x77) .notFound (.lookupMiss (missFields code) d.trunkCount d.rangeCount)

/-- R155, by bucket: its four ways. -/
def Directory.bucketView (d : Directory) (b : Fin 128) : Table 4 (Option WayView) :=
  (d.trunks.get b).map fun e => e.map fun x => ⟨x, primaryBucket x.code == b⟩

/-- R155: a form outside the three is refused FORMAT (R188), and every form is refused BUSY while the directory walks. DESIGN CHOICE
(assumption 58): the two entry counts stand in the replies OK and NOT_FOUND alone, and a refusal RANGE or BUSY has no body. -/
def ruleLookup (port : Port) (operand : LookupOperand) (s : State) : Handled :=
  match operand with
  | .unknownForm _ => answered s .format .empty
  | .byCode code => if s.directory.busy then answered s .busy .empty else s.lookupCode port code
  | .byBucket n =>
    if s.directory.busy then answered s .busy .empty
    else match bucketOf n with
      | some b => answered s .ok (.lookupBucket (s.directory.bucketView b) s.directory.trunkCount s.directory.rangeCount)
      | none => answered s .range .empty
  | .byRange n =>
    if s.directory.busy then answered s .busy .empty
    else match batchOf n with
      | some i => answered s .ok (.lookupRange (s.directory.ranges.get i) s.directory.trunkCount s.directory.rangeCount)
      | none => answered s .range .empty

/-- LOOKUP (R155). -/
def execLookup (port : Port) (tag : Byte) (operand : LookupOperand) (s : State) : Answer :=
  runCommand (.lookup port tag operand) port (ruleLookup port operand) s

/-- R156: the record and the count removed. -/
def State.clearMiss (s : State) : State := s.setDirectory { s.directory with lastMiss := none, missCount := 0 }

/-- R156. -/
def ruleQueryMiss (clear : Bool) (s : State) : Handled :=
  answered (if clear then s.clearMiss else s) .ok (.miss s.directory.lastMiss s.directory.missCount)

/-- QUERY MISS (R156). -/
def execQueryMiss (port : Port) (tag : Byte) (clear : Bool) (s : State) : Answer :=
  runCommand (.queryMiss port tag clear) port (ruleQueryMiss clear) s

end Sys2Proof.Machine
end

