-- ==== Sys2Proof/Machine/Dispatch.lean ====
section
/-! DEFINITION. One arm per command or event: a direct call of its meaning. -/

namespace Sys2Proof.Machine

def exec (i : Instr) (s : State) : Host.Outcome State Fault Refusal :=
  match i with
  | .powerOnReset primary craft => Sys2Proof.Machine.execPowerOnReset primary craft s
  | .startUpEnd => Sys2Proof.Machine.execStartUpEnd s
  | .siteFrame switch => Sys2Proof.Machine.execSiteFrame switch s
  | .targetReached circuit => Sys2Proof.Machine.execTargetReached circuit s
  | .switchLineConditionChange circuit => Sys2Proof.Machine.execSwitchLineConditionChange circuit s
  | .spanFrameReceived span frame => Sys2Proof.Machine.execSpanFrameReceived span frame s
  | .frameAlignmentFound span => Sys2Proof.Machine.execFrameAlignmentFound span s
  | .multiframeHuntLoss span => Sys2Proof.Machine.execMultiframeHuntLoss span s
  | .spanUp span => Sys2Proof.Machine.execSpanUp span s
  | .spanLossOfSignal span => Sys2Proof.Machine.execSpanLossOfSignal span s
  | .spanBadAlignment span => Sys2Proof.Machine.execSpanBadAlignment span s
  | .laneFrameReceived lane frame => Sys2Proof.Machine.execLaneFrameReceived lane frame s
  | .slotLineConditionChange slot => Sys2Proof.Machine.execSlotLineConditionChange slot s
  | .bridgeFlagRecognised slot => Sys2Proof.Machine.execBridgeFlagRecognised slot s
  | .laneUp lane => Sys2Proof.Machine.execLaneUp lane s
  | .laneLossOfLight lane => Sys2Proof.Machine.execLaneLossOfLight lane s
  | .laneAlignmentLoss lane => Sys2Proof.Machine.execLaneAlignmentLoss lane s
  | .laneDegraded lane => Sys2Proof.Machine.execLaneDegraded lane s
  | .errorIntervalEnd lane => Sys2Proof.Machine.execErrorIntervalEnd lane s
  | .holdOffExpiry => Sys2Proof.Machine.execHoldOffExpiry s
  | .duplicateWindowExpiry => Sys2Proof.Machine.execDuplicateWindowExpiry s
  | .matcherStart => Sys2Proof.Machine.execMatcherStart s
  | .primingComplete unit => Sys2Proof.Machine.execPrimingComplete unit s
  | .windowEnd unit => Sys2Proof.Machine.execWindowEnd unit s
  | .matchOutcome unit => Sys2Proof.Machine.execMatchOutcome unit s
  | .servicePauseEnd => Sys2Proof.Machine.execServicePauseEnd s
  | .responseTimerExpiry circuit => Sys2Proof.Machine.execResponseTimerExpiry circuit s
  | .retryBackoffExpiry circuit => Sys2Proof.Machine.execRetryBackoffExpiry circuit s
  | .bridgeLimitExpiry circuit => Sys2Proof.Machine.execBridgeLimitExpiry circuit s
  | .deferLimitExpiry circuit => Sys2Proof.Machine.execDeferLimitExpiry circuit s
  | .fallbackHoldExpiry circuit => Sys2Proof.Machine.execFallbackHoldExpiry circuit s
  | .drainEnd circuit => Sys2Proof.Machine.execDrainEnd circuit s
  | .helloTimerExpiry => Sys2Proof.Machine.execHelloTimerExpiry s
  | .silenceExpiry => Sys2Proof.Machine.execSilenceExpiry s
  | .receivedHello node mode => Sys2Proof.Machine.execReceivedHello node mode s
  | .receivedPropose code slot number => Sys2Proof.Machine.execReceivedPropose code slot number s
  | .receivedAccept code slot number => Sys2Proof.Machine.execReceivedAccept code slot number s
  | .receivedDecline code number reason => Sys2Proof.Machine.execReceivedDecline code number reason s
  | .receivedConfirm code number => Sys2Proof.Machine.execReceivedConfirm code number s
  | .receivedSpliced code => Sys2Proof.Machine.execReceivedSpliced code s
  | .receivedAbandon code reason => Sys2Proof.Machine.execReceivedAbandon code reason s
  | .receivedRevert code => Sys2Proof.Machine.execReceivedRevert code s
  | .receivedRevertDone code => Sys2Proof.Machine.execReceivedRevertDone code s
  | .receivedRelease code => Sys2Proof.Machine.execReceivedRelease code s
  | .attach port tag circuit copper fibre => Sys2Proof.Machine.execAttach port tag circuit copper fibre s
  | .detach port tag circuit copper fibre => Sys2Proof.Machine.execDetach port tag circuit copper fibre s
  | .activate port tag circuit => Sys2Proof.Machine.execActivate port tag circuit s
  | .setCircuit port tag circuit notify autoRelease hold inhibit => Sys2Proof.Machine.execSetCircuit port tag circuit notify autoRelease hold inhibit s
  | .queryCircuit port tag circuit clear => Sys2Proof.Machine.execQueryCircuit port tag circuit clear s
  | .migrate port tag circuit => Sys2Proof.Machine.execMigrate port tag circuit s
  | .abandon port tag circuit => Sys2Proof.Machine.execAbandon port tag circuit s
  | .revert port tag circuit => Sys2Proof.Machine.execRevert port tag circuit s
  | .release port tag circuit => Sys2Proof.Machine.execRelease port tag circuit s
  | .resume port tag circuit => Sys2Proof.Machine.execResume port tag circuit s
  | .setNode port tag settings => Sys2Proof.Machine.execSetNode port tag settings s
  | .queryAlignment port tag circuit first => Sys2Proof.Machine.execQueryAlignment port tag circuit first s
  | .setSpan port tag span settings => Sys2Proof.Machine.execSetSpan port tag span settings s
  | .spanStatus port tag span => Sys2Proof.Machine.execSpanStatus port tag span s
  | .restartSpan port tag span => Sys2Proof.Machine.execRestartSpan port tag span s
  | .retireSpan port tag span => Sys2Proof.Machine.execRetireSpan port tag span s
  | .laneControlSelect port tag lane => Sys2Proof.Machine.execLaneControlSelect port tag lane s
  | .laneControlLockout port tag lane => Sys2Proof.Machine.execLaneControlLockout port tag lane s
  | .laneControlClear port tag lane => Sys2Proof.Machine.execLaneControlClear port tag lane s
  | .laneControlShut port tag lane => Sys2Proof.Machine.execLaneControlShut port tag lane s
  | .laneControlRestore port tag lane => Sys2Proof.Machine.execLaneControlRestore port tag lane s
  | .laneControlHoldOff port tag seconds => Sys2Proof.Machine.execLaneControlHoldOff port tag seconds s
  | .laneStatus port tag => Sys2Proof.Machine.execLaneStatus port tag s
  | .setFrameClock port tag value => Sys2Proof.Machine.execSetFrameClock port tag value s
  | .peerStatus port tag clear => Sys2Proof.Machine.execPeerStatus port tag clear s
  | .addTrunk port tag code circuit pinned => Sys2Proof.Machine.execAddTrunk port tag code circuit pinned s
  | .addRange port tag route member size base => Sys2Proof.Machine.execAddRange port tag route member size base s
  | .rangeCheckBucket => Sys2Proof.Machine.execRangeCheckBucket s
  | .rangeCheckComplete => Sys2Proof.Machine.execRangeCheckComplete s
  | .removeTrunk port tag code => Sys2Proof.Machine.execRemoveTrunk port tag code s
  | .removeRange port tag index => Sys2Proof.Machine.execRemoveRange port tag index s
  | .pin port tag code => Sys2Proof.Machine.execPin port tag code s
  | .unpin port tag code => Sys2Proof.Machine.execUnpin port tag code s
  | .purge port tag => Sys2Proof.Machine.execPurge port tag s
  | .purgeBucket => Sys2Proof.Machine.execPurgeBucket s
  | .purgeComplete => Sys2Proof.Machine.execPurgeComplete s
  | .lookup port tag operand => Sys2Proof.Machine.execLookup port tag operand s
  | .queryMiss port tag clear => Sys2Proof.Machine.execQueryMiss port tag clear s
  | .openBatch port tag batch mode limit entries => Sys2Proof.Machine.execOpenBatch port tag batch mode limit entries s
  | .cancelBatch port tag batch => Sys2Proof.Machine.execCancelBatch port tag batch s
  | .batchStatus port tag batch => Sys2Proof.Machine.execBatchStatus port tag batch s
  | .setWatch port tag watch settings => Sys2Proof.Machine.execSetWatch port tag watch settings s
  | .watchStatus port tag clear => Sys2Proof.Machine.execWatchStatus port tag clear s
  | .exchange port tag kind a stateA b stateB => Sys2Proof.Machine.execExchange port tag kind a stateA b stateB s
  | .linkStatus port tag clear => Sys2Proof.Machine.execLinkStatus port tag clear s
  | .reset port tag => Sys2Proof.Machine.execReset port tag s
  | .managementFrameReceived port bytes => Sys2Proof.Machine.execManagementFrameReceived port bytes s
  | .interByteTimeout port => Sys2Proof.Machine.execInterByteTimeout port s
  | .frameTransmitStart port => Sys2Proof.Machine.execFrameTransmitStart port s
  | .frameTransmitEnd port => Sys2Proof.Machine.execFrameTransmitEnd port s
  | .laneLightReturn lane => Sys2Proof.Machine.execLaneLightReturn lane s
  | .spanSignalReturn span => Sys2Proof.Machine.execSpanSignalReturn span s

end Sys2Proof.Machine
end

