-- ==== Sys2Proof/Machine/Step.lean ====
section
/-! DEFINITION. One step of the model: the command at the front of the queue is run with the queue's rest. -/

namespace Sys2Proof.Machine

/-- One step. With nothing waiting the part idles and the state stays as it is (assumption 20): time too is a command,
the row SITE_FRAME. -/
def step (s : State) : Host.Outcome State Fault Refusal :=
  match s.pending with
  | c :: rest => exec c (s.setPending rest)
  | [] => .next s

/-- The state with the command that a table word spells put at the front of its queue; no row of the table gives bits, so
no word spells one. -/
def State.withFetchWord (s : State) (nbits w : Nat) : State :=
  match decodeTableWord nbits w with
  | some c => s.setPending (c :: s.pending)
  | none => s

end Sys2Proof.Machine
end

