-- ==== Sys2Proof/Safety.lean ====
section
/-! DEFINITION. The terms in which claims about the part are made: which holdings a step leaves as they were, when a
port takes a command and what it shows once it has answered, and the laws that the manual states for every state. -/

namespace Sys2Proof.Machine

/-! ### Frames -/

/-- The holdings of the part, as a frame names them. -/
inductive Block where
  /-- The node parameters (R23). -/
  | node
  /-- The circuit records (section 1.1). -/
  | circuits
  /-- Both occupancy tables (R9). -/
  | occupancy
  /-- The recognition of the highway channels (R14). -/
  | channels
  /-- What the frame in progress carries toward the switch (R8, R15). -/
  | routes
  /-- The span units (chapter 4). -/
  | spans
  /-- The two lanes' own records (section 5.1). -/
  | laneRecords
  /-- Working lane, hold-off and timing source (R104 to R107, R113). -/
  | selection
  /-- FC (R113). -/
  | clock
  /-- Slot recognition, and what the frame found of it (R102, R103). -/
  | slots
  /-- The overhead transmit queue and its lost count (R111). -/
  | overhead
  /-- The message being sent and the transmit sequence (R111). -/
  | sending
  /-- The last delivered sequence and the duplicate window (R112). -/
  | reception
  /-- The fibre delay rings (R54). -/
  | rings
  /-- The matcher units (R59). -/
  | matchers
  /-- The matcher queue (R57). -/
  | matcherQueue
  /-- The service pause (R58). -/
  | pause
  /-- The peer link, its timers and the peer heard (R118 to R121). -/
  | link
  /-- The proposal counter (R126). -/
  | proposals
  /-- The response timers (R127). -/
  | responses
  /-- The counts and last-received records of the peer engine (R139). -/
  | peerCounts
  /-- The messages handed on and not yet taken. -/
  | inbox
  /-- The range and trunk entries (R141, R142). -/
  | entries
  /-- The last-miss record and the miss count (R144). -/
  | misses
  /-- The directory's walk (section 7.1). -/
  | walk
  /-- The batch records (R157). -/
  | batches
  /-- The watches (R165). -/
  | watches
  /-- Both ports (section 9.1). -/
  | ports
  /-- The report queue, the lost flag and the reports lost count (R181). -/
  | reports
  /-- Start-up remaining and the reset cause (R174, R175). -/
  | startUp
  /-- The model's queue of commands that wait. -/
  | pending
  /-- The model's count of free values drawn. -/
  | freeValues
  deriving DecidableEq, Repr

/-- Two states agree on one holding. -/
def Block.same (b : Block) (s t : State) : Prop :=
  match b with
  | .node => t.node = s.node
  | .circuits => t.circuits = s.circuits
  | .occupancy => t.timeslots = s.timeslots ∧ t.slotOwners = s.slotOwners
  | .channels => t.highway.channels = s.highway.channels
  | .routes => t.highway.route = s.highway.route ∧ t.highway.fibreRoute = s.highway.fibreRoute ∧
      t.highway.idleCode = s.highway.idleCode
  | .spans => t.spans = s.spans
  | .laneRecords => t.lanes.a = s.lanes.a ∧ t.lanes.b = s.lanes.b
  | .selection => t.lanes.working = s.lanes.working ∧ t.lanes.holdOffSeconds = s.lanes.holdOffSeconds ∧
      t.lanes.holdOff = s.lanes.holdOff ∧ t.lanes.timing = s.lanes.timing
  | .clock => t.lanes.fc = s.lanes.fc
  | .slots => t.lanes.slots = s.lanes.slots ∧ t.lanes.slotsBefore = s.lanes.slotsBefore
  | .overhead => t.lanes.queue = s.lanes.queue ∧ t.lanes.lost = s.lanes.lost
  | .sending => t.lanes.sending = s.lanes.sending ∧ t.lanes.sequence = s.lanes.sequence
  | .reception => t.lanes.lastSequence = s.lanes.lastSequence ∧ t.lanes.duplicate = s.lanes.duplicate
  | .rings => t.align.rings = s.align.rings
  | .matchers => t.align.units = s.align.units
  | .matcherQueue => t.align.queue = s.align.queue
  | .pause => t.align.pause = s.align.pause
  | .link => t.peer.state = s.peer.state ∧ t.peer.hello = s.peer.hello ∧ t.peer.silence = s.peer.silence ∧
      t.peer.heard = s.peer.heard ∧ t.peer.qualified = s.peer.qualified
  | .proposals => t.peer.counter = s.peer.counter
  | .responses => t.peer.response = s.peer.response
  | .peerCounts => t.peer.received = s.peer.received ∧ t.peer.discards = s.peer.discards ∧
      t.peer.declines = s.peer.declines ∧ t.peer.lastAbandon = s.peer.lastAbandon ∧
      t.peer.lastRevertDecline = s.peer.lastRevertDecline
  | .inbox => t.peer.inbox = s.peer.inbox
  | .entries => t.directory.ranges = s.directory.ranges ∧ t.directory.trunks = s.directory.trunks
  | .misses => t.directory.lastMiss = s.directory.lastMiss ∧ t.directory.missCount = s.directory.missCount
  | .walk => t.directory.walk = s.directory.walk
  | .batches => t.batches = s.batches
  | .watches => t.watches = s.watches
  | .ports => t.links.primary = s.links.primary ∧ t.links.craft = s.links.craft
  | .reports => t.links.reports = s.links.reports ∧ t.links.lostFlag = s.links.lostFlag ∧
      t.links.reportsLost = s.links.reportsLost
  | .startUp => t.links.startUp = s.links.startUp ∧ t.links.resetCause = s.links.resetCause
  | .pending => t.pending = s.pending
  | .freeValues => t.freeCount = s.freeCount

/-- From `s` to `t` nothing has changed but the holdings named. -/
def SameBut (changed : List Block) (s t : State) : Prop := ∀ b, b ∉ changed → b.same s t

/-- Every circuit but those of a list keeps its whole record. -/
def CircuitsBut (changed : List CircuitNo) (s t : State) : Prop := ∀ d, d ∉ changed → t.circuit d = s.circuit d

/-- Every span but one keeps its whole unit. -/
def SpansBut (n : SpanNo) (s t : State) : Prop := ∀ m, m ≠ n → t.span m = s.span m

/-- The report queue, the lost flag and the lost count are as handing these reports, in this order, leaves them (R181). -/
def Reported (bodies : List ReportBody) (s t : State) : Prop := Block.reports.same (bodies.foldl State.handReport s) t

/-- The overhead transmit queue and its lost count are as handing these messages, in this order, leaves them (R111). -/
def Sent (messages : List PeerMessage) (s t : State) : Prop := Block.overhead.same (messages.foldl State.queueMessage s) t

/-! ### Commands and replies (R178) -/

def otherPort : Port → Port
  | .primary => .craft
  | .craft => .primary

/-- The port may take the head of its queue, and that head is `q`: start-up has ended and the slot is empty. -/
structure AtHead (s : State) (port : Port) (q : QueuedCommand) (rest : List QueuedCommand) : Prop where
  head : (s.port port).input = q :: rest
  running : s.running = true
  free : (s.port port).slot = none

/-- The port's head spells the command `c`. -/
structure Heads (s : State) (port : Port) (c : Instr) (q : QueuedCommand) (rest : List QueuedCommand) : Prop
    extends AtHead s port q rest where
  spells : parseCommand port q = some c

/-- The port's head spells the PROVISION command `c`, and the port may take commands of that class (R178). -/
structure Takes (s : State) (port : Port) (c : Instr) (q : QueuedCommand) (rest : List QueuedCommand) : Prop
    extends Heads s port c q rest where
  allowed : port = .primary

/-- A port after its head command has been taken and answered. -/
def PortRecord.answeredWith (p : PortRecord) (q : QueuedCommand) (rest : List QueuedCommand) (result : ResultCode)
    (body : ReplyBody) : PortRecord :=
  { p with input := rest, slot := some ⟨.sending, q.tag, q.type⟩, output := p.output ++ [.reply q.tag q.type result body] }

/-- From `s` to `t` the port takes its head and answers it, and the other port is as it was. -/
def Answered (port : Port) (q : QueuedCommand) (rest : List QueuedCommand) (result : ResultCode) (body : ReplyBody)
    (s t : State) : Prop :=
  t.port port = (s.port port).answeredWith q rest result body ∧ t.port (otherPort port) = s.port (otherPort port)

/-- The state with the port's head taken and answered, and nothing else changed. -/
def State.answerHead (s : State) (port : Port) (q : QueuedCommand) (rest : List QueuedCommand) (result : ResultCode)
    (body : ReplyBody) : State :=
  s.setPort port ((s.port port).answeredWith q rest result body)

/-- R178: a free port of a running part refuses a head that spells no command, in the step in which it comes to it. -/
def PortRecord.settled (port : Port) (p : PortRecord) : PortRecord :=
  match p.input with
  | q :: rest =>
    if p.slot = none ∧ parseCommand port q = none then
      p.answeredWith q rest
        (if commandClass q.type = none then .unknownType
         else if port = .craft ∧ commandClass q.type = some .provision then .authority else .format) .empty
    else p
  | [] => p

/-- The port refuses its head: the reply carries the result and its details, and nothing else changes (R178). -/
def Refuses (s : State) (c : Instr) (port : Port) (q : QueuedCommand) (rest : List QueuedCommand) (result : ResultCode)
    (body : ReplyBody) : Prop :=
  exec c s = .next (s.answerHead port q rest result body)

/-- The port takes `c` and answers it with this result and body; of the part nothing changes but the port and the
holdings named, and these as the effect says. -/
def Completes (s : State) (c : Instr) (port : Port) (q : QueuedCommand) (rest : List QueuedCommand) (result : ResultCode)
    (body : ReplyBody) (changed : List Block) (effect : State → Prop) : Prop :=
  ∃ t, exec c s = .next t ∧ Answered port q rest result body s t ∧ SameBut (.ports :: changed) s t ∧ effect t

/-- An event row takes the part to a state in which nothing has changed but the holdings named, and these as the effect
says. -/
def Happens (s : State) (c : Instr) (changed : List Block) (effect : State → Prop) : Prop :=
  ∃ t, exec c s = .next t ∧ SameBut changed s t ∧ effect t

/-- A selector names a circuit: by its number, or by a code that the idle directory resolves to it (R25). -/
def Names (s : State) (sel : Selector) (c : CircuitNo) : Prop :=
  match sel with
  | .number n => n = c.val
  | .code code => codeValid code = true ∧ s.directory.busy = false ∧ ∃ found, s.directory.lookup code = some (c, found)

/-- POWER_ON_RESET, or the RESET command at the last byte of its OK (R184), has brought the part from `s` to `t`. -/
def AfterReset (s t : State) : Prop :=
  (∃ primary craft, exec (.powerOnReset primary craft) s = .next t) ∨
  (∃ tag body, (s.port .primary).transmitter = some (.reply tag 0x9F .ok body) ∧
    exec (.frameTransmitEnd .primary) s = .next t)

/-! ### Turns of a circuit: abandonment, revert, release, splice -/

/-- The circuits that a start step of the batch of `c` can start (R159). -/
def State.batchCircuits (s : State) (c : CircuitNo) : List CircuitNo :=
  match (s.circuit c).batch.bind s.batch with
  | some b => b.members.map Member.circuit
  | none => []

/-- The circuits that a start step of the batch of `c` may start now: none while the peer link is not UP (R25). -/
def State.startedCircuits (s : State) (c : CircuitNo) : List CircuitNo := if s.peer.state = .up then s.batchCircuits c else []

/-- What the writing of an outcome may change: the circuit and its batch with the members that a start step starts, the
watches, and the reports of all of them (R19, R159, R160, R167). -/
def outcomeBlocks : List Block :=
  [.circuits, .batches, .watches, .reports, .overhead, .proposals, .responses, .freeValues]

/-- What a splice, an abandonment or a revert may change: what an outcome may, and the matchers with their queue. -/
def turnBlocks : List Block := .matchers :: .matcherQueue :: outcomeBlocks

/-- What a release may change beside: the occupancy, and a span that retires (R91). -/
def releaseBlocks : List Block := .occupancy :: .spans :: turnBlocks

/-- A message that a start step sends. -/
def isProposal : PeerMessage → Bool
  | .propose .. => true
  | _ => false

/-- R167: a watch that an event hits. -/
def Watch.hitBy (w : Watch) (fc : FrameCount) (c : CircuitNo) (cls : EventClass) : Watch :=
  { w with hit := true, hits := if w.hits < 255 then w.hits + 1 else w.hits, lastHit := some ⟨c, cls, fc⟩ }

/-- R166, R167: the watches after an event. -/
def WatchUnit.afterEvent (u : WatchUnit) (fc : FrameCount) (c : CircuitNo) (cls : EventClass) : WatchUnit :=
  { u with
    first := if (u.hits c cls).1 then u.first.hitBy fc c cls else u.first
    second := if (u.hits c cls).2 then u.second.hitBy fc c cls else u.second }

/-- The watches are as taking these events, in this order, leaves them. -/
def Witnessed (events : List (CircuitNo × EventClass)) (s t : State) : Prop :=
  t.watches = events.foldl (fun u e => u.afterEvent s.fc e.1 e.2) s.watches

/-- The Watch Unit has taken the events of these classes of circuit `c`, in this order, and beside them only the
MIGRATE-START of circuits that a start step has started (R159, R167). -/
def EventsTaken (c : CircuitNo) (classes : List EventClass) (started : List CircuitNo) (s t : State) : Prop :=
  ∃ events, Witnessed events s t ∧ (events.filter fun e => e.2 ≠ .migrateStart) = classes.map (fun cls => (c, cls)) ∧
    ∀ e ∈ events, e.2 = .migrateStart → e.1 ∈ started

/-- A turn of circuit `c` ends with the record `r`, its conditioning evaluated (R17); its batch may have closed (R162),
and of the other circuits only those of its batch can have been started, while the peer link is UP. The messages are `before`, the
proposals of such starts, then `after` (assumption 31). The Watch Unit takes the outcomes of the turn by their classes. -/
structure Turn (c : CircuitNo) (classes : List EventClass) (r : Circuit) (before after : List PeerMessage) (s t : State) :
    Prop where
  record : t.circuit c = evaluated t.spans t.lanes r ∨
    (r.batch.isSome ∧ t.circuit c = evaluated t.spans t.lanes { r with batch := none })
  others : CircuitsBut (c :: s.batchCircuits c) s t
  timers : ∀ d, d ∉ c :: s.batchCircuits c → t.peer.response.get d = s.peer.response.get d
  reports : ∃ bodies, Reported bodies s t ∧
    ∀ o, r.outcome = some o → r.notify = true → ReportBody.circuit c r.code o ∈ bodies
  sent : ∃ proposals, proposals.all isProposal = true ∧ ((s.circuit c).batch = none ∨ s.peer.state ≠ .up → proposals = []) ∧
    Sent (before ++ proposals ++ after) s t
  watches : EventsTaken c classes (s.startedCircuits c) s t

/-- The circuit holds no place in the matcher queue and no unit, and every other entry and unit is as it was (R67). The frame count 0
of a unit that becomes FREE is the model's (assumption 9). -/
def GivenUp (c : CircuitNo) (s t : State) : Prop :=
  t.align.queue = s.align.queue.filter (fun e => e.circuit ≠ c) ∧
  ∀ u, t.unit u = if (s.unit u).circuit = some c then (s.unit u).freed else s.unit u

/-- The message that a circuit's code lets be sent (R125). -/
def Circuit.messages (r : Circuit) (m : TrunkCode → PeerMessage) : List PeerMessage := r.code.toList.map m

/-- R42: the record after an abandonment. -/
def Circuit.abandonedRecord (r : Circuit) (reason : Reason) (decline : Option DeclineReason) (fc : FrameCount) : Circuit :=
  { r with
    state := .copper
    buildOut := 0
    fibreTransmit := (match r.fibreTransmit with
      | .bridged => .draining ⟨8000, false⟩
      | .off => .off
      | .draining left => .draining left)
    context := none
    changed := true
    outcome := some { code := .abandoned, reason := some reason, decline := decline, delta := r.delta, buildOut := 0,
                      offset := none, attemptsUsed := r.attemptsUsed, stamp := fc } }

/-- R42: the abandonment of circuit `c`: its record, the response timer stopped, its matcher given up, ABANDON sent unless
a peer message was the cause. -/
structure Abandoned (c : CircuitNo) (reason : Reason) (decline : Option DeclineReason) (s t : State) : Prop where
  turn : Turn c [.abandon] ((s.circuit c).abandonedRecord reason decline s.fc) []
    (if reason = .peerDeclined ∨ reason = .peerAbandoned then [] else (s.circuit c).messages fun code => .abandon code reason) s t
  response : t.peer.response.get c = none
  matcher : GivenUp c s t

/-- R49: the record after a revert, with J. -/
def Circuit.revertedRecord (r : Circuit) (reason : Reason) (j : Option SampleOffset) (fc : FrameCount) : Circuit :=
  { r with
    state := .copper
    buildOut := 0
    fibreTransmit := .draining ⟨8000, false⟩
    context := none
    changed := true
    outcome := some { code := .reverted, reason := some reason, decline := none, delta := r.delta, buildOut := 0,
                      offset := j, attemptsUsed := r.attemptsUsed, stamp := fc } }

/-- R74: J of a revert is Δ + B with its sense, absent without a measured Δ. The sense beside 0 is left open. -/
def RevertJ (r : Circuit) (j : Option SampleOffset) : Prop :=
  match r.delta with
  | some d => ∃ skipped, j = some ⟨d + r.buildOut, skipped⟩ ∧ (0 < d + r.buildOut → skipped = true) ∧
      (d + r.buildOut < 0 → skipped = false)
  | none => j = none

/-- R49: the revert of circuit `c`, with the message of its cause. -/
def Reverted (c : CircuitNo) (reason : Reason) (j : Option SampleOffset) (s t : State) : Prop :=
  RevertJ (s.circuit c) j ∧
  Turn c [.revert] ((s.circuit c).revertedRecord reason j s.fc) []
    (match reason with
      | .commanded => (s.circuit c).messages .revert
      | .peerReverted => (s.circuit c).messages .revertDone
      | _ => []) s t

/-- R46: the record after the release of a fallback. -/
def Circuit.releasedRecord (r : Circuit) (reason : Reason) (fc : FrameCount) : Circuit :=
  { r with
    copper := none
    copperTransmit := false
    context := none
    changed := true
    outcome := some { code := .released, reason := some reason, decline := none, delta := r.delta, buildOut := r.buildOut,
                      offset := none, attemptsUsed := r.attemptsUsed, stamp := fc } }

/-- The timeslot of a circuit's copper attachment is freed, and every other occupancy entry is as it was (R9). -/
def CopperFreed (c : CircuitNo) (s t : State) : Prop :=
  (∀ p, t.timeslotOwner p = if (s.circuit c).copper = some p then none else s.timeslotOwner p) ∧
  t.slotOwners = s.slotOwners

/-- R91: whether span `n` retires in a step that frees the timeslot of circuit `c`: its auto-retire is on and its last
timeslot was freed. -/
def Retires (c : CircuitNo) (s t : State) (n : SpanNo) : Prop :=
  (s.circuit c).spanNo = some n ∧ (s.span n).autoRetire = true ∧ (s.span n).state ≠ .retired ∧
    ∀ i : TimeslotNo, t.timeslotOwner ⟨n, i⟩ = none

/-- R91: the span of a freed timeslot retires exactly when it must; every other span, and a span that does not retire, is
as it was. -/
def RetiredWhenEmpty (c : CircuitNo) (s t : State) : Prop :=
  ∀ n, (Retires c s t n → t.span n = (s.span n).retired) ∧ (¬ Retires c s t n → t.span n = s.span n)

/-- R91, R95: the RETIRED report of a span that retires is handed, with the CIRCUIT report of the record `r`. -/
def RetirementReported (c : CircuitNo) (r : Circuit) (s t : State) : Prop :=
  ∀ n, Retires c s t n → ∃ bodies, Reported bodies s t ∧ ReportBody.span n .retired ∈ bodies ∧
    ∀ o, r.outcome = some o → r.notify = true → ReportBody.circuit c r.code o ∈ bodies

/-- R46: the release of circuit `c`'s fallback. -/
structure Released (c : CircuitNo) (reason : Reason) (s t : State) : Prop where
  turn : Turn c [.release] ((s.circuit c).releasedRecord reason s.fc) []
    (if reason = .peerReleased then [] else (s.circuit c).messages .release) s t
  freed : CopperFreed c s t
  spans : RetiredWhenEmpty c s t
  retirement : RetirementReported c ((s.circuit c).releasedRecord reason s.fc) s t

/-- R40: a record as a splice of this kind leaves it, before the tests that follow. -/
def Circuit.splicedRecord (r : Circuit) (x : Context) (code : OutcomeCode) (b : Nat) (delta : Option Int)
    (j : Option SampleOffset) (fc : FrameCount) : Circuit :=
  { r with
    state := .fibre
    buildOut := b
    context := some { x with
      sub := none, target := none, deferred := false, held := false, backoff := none,
      deferLimit := ⟨x.deferLimit.left, false⟩, bridgeLimit := ⟨x.bridgeLimit.left, false⟩,
      hold := some ⟨r.holdSeconds * 8000, false⟩ }
    changed := true
    outcome := some { code := code, reason := none, decline := none, delta := delta, buildOut := b, offset := j,
                      attemptsUsed := r.attemptsUsed, stamp := fc } }

/-- R45: the release test on a record in FIBRE. -/
def Circuit.mayRelease (r : Circuit) : Bool :=
  match r.context with
  | some x => r.autoRelease && x.peerSpliced && (x.hold.map Countdown.left == some 0)
  | none => false

/-- R48: the record after a collapse of the build-out. -/
def Circuit.collapsedRecord (r : Circuit) (fc : FrameCount) : Circuit :=
  { r with
    buildOut := 0
    changed := true
    outcome := some { code := .collapsed, reason := none, decline := none, delta := r.delta, buildOut := 0,
                      offset := some ⟨r.buildOut, true⟩, attemptsUsed := r.attemptsUsed, stamp := fc } }

/-- R16: whether circuit `c` would be busy on the fibre route. -/
def State.fibreBusy (s : State) (c : CircuitNo) : Bool :=
  conditionBusy (s.switchCondition c) || conditionBusy (s.farCondition { s.circuit c with state := .fibre })

/-- R191, R48: the collapse test on a record in FIBRE. -/
def Circuit.afterCollapseTest (r : Circuit) (busy : Bool) (fc : FrameCount) : Circuit :=
  if 0 < r.buildOut ∧ busy = false then r.collapsedRecord fc else r

/-- R40, R191: the record after a splice, the release test and the collapse test. -/
def Circuit.splicedThrough (r : Circuit) (x : Context) (code : OutcomeCode) (b : Nat) (delta : Option Int)
    (j : Option SampleOffset) (busy : Bool) (fc : FrameCount) : Circuit :=
  (if (r.splicedRecord x code b delta j fc).mayRelease then
    (r.splicedRecord x code b delta j fc).releasedRecord .holdExpired fc
  else r.splicedRecord x code b delta j fc).afterCollapseTest busy fc

/-- R40, R191: the outcomes that a splice and the tests after it write, in order; a test that fails repeats the one before it. -/
def Circuit.spliceOutcomes (r : Circuit) (x : Context) (code : OutcomeCode) (b : Nat) (delta : Option Int)
    (j : Option SampleOffset) (busy : Bool) (fc : FrameCount) : List OutcomeRecord :=
  let spliced := r.splicedRecord x code b delta j fc
  let released := if spliced.mayRelease then spliced.releasedRecord .holdExpired fc else spliced
  [spliced, released, released.afterCollapseTest busy fc].filterMap Circuit.outcome

/-- R19: with notify on, every outcome of a circuit in the list is handed as a CIRCUIT report, among these reports. -/
def OutcomesReported (c : CircuitNo) (r : Circuit) (outcomes : List OutcomeRecord) (bodies : List ReportBody) : Prop :=
  r.notify = true → ∀ o ∈ outcomes, ReportBody.circuit c r.code o ∈ bodies

/-- R40, R191: a splice of circuit `c` with a context, then the release test, then the collapse test. -/
structure Spliced (c : CircuitNo) (code : OutcomeCode) (b : Nat) (delta : Option Int) (j : Option SampleOffset)
    (x : Context) (s t : State) : Prop where
  turn : Turn c (if ((s.circuit c).splicedRecord x code b delta j s.fc).mayRelease then [.splice, .release] else [.splice])
    ((s.circuit c).splicedThrough x code b delta j (s.fibreBusy c) s.fc) ((s.circuit c).messages .spliced)
    (if ((s.circuit c).splicedRecord x code b delta j s.fc).mayRelease then (s.circuit c).messages .release else []) s t
  kept : ((s.circuit c).splicedRecord x code b delta j s.fc).mayRelease = false →
    t.timeslots = s.timeslots ∧ t.slotOwners = s.slotOwners ∧ t.spans = s.spans
  released : ((s.circuit c).splicedRecord x code b delta j s.fc).mayRelease = true → CopperFreed c s t ∧
    RetiredWhenEmpty c s t ∧ RetirementReported c ((s.circuit c).splicedThrough x code b delta j (s.fibreBusy c) s.fc) s t
  reported : ∃ bodies, Reported bodies s t ∧
    OutcomesReported c (s.circuit c) ((s.circuit c).spliceOutcomes x code b delta j (s.fibreBusy c) s.fc) bodies ∧
    (((s.circuit c).splicedRecord x code b delta j s.fc).mayRelease = true → ∀ n, Retires c s t n → .span n .retired ∈ bodies)
  response : t.peer.response.get c = s.peer.response.get c
  matcher : GivenUp c s t
  frame : SameBut releaseBlocks s t

/-- R40: J of a splice with a measured Δ: +Δ REPEATED above zero, and 0, of an open sense, otherwise. -/
def SpliceJ (d : Int) (j : Option SampleOffset) : Prop :=
  if 0 < d then j = some ⟨d, false⟩ else ∃ skipped, j = some ⟨0, skipped⟩

/-- R52: the build-out of a rescue at this Δ. -/
def rescueBuildOut : Option Int → Nat
  | some d => (-d).toNat
  | none => 0

/-! ### Other transitions of a circuit -/

/-- Circuit `c` takes the record `r`, with its conditioning evaluated (R17); every other circuit keeps its own. -/
def Becomes (c : CircuitNo) (r : Circuit) (s t : State) : Prop :=
  t.circuit c = evaluated t.spans t.lanes r ∧ CircuitsBut [c] s t

/-- Circuit `c` takes the context `x`. -/
def TakesContext (c : CircuitNo) (x : Context) (s t : State) : Prop := Becomes c { s.circuit c with context := some x } s t

/-- The Watch Unit takes an event (R166, R167). -/
def Watched (c : CircuitNo) (cls : EventClass) (s t : State) : Prop :=
  Block.watches.same (s.watchEvent c cls none) t ∧ Block.reports.same (s.watchEvent c cls none) t

/-- The response timer of circuit `c` is as named; every other is as it was. -/
def Timed (c : CircuitNo) (x : Option Countdown) (s t : State) : Prop :=
  t.peer.response.get c = x ∧ ∀ d, d ≠ c → t.peer.response.get d = s.peer.response.get d

/-- R24: the context of a new migration. -/
def startContext (s : State) (role : Role) (number : Byte) : Context :=
  { role := role, number := number, attempts := s.node.retryLimit, retryLimit := s.node.retryLimit, bridgeLimit := ⟨0, false⟩,
    bridgeCaptured := s.node.bridgeLimit, backoff := none, sub := none, delta := none, deferred := false, held := false,
    target := none, deferLimit := ⟨0, false⟩, peerSpliced := false, hold := none }

/-- R25: circuit `c` starts a migration as initiator. -/
structure MigrationStarted (c : CircuitNo) (code : TrunkCode) (slot : SlotNo) (s t : State) : Prop where
  record : Becomes c { s.circuit c with
    state := .proposing, buildOut := 0, context := some (startContext s .initiator s.peer.counter) } s t
  counter : t.peer.counter = s.peer.counter + 1
  sent : Sent [.propose code slot s.peer.counter] s t
  timer : Timed c (some ⟨2000, false⟩) s t
  watched : Watched c .migrateStart s t
  frame : SameBut [.circuits, .proposals, .overhead, .responses, .watches, .reports, .ports] s t

/-- R32: the record after an entry to MEASURING. -/
def Circuit.measuringRecord (r : Circuit) (x : Context) (sub : SubStatus) : Circuit :=
  { r with
    state := .measuring
    buildOut := 0
    context := some { x with
      bridgeLimit := ⟨x.bridgeCaptured, false⟩, target := none, deferred := false, held := false,
      deferLimit := ⟨x.deferLimit.left, false⟩, sub := some sub } }

/-- Whether the span delay record of a circuit's span is VALID. -/
def State.recordValid (s : State) (c : CircuitNo) : Prop :=
  ∃ p m, (s.circuit c).copper = some p ∧ (s.span p.span).record = .valid m

/-- R33: circuit `c` joins the tail of the matcher queue, QUEUED. -/
structure JoinsQueue (c : CircuitNo) (x : Context) (s t : State) : Prop where
  record : TakesContext c { x with sub := some .queued } s t
  queue : (s.recordValid c → t.align.queue = s.align.queue ++ [⟨c, .confirm⟩]) ∧
    (¬ s.recordValid c → t.align.queue = s.align.queue ++ [⟨c, .full⟩])
  frame : SameBut [.circuits, .matcherQueue] s t

/-- R33: the test of BRIDGE-WAIT on circuit `c` with context `x`; a rescue here finds the record INVALID (R52). The splice
without a delay leaves an older Δ of the context in it (assumption 27), and the messages of a batch member's splice come in
the order of `Turn` (assumption 31). -/
def BridgeWaitJudged (c : CircuitNo) (x : Context) (s t : State) : Prop :=
  if s.flagPresent c = false then t = s
  else if s.spanDownOf (s.circuit c) = true then Spliced c .rescued (rescueBuildOut x.delta) x.delta none x s t
  else if s.busy c = false then Spliced c .splicedIdle 0 none none x s t
  else if x.backoff = none then JoinsQueue c x s t
  else t = s

/-- R35: the context after the ALIGNED evaluation: HELD, DEFERRED when `beyond` says that the circuit is busy and over its span's
tolerance, or with a target, a new one being `S`. -/
def Context.judged (x : Context) (beyond : Bool) (S : FrameCount) : Context :=
  if x.held = true then { x with deferred := false, target := none, deferLimit := ⟨x.deferLimit.left, false⟩ }
  else if beyond = true then { x with deferred := true, target := none }
  else { x with deferred := false, deferLimit := ⟨x.deferLimit.left, false⟩, target := some (x.target.getD S) }

/-- R35: whether the ALIGNED evaluation abandons the migration at once: it defers the circuit, and the defer limit has run out. -/
def Context.runsOut (x : Context) (beyond : Bool) : Bool := !x.held && beyond && decide (x.deferLimit.left = 0)

/-- R35: whether circuit `c` is busy and over the tolerance `tol` at the Δ `d`. -/
def State.overAt (s : State) (c : CircuitNo) (d : Int) (tol : Nat) : Bool := s.busy c && decide ((tol : Int) < d)

/-- R35: the ALIGNED evaluation of circuit `c`, with context `x`, at the Δ `d` and its span's tolerance `tol`. -/
def AlignedJudged (c : CircuitNo) (x : Context) (d : Int) (tol : Nat) (s t : State) : Prop :=
  let y := x.judged (s.overAt c d tol) (s.fc + BitVec.ofNat 32 s.node.lead)
  if x.runsOut (s.overAt c d tol) = true then
    ∃ m, TakesContext c y s m ∧ SameBut [.circuits] s m ∧ Abandoned c .deferLimit none m t ∧ SameBut turnBlocks m t
  else TakesContext c y s t ∧ SameBut [.circuits] s t

/-- R35: the record at an entry to ALIGNED at the Δ `d`, before its evaluation. -/
def Circuit.alignedRecord (r : Circuit) (x : Context) : Circuit := { r with state := .aligned, context := some x, buildOut := (-(x.delta.getD 0)).toNat }

/-- R35, R168: the context at an entry to ALIGNED. -/
def State.alignedContext (s : State) (c : CircuitNo) (x : Context) (d : Int) : Context :=
  { x with delta := some d, sub := none, bridgeLimit := ⟨x.bridgeLimit.left, false⟩, deferLimit := ⟨s.node.deferLimit, false⟩,
           held := x.held || s.watchHolds c }

/-- R35: circuit `c` enters ALIGNED at the Δ `d`: the record, the ALIGNED event, and the evaluation. -/
def EntersAligned (c : CircuitNo) (x : Context) (d : Int) (tol : Nat) (s t : State) : Prop :=
  ∃ m n, Becomes c ((s.circuit c).alignedRecord (s.alignedContext c x d)) s m ∧ SameBut [.circuits] s m ∧
    Watched c .aligned m n ∧ SameBut [.watches, .reports] m n ∧ AlignedJudged c (s.alignedContext c x d) d tol n t

/-- R38: circuit `c` goes back to MEASURING, QUEUED, with its measured Δ removed. -/
def Circuit.requeuedRecord (r : Circuit) (x : Context) : Circuit := r.measuringRecord { x with delta := none } .queued

/-! ### Losses of a span, of fibre, of the peer link -/

/-- R159, R25: the record's own part of the checks by which a start step starts its circuit. -/
def Circuit.mayStart (r : Circuit) : Bool := r.state == .copper && r.fibre.isSome && r.code.isSome && !r.inhibit

/-- Circuit `c` ends a step over many circuits with the record `r` and the response timer `timer`, its conditioning evaluated (R17),
but for what a batch that it belongs to makes of it in the step: the batch may have closed, which ends the membership (R162), and
while the peer link is UP a start step of the batch may have started the circuit (R159). -/
def EndsAs (c : CircuitNo) (r : Circuit) (timer : Option Countdown) (s t : State) : Prop :=
  ∃ b, (b = r.batch ∨ b = none) ∧
    ((t.circuit c = evaluated t.spans t.lanes { r with batch := b } ∧ t.peer.response.get c = timer) ∨
      (s.peer.state = .up ∧ r.batch.isSome = true ∧ r.mayStart = true ∧ t.peer.response.get c = some ⟨2000, false⟩ ∧
        ∃ number, t.circuit c = evaluated t.spans t.lanes { r with
          batch := b, state := .proposing, buildOut := 0, context := some (startContext s .initiator number) }))

/-- R67: the circuits named hold no place in the matcher queue and no unit; every other entry and unit is as it was. The frame count 0
of a unit that becomes FREE is the model's (assumption 9). -/
structure AllGivenUp (gone : CircuitNo → Bool) (s t : State) : Prop where
  queue : t.align.queue = s.align.queue.filter fun e => !gone e.circuit
  units : ∀ u, t.unit u = if (s.unit u).circuit.any gone = true then (s.unit u).freed else s.unit u

/-- What a step over the circuits `concerned` hands on: these messages and events, in this order (assumption 13), with the PROPOSE
messages and the MIGRATE-START events of the start steps that it causes between them (R159). Of those there are none while no circuit
concerned belongs to a batch, or the peer link is not UP. -/
structure HandedOn (concerned : List CircuitNo) (messages : List PeerMessage) (events : List (CircuitNo × EventClass)) (s t : State) :
    Prop where
  sent : ∃ l, Sent l s t ∧ (l.filter fun m => !isProposal m) = messages ∧
    ((∀ c ∈ concerned, (s.circuit c).batch = none) ∨ s.peer.state ≠ .up → l = messages)
  events : ∃ l, Witnessed l s t ∧ (l.filter fun e => e.2 ≠ .migrateStart) = events ∧
    ∀ e ∈ l, e.2 = .migrateStart → s.peer.state = .up ∧ (s.circuit e.1).batch.isSome = true

/-- Whether a circuit is on the span, in MEASURING or ALIGNED (R52). -/
def State.bridgedAt (s : State) (n : SpanNo) (c : CircuitNo) : Prop :=
  (s.circuit c).spanNo = some n ∧ ((s.circuit c).state = .measuring ∨ (s.circuit c).state = .aligned)

/-- R52: the Δ of a rescue: the measured one, or else that of the record handed, when VALID. -/
def Circuit.rescueAt (r : Circuit) (handed : DelayRecord) : Option Int :=
  match r.delta, handed with
  | some d, _ => some d
  | none, .valid m => some m.delta
  | none, .stale _ => none
  | none, .invalid => none

/-- R52: whether the loss of span `n` rescues circuit `c`: it is bridged on the span, and its bridge flag is present. -/
def State.rescuedAt (s : State) (n : SpanNo) (c : CircuitNo) : Bool :=
  decide ((s.circuit c).spanNo = some n ∧ ((s.circuit c).state = .measuring ∨ (s.circuit c).state = .aligned)) &&
    (s.circuit c).context.isSome && s.flagPresent c

/-- R52: whether the loss of span `n` takes circuit `c` out of the matcher queue or its unit without a rescue. -/
def State.withdrawnAt (s : State) (n : SpanNo) (c : CircuitNo) : Bool :=
  decide ((s.circuit c).spanNo = some n ∧ ((s.circuit c).state = .measuring ∨ (s.circuit c).state = .aligned)) &&
    !s.flagPresent c && ((s.circuit c).context.any fun x => x.sub == some .queued || x.sub == some .matching)

/-- R45: the release test of a circuit that is spliced, on what the splice does not change but the hold that it loads. -/
def Circuit.splicesToRelease (r : Circuit) : Bool :=
  r.autoRelease && (r.context.any fun x => x.peerSpliced) && r.holdSeconds == 0

/-- R52: what the loss of span `n` makes of every circuit, `handed` being the record handed with the DOWN event and `bodies` the
reports of the circuits and of the span's retirement. A rescue is a splice with the tests after it (R40, R45, R48, R191), whose
messages go out in ascending circuit number (assumption 13). -/
structure SpanLost (n : SpanNo) (handed : DelayRecord) (bodies : List ReportBody) (s t : State) : Prop where
  rescued : ∀ c x, s.rescuedAt n c = true → (s.circuit c).context = some x →
    EndsAs c ((s.circuit c).splicedThrough x .rescued (rescueBuildOut ((s.circuit c).rescueAt handed))
      ((s.circuit c).rescueAt handed) none (s.fibreBusy c) s.fc) (s.peer.response.get c) s t ∧
    OutcomesReported c (s.circuit c) ((s.circuit c).spliceOutcomes x .rescued (rescueBuildOut ((s.circuit c).rescueAt handed))
      ((s.circuit c).rescueAt handed) none (s.fibreBusy c) s.fc) bodies
  withdrawn : ∀ c x, s.withdrawnAt n c = true → (s.circuit c).context = some x →
    EndsAs c { s.circuit c with context := some { x with sub := some .bridgeWait } } (s.peer.response.get c) s t
  others : ∀ c, s.rescuedAt n c = false → s.withdrawnAt n c = false → EndsAs c (s.circuit c) (s.peer.response.get c) s t
  matchers : AllGivenUp (fun c => s.rescuedAt n c || s.withdrawnAt n c) s t
  handedOn : HandedOn (allCircuits.filter fun c => s.rescuedAt n c)
    ((allCircuits.filter fun c => s.rescuedAt n c).flatMap fun c => (s.circuit c).messages .spliced ++
      if (s.circuit c).splicesToRelease then (s.circuit c).messages .release else [])
    ((allCircuits.filter fun c => s.rescuedAt n c).flatMap fun c => (c, .splice) ::
      if (s.circuit c).splicesToRelease then [(c, .release)] else []) s t
  timeslots : ∀ p, t.timeslotOwner p =
    if ∃ c, s.rescuedAt n c = true ∧ (s.circuit c).splicesToRelease = true ∧ (s.circuit c).copper = some p then none
    else s.timeslotOwner p
  slots : t.slotOwners = s.slotOwners
  spans : SpansBut n s t

/-- R91: whether the loss of span `n` retires it: auto-retire is on, a rescue of the step was released, and the step has freed the
span's last timeslot. -/
def RetiresAtLoss (n : SpanNo) (s t : State) : Prop :=
  (s.span n).autoRetire = true ∧ (∃ c, s.rescuedAt n c = true ∧ (s.circuit c).splicesToRelease = true) ∧
    ∀ i : TimeslotNo, t.timeslotOwner ⟨n, i⟩ = none

/-- R53: whether the loss of fibre returns circuit `c` to copper: it is migrating, or its fallback is kept on a span that is UP. -/
def State.returnedAtLoss (s : State) (c : CircuitNo) : Bool :=
  (s.circuit c).migrating || (s.circuit c).kept && s.spanUpOf (s.circuit c)

/-- R53, R42, R49: what the loss of fibre makes of every circuit. The messages and the events come in ascending circuit number
(assumption 13). -/
structure FibreLost (s t : State) : Prop where
  abandoned : ∀ c, (s.circuit c).migrating = true →
    EndsAs c ((s.circuit c).abandonedRecord .laneLoss none s.fc) none s t
  reverted : ∀ c, (s.circuit c).kept = true → s.spanUpOf (s.circuit c) = true →
    ∃ j, RevertJ (s.circuit c) j ∧ EndsAs c ((s.circuit c).revertedRecord .laneLoss j s.fc) (s.peer.response.get c) s t
  others : ∀ c, s.returnedAtLoss c = false → EndsAs c (s.circuit c) (s.peer.response.get c) s t
  matchers : AllGivenUp (fun c => (s.circuit c).migrating) s t
  handedOn : HandedOn (allCircuits.filter fun c => s.returnedAtLoss c)
    ((allCircuits.filter fun c => (s.circuit c).migrating).flatMap fun c => (s.circuit c).messages fun code => .abandon code .laneLoss)
    ((allCircuits.filter fun c => s.returnedAtLoss c).map fun c => (c, if (s.circuit c).migrating then .abandon else .revert)) s t
  reports : ∃ bodies, Reported bodies s t ∧ ∀ c, s.returnedAtLoss c = true →
    OutcomesReported c (s.circuit c) (t.circuit c).outcome.toList bodies

/-- R44, R122: the peer link has left UP, and every migration in progress is abandoned with PEER-DOWN. A circuit changes
no further than that, but for the membership of a batch that closes. -/
structure MigrationsEnded (s t : State) : Prop where
  abandoned : ∀ c, (s.circuit c).migrating = true → t.peer.response.get c = none ∧
    ∃ b, (b = (s.circuit c).batch ∨ b = none) ∧
      t.circuit c = evaluated t.spans t.lanes { (s.circuit c).abandonedRecord .peerDown none s.fc with batch := b }
  others : ∀ c, (s.circuit c).migrating = false → t.peer.response.get c = s.peer.response.get c ∧
    (t.circuit c = s.circuit c ∨ t.circuit c = evaluated t.spans t.lanes { s.circuit c with batch := none })
  sent : Sent (s.migratingCircuits.flatMap fun c => (s.circuit c).messages fun code => .abandon code .peerDown) s t
  reports : ∃ bodies, Reported bodies s t ∧ ∀ c o, (s.circuit c).migrating = true → (s.circuit c).notify = true →
    ((s.circuit c).abandonedRecord .peerDown none s.fc).outcome = some o → ReportBody.circuit c (s.circuit c).code o ∈ bodies
  watches : Witnessed (s.migratingCircuits.map fun c => (c, .abandon)) s t
  matchers : AllGivenUp (fun c => (s.circuit c).migrating) s t
  frame : SameBut turnBlocks s t

/-- R122, R123: the link leaves UP: the state and the qualified peer, the PEER report before all others, then the
migrations, in ascending circuit number (assumption 13). -/
def LeavesUp (after : LinkState) (kind : PeerReportKind) (s t : State) : Prop :=
  (∃ m, m = (s.setPeer { s.peer with state := after, qualified := none }).handReport (.peer s.node.node s.node.mode kind) ∧
    MigrationsEnded m t) ∧
  ∃ bodies, Reported (.peer s.node.node s.node.mode kind :: bodies) s t

/-! ### The lanes -/

/-- R113: the source that times the site frame. -/
def LaneInterface.source (l : LaneInterface) : TimingSource :=
  if (l.lane l.working).state = .up then (match l.working with | .a => .laneA | .b => .laneB)
  else if (l.lane (otherLane l.working)).state = .up then (match l.working with | .a => .laneB | .b => .laneA)
  else .holdover

/-- R113: the timing source follows the lane states and the working lane. -/
def TimingLaw (s : State) : Prop := s.lanes.timing = s.lanes.source

/-- R104: the working-lane test finds both of its conditions true. -/
def LaneInterface.mustChange (l : LaneInterface) : Prop :=
  ((l.lane l.working).state ≠ .up ∨ (l.lane l.working).lockout = true) ∧
    (l.lane (otherLane l.working)).state = .up ∧ (l.lane (otherLane l.working)).lockout = false

/-- R61, R66: a unit that restarts its priming for a full search. -/
def Matcher.restartedFull (m : Matcher) : Matcher :=
  { m with state := .priming, kind := .full, candidates := windowCandidates m.wlo m.whi, count := 0, outcome := none }

/-- R61, R59: a unit that restarts its priming. A confirm match takes the Δ of a record that is VALID within the captured window, and
becomes a full search without it. -/
def Matcher.restarted (m : Matcher) (record : DelayRecord) : Matcher :=
  match m.kind, record with
  | .confirm, .valid v =>
    if m.wlo ≤ v.delta ∧ v.delta ≤ m.whi then { m with state := .priming, candidates := [v.delta], count := 0, outcome := none }
    else m.restartedFull
  | .confirm, .stale _ | .confirm, .invalid | .full, _ => m.restartedFull

/-- What a change of the working lane may change. -/
def workingBlocks : List Block := [.circuits, .spans, .selection, .slots, .reception, .matchers, .matcherQueue, .pause, .reports]

/-- R105: a change of the working lane. -/
structure WorkingChanged (cause : WorkingCause) (s t : State) : Prop where
  working : t.lanes.working = otherLane s.lanes.working
  holdOff : t.lanes.holdOff = ⟨s.lanes.holdOffSeconds * 8000, false⟩ ∧ t.lanes.holdOffSeconds = s.lanes.holdOffSeconds
  duplicate : t.lanes.duplicate = ⟨256, false⟩ ∧ t.lanes.lastSequence = s.lanes.lastSequence
  slots : ∀ n, t.lanes.slots.get n =
    ⟨⟨(s.lanes.slots.get n).line.recognised, none, 0, false⟩, ⟨(s.lanes.slots.get n).flag.present, 0, false⟩⟩
  before : ∀ n, t.lanes.slotsBefore.get n =
    ⟨⟨(s.lanes.slotsBefore.get n).line.recognised, none, 0, false⟩, ⟨(s.lanes.slotsBefore.get n).flag.present, 0, false⟩⟩
  timing : TimingLaw t
  records : ∀ n, t.span n = { s.span n with record := (s.span n).record.staled }
  pause : t.align.pause = ⟨800, false⟩
  working_units : ∀ u c, (s.unit u).circuit = some c → (s.unit u).state ≠ .free → t.unit u = (s.unit u).restartedFull
  other_units : ∀ u, (s.unit u).circuit = none ∨ (s.unit u).state = .free → t.unit u = s.unit u
  aligned : ∀ c x, (s.circuit c).state = .aligned → (s.circuit c).context = some x →
    t.circuit c = evaluated t.spans t.lanes ((s.circuit c).requeuedRecord x)
  removed : ∀ c, (s.circuit c).state = .measuring ∨ (s.circuit c).state = .fibre →
    t.circuit c = { s.circuit c with context := (s.circuit c).context.map fun x => { x with delta := none } }
  others : ∀ c, (s.circuit c).state ≠ .aligned → (s.circuit c).state ≠ .measuring → (s.circuit c).state ≠ .fibre →
    t.circuit c = s.circuit c
  queue : t.align.queue = s.align.queue ++
    (allCircuits.filter fun c => (s.circuit c).state = .aligned ∧ (s.circuit c).context.isSome).map fun c => ⟨c, .full⟩
  report : Reported [.lane t.lanes.working t.lanes.timing
    (.working s.lanes.working t.lanes.working cause (allCircuits.filter fun c => (s.circuit c).state = .fibre).length)] s t
  frame : SameBut workingBlocks s t

/-- R113, R116: lane `i` takes the record `after`; the timing source is chosen again, and a STATE report is handed with the
working lane and the timing source after the event. -/
structure LaneTakes (i : Lane) (after : LaneRecord) (cause : LaneCause) (s t : State) : Prop where
  record : t.lane i = after ∧ t.lane (otherLane i) = s.lane (otherLane i)
  timing : TimingLaw t
  selection : t.lanes.working = s.lanes.working ∧ t.lanes.holdOff = s.lanes.holdOff ∧ t.lanes.holdOffSeconds = s.lanes.holdOffSeconds
  report : ∃ working timing, Reported [.lane working timing (.state i (s.lane i).state after.state cause)] s t ∧
    (t.lanes.mustChange → working = otherLane t.lanes.working) ∧ (¬ t.lanes.mustChange → working = t.lanes.working) ∧
    timing = ({ t.lanes with working := working } : LaneInterface).source
  frame : SameBut [.laneRecords, .selection, .reports] s t

/-- R100, when fibre becomes unavailable: the slots lose their flags and candidates, and every circuit takes R53. The rings stay, with
the cells of this frame as SITE_FRAME wrote them (assumption 62). -/
structure FibreUnavailable (s t : State) : Prop where
  slots : ∀ n, t.lanes.slots.get n = ⟨⟨(s.lanes.slots.get n).line.recognised, none, 0, false⟩, ⟨false, 0, false⟩⟩
  before : ∀ n, t.lanes.slotsBefore.get n = ⟨⟨(s.lanes.slotsBefore.get n).line.recognised, none, 0, false⟩, ⟨false, 0, false⟩⟩
  circuits : FibreLost s t
  frame : SameBut (.slots :: turnBlocks) s t

/-- R100, when fibre becomes available: conditioning is evaluated again for every circuit. -/
structure FibreAvailable (s t : State) : Prop where
  circuits : ∀ c, t.circuit c = evaluated t.spans t.lanes (s.circuit c)
  frame : SameBut [.circuits] s t

/-- R104: the working-lane test has been made. -/
def Tested (cause : WorkingCause) (s t : State) : Prop :=
  (s.lanes.mustChange → WorkingChanged cause s t) ∧ (¬ s.lanes.mustChange → t = s)

/-- R100: what follows the change of the count of UP lanes; `before` and `after` say whether a lane is UP. -/
def Availability (before after : Bool) (s t : State) : Prop :=
  if before = true ∧ after = false then FibreUnavailable s t
  else if before = false ∧ after = true then FibreAvailable s t
  else t = s

/-! ### Time -/

/-- One frame of a count of frames remaining: it is lowered by one, and its last lowering is left to the row of its expiry
(assumption 1). -/
structure Counted (x y : Countdown) : Prop where
  running : 2 ≤ x.left → y = ⟨x.left - 1, false⟩
  last : x.left = 1 → y = ⟨1, true⟩
  ended : x.left = 0 → y = ⟨0, false⟩

/-- A count that may be absent. -/
def CountedIfAny (x y : Option Countdown) : Prop :=
  (x = none → y = none) ∧ ∀ a, x = some a → ∃ b, y = some b ∧ Counted a b

/-- R14, R102: one frame's code into a recognition. The sixteenth frame of a run marks the change due, and the row that
recognises it makes the change. -/
def Heard (code : LineCondition) (x y : LineRecognition) : Prop :=
  if code = x.recognised then y = ⟨x.recognised, none, 0, false⟩
  else if x.candidate = some code then
    if x.run + 1 < 16 then y = { x with run := x.run + 1, due := false } else y = { x with due := true }
  else y = ⟨x.recognised, some code, 1, false⟩

/-- R103: one frame's bridge flag into a recognition. -/
def FlagHeard (flag : Bool) (x y : FlagRecognition) : Prop :=
  if flag = x.present then y = ⟨x.present, 0, false⟩
  else if x.run + 1 < 16 then y = ⟨x.present, x.run + 1, false⟩
  else y = { x with due := true }

/-- R7, R28, R32, R33, R36, R45: a circuit's counts in one frame, by its state. -/
structure CircuitCounted (r q : Circuit) : Prop where
  rest : q = { r with fibreTransmit := q.fibreTransmit, context := q.context }
  drain : (∀ a, r.fibreTransmit = .draining a → ∃ b, q.fibreTransmit = .draining b ∧ Counted a b) ∧
    (r.draining = false → q.fibreTransmit = r.fibreTransmit)
  without : r.context = none → q.context = none
  context : ∀ x, r.context = some x → ∃ y, q.context = some y ∧
    y = { x with backoff := y.backoff, bridgeLimit := y.bridgeLimit, deferLimit := y.deferLimit, hold := y.hold } ∧
    (r.state = .proposing ∨ r.state = .measuring → CountedIfAny x.backoff y.backoff) ∧
    (r.state ≠ .proposing → r.state ≠ .measuring → y.backoff = x.backoff) ∧
    (r.state = .measuring → Counted x.bridgeLimit y.bridgeLimit) ∧ (r.state ≠ .measuring → y.bridgeLimit = x.bridgeLimit) ∧
    (r.state = .aligned ∧ x.deferred = true → Counted x.deferLimit y.deferLimit) ∧
    (¬ (r.state = .aligned ∧ x.deferred = true) → y.deferLimit = x.deferLimit) ∧
    (r.state = .fibre → CountedIfAny x.hold y.hold) ∧ (r.state ≠ .fibre → y.hold = x.hold)

/-- R6: the circuit whose bits a bearer timeslot is sent with, if any. -/
def State.sentOnCopper (s : State) (p : CopperPosition) : Option CircuitNo :=
  (s.timeslotOwner p).filter fun c => (s.circuit c).copperTransmit

/-- R7: the circuit whose bits a fibre slot is sent with, if any. -/
def State.sentOnFibre (s : State) (n : SlotNo) : Option CircuitNo :=
  (s.slotOwner n).filter fun c => (s.circuit c).fibreTransmit ≠ .off

/-- R6, R83, R85: the span frame sent in the frame of `fc`; `k` holds the conditions from the switch as this frame's codes
leave them (R14: the sixteenth frame that carries a new code is sent with it). -/
structure SpanSent (s k : State) (fc : FrameCount) (switch : Table 512 ChannelInput) (n : SpanNo) (f : SpanFrame) : Prop where
  retired : (s.span n).state = .retired → ∀ i, f.get i = 0xFF
  samples : (s.span n).state ≠ .retired → ∀ i : TimeslotNo, f.get i.succ =
    (match s.sentOnCopper ⟨n, i⟩ with | some c => (switch.get c).sample | none => s.node.idleCode)
  signalling : (s.span n).state ≠ .retired → f.get 0 = transmitZero fc fun i =>
    (match s.sentOnCopper ⟨n, i⟩ with | some c => (k.highway.channels.get c).shown | none => .blocked)

/-- R7, R110: the lane frame sent, around its overhead bytes; `k` as in `SpanSent`. -/
structure LaneSent (s k : State) (switch : Table 512 ChannelInput) (overhead : List Byte) (f : LaneFrame) : Prop where
  word : f.word.data = [0xB1, 0x4E, 0x27, 0xD8]
  overhead : f.overhead.data = overhead
  samples : ∀ n, f.samples.get n = (match s.sentOnFibre n with | some c => (switch.get c).sample | none => s.node.idleCode)
  control : ∀ n, f.control.get n =
    (match s.sentOnFibre n with | some c => controlByte (k.highway.channels.get c).shown true | none => controlByte .idle false)

/-- R85, R109, R110, R111: what the part sends in the frame of `fc`. -/
structure Transmitted (switch : Table 512 ChannelInput) (fc : FrameCount) (s k : State) : Prop where
  spans : ∀ n, ∃ f, (k.span n).transmit = some f ∧ SpanSent s k fc switch n f
  lanes : ∀ i, if (s.lane i).shutdown = true then (k.lane i).transmit = none
    else ∃ f, (k.lane i).transmit = some f ∧ LaneSent s k switch (LaneInterface.nextBytes 16 s.lanes).1 f
  overhead : k.lanes.queue = (LaneInterface.nextBytes 16 s.lanes).2.queue ∧ k.lanes.lost = s.lanes.lost ∧
    k.lanes.sending = (LaneInterface.nextBytes 16 s.lanes).2.sending ∧
    k.lanes.sequence = (LaneInterface.nextBytes 16 s.lanes).2.sequence

/-- A lane is UP. -/
def State.fibreUp (s : State) : Prop := s.lanes.a.state = .up ∨ s.lanes.b.state = .up

/-- R101: the content of a slot in this frame. -/
def State.heardOnSlot (s : State) (n : SlotNo) : SlotContent :=
  if (s.lane s.lanes.working).state = .down then ⟨s.node.idleCode, .idle, false⟩ else (s.lane s.lanes.working).content.get n

/-- R86: the copper receive sample of a circuit in the frame. -/
def State.heardOnCopper (s : State) (c : CircuitNo) : Byte :=
  match (s.circuit c).copper with
  | some p => if (s.span p.span).state = .up then (s.span p.span).current.get p.timeslot else s.node.idleCode
  | none => s.node.idleCode

/-- R54: the cell of a ring for a frame count. -/
def ringCell (fc : FrameCount) : Fin 128 := ⟨fc.toNat % 128, Nat.mod_lt _ (by decide)⟩

/-- R60, R61, R62, R65: a unit that works on circuit `c` in one frame; `s` is the state before it, `k` after it. -/
structure UnitFrame (s k : State) (c : CircuitNo) (m u : Matcher) : Prop where
  resting : m.state = .free ∨ m.state = .done → u = m
  history : m.state = .priming ∨ m.state = .window →
    (∀ j, u.history.get j = if j = ringCell k.fc then k.heardOnCopper c else m.history.get j) ∧
    u.circuit = m.circuit ∧ u.wlo = m.wlo ∧ u.whi = m.whi ∧ u.length = m.length
  clear : m.state = .priming ∨ m.state = .window → (∃ n, (s.circuit c).fibre = some n ∧ (s.heardOnSlot n).flag = false) →
    u = { m.restarted (s.recordOf c) with history := u.history }
  priming : m.state = .priming → (∀ n, (s.circuit c).fibre = some n → (s.heardOnSlot n).flag = true) →
    u.state = .priming ∧ u.kind = m.kind ∧ u.candidates = m.candidates ∧ u.outcome = m.outcome ∧
    u.count = (if m.count < 128 then m.count + 1 else m.count)
  window : m.state = .window → m.count < m.length → (∀ n, (s.circuit c).fibre = some n → (s.heardOnSlot n).flag = true) →
    u.state = .window ∧ u.kind = m.kind ∧ u.outcome = m.outcome ∧ u.count = m.count + 1 ∧
    ∀ d, d ∈ u.candidates ↔ d ∈ m.candidates ∧
      (if 0 ≤ d then (k.ring c).get (ringCell k.fc) = u.history.get (ringCell (k.fc - BitVec.ofNat 32 d.toNat))
       else u.history.get (ringCell k.fc) = (k.ring c).get (ringCell (k.fc - BitVec.ofNat 32 (-d).toNat)))

/-- The holdings that a site frame of a running part may change, but for the slips of its reads. -/
def frameBlocks : List Block :=
  [.circuits, .channels, .routes, .spans, .laneRecords, .selection, .clock, .slots, .overhead, .sending, .reception, .rings,
    .matchers, .pause, .link, .responses, .walk, .ports]

/-- R113: the work of one site frame of a running part, but for the slips of its reads (R86). -/
structure FrameTaken (switch : Table 512 ChannelInput) (s k : State) : Prop where
  clock : k.fc = s.fc + 1
  circuits : ∀ c, CircuitCounted (s.circuit c) (k.circuit c)
  sent : Transmitted switch (s.fc + 1) s k
  channels : ∀ c, Heard (switch.get c).code (s.highway.channels.get c) (k.highway.channels.get c)
  stores : ∀ n, ∃ f, k.span n = { (if (s.span n).state = .up then
      (match (s.span n).store with
        | frame :: rest => { s.span n with store := rest, last := some frame, current := frame }
        | [] => { s.span n with current := (s.span n).last.getD (.fill s.node.idleCode) })
    else s.span n) with transmit := f }
  lanes : ∀ i, CountedIfAny (s.lane i).interval (k.lane i).interval ∧
    k.lane i = { s.lane i with interval := (k.lane i).interval, transmit := (k.lane i).transmit }
  timers : Counted s.lanes.holdOff k.lanes.holdOff ∧ Counted s.lanes.duplicate k.lanes.duplicate ∧
    Counted s.align.pause k.align.pause ∧ CountedIfAny s.peer.hello k.peer.hello ∧
    CountedIfAny s.peer.silence k.peer.silence ∧ ∀ c, CountedIfAny (s.peer.response.get c) (k.peer.response.get c)
  untimed : k.lanes.working = s.lanes.working ∧ k.lanes.timing = s.lanes.timing ∧
    k.lanes.holdOffSeconds = s.lanes.holdOffSeconds ∧ k.lanes.lastSequence = s.lanes.lastSequence ∧
    k.peer.state = s.peer.state ∧ k.peer.heard = s.peer.heard ∧ k.peer.qualified = s.peer.qualified
  slots : (s.fibreUp → ∀ n, Heard (s.heardOnSlot n).code (s.lanes.slots.get n).line (k.lanes.slots.get n).line ∧
      FlagHeard (s.heardOnSlot n).flag (s.lanes.slots.get n).flag (k.lanes.slots.get n).flag) ∧
    (¬ s.fibreUp → k.lanes.slots = s.lanes.slots) ∧ k.lanes.slotsBefore = s.lanes.slots
  rings : ∀ c, (∀ n, s.fibreUp → (s.circuit c).fibre = some n → ∀ j,
      (k.ring c).get j = if j = ringCell k.fc then (s.heardOnSlot n).sample else (s.ring c).get j) ∧
    (¬ s.fibreUp ∨ (s.circuit c).fibre = none → k.ring c = s.ring c)
  units : ∀ u, ((s.unit u).circuit = none → k.unit u = s.unit u) ∧
    ∀ c, (s.unit u).circuit = some c → UnitFrame s k c (s.unit u) (k.unit u)
  routes : ∀ c, k.highway.route.get c =
    (match (s.circuit c).state with
      | .vacant => ⟨s.node.idleCode, .blocked⟩
      | .fibre => ⟨(k.ring c).get (ringCell (k.fc - BitVec.ofNat 32 (s.circuit c).buildOut)), k.farShown (s.circuit c)⟩
      | .copper | .proposing | .awaiting | .measuring | .aligned => ⟨k.heardOnCopper c, k.farShown (s.circuit c)⟩)
  fibreRoutes : ∀ c, k.highway.fibreRoute.get c =
    (match (s.circuit c).state, (s.circuit c).fibre with
      | .fibre, some n => some ⟨n, (s.circuit c).buildOut⟩
      | _, _ => none)
  idle : k.highway.idleCode = s.node.idleCode
  walk : k.directory.walk = (match s.directory.walk with
    | .rangeCheck next _ port tag e found => .rangeCheck next (decide (next < 128)) port tag e found
    | .purge next _ port tag removed => .purge next (decide (next < 128)) port tag removed
    | .idle => .idle)
  ports : ∀ p, CountedIfAny (s.port p).interByte (k.port p).interByte ∧
    k.port p = { s.port p with interByte := (k.port p).interByte }
  frame : SameBut frameBlocks s k

/-! ### The idle and busy result (R16) -/

/-- R16: what a circuit does when it has become idle. -/
def BecomesIdle (c : CircuitNo) (s t : State) : Prop :=
  match (s.circuit c).state with
  | .measuring => ∀ x, (s.circuit c).context = some x →
    if x.sub = some .bridgeWait then BridgeWaitJudged c x s t else t = s
  | .aligned => ∀ x d, (s.circuit c).context = some x → x.delta = some d →
    if x.deferred = false then t = s
    else if s.flagPresent c = true then
      ∃ m j, SameBut [.freeValues] s m ∧ SpliceJ d j ∧ Spliced c .splicedIdle (s.circuit c).buildOut (some d) j x m t
    else Becomes c ((s.circuit c).measuringRecord x .bridgeWait) s t ∧ SameBut [.circuits] s t
  | .fibre =>
    if 0 < (s.circuit c).buildOut then
      Turn c [] ((s.circuit c).collapsedRecord s.fc) [] [] s t ∧ SameBut outcomeBlocks s t
    else t = s
  | .vacant | .copper | .proposing | .awaiting => t = s

/-- R16, R36: what a circuit does when it has become busy. -/
def BecomesBusy (c : CircuitNo) (s t : State) : Prop :=
  if (s.circuit c).state = .aligned then
    ∀ x d p, (s.circuit c).context = some x → x.delta = some d → (s.circuit c).copper = some p →
      AlignedJudged c x d (s.span p.span).tolerance s t
  else t = s

/-- R16: an input of a circuit's idle and busy result has changed; `wasBusy` is the result before it. The LINE event comes
first (assumption 17). -/
def InputJudged (c : CircuitNo) (wasBusy : Bool) (s t : State) : Prop :=
  ∃ m, (if (s.circuit c).state = .vacant ∨ (s.circuit c).state = .copper then m = s
      else Watched c .line s m ∧ SameBut [.watches, .reports] s m) ∧
    (if wasBusy = true ∧ m.busy c = false then BecomesIdle c m t
     else if wasBusy = false ∧ m.busy c = true then BecomesBusy c m t
     else t = m)

/-! ### Signalling of a span -/

/-- R83, R190: the code in bits `2 i + 1` and `2 i` of a timeslot 0. -/
def signalCode (b : Byte) (i : Nat) : LineCondition :=
  match b.getLsbD (2 * i + 1), b.getLsbD (2 * i) with
  | false, false => .idle
  | false, true => .seized
  | true, false => .answered
  | true, true => .blocked

/-- R83: the four codes of an odd frame's timeslot 0, but for frame 1. -/
def signalCodes (b : Byte) : List LineCondition := [signalCode b 3, signalCode b 2, signalCode b 1, signalCode b 0]

/-- R79: the marker in the first two bits of a timeslot 0. -/
def signalMarker (b : Byte) : Option Marker :=
  match b.getLsbD 7, b.getLsbD 6 with
  | true, false => some .first
  | false, true => some .second
  | _, _ => none

/-- R81, R83: what timeslot 0 of a frame does to an UP span unit, but for the last frame of a multiframe: an even frame is checked
for the word, frame 1 for the marker called for, and the codes are gathered. The fourth bad word in a row marks the loss due
(assumption 1). -/
structure SpanSignalled (b : Byte) (u v : Span) : Prop where
  number : v.multiframe.next = u.multiframe.next + 1 ∧ v.multiframe.expect = u.multiframe.expect
  good : u.multiframe.next % 2 = 0 → b = 0x2D → v.badWords = 0 ∧ v.badDue = false
  bad : u.multiframe.next % 2 = 0 → b ≠ 0x2D → u.badWords < 3 → v.badWords = u.badWords + 1 ∧ v.badDue = u.badDue
  fourth : u.multiframe.next % 2 = 0 → b ≠ 0x2D → 3 ≤ u.badWords → v.badWords = u.badWords ∧ v.badDue = true
  unchecked : u.multiframe.next % 2 = 1 → v.badWords = u.badWords ∧ v.badDue = u.badDue
  first : u.multiframe.next = 1 → signalMarker b = some u.multiframe.expect →
    v.multiframe.codes = some [signalCode b 2, signalCode b 1, signalCode b 0]
  wrong : u.multiframe.next = 1 → signalMarker b ≠ some u.multiframe.expect → v.multiframe.codes = none
  more : u.multiframe.next % 2 = 1 → u.multiframe.next ≠ 1 →
    v.multiframe.codes = u.multiframe.codes.map fun l => l ++ signalCodes b
  even : u.multiframe.next % 2 = 0 → v.multiframe.codes = u.multiframe.codes
  rest : v = { u with badWords := v.badWords, badDue := v.badDue, multiframe := v.multiframe, store := v.store }

/-! ### Slips (R87) -/

/-- R69: the Δ after a slip that adds `step` to it, absent outside -127 to 127. -/
def slippedDelta (step d : Int) : Option Int := if -127 ≤ d + step ∧ d + step ≤ 127 then some (d + step) else none

/-- R37: whether the Δ of an ALIGNED circuit of span `n` lies in the span's window after a slip. -/
def State.slipsWithin (s : State) (n : SpanNo) (step d : Int) : Bool := decide ((s.span n).wlo ≤ d + step ∧ d + step ≤ (s.span n).whi)

/-- R37, R24, R35: the reason with which a slip of span `n` that adds `step` to Δ abandons circuit `c`, if it does. -/
def State.slipAbandons (s : State) (n : SpanNo) (step : Int) (c : CircuitNo) : Option Reason :=
  match (s.circuit c).context, (s.circuit c).delta with
  | some x, some d =>
    if (s.circuit c).spanNo = some n ∧ (s.circuit c).state = .aligned then
      if s.slipsWithin n step d = true then
        if x.runsOut (s.overAt c (d + step) (s.span n).tolerance) = true then some .deferLimit else none
      else if x.attempts = 0 then some .outOfWindow else none
    else none
  | _, _ => none

/-- R37: whether a slip of span `n` takes circuit `c` back to MEASURING. -/
def State.slipRequeues (s : State) (n : SpanNo) (step : Int) (c : CircuitNo) : Bool :=
  match (s.circuit c).context, (s.circuit c).delta with
  | some x, some d =>
    decide ((s.circuit c).spanNo = some n ∧ (s.circuit c).state = .aligned) && !s.slipsWithin n step d && decide (0 < x.attempts)
  | _, _ => false

/-- R87, step 3, with R69, R37 and R35: what a slip of span `n` that adds `step` to Δ makes of every circuit. The messages and events
come in ascending circuit number (assumption 13), the SLIP events after those of the abandonments; an abandonment OUT-OF-WINDOW
records the Δ as the slip leaves it (assumption 28). -/
structure CircuitsSlip (n : SpanNo) (step : Int) (s t : State) : Prop where
  measured : ∀ c x d, (s.circuit c).spanNo = some n → (s.circuit c).context = some x → x.delta = some d →
    (s.circuit c).state = .measuring ∨ (s.circuit c).state = .fibre →
    EndsAs c { s.circuit c with context := some { x with delta := slippedDelta step d } } (s.peer.response.get c) s t
  stays : ∀ c x d, (s.circuit c).spanNo = some n → (s.circuit c).context = some x → x.delta = some d →
    (s.circuit c).state = .aligned → s.slipsWithin n step d = true → s.slipAbandons n step c = none →
    EndsAs c { s.circuit c with
      buildOut := (-(d + step)).toNat
      context := some (Context.judged { x with delta := some (d + step) } (s.overAt c (d + step) (s.span n).tolerance)
        (s.fc + BitVec.ofNat 32 s.node.lead)) } (s.peer.response.get c) s t
  requeued : ∀ c x, s.slipRequeues n step c = true → (s.circuit c).context = some x →
    EndsAs c ((s.circuit c).requeuedRecord { x with attempts := x.attempts - 1 }) (s.peer.response.get c) s t
  abandoned : ∀ c x d reason, s.slipAbandons n step c = some reason → (s.circuit c).context = some x → x.delta = some d →
    EndsAs c (({ s.circuit c with context := some { x with delta := slippedDelta step d } } : Circuit).abandonedRecord reason none s.fc)
      none s t
  others : ∀ c, ((s.circuit c).spanNo ≠ some n ∨ (s.circuit c).delta = none ∨
      ((s.circuit c).state ≠ .measuring ∧ (s.circuit c).state ≠ .aligned ∧ (s.circuit c).state ≠ .fibre)) →
    EndsAs c (s.circuit c) (s.peer.response.get c) s t
  queue : t.align.queue = s.align.queue ++ (allCircuits.filter fun c => s.slipRequeues n step c).map fun c => ⟨c, .full⟩
  handedOn : HandedOn (allCircuits.filter fun c => (s.slipAbandons n step c).isSome)
    (allCircuits.flatMap fun c => (s.slipAbandons n step c).toList.flatMap fun reason => (s.circuit c).messages fun code => .abandon code reason)
    (((allCircuits.filter fun c => (s.slipAbandons n step c).isSome).map fun c => (c, .abandon)) ++
      (allCircuits.filter fun c => (s.circuit c).spanNo = some n ∧
        ((s.circuit c).state = .measuring ∨ (s.circuit c).state = .aligned)).map fun c => (c, .slip)) s t

/-- R87, step 3, with R65: what a slip of span `n` that adds `step` to Δ makes of a unit, `record` being the span's record after it. -/
structure UnitSlips (step : Int) (record : DelayRecord) (m u : Matcher) : Prop where
  restarted : m.state = .priming ∨ m.state = .window → u = m.restarted record
  pending : ∀ d, m.state = .done →
    (m.outcome = some (.matched d) →
      u = { m with outcome := some (if m.wlo ≤ d + step ∧ d + step ≤ m.whi then .matched (d + step) else .noMatch) }) ∧
    (m.outcome = some (.confirmed d) →
      u = { m with outcome := some (if m.wlo ≤ d + step ∧ d + step ≤ m.whi then .confirmed (d + step) else .noMatch) })
  unmoved : m.state = .done → m.outcome = some .noMatch ∨ m.outcome = some .ambiguous ∨ m.outcome = some .confirmFailed → u = m

/-! ### Losses and returns of a span -/

/-- R78, R79, R82, R92: the unit of a span that hunts anew. -/
def SpanHunts (u v : Span) : Prop :=
  v.state = .down ∧ v.phase = some .search ∧ v.search.candidate = none ∧ v.search.found = false ∧ v.marker = none ∧
  v.badWords = 0 ∧ v.badDue = false ∧ v.upDue = false ∧ v.conditions = u.conditions ∧ v.deletions = u.deletions ∧ v.repetitions = u.repetitions ∧
  v.wlo = u.wlo ∧ v.whi = u.whi ∧ v.tolerance = u.tolerance ∧ v.slipReports = u.slipReports ∧ v.autoRetire = u.autoRetire

/-- R82, R52, R91: an UP span goes DOWN for a cause: its circuits, its unit, and its report, which comes after those of the circuits
and of a retirement (assumption 51). -/
def SpanGoesDown (n : SpanNo) (cause : SpanDownCause) (s t : State) : Prop :=
  ∃ bodies, SpanLost n (s.span n).record bodies s t ∧
    Reported (bodies ++ [.span n (.down cause (s.span n).record)]) s t ∧
    (RetiresAtLoss n s t → t.span n = (s.span n).retired ∧ .span n .retired ∈ bodies) ∧
    (¬ RetiresAtLoss n s t → SpanHunts (s.span n) (t.span n) ∧ (t.span n).store = [] ∧ (t.span n).last = none ∧
      (∀ i, (t.span n).candidates.get i = none) ∧ (t.span n).record = .invalid)

/-- R101, with the remark of R105: the working lane has failed in this frame with the other lane UP, and the frame's content of
every slot is the idle code, IDLE and a clear flag: in the recognition, taken again from where the frame found it, in the rings of
circuits with a fibre attachment, in the matchers (R65), and in what the switch is given on the routes that the frame selected (R8,
assumption 29). The same holds where a lane has gone UP, or has become the working lane, earlier in the frame (assumptions 57 and 61). -/
structure IdleFrame (s t : State) : Prop where
  slots : ∀ n, Heard .idle (s.lanes.slotsBefore.get n).line (t.lanes.slots.get n).line ∧
    FlagHeard false (s.lanes.slotsBefore.get n).flag (t.lanes.slots.get n).flag
  before : t.lanes.slotsBefore = s.lanes.slotsBefore
  rings : ∀ c j, (t.ring c).get j =
    if (s.circuit c).fibre.isSome = true ∧ j = ringCell s.fc then s.node.idleCode else (s.ring c).get j
  restarted : ∀ u c, (s.unit u).circuit = some c → (s.circuit c).fibre.isSome = true →
    (s.unit u).state = .priming ∨ (s.unit u).state = .window →
    t.unit u = (s.unit u).restarted (s.recordOf c)
  resting : ∀ u, (s.unit u).circuit = none ∨ (s.unit u).state = .free ∨ (s.unit u).state = .done → t.unit u = s.unit u
  routes : ∀ c, t.highway.route.get c =
    (match s.highway.fibreRoute.get c with
      | some r => ⟨if r.buildOut = 0 then s.node.idleCode else (s.highway.route.get c).sample, (t.lanes.slots.get r.slot).line.shown⟩
      | none => s.highway.route.get c)
  selected : t.highway.fibreRoute = s.highway.fibreRoute
  idle : t.highway.idleCode = s.highway.idleCode
  frame : SameBut [.slots, .rings, .matchers, .routes] s t

/-- R98, R100, R104: a framed lane goes DOWN with the record `after`. -/
def LaneGoesDown (i : Lane) (after : LaneRecord) (cause : LaneCause) (s t : State) : Prop :=
  ∃ m k j, LaneTakes i after cause s m ∧
    (if s.lanes.working = i ∧ m.lanes.anyUp = true then IdleFrame m k else k = m) ∧
    Availability s.lanes.anyUp m.lanes.anyUp k j ∧ Tested .automatic j t

/-- R99: a framed lane changes between UP and DEGRADED. -/
def LaneGraded (i : Lane) (after : LaneRecord) (cause : LaneCause) (s t : State) : Prop :=
  ∃ m k, LaneTakes i after cause s m ∧ Availability s.lanes.anyUp m.lanes.anyUp m k ∧ Tested .automatic k t

/-! ### Received messages (R124) -/

/-- R124: the message at the head of the inbox has been taken, and the receive count of its type has risen. -/
structure Received (m : PeerMessage) (rest : List PeerMessage) (s k : State) : Prop where
  head : s.peer.inbox = m :: rest
  inbox : k.peer.inbox = rest
  count : ∀ i : Fin 10, k.peer.received.get i =
    if i = messageIndex m then raise (s.peer.received.get i) else s.peer.received.get i
  others : k.peer.discards = s.peer.discards ∧ k.peer.declines = s.peer.declines ∧ k.peer.lastAbandon = s.peer.lastAbandon ∧
    k.peer.lastRevertDecline = s.peer.lastRevertDecline
  frame : SameBut [.inbox, .peerCounts] s k

/-- A received message changes the discard counts alone. -/
def Discarded (d : DiscardCounts) (k t : State) : Prop :=
  t.peer.discards = d ∧ t.peer.received = k.peer.received ∧ t.peer.declines = k.peer.declines ∧
  t.peer.lastAbandon = k.peer.lastAbandon ∧ t.peer.lastRevertDecline = k.peer.lastRevertDecline ∧ SameBut [.peerCounts] k t

/-- R124, case 5: a message that does not fit the circuit it names. -/
def Inapplicable (k t : State) : Prop :=
  Discarded { k.peer.discards with inapplicable := raise k.peer.discards.inapplicable } k t

/-- R124: an answer whose proposal number is not that of the circuit's migration, or that finds it in retry backoff. -/
def Stale (k t : State) : Prop := Discarded { k.peer.discards with stale := raise k.peer.discards.stale } k t

/-- R125: a DECLINE is sent, and the count of its reason rises. -/
def DeclineSent (code : TrunkCode) (number : Byte) (reason : DeclineReason) (k t : State) : Prop :=
  (∀ i : Fin 6, t.peer.declines.get i = if i = declineCode reason then raise (k.peer.declines.get i) else k.peer.declines.get i) ∧
  t.peer.received = k.peer.received ∧ t.peer.discards = k.peer.discards ∧ t.peer.lastAbandon = k.peer.lastAbandon ∧
  t.peer.lastRevertDecline = k.peer.lastRevertDecline ∧ Sent [.decline code number reason] k t ∧
  SameBut [.peerCounts, .overhead] k t

/-- R29, R30: the record of a circuit that has bridged as acceptor, by the handshake mode. -/
def Circuit.acceptorRecord (r : Circuit) (mode : HandshakeMode) (x : Context) : Circuit :=
  match mode with
  | .threeWay => { r with state := .awaiting, buildOut := 0, fibreTransmit := .bridged, context := some x }
  | .twoWay => { r with fibreTransmit := .bridged }.measuringRecord x .bridgeWait

/-- R29, R30: an acceptor that has taken the record of its handshake mode goes on: the response timer in THREE-WAY, the
test of BRIDGE-WAIT in TWO-WAY. -/
def AcceptorGoesOn (c : CircuitNo) (x : Context) (s t : State) : Prop :=
  match s.node.mode with
  | .threeWay => t = s
  | .twoWay => ∀ y, (s.circuit c).context = some y → y.number = x.number ∧ y.role = .acceptor ∧ BridgeWaitJudged c y s t

/-- R29: circuit `c` accepts a proposal: the slot is attached where it was not, the circuit is bridged, ACCEPT is sent, and the
MIGRATE-START event comes before the test of BRIDGE-WAIT (assumption 18). -/
def AcceptedAt (c : CircuitNo) (code : TrunkCode) (slot : SlotNo) (number : Byte) (s t : State) : Prop :=
  ∃ m n, Becomes c ({ s.circuit c with fibre := some slot }.acceptorRecord s.node.mode (startContext s .acceptor number)) s m ∧
    (∀ j, m.slotOwner j = if j = slot then some c else s.slotOwner j) ∧ m.timeslots = s.timeslots ∧
    (∀ d, d ≠ c → m.ring d = s.ring d) ∧
    ((s.circuit c).fibre.isSome → m.ring c = s.ring c) ∧
    ((s.circuit c).fibre = none → ∀ j, (m.ring c).get j = s.node.idleCode) ∧
    Sent [.accept code slot number] s m ∧
    Timed c (if s.node.mode = .threeWay then some ⟨2000, false⟩ else s.peer.response.get c) s m ∧
    SameBut [.circuits, .occupancy, .rings, .overhead, .responses] s m ∧
    Watched c .migrateStart m n ∧ SameBut [.watches, .reports] m n ∧
    AcceptorGoesOn c (startContext s .acceptor number) n t

/-! ### Batches -/

/-- R157: the number of members of a status. -/
def Batch.numberOf (b : Batch) (status : MemberStatus) : Nat := (b.members.filter fun m => m.status = status).length

/-- R162: the counts that the closing of a batch carries; members still ACTIVE go on untracked. -/
def Batch.countsOf (b : Batch) : BatchSummary :=
  ⟨b.members.length, b.numberOf .done, b.numberOf .failed, b.numberOf .cancelled, b.numberOf .active⟩

/-- R162: the FAILED members with their list indexes. -/
def Batch.failures (b : Batch) : List FailedMember :=
  b.members.zipIdx.filterMap fun x => if x.1.status = .failed then some ⟨x.2, x.1.circuit, x.1.reason⟩ else none

/-- R162: batch `id`, whose record is `b` as it closes, has closed: the BATCH report, the memberships and the record. -/
structure BatchClosed (id : Fin 8) (b : Batch) (cause : BatchCause) (s t : State) : Prop where
  record : t.batch id = none ∧ ∀ i, i ≠ id → t.batch i = s.batch i
  members : ∀ c, c ∈ b.members.map Member.circuit → t.circuit c = evaluated t.spans t.lanes { s.circuit c with batch := none }
  others : ∀ c, c ∉ b.members.map Member.circuit → t.circuit c = s.circuit c
  report : Reported [.batch id b.mode cause b.countsOf b.failures] s t
  frame : SameBut [.circuits, .batches, .reports] s t

/-- R159, R25: whether a start step starts a circuit that it comes to, by checks 4 to 7 of MIGRATE. -/
def State.startable (s : State) (c : CircuitNo) : Bool := (s.migrateRefusal c).isNone

/-- R159: the members that would be ACTIVE when a start step comes to index `i`, if no limit held it back. -/
def Batch.ahead (b : Batch) (s : State) (i : Nat) : Nat :=
  b.numberOf .active + ((b.members.take i).filter fun m => m.status = .pending ∧ s.startable m.circuit = true).length

/-- R159: a member after a start step: a PENDING one that the limit lets it come to is started or has failed. -/
def Batch.stepped (b : Batch) (s : State) (i : Nat) (m : Member) : Member :=
  if m.status ≠ .pending ∨ b.limit ≤ b.ahead s i then m
  else match s.migrateRefusal m.circuit with
    | none => { m with status := .active }
    | some result => { m with status := .failed, reason := some (.refused result) }

/-- R159: the record after a start step. -/
def Batch.afterStep (b : Batch) (s : State) : Batch :=
  let members := b.members.mapIdx (b.stepped s)
  { b with
    members := members
    remaining := (members.filter fun m => m.status = .pending).length + (members.filter fun m => m.status = .active).length }

/-- R159: the circuits that a start step starts, in list order. -/
def Batch.starts (b : Batch) (s : State) : List CircuitNo :=
  ((b.members.filter fun m => m.status = .pending ∧ s.startable m.circuit = true).map Member.circuit).take
    (b.limit - b.numberOf .active)

/-- R126, R28: the PROPOSE of the `j`-th circuit that a step starts. -/
def State.proposalOf (s : State) (c : CircuitNo) (j : Nat) : List PeerMessage :=
  match (s.circuit c).code, (s.circuit c).fibre with
  | some code, some slot => [.propose code slot (s.peer.counter + BitVec.ofNat 8 j)]
  | _, _ => []

/-- R159, R162: a start step of the open batch `id`, whose record is `b`. -/
structure BatchStepped (id : Fin 8) (b : Batch) (s t : State) : Prop where
  record : t.batch id = if (b.afterStep s).remaining = 0 then none else some (b.afterStep s)
  otherRecords : ∀ i, i ≠ id → t.batch i = s.batch i
  started : ∀ (j : Nat) c, (b.starts s)[j]? = some c → t.circuit c = evaluated t.spans t.lanes { s.circuit c with
    state := .proposing, buildOut := 0, context := some (startContext s .initiator (s.peer.counter + BitVec.ofNat 8 j)) }
  left : ∀ c, c ∉ b.starts s →
    if (b.afterStep s).remaining = 0 ∧ c ∈ b.members.map Member.circuit then
      t.circuit c = evaluated t.spans t.lanes { s.circuit c with batch := none }
    else t.circuit c = s.circuit c
  counter : t.peer.counter = s.peer.counter + BitVec.ofNat 8 (b.starts s).length
  sent : Sent ((b.starts s).zipIdx.flatMap fun x => s.proposalOf x.1 x.2) s t
  timers : ∀ c, t.peer.response.get c = if c ∈ b.starts s then some ⟨2000, false⟩ else s.peer.response.get c
  watched : Block.watches.same ((b.starts s).foldl (fun u c => u.watchEvent c .migrateStart none) s) t
  reports : Block.reports.same
    (if (b.afterStep s).remaining = 0 then
      s.handReport (.batch id b.mode .completed (b.afterStep s).countsOf (b.afterStep s).failures)
    else (b.starts s).foldl (fun u c => u.watchEvent c .migrateStart none) s) t
  frame : SameBut [.circuits, .batches, .watches, .reports, .overhead, .proposals, .responses] s t

/-- R158: the entries that pass check 5, with the circuits they resolve to. -/
structure Examined (s : State) (entries : List Selector) (circuits : List CircuitNo) : Prop where
  resolved : List.Forall₂ (Names s) entries circuits
  distinct : circuits.Nodup
  free : ∀ c ∈ circuits, (s.circuit c).state = .copper ∧ (s.circuit c).batch = none

/-- R179: a walk's command in the execution slot of its port is answered, and the other port is as it was. -/
def WalkAnswered (port : Port) (result : ResultCode) (body : ReplyBody) (s t : State) : Prop :=
  t.port (otherPort port) = s.port (otherPort port) ∧
  ∀ e, (s.port port).slot = some e → t.port port = { s.port port with
    output := (s.port port).output ++ [.reply e.tag e.type result body], slot := some ⟨.sending, e.tag, e.type⟩ }

/-! ### Laws of the whole part -/

/-- R177, R181, R111: the depths of the queues. -/
structure QueueBounds (s : State) : Prop where
  reports : s.links.reports.length ≤ 32
  overhead : s.lanes.queue.length ≤ 128
  inputs : ∀ port, (s.port port).input.length ≤ 4

/-- R17: what calls for the conditioning of a circuit. -/
def State.callsForConditioning (s : State) (r : Circuit) : Prop :=
  match r.state with
  | .vacant => True
  | .copper | .proposing | .awaiting | .measuring | .aligned =>
    r.copper = none ∨ ∃ p, r.copper = some p ∧ (s.span p.span).state = .down
  | .fibre => s.lanes.a.state ≠ .up ∧ s.lanes.b.state ≠ .up

/-- R17: conditioning is on exactly when something calls for it. -/
def Conditioned (s : State) : Prop := ∀ c, (s.circuit c).conditioning = true ↔ s.callsForConditioning (s.circuit c)

/-- R9, R90: the records and the occupancy entries name each other, and a RETIRED span has no occupants. -/
structure OccupancyLaw (s : State) : Prop where
  timeslots : ∀ p c, s.timeslotOwner p = some c ↔ (s.circuit c).copper = some p
  slots : ∀ n c, s.slotOwner n = some c ↔ (s.circuit c).fibre = some n
  retired : ∀ n, (s.span n).state = .retired → ∀ i : TimeslotNo, s.timeslotOwner ⟨n, i⟩ = none

/-- The table of section 1.2, R3, R4 and R5: what each path state fixes of a record. -/
def Circuit.lawful (r : Circuit) : Prop :=
  match r.state with
  | .vacant =>
    r.copper = none ∧ r.copperTransmit = false ∧ r.fibreTransmit ≠ .bridged ∧ r.context = none ∧ r.buildOut = 0
  | .copper =>
    r.copper.isSome ∧ r.copperTransmit = true ∧ r.fibreTransmit ≠ .bridged ∧ r.context = none ∧ r.buildOut = 0
  | .proposing =>
    r.copper.isSome ∧ r.fibre.isSome ∧ r.copperTransmit = true ∧ r.fibreTransmit ≠ .bridged ∧
      (∃ x, r.context = some x ∧ x.role = .initiator ∧ x.sub = none) ∧ r.buildOut = 0
  | .awaiting =>
    r.copper.isSome ∧ r.fibre.isSome ∧ r.copperTransmit = true ∧ r.fibreTransmit = .bridged ∧
      (∃ x, r.context = some x ∧ x.role = .acceptor ∧ x.sub = none) ∧ r.buildOut = 0
  | .measuring =>
    r.copper.isSome ∧ r.fibre.isSome ∧ r.copperTransmit = true ∧ r.fibreTransmit = .bridged ∧
      (∃ x, r.context = some x ∧ x.sub.isSome) ∧ r.buildOut = 0
  | .aligned =>
    r.copper.isSome ∧ r.fibre.isSome ∧ r.copperTransmit = true ∧ r.fibreTransmit = .bridged ∧
      (∃ x, r.context = some x ∧ x.sub = none)
  | .fibre =>
    r.fibre.isSome ∧ r.fibreTransmit = .bridged ∧
      (match r.context with
        | some x => r.copper.isSome ∧ r.copperTransmit = true ∧ x.sub = none
        | none => r.copper = none ∧ r.copperTransmit = false)

/-- Every circuit record keeps the laws of its state. -/
def RouteLaw (s : State) : Prop := ∀ c, (s.circuit c).lawful

/-- R157: what holds of one open batch. -/
structure Batch.lawful (b : Batch) : Prop where
  size : 1 ≤ b.members.length ∧ b.members.length ≤ 64
  limit : 1 ≤ b.limit ∧ b.limit ≤ 16
  distinct : (b.members.map Member.circuit).Nodup
  remaining : b.remaining = b.count .pending + b.count .active

/-- R157: the open batches, and their agreement with the membership fields. -/
structure BatchLaw (s : State) : Prop where
  records : ∀ id b, s.batch id = some b → b.lawful
  members : ∀ c id, (s.circuit c).batch = some id ↔ ∃ b, s.batch id = some b ∧ c ∈ b.members.map Member.circuit

/-- R57: the matcher queue and the units agree with the sub-statuses, and hold no circuit twice. -/
structure MatcherLaw (s : State) : Prop where
  once : (s.align.queue.map QueueEntry.circuit).Nodup
  queued : ∀ c, c ∈ s.align.queue.map QueueEntry.circuit ↔
    (s.circuit c).state = .measuring ∧ (s.circuit c).sub = some .queued
  matching : ∀ c, (∃ u, (s.unit u).circuit = some c) ↔
    (s.circuit c).state = .measuring ∧ (s.circuit c).sub = some .matching
  oneUnit : ∀ u v c, (s.unit u).circuit = some c → (s.unit v).circuit = some c → u = v
  free : ∀ u, (s.unit u).state = .free ↔ (s.unit u).circuit = none

/-- R141: the three conditions of a range entry. -/
structure RangeEntry.lawful (e : RangeEntry) : Prop where
  route : e.route < 4096
  size : e.size ∈ [1, 2, 4, 8, 16, 32, 64, 128, 256]
  aligned : e.member % e.size = 0
  members : e.member + e.size ≤ 256
  circuits : e.base + e.size ≤ 512

/-- What a running range check rests on (R147, R148): the pending range is lawful and meets no valid range, and every
entry inside it in a walked bucket has been found. -/
def WalkLaw (d : Directory) : Prop :=
  match d.walk with
  | .rangeCheck next _ _ _ e found =>
    e.lawful ∧ d.overlapping e = none ∧ (found = none → ∀ b : Fin 128, b.val < next → d.insideBucket e b = none)
  | .purge .. => True
  | .idle => True

/-- R145: no code resolves twice, each trunk entry stands in a bucket of its code, and a circuit carries a code exactly
when an entry resolves that code to it. -/
structure DirectoryLaw (s : State) : Prop where
  ranges : ∀ i e, s.directory.ranges.get i = some e → e.lawful
  apart : ∀ i j e x, s.directory.ranges.get i = some e → s.directory.ranges.get j = some x → i ≠ j → e.overlaps x = false
  codes : ∀ b w e, (s.directory.trunks.get b).get w = some e → codeValid e.code = true
  placed : ∀ b w e, (s.directory.trunks.get b).get w = some e → b = primaryBucket e.code ∨ b = secondaryBucket e.code
  unshadowed : ∀ b w e, (s.directory.trunks.get b).get w = some e → s.directory.findRange e.code = none
  single : ∀ b w e b' w' e', (s.directory.trunks.get b).get w = some e → (s.directory.trunks.get b').get w' = some e' →
    e.code = e'.code → b = b' ∧ w = w'
  carried : ∀ c code, codeValid code = true →
    ((s.circuit c).code = some code ↔ (s.directory.lookup code).map Prod.fst = some c)
  valid : ∀ c code, (s.circuit c).code = some code → codeValid code = true
  walk : WalkLaw s.directory

/-- R3, R68, R88, R93, R59: every build-out, measured delay, window and candidate lies in its range. -/
structure DelayLaw (s : State) : Prop where
  buildOut : ∀ c, (s.circuit c).buildOut ≤ 127 ∧
    ((s.circuit c).state ≠ .aligned → (s.circuit c).state ≠ .fibre → (s.circuit c).buildOut = 0)
  measured : ∀ c d, (s.circuit c).delta = some d → -127 ≤ d ∧ d ≤ 127
  aligned : ∀ c, (s.circuit c).state = .aligned → ∃ d, (s.circuit c).delta = some d ∧ (s.circuit c).buildOut = (-d).toNat
  records : ∀ n m, ((s.span n).record = .valid m ∨ (s.span n).record = .stale m) → -127 ≤ m.delta ∧ m.delta ≤ 127
  windows : ∀ n, -127 ≤ (s.span n).wlo ∧ (s.span n).wlo ≤ 0 ∧ 0 ≤ (s.span n).whi ∧ (s.span n).whi ≤ 127 ∧ (s.span n).tolerance ≤ 8
  captured : ∀ u, -127 ≤ (s.unit u).wlo ∧ (s.unit u).whi ≤ 127
  candidates : ∀ u, ∀ k ∈ (s.unit u).candidates, (s.unit u).wlo ≤ k ∧ k ≤ (s.unit u).whi
  outcomes : ∀ u d, ((s.unit u).outcome = some (.matched d) ∨ (s.unit u).outcome = some (.confirmed d)) →
    (s.unit u).wlo ≤ d ∧ d ≤ (s.unit u).whi

/-- R23, R24, R20, R106: every parameter in force lies in its range, and a circuit's attempts never exceed the retry limit
captured when its migration began. -/
structure ParameterLaw (s : State) : Prop where
  node : s.node.node ≤ 65535 ∧ 2 ≤ s.node.lead ∧ s.node.lead ≤ 64 ∧ 16 ≤ s.node.window ∧ s.node.window ≤ 255
  migration : s.node.retryLimit ≤ 7 ∧ 400 ≤ s.node.backoff ∧ s.node.backoff ≤ 32000 ∧ 8000 ≤ s.node.bridgeLimit ∧
    s.node.bridgeLimit ≤ 960000 ∧ s.node.deferLimit ≤ 28800000
  captured : ∀ c x, (s.circuit c).context = some x →
    x.attempts ≤ x.retryLimit ∧ x.retryLimit ≤ 7 ∧ 8000 ≤ x.bridgeCaptured ∧ x.bridgeCaptured ≤ 960000
  hold : ∀ c, (s.circuit c).holdSeconds ≤ 3600
  holdOff : s.lanes.holdOffSeconds ≤ 60

/-- Every law of the part. -/
structure Lawful (s : State) : Prop where
  queues : QueueBounds s
  conditioned : Conditioned s
  occupancy : OccupancyLaw s
  routes : RouteLaw s
  batches : BatchLaw s
  matchers : MatcherLaw s
  directory : DirectoryLaw s
  delays : DelayLaw s
  parameters : ParameterLaw s
  timing : TimingLaw s

end Sys2Proof.Machine
end

