-- ==== Sys2Proof/WellFormed.lean ====
section
/-! DEFINITION. Which terms of `Instr` stand for a command or an event of the part: every number fits the field that
carries it (chapter 10), and what an event brings is what its source can bring. The checks of the owning rules (ranges,
states) are not made here: a command outside its range is well formed and is refused. -/

namespace Sys2Proof

/-- A number in one byte. -/
def fits1 (n : Nat) : Bool := decide (n < 256)

/-- A number in two bytes. -/
def fits2 (n : Nat) : Bool := decide (n < 65536)

/-- A number in four bytes. -/
def fits4 (n : Nat) : Bool := decide (n < 4294967296)

/-- A signed number in one byte (R186). -/
def fitsSigned (z : Int) : Bool := decide (-128 ≤ z) && decide (z ≤ 127)

/-- An optional field is checked when present. -/
def optionally {α : Type} (check : α → Bool) : Option α → Bool
  | some a => check a
  | none => true

/-- A trunk code in its three bytes (R186): a route of 5000 is well formed, and out of range. -/
def TrunkCode.fits (c : TrunkCode) : Bool := fits2 c.route && fits1 c.member

/-- A trunk code as a well-formed peer message carries it (R189). -/
def TrunkCode.inRange (c : TrunkCode) : Bool := decide (c.route < 4096) && fits1 c.member

/-- A circuit selector in its four bytes (R186). -/
def Selector.fits : Selector → Bool
  | .number n => fits2 n
  | .code c => c.fits

/-- SET NODE's fields (section 10.4). -/
def NodeSettings.fits (p : NodeSettings) : Bool :=
  optionally fits2 p.node && optionally fits1 p.mode && optionally fits1 p.lead && optionally fits1 p.window &&
    optionally fits1 p.retryLimit && optionally fits2 p.backoff && optionally fits4 p.bridgeLimit &&
    optionally fits4 p.deferLimit && optionally fits1 p.idleCode

/-- SET SPAN's fields (section 10.4). -/
def SpanSettings.fits (p : SpanSettings) : Bool :=
  optionally fitsSigned p.wlo && optionally fitsSigned p.whi && optionally fits1 p.tolerance

/-- SET WATCH's fields (R188). -/
def WatchSettings.fits (p : WatchSettings) : Bool :=
  optionally fits2 p.value && optionally fits1 p.compare && optionally fits1 p.action && optionally fits1 p.combine

/-- LOOKUP's operand; a form that has a meaning is not an unknown one (R188). -/
def LookupOperand.fits : LookupOperand → Bool
  | .byCode c => c.fits
  | .byBucket n => fits1 n
  | .byRange n => fits1 n
  | .unknownForm n => fits1 n && decide (3 ≤ n)

/-- Whether a term stands for a command or an event. -/
def Instr.wellFormed : Instr → Bool
  | .attach _ _ c cu fi => fits2 c && optionally (fun x => fits1 x.1 && fits1 x.2) cu && optionally fits2 fi
  | .detach _ _ c _ _ => fits2 c
  | .activate _ _ c => fits2 c
  | .setCircuit _ _ c _ _ h _ => fits2 c && optionally fits2 h
  | .queryCircuit _ _ c _ => fits2 c
  | .migrate _ _ s => s.fits
  | .abandon _ _ s => s.fits
  | .revert _ _ s => s.fits
  | .release _ _ s => s.fits
  | .resume _ _ s => s.fits
  | .setNode _ _ p => p.fits
  | .queryAlignment _ _ c f => optionally fits2 c && optionally fits2 f
  | .setSpan _ _ n p => fits1 n && p.fits
  | .spanStatus _ _ n => fits1 n
  | .restartSpan _ _ n => fits1 n
  | .retireSpan _ _ n => fits1 n
  | .laneControlSelect _ _ n => fits1 n
  | .laneControlLockout _ _ n => fits1 n
  | .laneControlClear _ _ n => fits1 n
  | .laneControlShut _ _ n => fits1 n
  | .laneControlRestore _ _ n => fits1 n
  | .laneControlHoldOff _ _ n => fits1 n
  | .laneStatus _ _ => true
  | .setFrameClock _ _ _ => true
  | .peerStatus _ _ _ => true
  | .addTrunk _ _ c n _ => c.fits && fits2 n
  | .addRange _ _ r m s b => fits2 r && fits1 m && fits2 s && fits2 b
  | .removeTrunk _ _ c => c.fits
  | .removeRange _ _ n => fits1 n
  | .pin _ _ c => c.fits
  | .unpin _ _ c => c.fits
  | .purge _ _ => true
  | .lookup _ _ o => o.fits
  | .queryMiss _ _ _ => true
  | .openBatch _ _ b m l es => fits1 b && fits1 m && fits1 l && decide (es.length ≤ 254) && es.all Selector.fits
  | .cancelBatch _ _ b => fits1 b
  | .batchStatus _ _ b => fits1 b
  | .setWatch _ _ w p => fits1 w && p.fits
  | .watchStatus _ _ w => fits1 w
  | .exchange _ _ k a ea b eb => fits1 k && fits2 a && fits1 ea && fits2 b && fits1 eb
  | .linkStatus _ _ _ => true
  | .reset _ _ => true
  | .receivedHello n _ => fits2 n
  | .receivedPropose c _ _ => c.inRange
  | .receivedAccept c _ _ => c.inRange
  | .receivedDecline c _ _ => c.inRange
  | .receivedConfirm c _ => c.inRange
  | .receivedSpliced c => c.inRange
  | .receivedAbandon c _ => c.inRange
  | .receivedRevert c => c.inRange
  | .receivedRevertDone c => c.inRange
  | .receivedRelease c => c.inRange
  | .powerOnReset _ _ => true
  | .startUpEnd => true
  | .siteFrame _ => true
  | .targetReached _ => true
  | .switchLineConditionChange _ => true
  | .spanFrameReceived _ _ => true
  | .frameAlignmentFound _ => true
  | .multiframeHuntLoss _ => true
  | .spanUp _ => true
  | .spanLossOfSignal _ => true
  | .spanBadAlignment _ => true
  | .laneFrameReceived _ _ => true
  | .slotLineConditionChange _ => true
  | .bridgeFlagRecognised _ => true
  | .laneUp _ => true
  | .laneLossOfLight _ => true
  | .laneAlignmentLoss _ => true
  | .laneDegraded _ => true
  | .errorIntervalEnd _ => true
  | .holdOffExpiry => true
  | .duplicateWindowExpiry => true
  | .matcherStart => true
  | .primingComplete _ => true
  | .windowEnd _ => true
  | .matchOutcome _ => true
  | .servicePauseEnd => true
  | .responseTimerExpiry _ => true
  | .retryBackoffExpiry _ => true
  | .bridgeLimitExpiry _ => true
  | .deferLimitExpiry _ => true
  | .fallbackHoldExpiry _ => true
  | .drainEnd _ => true
  | .helloTimerExpiry => true
  | .silenceExpiry => true
  | .rangeCheckBucket => true
  | .rangeCheckComplete => true
  | .purgeBucket => true
  | .purgeComplete => true
  | .managementFrameReceived _ _ => true
  | .interByteTimeout _ => true
  | .frameTransmitStart _ => true
  | .frameTransmitEnd _ => true
  | .laneLightReturn _ => true
  | .spanSignalReturn _ => true

end Sys2Proof
end

