-- ==== Sys2Proof/Certificates/Slice0/Obligations.lean ====
section
/-! DEFINITION. The statements for the provers. -/

open Sys2Proof Sys2Proof.Machine

/-! ### The model's step -/

/-- A step runs the command at the front of the queue with the queue's rest, and idles on an empty queue (the model's own
queue; the idling is the model's choice, assumption 20). -/
def Obligations.StepRunsFront : Prop :=
  (∀ (c : Instr) (rest : List Instr) (s : State), s.pending = c :: rest → step s = exec c (s.setPending rest)) ∧
  ∀ s : State, s.pending = [] → step s = .next s

/-- Every command and every event answers a next state, from every state, and none of them touches the model's queue. -/
def Obligations.EveryCommandCompletes : Prop :=
  ∀ (c : Instr) (s : State), ∃ t, exec c s = .next t ∧ t.pending = s.pending

/-! ### Reset -/

/-- R2, whole: the circuit records, the occupancy tables, the highway channels, and what the part sends and gives the switch
with these values, at `State.reset` and after either reset from any state. -/
def Obligations.ResetCircuitTable : Prop :=
  ∀ s t : State, t = State.reset ∨ AfterReset s t →
    (∀ c, t.circuit c =
      { copper := none, fibre := none, code := none, state := .vacant, copperTransmit := false, fibreTransmit := .off,
        buildOut := 0, conditioning := true, notify := false, autoRelease := true, holdSeconds := 60, inhibit := false,
        changed := false, batch := none, context := none, outcome := none }) ∧
    (∀ p, t.timeslotOwner p = none) ∧ (∀ n, t.slotOwner n = none) ∧
    (∀ c, t.switchCondition c = .idle ∧ (t.highway.channels.get c).candidate = none) ∧
    (∀ switch p, t.timeslotOut switch p = ⟨0x7F, .blocked⟩) ∧
    (∀ switch n, t.slotOut switch n = ⟨0x7F, .idle, false⟩) ∧
    (∀ c, t.highwayOut c = ⟨0x7F, .blocked⟩) ∧ t.node.idleCode = 0x7F

/-- R165, whole: both watches after either reset; no event hits, and no circuit is HELD. -/
def Obligations.ResetWatches : Prop :=
  ∀ s t : State, t = State.reset ∨ AfterReset s t →
    (∀ w ∈ [t.watches.first, t.watches.second],
      w = { enable := false, value := 0, compare := .equal, classes := 0, action := .report, hit := false, hits := 0,
            lastHit := none }) ∧
    t.watches.joint = false ∧ (∀ c cls, t.watches.hits c cls = (false, false)) ∧
    ∀ c, ((t.circuit c).context.any fun x => x.held) = false

/-- What the other blocks hold after either reset: node parameters, rings and matchers, spans, lanes, peer engine,
directory, batches, and the ports. POWER_ON_RESET reads the straps and gives cause POWER; the last byte of the OK of a RESET gives
cause COMMAND and keeps the rates. Neither changes what the line and optical receivers show, nor the model's own two fields. -/
def Obligations.ResetBlocks : Prop :=
  (∀ s t : State, t = State.reset ∨ AfterReset s t →
     t.node = { node := 0, mode := .twoWay, lead := 8, window := 64, retryLimit := 3, backoff := 4000, bridgeLimit := 240000,
                deferLimit := 4800000, idleCode := 0x7F } ∧
     (∀ c i, (t.ring c).get i = 0x7F) ∧ t.align.queue = [] ∧ t.align.pause.left = 0 ∧
     (∀ u, (t.unit u).state = .free ∧ (t.unit u).circuit = none ∧ (t.unit u).candidates = [] ∧ (t.unit u).outcome = none ∧
       ∀ i, (t.unit u).history.get i = 0x7F) ∧
     (∀ n, (t.span n).state = .down ∧ (t.span n).phase = some .search ∧ (t.span n).search.candidate = none ∧
       (t.span n).marker = none ∧ (t.span n).badWords = 0 ∧ (t.span n).store = [] ∧ (t.span n).last = none ∧ (t.span n).deletions = 0 ∧
       (t.span n).repetitions = 0 ∧ (∀ i, (t.span n).conditions.get i = .blocked ∧ (t.span n).candidates.get i = none) ∧
       (t.span n).record = .invalid ∧ (t.span n).wlo = -96 ∧ (t.span n).whi = 8 ∧ (t.span n).tolerance = 2 ∧
       (t.span n).slipReports = false ∧ (t.span n).autoRetire = false) ∧
     (∀ i, (t.lane i).state = .down ∧ (t.lane i).candidate = none ∧ (t.lane i).badFrames = 0 ∧ (t.lane i).interval = none ∧
       (t.lane i).errors = none ∧ (t.lane i).lockout = false ∧ (t.lane i).shutdown = false ∧ (t.lane i).receiver = []) ∧
     t.lanes.working = .a ∧ t.lanes.holdOff.left = 0 ∧ t.lanes.holdOffSeconds = 10 ∧ t.lanes.timing = .holdover ∧ t.fc = 0 ∧
     (∀ n, t.slotCondition n = .idle ∧ (t.lanes.slots.get n).line.candidate = none ∧ (t.lanes.slots.get n).line.run = 0 ∧
       (t.lanes.slots.get n).flag.present = false ∧ (t.lanes.slots.get n).flag.run = 0) ∧
     t.lanes.queue = [] ∧ t.lanes.sequence = 0 ∧ t.lanes.lost = 0 ∧ t.lanes.lastSequence = none ∧ t.lanes.duplicate.left = 0 ∧
     t.peer.state = .down ∧ t.peer.qualified = none ∧ t.peer.heard = none ∧ t.peer.hello = none ∧ t.peer.silence = none ∧
     t.peer.counter = 0 ∧ (∀ c, t.peer.response.get c = none) ∧ (∀ i, t.peer.received.get i = 0) ∧
     t.peer.discards = ⟨0, 0, 0, 0, 0⟩ ∧ (∀ i, t.peer.declines.get i = 0) ∧ t.peer.lastAbandon = none ∧
     t.peer.lastRevertDecline = none ∧
     (∀ i, t.directory.ranges.get i = none) ∧ (∀ b w, (t.directory.trunks.get b).get w = none) ∧ t.directory.lastMiss = none ∧
     t.directory.missCount = 0 ∧ t.directory.walk = .idle ∧ (∀ id, t.batch id = none) ∧
     (∀ port, (t.port port).receiver = none ∧ (t.port port).interByte = none ∧ (t.port port).input = [] ∧ (t.port port).slot = none ∧ (t.port port).output = [] ∧
       (t.port port).transmitter = none ∧ (t.port port).counts = ⟨0, 0, 0, 0, 0, 0, 0⟩) ∧
     t.links.reports = [] ∧ t.links.lostFlag = false ∧ t.links.reportsLost = 0 ∧ t.links.startUp.left = 160) ∧
  ((∀ (s : State) (primary craft : Straps), ∃ t, exec (.powerOnReset primary craft) s = .next t ∧ t.links.resetCause = .power ∧
     (∀ port straps, (port = .primary ∧ straps = primary) ∨ (port = .craft ∧ straps = craft) →
       (t.port port).rate = (match straps.first, straps.second with
         | false, false => .r57600
         | false, true => .r115200
         | true, false => .r460800
         | true, true => .r921600)) ∧
     (∀ n, (t.span n).lossOfSignal = (s.span n).lossOfSignal) ∧ (∀ i, (t.lane i).lossOfLight = (s.lane i).lossOfLight) ∧
     t.pending = s.pending ∧ t.freeCount = s.freeCount) ∧
   ∀ (s : State) (tag : Byte) (body : ReplyBody), (s.port .primary).transmitter = some (.reply tag 0x9F .ok body) →
     ∃ t, exec (.frameTransmitEnd .primary) s = .next t ∧ t.links.resetCause = .command ∧
       (∀ port, (t.port port).rate = (s.port port).rate) ∧ (∀ n, (t.span n).lossOfSignal = (s.span n).lossOfSignal) ∧
       (∀ i, (t.lane i).lossOfLight = (s.lane i).lossOfLight) ∧ t.pending = s.pending ∧ t.freeCount = s.freeCount)

/-- Every law of the part holds at `State.reset`, and after either reset from any state. -/
def Obligations.ResetMeetsLaws : Prop := ∀ s t : State, t = State.reset ∨ AfterReset s t → Lawful t

/-! ### Encoding -/

/-- The command frame of every well-formed host command, as chapter 10 lays it out, spells that command and no other. -/
def Obligations.CommandRoundTrip : Prop :=
  ∀ (c : Instr) (port : Port) (q : QueuedCommand), c.wellFormed = true → commandFrame c = some (port, q) →
    parseCommand port q = some c

/-- The body of every peer message whose fields lie in their ranges spells that message. The bytes sent for a message are
its frame, with the sequence at its sync byte, and the message leaves the queue with its last byte; and a receiver that finds such a
frame after any fill bytes delivers the message's body with its sequence, counts no error, and goes on behind it. -/
def Obligations.OverheadChannel : Prop :=
  ((∀ node mode, node < 65536 → parseMessage (messageBody (.hello node mode)) = some (.hello node mode)) ∧
   ∀ code : TrunkCode, code.inRange = true →
     (∀ slot number, parseMessage (messageBody (.propose code slot number)) = some (.propose code slot number)) ∧
     (∀ slot number, parseMessage (messageBody (.accept code slot number)) = some (.accept code slot number)) ∧
     (∀ number reason, parseMessage (messageBody (.decline code number reason)) = some (.decline code number reason)) ∧
     (∀ number, parseMessage (messageBody (.confirm code number)) = some (.confirm code number)) ∧
     parseMessage (messageBody (.spliced code)) = some (.spliced code) ∧
     parseMessage (messageBody (.revert code)) = some (.revert code) ∧
     parseMessage (messageBody (.revertDone code)) = some (.revertDone code) ∧
     (∀ reason, parseMessage (messageBody (.abandon code reason)) = some (.abandon code reason)) ∧
     parseMessage (messageBody (.release code)) = some (.release code)) ∧
  ((∀ (l : LaneInterface) (m : PeerMessage) (rest : List PeerMessage), l.sending = [] → l.queue = m :: rest →
     l.nextBytes (overheadFrame l.sequence m).length =
       (overheadFrame l.sequence m, { l with queue := rest, sending := [], sequence := l.sequence + 1 })) ∧
   (∀ l : LaneInterface, l.sending = [] → l.queue = [] → ∀ n, l.nextBytes n = (List.replicate n 0, l)) ∧
   ∀ (m : PeerMessage) (sequence : Byte) (fill fuel : Nat) (after : List Byte),
     scanOverhead (fill + fuel + 1) (List.replicate fill 0 ++ overheadFrame sequence m ++ after) =
       ⟨(sequence, messageBody m) :: (scanOverhead fuel after).messages, (scanOverhead fuel after).errors,
         (scanOverhead fuel after).rest⟩)

/-! ### Laws that every step keeps -/

/-- R177, R181, R111; R3, R68, R88, R93; R23, R24; R113: no queue grows over its depth; every build-out, measured delay,
window, candidate and parameter stays in its range; the timing source follows the lane states and the working lane. -/
def Obligations.LimitsKept : Prop :=
  ∀ s t : State, Lawful s → step s = .next t → QueueBounds t ∧ DelayLaw t ∧ ParameterLaw t ∧ TimingLaw t

/-- R5, R4 and the table of section 1.2; R9; R17: every record keeps the laws of its state, records and occupancy entries go
on naming each other, and each circuit is conditioned exactly when its state, its span or the lanes call for it. -/
def Obligations.CircuitLawsKept : Prop :=
  ∀ s t : State, Lawful s → step s = .next t → RouteLaw t ∧ OccupancyLaw t ∧ Conditioned t

/-- R157: open batches keep their counts, and their members carry their memberships. -/
def Obligations.BatchLawKept : Prop := ∀ s t : State, Lawful s → step s = .next t → BatchLaw t

/-- R57: the matcher queue and the units agree with the sub-statuses after every step. -/
def Obligations.MatcherLawKept : Prop := ∀ s t : State, Lawful s → step s = .next t → MatcherLaw t

/-- R145: no code resolves twice, and the records carry exactly the codes that resolve to them, after every step. -/
def Obligations.DirectoryLawKept : Prop := ∀ s t : State, Lawful s → step s = .next t → DirectoryLaw t

/-! ### Management links -/

/-- R173, R175, R176, R177, R178: a frame that a row completes, at a hunting port, or at one that has gathered its first bytes in rows
before: with a stop bit missing in any of its bytes, or with a bad CRC, it is discarded and counted; a COMMAND joins a queue that has room, is answered QUEUE_FULL, or is dropped; any other kind is discarded; in
start-up the frame is discarded without being counted, but in the frame in which start-up ends it is judged; and a head that spells
no command is refused in the step of its arrival, where the port is free. And one byte: HUNT skips all but 0A5H, a length above 1020
discards the frame, any other byte is gathered and restarts the 10 ms timer, and its expiry discards the frame. The 80 frames of the
timer are the model's (assumption 4), a byte with its stop bit missing stands in the row as that, whatever its line times
(assumption 6), and LENGTH and TIMEOUT discards are counted in start-up too (assumption 34). -/
def Obligations.ManagementReceiver : Prop :=
  (∀ (s : State) (port : Port) (kind tag type : Byte) (body front : List Byte) (bytes : List LinkByte), body.length ≤ 1020 →
     bytes ≠ [] → front ++ bytes.map LinkByte.value = managementFrame kind tag type body →
     ((s.port port).receiver = none ∧ front = [] ∨ ∃ gathered, (s.port port).receiver = some gathered ∧ front = 0xA5 :: gathered) →
     (s.running = false ∨ (s.port port).slot.isSome ∨ ∀ h, (s.port port).input.head? = some h → (parseCommand port h).isSome) →
     let p := { s.port port with receiver := none, broken := false, interByte := none }
     let judged : PortRecord :=
       if s.running = false ∧ s.links.startUp.due = false then p
       else if (bytes.all LinkByte.stop && !((s.port port).receiver.isSome && (s.port port).broken)) = false then { p with counts := { p.counts with crcDiscards := raise p.counts.crcDiscards } }
       else if kind ≠ 1 then { p with counts := { p.counts with kindDiscards := raise p.counts.kindDiscards } }
       else if p.input.length < 4 then
         { p with input := p.input ++ [⟨tag, type, body⟩], counts := { p.counts with framesTaken := raise p.counts.framesTaken } }
       else if fullAnswers p.output < 4 then
         { p with output := p.output ++ [.queueFull tag type],
                  counts := { p.counts with queueFullAnswered := raise p.counts.queueFullAnswered } }
       else { p with counts := { p.counts with queueFullDropped := raise p.counts.queueFullDropped } }
     Happens s (.managementFrameReceived port bytes) [.ports] fun t =>
       t.port (otherPort port) = s.port (otherPort port) ∧
       t.port port = if s.running = true then judged.settled port else judged) ∧
  ((∀ (s : State) (port : Port) (b : LinkByte),
     (s.running = false ∨ (s.port port).slot.isSome ∨ ∀ h, (s.port port).input.head? = some h → (parseCommand port h).isSome) →
     let discarded := { s.port port with receiver := none, broken := false, interByte := none }
     Happens s (.managementFrameReceived port [b]) [.ports] fun t =>
       t.port (otherPort port) = s.port (otherPort port) ∧
       ((s.port port).receiver = none → b.value ≠ 0xA5 → t.port port = s.port port) ∧
       ((s.port port).receiver = none → b.value = 0xA5 →
         t.port port = { s.port port with receiver := some [], broken := !b.stop, interByte := some ⟨80, false⟩ }) ∧
       (∀ l1, (s.port port).receiver = some [l1] → 1020 < l1.toNat * 256 + b.value.toNat →
         t.port port = { discarded with counts := { discarded.counts with lengthDiscards := raise discarded.counts.lengthDiscards } }) ∧
       (∀ l1 l2 gathered, (s.port port).receiver = some (l1 :: l2 :: gathered) → l1.toNat * 256 + l2.toNat ≤ 1020 →
         gathered.length + 3 = l1.toNat * 256 + l2.toNat + 7 →
         (s.port port).broken = true ∨ b.stop = false ∨
           crcBytes ((l1 :: l2 :: gathered).dropLast) ≠ [(l1 :: l2 :: gathered).getLast (by simp), b.value] →
         t.port port = (if s.running = false ∧ s.links.startUp.due = false then discarded
           else { discarded with counts := { discarded.counts with crcDiscards := raise discarded.counts.crcDiscards } })) ∧
       ∀ bytes, (s.port port).receiver = some bytes →
         (∀ l1 l2 more, bytes ++ [b.value] = l1 :: l2 :: more →
           l1.toNat * 256 + l2.toNat ≤ 1020 ∧ more.length + 2 ≠ l1.toNat * 256 + l2.toNat + 7) →
         t.port port = { s.port port with receiver := some (bytes ++ [b.value]), broken := (s.port port).broken || !b.stop,
                                          interByte := some ⟨80, false⟩ }) ∧
   ∀ (s : State) (port : Port) (bytes : List Byte) (timer : Countdown), (s.port port).receiver = some bytes →
     (s.port port).interByte = some timer → timer.due = true →
     Happens s (.interByteTimeout port) [.ports] fun t =>
       t.port (otherPort port) = s.port (otherPort port) ∧
       t.port port = { s.port port with receiver := none, broken := false, interByte := none, counts := { (s.port port).counts with
         timeoutDiscards := raise (s.port port).counts.timeoutDiscards } })

/-- R180, R178: an idle transmitter of a running part takes the oldest frame of the reply output, else on the primary port the
head of the report queue; the last byte of a reply empties the execution slot, and the last byte of any other frame leaves it. R184,
step 1: RESET on the primary port is answered OK, and its slot enters SENDING (`ResetBlocks` says what its last byte does). R187: the
bytes sent for a frame: the header, a REPLY's echoed tag and type and its result byte, a REPORT's type, its FC and its LOST mark, and
the CRC. -/
def Obligations.Transmitter : Prop :=
  (∀ (s : State) (port : Port), s.running = true → (s.port port).transmitter = none →
    (∀ f rest, (s.port port).output = f :: rest →
      Happens s (.frameTransmitStart port) [.ports] fun t =>
        t.port port = { s.port port with output := rest, transmitter := some f } ∧
        t.port (otherPort port) = s.port (otherPort port)) ∧
    (∀ r rest, (s.port port).output = [] → port = .primary → s.links.reports = r :: rest →
      Happens s (.frameTransmitStart port) [.ports, .reports] fun t =>
        t.port port = { s.port port with transmitter := some (.report r) } ∧ t.port (otherPort port) = s.port (otherPort port) ∧
        t.links.reports = rest ∧ t.links.lostFlag = s.links.lostFlag ∧ t.links.reportsLost = s.links.reportsLost) ∧
    ((s.port port).output = [] → (port = .craft ∨ s.links.reports = []) → exec (.frameTransmitStart port) s = .next s)) ∧
  (∀ (s : State) (port : Port) (tag type : Byte) (result : ResultCode) (body : ReplyBody),
    (s.port port).transmitter = some (.reply tag type result body) →
    (s.running = false ∨ ∀ h, (s.port port).input.head? = some h → (parseCommand port h).isSome) →
    ¬ (port = .primary ∧ type = 0x9F ∧ result = .ok) →
    Happens s (.frameTransmitEnd port) [.ports] fun t =>
      t.port port = { s.port port with transmitter := none, slot := none } ∧ t.port (otherPort port) = s.port (otherPort port)) ∧
  (∀ (s : State) (tag : Byte) (q : QueuedCommand) (rest : List QueuedCommand), Takes s .primary (.reset .primary tag) q rest →
    exec (.reset .primary tag) s = .next (s.answerHead .primary q rest .ok .empty) ∧
    (s.answerHead .primary q rest .ok .empty).port .primary = { s.port .primary with
      input := rest, slot := some ⟨.sending, tag, 0x9F⟩, output := (s.port .primary).output ++ [.reply tag 0x9F .ok .empty] }) ∧
  (∀ (s : State) (port : Port) (f : OutFrame), (s.port port).transmitter = some f →
    (∀ tag type result body, f ≠ .reply tag type result body) →
    Happens s (.frameTransmitEnd port) [.ports] fun t =>
      t.port port = { s.port port with transmitter := none } ∧ t.port (otherPort port) = s.port (otherPort port)) ∧
  ∀ f : OutFrame, ∃ kind tag type body,
    outFrameBytes f = 0xA5 :: (([BitVec.ofNat 8 (body.length / 256), BitVec.ofNat 8 body.length, kind, tag, type] ++ body) ++
      crcBytes ([BitVec.ofNat 8 (body.length / 256), BitVec.ofNat 8 body.length, kind, tag, type] ++ body)) ∧
    (∀ g y result content, f = .reply g y result content →
      kind = 0x02 ∧ tag = g ∧ type = y ∧ body = BitVec.ofNat 8 (resultByte result) :: replyBodyBytes content ∧
      (content = .empty → body.length = 1)) ∧
    (∀ g y, f = .queueFull g y →
      kind = 0x02 ∧ tag = g ∧ type = y ∧ body = [BitVec.ofNat 8 (resultByte .queueFull)]) ∧
    ∀ r, f = .report r → kind = 0x03 ∧ tag = 0x00 ∧ type = reportType r.body ∧
      body = [r.stamp.extractLsb' 24 8, r.stamp.extractLsb' 16 8, r.stamp.extractLsb' 8 8, r.stamp.extractLsb' 0 8,
        if r.lost = true then 0x01 else 0x00] ++ contentBytes r.body

/-- R178, checks 1 to 3: a PROVISION command at the head of the craft port is answered AUTHORITY, and nothing else
changes; a head that spells no command is refused by the port in the step in which it becomes free: UNKNOWN_TYPE, AUTHORITY or FORMAT,
in this order, with an empty body; and a head that spells none and arrives at a free port of a running part, in the step of its
arrival. -/
def Obligations.PortRefusals : Prop :=
  (∀ (s : State) (c : Instr) (q : QueuedCommand) (rest : List QueuedCommand), Heads s .craft c q rest →
     commandClass q.type = some .provision → Refuses s c .craft q rest .authority .empty) ∧
  (∀ (s : State) (port : Port) (tag type : Byte) (result : ResultCode) (body : ReplyBody) (q : QueuedCommand) (rest : List QueuedCommand),
     s.running = true → (s.port port).transmitter = some (.reply tag type result body) →
     ¬ (port = .primary ∧ type = 0x9F ∧ result = .ok) → (s.port port).input = q :: rest → parseCommand port q = none →
     Happens s (.frameTransmitEnd port) [.ports] fun t =>
       t.port (otherPort port) = s.port (otherPort port) ∧
       t.port port = { s.port port with
         transmitter := none
         input := rest
         slot := some ⟨.sending, q.tag, q.type⟩
         output := (s.port port).output ++ [.reply q.tag q.type
           (if commandClass q.type = none then .unknownType
            else if port = .craft ∧ commandClass q.type = some .provision then .authority
            else .format) .empty] }) ∧
  (∀ (s : State) (port : Port) (tag type : Byte) (body : List Byte), s.running = true → body.length ≤ 1020 →
     (s.port port).receiver = none → (s.port port).slot = none → (s.port port).input = [] → parseCommand port ⟨tag, type, body⟩ = none →
     Happens s (.managementFrameReceived port ((managementFrame 0x01 tag type body).map fun b => ⟨b, true⟩)) [.ports] fun t =>
       t.port (otherPort port) = s.port (otherPort port) ∧
       t.port port = { s.port port with
         broken := false
         interByte := none
         slot := some ⟨.sending, tag, type⟩
         output := (s.port port).output ++ [.reply tag type
           (if commandClass type = none then .unknownType
            else if port = .craft ∧ commandClass type = some .provision then .authority
            else .format) .empty]
         counts := { (s.port port).counts with framesTaken := raise (s.port port).counts.framesTaken } })

/-- R178: a refused command leaves everything as it was but the port that answers it, and the miss that a NOT_FOUND records
(R144). -/
def Obligations.RefusalsChangeNothing : Prop :=
  ∀ (s t : State) (c : Instr) (port : Port) (q : QueuedCommand) (rest : List QueuedCommand) (result : ResultCode) (body : ReplyBody),
    Heads s port c q rest → exec c s = .next t → Answered port q rest result body s t → result ≠ .ok →
    SameBut [.ports, .misses] s t ∧ (result ≠ .notFound → SameBut [.ports] s t)

/-- R25, checks 1 to 3, for MIGRATE, ABANDON, REVERT, RELEASE and RESUME: RANGE, BUSY and NOT_FOUND, the last with the miss
fields of R143 and the record of R144. -/
def Obligations.SelectorRefusals : Prop :=
  ∀ (s : State) (port : Port) (tag : Byte) (sel : Selector) (c : Instr) (q : QueuedCommand) (rest : List QueuedCommand),
    c ∈ [.migrate port tag sel, .abandon port tag sel, .revert port tag sel, .release port tag sel, .resume port tag sel] →
    Heads s port c q rest →
    (∀ n, sel = .number n → 512 ≤ n → Refuses s c port q rest .range .empty) ∧
    ∀ code, sel = .code code →
      if 4096 ≤ code.route ∨ 256 ≤ code.member then Refuses s c port q rest .range .empty
      else if s.directory.busy = true then Refuses s c port q rest .busy .empty
      else s.directory.lookup code = none →
        Completes s c port q rest .notFound
          (.missed ⟨code, (code.route * 7 + code.member) % 128, 127 - (code.route * 7 + code.member) % 128⟩) [.misses] fun t =>
          t.directory.missCount = raise s.directory.missCount ∧
          t.directory.lastMiss = some ⟨code, (match port with | .primary => .primary | .craft => .craft), q.type,
            (code.route * 7 + code.member) % 128, 127 - (code.route * 7 + code.member) % 128, s.fc⟩

/-! ### Observing -/

/-- R21, whole but for the order of requests of one frame: QUERY CIRCUIT. -/
def Obligations.QueryCircuit : Prop :=
  ∀ (s : State) (port : Port) (tag : Byte) (n : Nat) (clear : Bool) (q : QueuedCommand) (rest : List QueuedCommand),
    Heads s port (.queryCircuit port tag n clear) q rest →
    (512 ≤ n → Refuses s (.queryCircuit port tag n clear) port q rest .range .empty) ∧
    ∀ c : CircuitNo, c.val = n →
      Completes s (.queryCircuit port tag n clear) port q rest .ok
        (.circuit { circuit := c, record := s.circuit c, busy := s.busy c, switchCondition := s.switchCondition c,
                    farCondition := s.farCondition (s.circuit c) }) [.circuits] fun t =>
        if clear = true then Becomes c { s.circuit c with changed := false } s t else t.circuits = s.circuits

/-- R75, R76: QUERY ALIGNMENT, for the unit and for one circuit, changes nothing and carries what the rules name. -/
def Obligations.QueryAlignment : Prop :=
  ∀ (s : State) (port : Port) (tag : Byte) (q : QueuedCommand) (rest : List QueuedCommand),
    (∀ first, Heads s port (.queryAlignment port tag none first) q rest →
      if 512 ≤ first.getD 0 then Refuses s (.queryAlignment port tag none first) port q rest .range .empty
      else exec (.queryAlignment port tag none first) s = .next (s.answerHead port q rest .ok
        (.alignmentUnit s.align.pause.left
          (.ofFn fun u =>
            { state := (s.unit u).state, circuit := (s.unit u).circuit, kind := (s.unit u).kind, wlo := (s.unit u).wlo,
              whi := (s.unit u).whi, length := (s.unit u).length, count := (s.unit u).count,
              left := (s.unit u).candidates.length, lowest := (s.unit u).candidates.min?,
              highest := (s.unit u).candidates.max?, outcome := (s.unit u).outcome })
          s.align.queue.length ((s.align.queue.drop (first.getD 0)).take 64)))) ∧
    ∀ n first, Heads s port (.queryAlignment port tag (some n) first) q rest →
      (512 ≤ n → Refuses s (.queryAlignment port tag (some n) first) port q rest .range .empty) ∧
      ∀ c : CircuitNo, c.val = n → ∃ place,
        ((∀ u, place = .unit u → (s.unit u).circuit = some c) ∧
          (∀ i kind, place = .queue i kind → s.align.queue[i]? = some ⟨c, kind⟩) ∧
          (place = .nowhere → (∀ u, (s.unit u).circuit ≠ some c) ∧ ∀ e ∈ s.align.queue, e.circuit ≠ c)) ∧
        ∃ j, RevertJ (s.circuit c) j ∧
        exec (.queryAlignment port tag (some n) first) s = .next (s.answerHead port q rest .ok
          (.alignment
            { state := (s.circuit c).state, sub := (s.circuit c).sub, place := place, delta := (s.circuit c).delta,
              buildOut := (s.circuit c).buildOut, target := (s.circuit c).context.bind Context.target,
              framesBefore := ((s.circuit c).context.bind Context.target).map fun S => S - s.fc
              ringWritten := (s.circuit c).fibre.isSome && (decide (s.lanes.a.state = .up) || decide (s.lanes.b.state = .up))
              revertOffset := if (s.circuit c).state = .fibre ∧ (s.circuit c).context.isSome then j else none }))

/-- R94, R115 and R164, each whole: SPAN STATUS, LANE STATUS and BATCH STATUS; and R170's WATCH STATUS. The clearing byte of WATCH
STATUS names watch 0 in its lowest bit and watch 1 in the next (R188). -/
def Obligations.StatusReplies : Prop :=
  (∀ (s : State) (port : Port) (tag : Byte) (n : Nat) (q : QueuedCommand) (rest : List QueuedCommand),
     Heads s port (.spanStatus port tag n) q rest →
     (16 ≤ n → Refuses s (.spanStatus port tag n) port q rest .range .empty) ∧
     ∀ k : SpanNo, k.val = n → exec (.spanStatus port tag n) s = .next (s.answerHead port q rest .ok
       (.spanStatus
         { state := (s.span k).state
           phase := if (s.span k).state = .down then (s.span k).phase else none
           lossOfSignal := if (s.span k).state = .retired then none else some (s.span k).lossOfSignal
           fill := if (s.span k).state = .up then some (s.span k).store.length else none
           deletions := (s.span k).deletions, repetitions := (s.span k).repetitions, record := (s.span k).record
           wlo := (s.span k).wlo, whi := (s.span k).whi, tolerance := (s.span k).tolerance
           slipReports := (s.span k).slipReports, autoRetire := (s.span k).autoRetire
           occupied := ((List.finRange 31).filter fun i => (s.timeslotOwner ⟨k, i⟩).isSome).length
           inFibre := ((List.finRange 31).filter fun i =>
             (s.timeslotOwner ⟨k, i⟩).any fun c => decide ((s.circuit c).state = .fibre)).length
           conditions := (s.span k).conditions }))) ∧
  (∀ (s : State) (port : Port) (tag : Byte) (q : QueuedCommand) (rest : List QueuedCommand),
     Heads s port (.laneStatus port tag) q rest →
     ∃ a b, (∀ i v, (i = .a ∧ v = a) ∨ (i = .b ∧ v = b) →
         v.state = (s.lane i).state ∧ v.lossOfLight = (s.lane i).lossOfLight ∧ v.lockout = (s.lane i).lockout ∧
         v.shutdown = (s.lane i).shutdown ∧
         ((s.lane i).state ≠ .down → v.errors = (s.lane i).errors ∧ v.interval = (s.lane i).interval.map Countdown.left) ∧
         ((s.lane i).state = .down → v.errors = none ∧ v.interval = none)) ∧
       exec (.laneStatus port tag) s = .next (s.answerHead port q rest .ok
         (.laneStatus ⟨a, b, s.lanes.working, s.lanes.holdOff.left, s.lanes.holdOffSeconds, s.lanes.timing, s.fc,
           s.lanes.queue.length, s.lanes.lost, s.align.pause.left⟩))) ∧
  (∀ (s : State) (port : Port) (tag : Byte) (n : Nat) (q : QueuedCommand) (rest : List QueuedCommand),
     Heads s port (.batchStatus port tag n) q rest →
     (8 ≤ n → Refuses s (.batchStatus port tag n) port q rest .range .empty) ∧
     ∀ id : Fin 8, id.val = n →
       exec (.batchStatus port tag n) s = .next (s.answerHead port q rest .ok (.batchStatus ((s.batch id).map fun b => (b,
         { pending := b.numberOf .pending, active := b.numberOf .active, done := b.numberOf .done, failed := b.numberOf .failed,
           cancelled := b.numberOf .cancelled }))))) ∧
  (∀ (s : State) (port : Port) (tag : Byte) (clear : Nat) (q : QueuedCommand) (rest : List QueuedCommand),
     Heads s port (.watchStatus port tag clear) q rest →
     (4 ≤ clear → Refuses s (.watchStatus port tag clear) port q rest .range .empty) ∧
     (clear < 4 → Completes s (.watchStatus port tag clear) port q rest .ok (.watches s.watches) [.watches] fun t =>
       t.watches.joint = s.watches.joint ∧
       t.watches.first = (if clear = 1 ∨ clear = 3 then { s.watches.first with hit := false, hits := 0, lastHit := none }
         else s.watches.first) ∧
       t.watches.second = (if clear = 2 ∨ clear = 3 then { s.watches.second with hit := false, hits := 0, lastHit := none }
         else s.watches.second)))

/-- R155, R143, R188: LOOKUP in its three forms, and the forms it refuses. That an unknown form is refused FORMAT, and before the walk is
looked at, is the model's reading of R188 (assumption 32); that a RANGE or BUSY refusal carries no counts is the model's choice
(assumption 58). -/
def Obligations.Lookup : Prop :=
  ∀ (s : State) (port : Port) (tag : Byte) (operand : LookupOperand) (q : QueuedCommand) (rest : List QueuedCommand),
    Heads s port (.lookup port tag operand) q rest →
    let c : Instr := .lookup port tag operand
    let trunks := (((List.finRange 128).map fun b => ((List.finRange 4).filter fun w =>
      ((s.directory.trunks.get b).get w).isSome).length)).sum
    let ranges := ((List.finRange 8).filter fun i => (s.directory.ranges.get i).isSome).length
    (∀ form, operand = .unknownForm form → Refuses s c port q rest .format .empty) ∧
    ((∀ form, operand ≠ .unknownForm form) → s.directory.busy = true → Refuses s c port q rest .busy .empty) ∧
    (s.directory.busy = false →
      (∀ b, operand = .byBucket b → 128 ≤ b → Refuses s c port q rest .range .empty) ∧
      (∀ b : Fin 128, operand = .byBucket b.val → ∃ ways : Table 4 (Option WayView),
        (∀ w, ways.get w = ((s.directory.trunks.get b).get w).map fun e => ⟨e, primaryBucket e.code == b⟩) ∧
        exec c s = .next (s.answerHead port q rest .ok (.lookupBucket ways trunks ranges))) ∧
      (∀ i, operand = .byRange i → 8 ≤ i → Refuses s c port q rest .range .empty) ∧
      (∀ i : Fin 8, operand = .byRange i.val →
        exec c s = .next (s.answerHead port q rest .ok (.lookupRange (s.directory.ranges.get i) trunks ranges))) ∧
      ∀ code, operand = .byCode code →
        if 4096 ≤ code.route ∨ 256 ≤ code.member then Refuses s c port q rest .range .empty
        else match s.directory.lookup code with
          | some (circuit, found) => exec c s = .next (s.answerHead port q rest .ok
              (.lookupCode circuit found (s.circuit circuit).state trunks ranges))
          | none => Completes s c port q rest .notFound
              (.lookupMiss ⟨code, (primaryBucket code).val, (secondaryBucket code).val⟩ trunks ranges) [.misses] fun t =>
              t.directory.missCount = raise s.directory.missCount ∧
              t.directory.lastMiss = some ⟨code, (match port with | .primary => .primary | .craft => .craft), q.type,
                (primaryBucket code).val, (secondaryBucket code).val, s.fc⟩)

/-- R143, R141, R142: what a lookup finds: the first range entry that covers the code, else the trunk entry of that code in
its primary bucket's ways, then in its secondary's; and nothing else. -/
def Obligations.Resolution : Prop :=
  ∀ (s : State) (code : TrunkCode), DirectoryLaw s →
    (∀ i e, s.directory.ranges.get i = some e → e.route = code.route → e.member ≤ code.member →
      code.member < e.member + e.size → ∃ c : CircuitNo, c.val = e.base + (code.member - e.member) ∧
        s.directory.lookup code = some (c, .range i)) ∧
    (∀ b w e, (s.directory.trunks.get b).get w = some e → e.code = code →
      s.directory.lookup code = some (e.circuit, .trunk b w e.pinned)) ∧
    ((∀ i e, s.directory.ranges.get i = some e →
        ¬ (e.route = code.route ∧ e.member ≤ code.member ∧ code.member < e.member + e.size)) →
      (∀ b w e, (s.directory.trunks.get b).get w = some e → e.code ≠ code) → s.directory.lookup code = none) ∧
    (primaryBucket code).val = (code.route * 7 + code.member) % 128 ∧
    (secondaryBucket code).val = 127 - (primaryBucket code).val ∧ primaryBucket code ≠ secondaryBucket code

/-- R139, R156, R185: the queries that clear: PEER STATUS, QUERY MISS and LINK STATUS carry the values from before, clear
what their rules name when asked, and change nothing else. -/
def Obligations.ClearingQueries : Prop :=
  ∀ (s : State) (port : Port) (tag : Byte) (clear : Bool) (q : QueuedCommand) (rest : List QueuedCommand),
    (Heads s port (.peerStatus port tag clear) q rest →
      Completes s (.peerStatus port tag clear) port q rest .ok
        (.peerStatus
          { state := s.peer.state, qualified := s.peer.qualified, node := s.node.node, mode := s.node.mode
            hello := s.peer.hello.map Countdown.left, heard := s.peer.heard, silence := s.peer.silence.map Countdown.left
            counter := s.peer.counter
            responses := ((List.finRange 512).filter fun c => (s.peer.response.get c).isSome).length
            received := s.peer.received, discards := s.peer.discards, declines := s.peer.declines
            lastAbandon := s.peer.lastAbandon, lastRevertDecline := s.peer.lastRevertDecline }) [.peerCounts] fun t =>
        if clear = true then (∀ i, t.peer.received.get i = 0) ∧ t.peer.discards = ⟨0, 0, 0, 0, 0⟩ ∧
          (∀ i, t.peer.declines.get i = 0) ∧ t.peer.lastAbandon = none ∧ t.peer.lastRevertDecline = none
        else Block.peerCounts.same s t) ∧
    (Heads s port (.queryMiss port tag clear) q rest →
      Completes s (.queryMiss port tag clear) port q rest .ok (.miss s.directory.lastMiss s.directory.missCount) [.misses] fun t =>
        if clear = true then t.directory.lastMiss = none ∧ t.directory.missCount = 0 else Block.misses.same s t) ∧
    (Heads s port (.linkStatus port tag clear) q rest →
      ∃ primary craft t, exec (.linkStatus port tag clear) s = .next t ∧
        (∀ p v, (p = .primary ∧ v = primary) ∨ (p = .craft ∧ v = craft) →
          v.rate = (s.port p).rate ∧ v.inFrame = (s.port p).receiver.isSome ∧
          v.queued = (if p = port then rest.length else (s.port p).input.length) ∧
          v.slot = (if p = port then some ⟨.taken, q.tag, q.type⟩ else (s.port p).slot) ∧
          v.fullAnswers = fullAnswers (s.port p).output ∧ v.counts = (s.port p).counts) ∧
        (∀ p, t.port p =
          (let r := if p = port then (s.port p).answeredWith q rest .ok
              (.linkStatus primary craft s.links.reports.length s.links.lostFlag s.links.reportsLost s.links.resetCause)
            else s.port p
           if clear = true then { r with counts := ⟨0, 0, 0, 0, 0, 0, 0⟩ } else r)) ∧
        t.links.reports = s.links.reports ∧ t.links.lostFlag = s.links.lostFlag ∧
        t.links.reportsLost = (if clear = true then 0 else s.links.reportsLost) ∧ SameBut [.ports, .reports] s t)

/-! ### Circuits: provisioning -/

/-- R10: ATTACH, with its checks in their order. FORMAT before RANGE when neither side is named is the model's reading (assumption 32), and so
are the details of a CONFLICT: every held kind at check 3, the copper side first at check 5 (assumption 41). -/
def Obligations.Attach : Prop :=
  ∀ (s : State) (port : Port) (tag : Byte) (circuit : Nat) (copper : Option (Nat × Nat)) (fibre : Option Nat)
    (q : QueuedCommand) (rest : List QueuedCommand),
    Takes s port (.attach port tag circuit copper fibre) q rest →
    let i : Instr := .attach port tag circuit copper fibre
    if copper = none ∧ fibre = none then Refuses s i port q rest .format .empty
    else if 512 ≤ circuit ∨ (copper.any fun x => decide (16 ≤ x.1 ∨ x.2 = 0 ∨ 32 ≤ x.2)) = true ∨
        (fibre.any fun n => decide (512 ≤ n)) = true then Refuses s i port q rest .range .empty
    else ∀ (c : CircuitNo) (p : Option CopperPosition) (n : Option SlotNo), c.val = circuit →
      copper = (p.map fun x => (x.span.val, x.timeslot.val + 1)) → fibre = n.map Fin.val →
      if (s.circuit c).state ≠ .vacant ∧ (s.circuit c).state ≠ .copper then Refuses s i port q rest .state .empty
      else if (p.isSome ∧ (s.circuit c).copper.isSome) ∨ (n.isSome ∧ (s.circuit c).fibre.isSome) then
        Refuses s i port q rest .conflict
          (.heldAttachment (if p.isSome then (s.circuit c).copper else none) (if n.isSome then (s.circuit c).fibre else none))
      else if (p.any fun x => decide ((s.span x.span).state = .retired)) = true then Refuses s i port q rest .retired .empty
      else
        (∀ x d, p = some x → s.timeslotOwner x = some d → d ≠ c → Refuses s i port q rest .conflict (.occupant d true)) ∧
        (∀ m d, n = some m → (∀ x e, p = some x → s.timeslotOwner x = some e → e = c) → s.slotOwner m = some d → d ≠ c →
          Refuses s i port q rest .conflict (.occupant d false)) ∧
        ((∀ x e, p = some x → s.timeslotOwner x = some e → e = c) → (∀ m e, n = some m → s.slotOwner m = some e → e = c) →
          Completes s i port q rest .ok
            (.attachments ⟨p.or (s.circuit c).copper, n.or (s.circuit c).fibre,
              if p.isSome then .copper else (s.circuit c).state⟩) [.circuits, .occupancy, .rings] fun t =>
            (p = none → Becomes c { s.circuit c with fibre := n.or (s.circuit c).fibre } s t) ∧
            (∀ x, p = some x → Becomes c { s.circuit c with
              copper := some x, fibre := n.or (s.circuit c).fibre, state := .copper, copperTransmit := true, buildOut := 0 } s t) ∧
            (∀ x, t.timeslotOwner x = if p = some x then some c else s.timeslotOwner x) ∧
            (∀ m, t.slotOwner m = if n = some m then some c else s.slotOwner m) ∧
            (∀ d, d ≠ c → t.ring d = s.ring d) ∧ (n = none → t.ring c = s.ring c) ∧
            (n.isSome → ∀ k, (t.ring c).get k = s.node.idleCode))

/-- R11, R12: DETACH, with its checks in their order; FORMAT before RANGE when neither side is named is the model's reading
(assumption 32), and so is that the OK of a fibre-only DETACH carries the attachments and the state (assumption 55). -/
def Obligations.Detach : Prop :=
  ∀ (s : State) (port : Port) (tag : Byte) (circuit : Nat) (copper fibre : Bool) (q : QueuedCommand) (rest : List QueuedCommand),
    Takes s port (.detach port tag circuit copper fibre) q rest →
    let i : Instr := .detach port tag circuit copper fibre
    if copper = false ∧ fibre = false then Refuses s i port q rest .format .empty
    else if 512 ≤ circuit then Refuses s i port q rest .range .empty
    else ∀ c : CircuitNo, c.val = circuit →
      if (copper = true ∧ (s.circuit c).state ≠ .copper) ∨
          (fibre = true ∧ ((s.circuit c).state ≠ .vacant ∧ (s.circuit c).state ≠ .copper ∧
              ¬ ((s.circuit c).state = .fibre ∧ (s.circuit c).context = none) ∨
            (s.circuit c).fibre = none ∨ (s.circuit c).draining = true)) then
        Refuses s i port q rest .state .empty
      else
        let r := s.circuit c
        let after : Circuit := { r with
          copper := if copper then none else r.copper
          copperTransmit := if copper then false else r.copperTransmit
          fibre := if fibre then none else r.fibre
          fibreTransmit := if r.state = .fibre then .off else r.fibreTransmit
          buildOut := if copper = true ∨ r.state = .fibre then 0 else r.buildOut
          state := if copper = true ∨ r.state = .fibre then .vacant else r.state }
        Completes s i port q rest .ok (.attachments ⟨after.copper, after.fibre, after.state⟩) [.circuits, .occupancy] fun t =>
          Becomes c after s t ∧
          (∀ x, t.timeslotOwner x = if copper = true ∧ r.copper = some x then none else s.timeslotOwner x) ∧
          ∀ m, t.slotOwner m = if fibre = true ∧ r.fibre = some m then none else s.slotOwner m

/-- R13, R19: ACTIVATE, with its checks in their order. -/
def Obligations.Activate : Prop :=
  ∀ (s : State) (port : Port) (tag : Byte) (circuit : Nat) (q : QueuedCommand) (rest : List QueuedCommand),
    Takes s port (.activate port tag circuit) q rest →
    let i : Instr := .activate port tag circuit
    (512 ≤ circuit → Refuses s i port q rest .range .empty) ∧
    ∀ c : CircuitNo, c.val = circuit →
      if (s.circuit c).state ≠ .vacant ∨ (s.circuit c).fibre = none ∨ (s.circuit c).draining = true then
        Refuses s i port q rest .state .empty
      else if s.peer.state ≠ .up then Refuses s i port q rest .peerDown .empty
      else
        let o : OutcomeRecord := { code := .activated, reason := none, decline := none, delta := none,
                                   buildOut := (s.circuit c).buildOut, offset := none, attemptsUsed := 0, stamp := s.fc }
        Completes s i port q rest .ok .empty [.circuits, .reports, .freeValues] fun t =>
          Becomes c { s.circuit c with
            state := .fibre, context := none, fibreTransmit := .bridged, changed := true, outcome := some o } s t ∧
          Reported (if (s.circuit c).notify then [.circuit c (s.circuit c).code o] else []) s t

/-- R20, R45, R91: SET CIRCUIT; turning auto-release on makes the release test, and a release may retire the span, whose RETIRED report is
handed. FORMAT before RANGE when no option is named is the model's reading (assumption 32). -/
def Obligations.SetCircuit : Prop :=
  ∀ (s : State) (port : Port) (tag : Byte) (circuit : Nat) (notify auto : Option Bool) (hold : Option Nat) (inhibit : Option Bool)
    (q : QueuedCommand) (rest : List QueuedCommand), Lawful s →
    Takes s port (.setCircuit port tag circuit notify auto hold inhibit) q rest →
    let i : Instr := .setCircuit port tag circuit notify auto hold inhibit
    if notify = none ∧ auto = none ∧ hold = none ∧ inhibit = none then Refuses s i port q rest .format .empty
    else if 512 ≤ circuit then Refuses s i port q rest .range .empty
    else ∀ c : CircuitNo, c.val = circuit →
      let r : Circuit := { s.circuit c with
        notify := notify.getD (s.circuit c).notify, autoRelease := auto.getD (s.circuit c).autoRelease
        holdSeconds := (hold.map fun h => min h 3600).getD (s.circuit c).holdSeconds
        inhibit := inhibit.getD (s.circuit c).inhibit }
      Completes s i port q rest .ok (.options r.notify r.autoRelease r.holdSeconds r.inhibit) releaseBlocks fun t =>
        if auto = some true ∧ r.state = .fibre ∧ r.mayRelease = true then
          ∃ m, Becomes c r s m ∧ SameBut [.circuits] s m ∧ Released c .holdExpired m t
        else Becomes c r s t ∧ SameBut [.ports, .circuits] s t

/-- R171, R172: EXCHANGE, with its checks in their order. Kind 00H is FIBRE and 01H COPPER (section 10.4). When both circuits are busy the
LINE-BUSY reply carries a, by the model's choice (assumption 49). -/
def Obligations.Exchange : Prop :=
  ∀ (s : State) (port : Port) (tag : Byte) (kind na ea nb eb : Nat) (q : QueuedCommand) (rest : List QueuedCommand),
    Takes s port (.exchange port tag kind na ea nb eb) q rest →
    let i : Instr := .exchange port tag kind na ea nb eb
    if 512 ≤ na ∨ 512 ≤ nb then Refuses s i port q rest .range .empty
    else if 2 ≤ kind ∨ 7 ≤ ea ∨ 7 ≤ eb ∨ na = nb then Refuses s i port q rest .format .empty
    else ∀ a b : CircuitNo, a.val = na → b.val = nb →
      if stateCode (s.circuit a).state ≠ ea ∨ stateCode (s.circuit b).state ≠ eb then
        Refuses s i port q rest .mismatch (.states (s.circuit a).state (s.circuit b).state)
      else if ¬ ((s.circuit a).state = .vacant ∨ (s.circuit a).state = .copper) ∨
          ¬ ((s.circuit b).state = .vacant ∨ (s.circuit b).state = .copper) then Refuses s i port q rest .state .empty
      else if kind = 1 then
        if s.busy a = true then Refuses s i port q rest .lineBusy (.busyCircuit a)
        else if s.busy b = true then Refuses s i port q rest .lineBusy (.busyCircuit b)
        else
          let swapped (r : Circuit) (p : Option CopperPosition) : Circuit :=
            { r with copper := p, copperTransmit := p.isSome, state := if p.isSome then .copper else .vacant }
          let ra := swapped (s.circuit a) (s.circuit b).copper
          let rb := swapped (s.circuit b) (s.circuit a).copper
          OccupancyLaw s → Completes s i port q rest .ok
            (.exchanged ⟨ra.copper, ra.fibre, ra.state⟩ ⟨rb.copper, rb.fibre, rb.state⟩) [.circuits, .occupancy] fun t =>
            t.circuit a = evaluated t.spans t.lanes ra ∧ t.circuit b = evaluated t.spans t.lanes rb ∧ CircuitsBut [a, b] s t ∧
            (∀ p, t.timeslotOwner p = if (s.circuit a).copper = some p then some b
              else if (s.circuit b).copper = some p then some a else s.timeslotOwner p) ∧
            t.slotOwners = s.slotOwners
      else if (s.circuit a).draining = true ∨ (s.circuit b).draining = true then Refuses s i port q rest .state .empty
      else
        let ra : Circuit := { s.circuit a with fibre := (s.circuit b).fibre }
        let rb : Circuit := { s.circuit b with fibre := (s.circuit a).fibre }
        OccupancyLaw s → Completes s i port q rest .ok
          (.exchanged ⟨ra.copper, ra.fibre, ra.state⟩ ⟨rb.copper, rb.fibre, rb.state⟩) [.circuits, .occupancy, .rings] fun t =>
          t.circuit a = evaluated t.spans t.lanes ra ∧ t.circuit b = evaluated t.spans t.lanes rb ∧ CircuitsBut [a, b] s t ∧
          (∀ n, t.slotOwner n = if (s.circuit a).fibre = some n then some b
            else if (s.circuit b).fibre = some n then some a else s.slotOwner n) ∧
          t.timeslots = s.timeslots ∧
          (∀ c, c ≠ a → c ≠ b → t.ring c = s.ring c) ∧
          ∀ c r, (c = a ∧ r = ra) ∨ (c = b ∧ r = rb) →
            (r.fibre.isSome → ∀ k, (t.ring c).get k = s.node.idleCode) ∧ (r.fibre = none → t.ring c = s.ring c)

/-! ### Circuits: migrating, releasing, reverting -/

/-- R25, R126, R127: MIGRATE of a circuit that its selector names, with checks 4 to 7 in their order. -/
def Obligations.Migrate : Prop :=
  ∀ (s : State) (port : Port) (tag : Byte) (sel : Selector) (c : CircuitNo) (q : QueuedCommand) (rest : List QueuedCommand),
    Heads s port (.migrate port tag sel) q rest → Names s sel c →
    let i : Instr := .migrate port tag sel
    if (s.circuit c).state ≠ .copper ∨ (s.circuit c).fibre = none then Refuses s i port q rest .state .empty
    else if (s.circuit c).code = none then Refuses s i port q rest .noCode .empty
    else if (s.circuit c).inhibit = true then Refuses s i port q rest .inhibited .empty
    else if s.peer.state ≠ .up then Refuses s i port q rest .peerDown .empty
    else ∀ code slot, (s.circuit c).code = some code → (s.circuit c).fibre = some slot →
      Completes s i port q rest .ok (.migrated c s.peer.counter)
        [.circuits, .proposals, .overhead, .responses, .watches, .reports] (MigrationStarted c code slot s)

/-- R43, R42: ABANDON of a circuit that its selector names. For a batch member the proposals of the start step come before the ABANDON
message (assumption 31). The frame count 0 of a unit that becomes FREE is the model's (assumption 9). -/
def Obligations.Abandon : Prop :=
  ∀ (s : State) (port : Port) (tag : Byte) (sel : Selector) (c : CircuitNo) (q : QueuedCommand) (rest : List QueuedCommand),
    BatchLaw s → Heads s port (.abandon port tag sel) q rest → Names s sel c →
    if (s.circuit c).state = .proposing ∨ (s.circuit c).state = .awaiting ∨ (s.circuit c).state = .measuring ∨
        (s.circuit c).state = .aligned then
      Completes s (.abandon port tag sel) port q rest .ok .empty turnBlocks (Abandoned c .commanded none s)
    else Refuses s (.abandon port tag sel) port q rest .state .empty

/-- R50, R49, R74: REVERT of a circuit that its selector names, with checks 2 to 4 in their order; the reply carries the J of
the outcome. -/
def Obligations.Revert : Prop :=
  ∀ (s : State) (port : Port) (tag : Byte) (sel : Selector) (c : CircuitNo) (q : QueuedCommand) (rest : List QueuedCommand),
    BatchLaw s → Heads s port (.revert port tag sel) q rest → Names s sel c →
    let i : Instr := .revert port tag sel
    if (s.circuit c).state ≠ .fibre then Refuses s i port q rest .state .empty
    else if (s.circuit c).context = none then Refuses s i port q rest .noFallback .empty
    else if ((s.circuit c).copper.any fun p => decide ((s.span p.span).state = .down)) = true then
      Refuses s i port q rest .spanDown .empty
    else ∃ j, Completes s i port q rest .ok (.reverted j) outcomeBlocks (Reverted c .commanded j s)

/-- R47, R46, R91, R95: RELEASE of a circuit that its selector names; a span that retires by it hands its RETIRED report. -/
def Obligations.Release : Prop :=
  ∀ (s : State) (port : Port) (tag : Byte) (sel : Selector) (c : CircuitNo) (q : QueuedCommand) (rest : List QueuedCommand),
    Lawful s → Heads s port (.release port tag sel) q rest → Names s sel c →
    if (s.circuit c).state = .fibre ∧ ((s.circuit c).context.any fun x => x.peerSpliced) = true then
      Completes s (.release port tag sel) port q rest .ok .empty releaseBlocks (Released c .commanded s)
    else Refuses s (.release port tag sel) port q rest .state .empty

/-- R39, R35: RESUME of a circuit that its selector names. A circuit that is not deferred keeps the count of a defer limit that has
stopped (assumption 25). The reply says DEFERRED also when the evaluation abandons the circuit at once (assumption 39), and for a batch
member the proposals of the start step then come before the ABANDON, as `Turn` has them (assumption 31). -/
def Obligations.Resume : Prop :=
  ∀ (s : State) (port : Port) (tag : Byte) (sel : Selector) (c : CircuitNo) (q : QueuedCommand) (rest : List QueuedCommand),
    BatchLaw s → Heads s port (.resume port tag sel) q rest → Names s sel c →
    let i : Instr := .resume port tag sel
    (((s.circuit c).state ≠ .aligned ∨ ((s.circuit c).context.any fun x => x.held) = false) →
      Refuses s i port q rest .state .empty) ∧
    ∀ x d p, (s.circuit c).state = .aligned → (s.circuit c).context = some x → x.held = true → x.delta = some d →
      (s.circuit c).copper = some p →
      if s.busy c = true ∧ ((s.span p.span).tolerance : Int) < d then
        Completes s i port q rest .ok (.resumed none true) turnBlocks fun t =>
          ∃ k, AlignedJudged c { x with held := false } d (s.span p.span).tolerance s k ∧ SameBut [.ports] k t
      else Completes s i port q rest .ok (.resumed (some (x.target.getD (s.fc + BitVec.ofNat 32 s.node.lead))) false) [.circuits]
        (TakesContext c { x with
          held := false, deferred := false, deferLimit := ⟨x.deferLimit.left, false⟩
          target := some (x.target.getD (s.fc + BitVec.ofNat 32 s.node.lead)) } s)

/-- R23, R118, R121, R122, R44: SET NODE; a changed node number or mode sends a HELLO and takes the link DOWN. The order of the
HELLO and the link's messages within the step is the model's (assumption 19), and the migrations are abandoned in ascending circuit
number (assumption 13), after the PEER report. The frame count 0 of a unit that becomes FREE is the model's (assumption 9). -/
def Obligations.SetNode : Prop :=
  ∀ (s : State) (port : Port) (tag : Byte) (p : NodeSettings) (q : QueuedCommand) (rest : List QueuedCommand), BatchLaw s →
    Takes s port (.setNode port tag p) q rest →
    let i : Instr := .setNode port tag p
    let clamp (lo hi inForce : Nat) (given : Option Nat) : Nat := (given.map fun n => max lo (min hi n)).getD inForce
    if p = ⟨none, none, none, none, none, none, none, none, none⟩ ∨ (p.mode.any fun m => decide (2 ≤ m)) = true then
      Refuses s i port q rest .format .empty
    else
      let n : NodeParams :=
        { node := clamp 0 65535 s.node.node p.node
          mode := (p.mode.map fun m => if m = 0 then .twoWay else .threeWay).getD s.node.mode
          lead := clamp 2 64 s.node.lead p.lead, window := clamp 16 255 s.node.window p.window
          retryLimit := clamp 0 7 s.node.retryLimit p.retryLimit, backoff := clamp 400 32000 s.node.backoff p.backoff
          bridgeLimit := clamp 8000 960000 s.node.bridgeLimit p.bridgeLimit
          deferLimit := clamp 0 28800000 s.node.deferLimit p.deferLimit
          idleCode := (p.idleCode.map (BitVec.ofNat 8)).getD s.node.idleCode }
      Completes s i port q rest .ok (.nodeParams n) (.node :: .link :: turnBlocks) fun t =>
        t.node = n ∧
        if n.node = s.node.node ∧ n.mode = s.node.mode then SameBut [.ports, .node] s t
        else ∃ m, SameBut [.ports, .node, .link, .overhead] s m ∧ m.node = n ∧ m.peer.state = s.peer.state ∧
          m.peer.qualified = s.peer.qualified ∧ m.peer.heard = s.peer.heard ∧ m.peer.silence = none ∧
          m.peer.hello = (if n.node = 0 then none else some ⟨800, false⟩) ∧
          Sent (if n.node = 0 then [] else [.hello n.node n.mode]) s m ∧
          (s.peer.state = .up → LeavesUp .down (.down .localChange (s.peer.heard.map PeerHeard.node) s.migratingCircuits.length) m t) ∧
          (s.peer.state = .mismatch → t = (m.setPeer { m.peer with state := .down }).handReport
            (.peer n.node n.mode (.down .localChange (s.peer.heard.map PeerHeard.node) 0))) ∧
          (s.peer.state = .down → t = m)

/-! ### The Path Alignment Unit -/

/-- R58, R59, R61, R63, R64, R88: the service of the queue, the end of priming and of the service pause; and the end of a
window: one candidate of a full search is a MATCH, which writes the record of an UP span; none is NO-MATCH, more are AMBIGUOUS; a
confirm match is CONFIRMED or CONFIRM-FAILED and writes no record. -/
def Obligations.MatcherUnits : Prop :=
  ((∀ (s : State) (e : QueueEntry) (rest : List QueueEntry) (u : UnitNo) (p : CopperPosition), Lawful s →
     s.align.queue = e :: rest → s.align.pause.left = 0 → (s.unit u).state = .free → (∀ v, v < u → (s.unit v).state ≠ .free) →
     (s.circuit e.circuit).copper = some p →
     Happens s .matcherStart [.circuits, .matchers, .matcherQueue] fun t =>
       t.align.queue = rest ∧ (∀ v, v ≠ u → t.unit v = s.unit v) ∧
       (∃ x, (s.circuit e.circuit).context = some x ∧ TakesContext e.circuit { x with sub := some .matching } s t) ∧
       ∃ kind candidates,
         t.unit u = { s.unit u with
           state := .priming, circuit := some e.circuit, kind := kind, wlo := (s.span p.span).wlo, whi := (s.span p.span).whi
           length := s.node.window, candidates := candidates, count := 0, outcome := none } ∧
         (∀ m, e.kind = .confirm → (s.span p.span).record = .valid m → (s.span p.span).wlo ≤ m.delta →
           m.delta ≤ (s.span p.span).whi → kind = .confirm ∧ candidates = [m.delta]) ∧
         ((∀ m, e.kind = .confirm → (s.span p.span).record = .valid m →
             ¬ ((s.span p.span).wlo ≤ m.delta ∧ m.delta ≤ (s.span p.span).whi)) →
           kind = .full ∧ (∀ k, k ∈ candidates ↔ (s.span p.span).wlo ≤ k ∧ k ≤ (s.span p.span).whi) ∧ candidates.Nodup)) ∧
   (∀ s : State, (s.align.queue = [] ∨ s.align.pause.left ≠ 0 ∨ ∀ u, (s.unit u).state ≠ .free) →
     exec .matcherStart s = .next s) ∧
   (∀ (s : State) (u : UnitNo), (s.unit u).state = .priming → (s.unit u).count = 128 →
     Happens s (.primingComplete u) [.matchers] fun t =>
       t.unit u = { s.unit u with state := .window, count := 0 } ∧ ∀ v, v ≠ u → t.unit v = s.unit v) ∧
   ∀ s : State, s.align.pause.due = true →
     Happens s .servicePauseEnd [.pause] fun t => t.align.pause = ⟨0, false⟩) ∧
  (∀ (s : State) (u : UnitNo) (c : CircuitNo) (p : CopperPosition), (s.unit u).state = .window → (s.unit u).count = (s.unit u).length →
     (s.unit u).circuit = some c → (s.circuit c).copper = some p →
     Happens s (.windowEnd u) [.matchers, .spans] fun t =>
       (∀ v, v ≠ u → t.unit v = s.unit v) ∧
       ∃ result, t.unit u = { s.unit u with state := .done, outcome := some result } ∧
         ((s.unit u).kind = .full →
           (∀ k, (s.unit u).candidates = [k] → result = .matched k) ∧
           ((s.unit u).candidates = [] → result = .noMatch) ∧
           (2 ≤ (s.unit u).candidates.length → result = .ambiguous)) ∧
         ((s.unit u).kind = .confirm →
           (∀ k, (s.unit u).candidates = [k] → result = .confirmed k) ∧ ((s.unit u).candidates = [] → result = .confirmFailed)) ∧
         ∀ n, t.span n =
           match result with
           | .matched d => if n = p.span ∧ (s.span n).state = .up then { s.span n with record := .valid ⟨d, c, s.fc⟩ } else s.span n
           | _ => s.span n)

/-- R32, R34: what the outcome of a match does to its circuit in MATCHING; an outcome that finds its circuit elsewhere is
discarded; and the unit becomes FREE either way. The splice without a delay leaves an older Δ in the context (assumption 27), and a
batch member's messages come in the order of `Turn` (assumption 31). The frame count 0 of the unit that becomes FREE is given by no
rule: it is the model's choice (assumption 9, DESIGN CHOICE, unsafe). -/
def Obligations.MatchOutcome : Prop :=
  (∀ (s : State) (u : UnitNo) (c : CircuitNo) (result : MatchResult), Lawful s → (s.unit u).state = .done →
    (s.unit u).circuit = some c → (s.unit u).outcome = some result →
    ∃ m t, exec (.matchOutcome u) s = .next t ∧ SameBut [.matchers] s m ∧
      m.unit u = { s.unit u with state := .free, circuit := none, candidates := [], count := 0, outcome := none } ∧
      (∀ v, v ≠ u → m.unit v = s.unit v) ∧ SameBut releaseBlocks s t ∧
      ∀ x p, (s.circuit c).context = some x → (s.circuit c).copper = some p →
        match result with
        | .matched d => EntersAligned c x d (s.span p.span).tolerance m t
        | .confirmed d => EntersAligned c x d (s.span p.span).tolerance m t
        | .confirmFailed =>
          TakesContext c { x with sub := some .queued } m t ∧ t.align.queue = m.align.queue ++ [⟨c, .full⟩] ∧
          SameBut [.circuits, .spans, .matcherQueue] m t ∧
          ∀ n, t.span n = if n = p.span then
            { s.span n with record := (match (s.span n).record with | .valid y => .stale y | .stale y => .stale y | .invalid => .invalid) }
            else s.span n
        | other =>
          if s.busy c = false ∧ s.flagPresent c = true then Spliced c .splicedIdle 0 none none x m t
          else if x.attempts = 0 then Abandoned c (if other = .noMatch then .noMatch else .ambiguous) none m t
          else TakesContext c { x with attempts := x.attempts - 1, sub := some .bridgeWait, backoff := some ⟨s.node.backoff, false⟩ } m t ∧
            SameBut [.circuits] m t) ∧
  ∀ (s : State) (u : UnitNo) (c : CircuitNo) (result : MatchResult), (s.unit u).state = .done → (s.unit u).circuit = some c →
    (s.unit u).outcome = some result → ((s.circuit c).state ≠ .measuring ∨ (s.circuit c).sub ≠ some .matching) →
    Happens s (.matchOutcome u) [.matchers] fun t =>
      t.unit u = { s.unit u with state := .free, circuit := none, candidates := [], count := 0, outcome := none } ∧
      ∀ v, v ≠ u → t.unit v = s.unit v

/-- R71, R41, R40, R73: the reach test across the wrap of FC, and the frame in which a target is first reached; a circuit
whose target is reached is spliced when its bridge flag is present, and goes back to BRIDGE-WAIT when it is absent; before that
nothing happens. For a batch member SPLICED comes before the proposals of the start step, and these before RELEASE (assumption 31). -/
def Obligations.TargetReached : Prop :=
  ((∀ fc target : FrameCount, reached fc target = true ↔ (fc - target).toNat < 2147483648) ∧
   ∀ (fc0 : FrameCount) (lead n : Nat), 2 ≤ lead → lead ≤ 64 → n ≤ lead →
     (reached (fc0 + BitVec.ofNat 32 n) (fc0 + BitVec.ofNat 32 lead) = true ↔ n = lead)) ∧
  (∀ (s : State) (c : CircuitNo) (x : Context) (S : FrameCount) (d : Int), Lawful s → (s.circuit c).state = .aligned →
     (s.circuit c).context = some x → x.target = some S → x.delta = some d →
     (reached s.fc S = false → exec (.targetReached c) s = .next s) ∧
     (reached s.fc S = true → s.flagPresent c = true →
       ∃ m j t, exec (.targetReached c) s = .next t ∧ SameBut [.freeValues] s m ∧ SpliceJ d j ∧
         Spliced c .spliced (s.circuit c).buildOut (some d) j x m t) ∧
     (reached s.fc S = true → s.flagPresent c = false →
       Happens s (.targetReached c) [.circuits] (Becomes c ((s.circuit c).measuringRecord x .bridgeWait) s)))

/-! ### Spans -/

/-- R93, R90, R92: SET SPAN, RETIRE SPAN and RESTART SPAN, with their checks in their order. SET SPAN's RANGE before FORMAT is the model's
reading (assumption 32). For RESTART SPAN of an UP span, `SpanLost` says what becomes of every circuit (R52, R40, R45, R19, R159): its record, messages, events
and reports, in ascending circuit number (assumption 13); `RetiresAtLoss` says when the span retires in the step (R91). A rescue by
it leaves the record's Δ out of the context (assumption 26), and the DOWN report comes last, behind the RETIRED report (assumption
51). The frame count 0 of a unit that becomes FREE is the model's (assumption 9). -/
def Obligations.SpanCommands : Prop :=
  (∀ (s : State) (port : Port) (tag : Byte) (n : Nat) (p : SpanSettings) (q : QueuedCommand) (rest : List QueuedCommand),
     Takes s port (.setSpan port tag n p) q rest →
     let i : Instr := .setSpan port tag n p
     if 16 ≤ n then Refuses s i port q rest .range .empty
     else if p = ⟨none, none, none, none, none⟩ then Refuses s i port q rest .format .empty
     else ∀ k : SpanNo, k.val = n →
       let u := s.span k
       let crossed := decide (p.whi.getD u.whi < p.wlo.getD u.wlo)
       let wlo := if crossed then u.wlo else (p.wlo.map fun z => max (-127) (min 0 z)).getD u.wlo
       let whi := if crossed then u.whi else (p.whi.map fun z => max 0 (min 127 z)).getD u.whi
       let tolerance := (p.tolerance.map fun z => min 8 z).getD u.tolerance
       let slips := p.slipReports.getD u.slipReports
       let auto := p.autoRetire.getD u.autoRetire
       Completes s i port q rest .ok (.spanSettings k wlo whi tolerance slips auto) [.spans] fun t =>
         t.span k = { u with wlo := wlo, whi := whi, tolerance := tolerance, slipReports := slips, autoRetire := auto } ∧
         SpansBut k s t) ∧
  (∀ (s : State) (port : Port) (tag : Byte) (n : Nat) (q : QueuedCommand) (rest : List QueuedCommand), Lawful s →
     Takes s port (.retireSpan port tag n) q rest →
     let i : Instr := .retireSpan port tag n
     (16 ≤ n → Refuses s i port q rest .range .empty) ∧
     ∀ k : SpanNo, k.val = n →
       let occupied := ((List.finRange 31).filter fun j => (s.timeslotOwner ⟨k, j⟩).isSome).length
       if (s.span k).state = .retired then Refuses s i port q rest .state .empty
       else if occupied ≠ 0 then Refuses s i port q rest .state (.occupiedEntries occupied)
       else Completes s i port q rest .ok .empty [.spans, .reports] fun t =>
         SpansBut k s t ∧ Reported [.span k .retired] s t ∧
         (t.span k).state = .retired ∧ (t.span k).phase = none ∧ (t.span k).search.candidate = none ∧ (t.span k).marker = none ∧
         (t.span k).badWords = 0 ∧ (t.span k).store = [] ∧ (t.span k).last = none ∧
         (∀ j, (t.span k).conditions.get j = .blocked ∧ (t.span k).candidates.get j = none) ∧ (t.span k).record = .invalid ∧
         (t.span k).deletions = (s.span k).deletions ∧ (t.span k).repetitions = (s.span k).repetitions ∧
         (t.span k).wlo = (s.span k).wlo ∧ (t.span k).whi = (s.span k).whi ∧ (t.span k).tolerance = (s.span k).tolerance ∧
         (t.span k).slipReports = (s.span k).slipReports ∧ (t.span k).autoRetire = (s.span k).autoRetire) ∧
  (∀ (s : State) (port : Port) (tag : Byte) (n : Nat) (q : QueuedCommand) (rest : List QueuedCommand), Lawful s →
     Heads s port (.restartSpan port tag n) q rest →
     (16 ≤ n → Refuses s (.restartSpan port tag n) port q rest .range .empty) ∧
     ∀ k : SpanNo, k.val = n →
       Completes s (.restartSpan port tag n) port q rest .ok .empty releaseBlocks fun t =>
         ((s.span k).state = .up → SpanGoesDown k .command s t) ∧
         ((s.span k).state ≠ .up → SpanHunts (s.span k) (t.span k) ∧ (t.span k).record = (s.span k).record ∧
           SpansBut k s t ∧ SameBut [.ports, .spans] s t))

/-- R78 to R82: frame alignment found, its loss in MULTIFRAME, and the going UP with two frames in the store; the loss and the
return of signal, and the fourth even frame without the alignment word. `SpanLost` says what a loss makes of every circuit (R52, R40,
R45, R19, R159), in ascending circuit number (assumption 13), and `RetiresAtLoss` when the span retires in the step (R91). A rescue
leaves the record's Δ out of the context (assumption 26), and the DOWN report comes last, behind the RETIRED report (assumption 51).
The frame count 0 of a unit that becomes FREE is the model's (assumption 9). -/
def Obligations.SpanTransitions : Prop :=
  ((∀ (s : State) (n : SpanNo), Lawful s → (s.span n).state = .up →
     Happens s (.spanLossOfSignal n) releaseBlocks fun t =>
       SpanGoesDown n .signal (s.setSpan n { s.span n with lossOfSignal := true }) t ∧ (t.span n).lossOfSignal = true) ∧
   (∀ (s : State) (n : SpanNo), (s.span n).state ≠ .up →
     Happens s (.spanLossOfSignal n) [.spans] fun t =>
       SpansBut n s t ∧ (t.span n).lossOfSignal = true ∧
       ((s.span n).state = .down → SpanHunts (s.span n) (t.span n) ∧ (t.span n).record = (s.span n).record) ∧
       ((s.span n).state = .retired → t.span n = { s.span n with lossOfSignal := true })) ∧
   (∀ (s : State) (n : SpanNo), Lawful s → (s.span n).state = .up → (s.span n).badDue = true →
     Happens s (.spanBadAlignment n) releaseBlocks (SpanGoesDown n .alignment s)) ∧
   ∀ (s : State) (n : SpanNo),
     Happens s (.spanSignalReturn n) [.spans] fun t =>
       SpansBut n s t ∧ t.span n = { s.span n with lossOfSignal := false }) ∧
  ((∀ (s : State) (n : SpanNo), (s.span n).state = .down → (s.span n).phase = some .search → (s.span n).search.found = true →
     Happens s (.frameAlignmentFound n) [.spans] fun t =>
       SpansBut n s t ∧ (t.span n).state = .down ∧ (t.span n).phase = some .multiframe ∧ (t.span n).marker = none ∧
       (t.span n).badWords = 0 ∧ (t.span n).nextEven = false ∧ (t.span n).record = (s.span n).record ∧
       (t.span n).conditions = (s.span n).conditions) ∧
   (∀ (s : State) (n : SpanNo), (s.span n).state = .down → (s.span n).phase = some .multiframe → (s.span n).badDue = true →
     Happens s (.multiframeHuntLoss n) [.spans] fun t => SpansBut n s t ∧ SpanHunts (s.span n) (t.span n)) ∧
   ∀ (s : State) (n : SpanNo) (older newer : SpanSamples), (s.span n).state = .down → (s.span n).upDue = true →
     (s.span n).recent = [older, newer] →
     Happens s (.spanUp n) [.spans, .circuits, .reports] fun t =>
       SpansBut n s t ∧ (t.span n).state = .up ∧ (t.span n).badWords = 0 ∧ (t.span n).store = [older, newer] ∧
       (t.span n).last = none ∧ (t.span n).deletions = 0 ∧ (t.span n).repetitions = 0 ∧
       (∀ i, (t.span n).candidates.get i = none) ∧ (t.span n).conditions = (s.span n).conditions ∧
       (t.span n).record = (s.span n).record ∧ (t.span n).multiframe.next = 2 ∧
       (∀ c, t.circuit c = evaluated t.spans t.lanes (s.circuit c)) ∧ Reported [.span n (.up 2)] s t)

/-- R78, R79, R81, R83, R84, R16, R86, R87: a span frame. In SEARCH its bits are examined one by one for the alignment word; in
MULTIFRAME its even frames are checked for the word and its odd frames for the marker; in UP it joins the store, or slips when four
frames are unread, its even frames are checked for the word, its frame 1 for the marker called for, its codes are gathered, and the
last frame of a multiframe brings the codes to the timeslots, a change of which is an event of the circuit on the timeslot. A span without signal and a RETIRED span take nothing. A fourth bad word and a second marker only mark the row that acts on
them (assumption 1), so the frame of a fourth bad word is written before the loss (assumption 50); a failed check lets the search go on
with the bits that follow (assumption 21); and the line-condition events of a frame come before its write into the store (assumption
47). In the events themselves the LINE event comes first (assumption 17), the splice without a delay leaves an older Δ in the context
(assumption 27), and a batch member's messages come in the order of `Turn` (assumption 31). -/
def Obligations.SpanFrames : Prop :=
  (∀ (s : State) (n : SpanNo) (f : SpanFrame), s.running = true → (s.span n).lossOfSignal = false → (s.span n).state = .up →
    (s.span n).multiframe.next < 15 →
    ((s.span n).store.length < 4 →
      Happens s (.spanFrameReceived n f) [.spans] fun t =>
        SpansBut n s t ∧ (t.span n).store = (s.span n).store ++ [.ofFn fun i => f.get i.succ] ∧
        SpanSignalled (f.get 0) (s.span n) (t.span n)) ∧
    ((s.span n).store.length = 4 →
      ∃ m t, exec (.spanFrameReceived n f) s = .next t ∧ SameBut [.spans] s m ∧ SpansBut n s m ∧
        (m.span n).store = (s.span n).store.drop 1 ++ [.ofFn fun i => f.get i.succ] ∧
        SpanSignalled (f.get 0) (s.span n) (m.span n) ∧ t = m.slipStep n .deletion 4)) ∧
  (∀ (s : State) (n : SpanNo) (f : SpanFrame) (l : List LineCondition), Lawful s → s.running = true →
    (s.span n).lossOfSignal = false → (s.span n).state = .up → (s.span n).autoRetire = false → (s.span n).multiframe.next = 15 →
    (s.span n).multiframe.codes = some l → l.length = 27 → (s.span n).store.length < 4 →
    Happens s (.spanFrameReceived n f) releaseBlocks fun t =>
      (t.span n).store = (s.span n).store ++ [.ofFn fun i => f.get i.succ] ∧ (t.span n).multiframe.next = 0 ∧
      ∀ (i : TimeslotNo) code, (l ++ signalCodes (f.get 0))[i.val]? = some code →
        (t.span n).conditions.get i =
          (if (s.span n).candidates.get i = some code then code else (s.span n).conditions.get i) ∧
        (t.span n).candidates.get i =
          (if code = (s.span n).conditions.get i ∨ (s.span n).candidates.get i = some code then none else some code)) ∧
  (∀ (s : State) (n : SpanNo) (f : SpanFrame), s.running = true → (s.span n).lossOfSignal = false → (s.span n).state = .up →
    (s.span n).multiframe.next = 15 → (s.span n).multiframe.codes = none → (s.span n).store.length < 4 →
    Happens s (.spanFrameReceived n f) [.spans] fun t =>
      SpansBut n s t ∧ (t.span n).conditions = (s.span n).conditions ∧ (∀ i, (t.span n).candidates.get i = none) ∧
      (t.span n).store = (s.span n).store ++ [.ofFn fun i => f.get i.succ]) ∧
  (∀ (s : State) (n : SpanNo) (f : SpanFrame) (l : List LineCondition), s.running = true → (s.span n).lossOfSignal = false →
    (s.span n).state = .up → (s.span n).multiframe.next = 15 → (s.span n).multiframe.codes = some l →
    ∃ k, SameBut [.spans] s k ∧ SpansBut n s k ∧
      k.span n = { s.span n with multiframe := ⟨0, (match (s.span n).multiframe.expect with | .first => .second | .second => .first), none⟩ } ∧
      exec (.spanFrameReceived n f) s = .next
        ((((List.finRange 31).zip (l ++ signalCodes (f.get 0))).foldl (State.takeCopperCode n) k).storeFrame n f)) ∧
  (∀ (s : State) (n : SpanNo) (i : TimeslotNo) (code : LineCondition),
    ((s.span n).state ≠ .up → s.takeCopperCode n (i, code) = s) ∧
    ((s.span n).state = .up → Lawful s →
      let changed : Prop := code ≠ (s.span n).conditions.get i ∧ (s.span n).candidates.get i = some code
      ∃ m, SameBut [.spans] s m ∧ SpansBut n s m ∧
        m.span n = { s.span n with
          conditions := (s.span n).conditions.set i ((m.span n).conditions.get i)
          candidates := (s.span n).candidates.set i ((m.span n).candidates.get i) } ∧
        (changed → (m.span n).conditions.get i = code ∧ (m.span n).candidates.get i = none) ∧
        (¬ changed → (m.span n).conditions.get i = (s.span n).conditions.get i ∧
          (m.span n).candidates.get i = if code = (s.span n).conditions.get i then none else some code) ∧
        (¬ changed → s.takeCopperCode n (i, code) = m) ∧
        (s.timeslotOwner ⟨n, i⟩ = none → s.takeCopperCode n (i, code) = m) ∧
        ∀ c, changed → s.timeslotOwner ⟨n, i⟩ = some c →
          ((s.circuit c).state = .fibre → s.takeCopperCode n (i, code) = m) ∧
          ((s.circuit c).state ≠ .fibre → InputJudged c (s.busy c) m (s.takeCopperCode n (i, code))))) ∧
  (∀ (s : State) (n : SpanNo) (f : SpanFrame), s.running = true → (s.span n).lossOfSignal = false → (s.span n).state = .down →
    (s.span n).phase = some .search →
    Happens s (.spanFrameReceived n f) [.spans] fun t =>
      SpansBut n s t ∧ t.span n = { s.span n with search := (s.span n).search.feed (frameBits f) }) ∧
  ((∀ f : SpanFrame, (frameBits f).length = 256 ∧
      ∀ (i : Fin 32) (j : Fin 8), (frameBits f)[8 * i.val + j.val]? = some ((f.get i).getLsbD (7 - j.val))) ∧
   (∀ (w : WordSearch) (b : Bool) (rest : List Bool), w.feed [] = w ∧ (w.found = true → w.feed (b :: rest) = w) ∧
      (w.found = false → w.feed (b :: rest) = (w.bit b).feed rest)) ∧
   ∀ (w : WordSearch) (b : Bool),
    let window := (w.window ++ [b]).drop (w.window.length + 1 - 8)
    let word : Prop := window = [false, false, true, false, true, true, false, true]
    (w.bit b).window = window ∧ (w.bit b).next = (w.next + 1) % 512 ∧
    (w.candidate = none → (w.bit b).found = w.found ∧
      (word → (w.bit b).candidate = some ⟨(w.next + 505) % 512, 1, 512⟩) ∧ (¬ word → (w.bit b).candidate = none)) ∧
    ∀ c, w.candidate = some c →
      (1 < c.wait → (w.bit b).found = w.found ∧ (w.bit b).candidate = some { c with wait := c.wait - 1 }) ∧
      (c.wait ≤ 1 → word → c.count < 2 → (w.bit b).found = w.found ∧ (w.bit b).candidate = some ⟨c.position, c.count + 1, 512⟩) ∧
      (c.wait ≤ 1 → word → 2 ≤ c.count → (w.bit b).found = true) ∧
      (c.wait ≤ 1 → ¬ word → (w.bit b).found = w.found ∧ (w.bit b).candidate = none)) ∧
  (∀ (s : State) (n : SpanNo) (f : SpanFrame), s.running = true → (s.span n).lossOfSignal = false → (s.span n).state = .down →
    (s.span n).phase = some .multiframe →
    let held : Option MarkerCandidate := if (s.span n).upDue = true then none else (s.span n).marker
    let seen : Option Marker := signalMarker (f.get 0)
    Happens s (.spanFrameReceived n f) [.spans] fun t =>
      SpansBut n s t ∧ (t.span n).state = .down ∧ (t.span n).phase = some .multiframe ∧ (t.span n).store = (s.span n).store ∧
      (t.span n).nextEven = (!(s.span n).nextEven) ∧
      (t.span n).recent = ((s.span n).recent ++ [(.ofFn fun i => f.get i.succ : SpanSamples)]).drop ((s.span n).recent.length + 1 - 2) ∧
      ((s.span n).nextEven = true →
        (t.span n).upDue = false ∧ (t.span n).marker = held.map (fun c => { c with wait := c.wait - 1 }) ∧
        (f.get 0 = 0x2D → (t.span n).badWords = 0 ∧ (t.span n).badDue = false) ∧
        (f.get 0 ≠ 0x2D → 3 ≤ (s.span n).badWords → (t.span n).badDue = true) ∧
        (f.get 0 ≠ 0x2D → (s.span n).badWords < 3 → (t.span n).badWords = (s.span n).badWords + 1 ∧
          (t.span n).badDue = (s.span n).badDue)) ∧
      ((s.span n).nextEven = false → (t.span n).badWords = (s.span n).badWords ∧ (t.span n).badDue = (s.span n).badDue ∧
        (held = none → (t.span n).upDue = false ∧ (t.span n).marker = seen.map fun v => ⟨v, 16⟩) ∧
        ∀ c, held = some c →
          (1 < c.wait → (t.span n).upDue = false ∧ (t.span n).marker = some { c with wait := c.wait - 1 }) ∧
          (c.wait ≤ 1 → seen = some (match c.marker with | .first => .second | .second => .first) → (t.span n).upDue = true) ∧
          (c.wait ≤ 1 → seen ≠ some (match c.marker with | .first => .second | .second => .first) →
            (t.span n).upDue = false ∧ (t.span n).marker = none))) ∧
  ∀ (s : State) (n : SpanNo) (f : SpanFrame),
    (s.running = false ∨ (s.span n).lossOfSignal = true ∨ (s.span n).state = .retired) →
    exec (.spanFrameReceived n f) s = .next s

/-- R87, R88, R69, R37, R35, R65: what a slip does: the count, the record, the measured Δ of each circuit of the span, an ALIGNED
circuit that stays in the window, with its evaluation made again, and one that leaves it, with attempts and without; the units that
work on a circuit of the span; the messages, and the events, last of them the SLIP event of each circuit that was bridged on the
span. The model's choices in it: an abandonment OUT-OF-WINDOW records the Δ as the slip leaves it, absent outside -127 to 127
(assumption 28), the circuits come in ascending number (assumption 13), and the place of the SLIP report among the others is a free
value (assumption 12). -/
def Obligations.SlipStep : Prop :=
  ∀ (s : State) (n : SpanNo) (kind : SlipKind) (fill : Nat), Lawful s → (s.span n).state = .up →
    let step : Int := match kind with | .deletion => 1 | .repetition => -1
    let moved (m : DelayMeasure) : DelayMeasure := { m with delta := m.delta + step }
    let fits (d : Int) : Prop := -127 ≤ d ∧ d ≤ 127
    let t := s.slipStep n kind fill
    SameBut releaseBlocks s t ∧ t.timeslots = s.timeslots ∧ t.slotOwners = s.slotOwners ∧ SpansBut n s t ∧
    t.span n = { s.span n with
      deletions := if kind = .deletion then raise (s.span n).deletions else (s.span n).deletions
      repetitions := if kind = .repetition then raise (s.span n).repetitions else (s.span n).repetitions
      record := (t.span n).record } ∧
    (∀ m, (s.span n).record = .valid m → (fits (m.delta + step) → (t.span n).record = .valid (moved m)) ∧
      (¬ fits (m.delta + step) → (t.span n).record = .invalid)) ∧
    (∀ m, (s.span n).record = .stale m → (fits (m.delta + step) → (t.span n).record = .stale (moved m)) ∧
      (¬ fits (m.delta + step) → (t.span n).record = .invalid)) ∧
    ((s.span n).record = .invalid → (t.span n).record = .invalid) ∧
    CircuitsSlip n step s t ∧
    (∃ bodies, Reported bodies s t ∧ ((s.span n).slipReports = true → .span n (.slip kind fill (t.span n).record) ∈ bodies) ∧
      ∀ c x d reason, s.slipAbandons n step c = some reason → (s.circuit c).context = some x → x.delta = some d →
        OutcomesReported c (s.circuit c) (({ s.circuit c with context := some { x with delta := slippedDelta step d } } :
          Circuit).abandonedRecord reason none s.fc).outcome.toList bodies) ∧
    (∀ u c, (s.unit u).circuit = some c → (s.circuit c).spanNo = some n →
      UnitSlips step (t.span n).record (s.unit u) (t.unit u)) ∧
    ∀ u, (∀ c, (s.unit u).circuit = some c → (s.circuit c).spanNo ≠ some n) → t.unit u = s.unit u

/-! ### Lanes and the frame clock -/

/-- R104, R105, R107, R108: LANE CONTROL SELECT, LOCKOUT and CLEAR, with their checks in their order. The ALIGNED circuits join the queue in
ascending number (assumption 13), and a change that follows CLEAR has cause AUTOMATIC (assumption 23). -/
def Obligations.LaneSelection : Prop :=
  ∀ (s : State) (port : Port) (tag : Byte) (lane : Nat) (q : QueuedCommand) (rest : List QueuedCommand), Lawful s →
    (∀ c : Instr, c ∈ [.laneControlSelect port tag lane, .laneControlLockout port tag lane, .laneControlClear port tag lane] →
      Heads s port c q rest → 2 ≤ lane → Refuses s c port q rest .format .empty) ∧
    ∀ i : Lane, lane = (match i with | .a => 0 | .b => 1) →
      let shown (l : LaneInterface) : ReplyBody := .laneSelection l.working l.a.lockout l.b.lockout l.holdOff.left
      (Heads s port (.laneControlSelect port tag lane) q rest →
        if s.lanes.working = i then
          exec (.laneControlSelect port tag lane) s = .next (s.answerHead port q rest .ok .empty)
        else if (s.lane i).state ≠ .up ∨ (s.lane i).lockout = true then
          Refuses s (.laneControlSelect port tag lane) port q rest .state .empty
        else if 0 < s.lanes.holdOff.left then
          Refuses s (.laneControlSelect port tag lane) port q rest .holdOff (.holdOffLeft s.lanes.holdOff.left)
        else Completes s (.laneControlSelect port tag lane) port q rest .ok .empty workingBlocks fun t =>
          ∃ k, WorkingChanged .select s k ∧ SameBut [.ports] k t) ∧
      (Heads s port (.laneControlLockout port tag lane) q rest →
        if (s.lane i).lockout = true then
          exec (.laneControlLockout port tag lane) s = .next (s.answerHead port q rest .ok (shown s.lanes))
        else if (s.lane (otherLane i)).lockout = true then
          Refuses s (.laneControlLockout port tag lane) port q rest .state .empty
        else ∃ k, Tested .lockout (s.setLane i { s.lane i with lockout := true }) k ∧
          Completes s (.laneControlLockout port tag lane) port q rest .ok (shown k.lanes) (.laneRecords :: workingBlocks)
            (SameBut [.ports] k)) ∧
      (Heads s port (.laneControlClear port tag lane) q rest →
        if (s.lane i).lockout = false then
          exec (.laneControlClear port tag lane) s = .next (s.answerHead port q rest .ok (shown s.lanes))
        else ∃ k, Tested .automatic (s.setLane i { s.lane i with lockout := false }) k ∧
          Completes s (.laneControlClear port tag lane) port q rest .ok (shown k.lanes) (.laneRecords :: workingBlocks)
            (SameBut [.ports] k))

/-- R109, R106, R114, R72: LANE CONTROL SHUT, RESTORE and HOLD-OFF, and SET FRAME CLOCK, which moves the targets and the cells of
the rings with the load. -/
def Obligations.LaneSettings : Prop :=
  ∀ (s : State) (port : Port) (tag : Byte) (q : QueuedCommand) (rest : List QueuedCommand),
    (∀ (c : Instr) (lane : Nat), c ∈ [.laneControlShut port tag lane, .laneControlRestore port tag lane] →
      Takes s port c q rest → 2 ≤ lane → Refuses s c port q rest .format .empty) ∧
    (∀ (i : Lane) (lane : Nat), lane = (match i with | .a => 0 | .b => 1) →
      let shown (flag : Bool) : ReplyBody :=
        match i with | .a => .shutdowns flag s.lanes.b.shutdown | .b => .shutdowns s.lanes.a.shutdown flag
      (Takes s port (.laneControlShut port tag lane) q rest →
        if (s.lane i).shutdown = false ∧ (s.lane (otherLane i)).shutdown = true then
          Refuses s (.laneControlShut port tag lane) port q rest .state .empty
        else Completes s (.laneControlShut port tag lane) port q rest .ok (shown true) [.laneRecords] fun t =>
          t.lane i = { s.lane i with shutdown := true } ∧ t.lane (otherLane i) = s.lane (otherLane i)) ∧
      (Takes s port (.laneControlRestore port tag lane) q rest →
        Completes s (.laneControlRestore port tag lane) port q rest .ok (shown false) [.laneRecords] fun t =>
          t.lane i = { s.lane i with shutdown := false } ∧ t.lane (otherLane i) = s.lane (otherLane i))) ∧
    (∀ seconds, Takes s port (.laneControlHoldOff port tag seconds) q rest →
      Completes s (.laneControlHoldOff port tag seconds) port q rest .ok (.holdOffSetting (min seconds 60)) [.selection] fun t =>
        t.lanes.holdOffSeconds = min seconds 60 ∧ t.lanes.holdOff = s.lanes.holdOff ∧ t.lanes.working = s.lanes.working ∧
        t.lanes.timing = s.lanes.timing) ∧
    ∀ value, Takes s port (.setFrameClock port tag value) q rest →
      Completes s (.setFrameClock port tag value) port q rest .ok (.frameClock s.fc value)
        [.clock, .circuits, .rings, .matchers] fun t =>
        t.fc = value ∧
        (∀ c, t.circuit c = { s.circuit c with
          context := (s.circuit c).context.map fun x => { x with target := x.target.map fun S => S + (value - s.fc) } }) ∧
        (∀ c (f : FrameCount), (t.ring c).get (ringCell (f + (value - s.fc))) = (s.ring c).get (ringCell f)) ∧
        ∀ u, t.unit u = { s.unit u with history := (t.unit u).history } ∧
          ∀ f : FrameCount, (t.unit u).history.get (ringCell (f + (value - s.fc))) = (s.unit u).history.get (ringCell f)

/-- R97, R98, R99, R101, R112: a lane frame: the hunt of a DOWN lane; the alignment check, the content, the overhead errors and
the valid messages of a framed lane; and what a valid message of the working lane does. In start-up, and on a lane without light,
nothing is taken. A valid message joins the inbox, from which its own row takes it (assumption 3), also in a frame whose errors or bad
word then take the lane out of UP (assumption 56); and the fourth bad word and the eighth good one only mark the row that acts on them
(assumption 1). The overhead bytes of the eighth frame are not read: the model's choice (assumption 63). -/
def Obligations.LaneFrames : Prop :=
  (∀ (s : State) (i : Lane) (f : LaneFrame), s.running = true → (s.lane i).lossOfLight = false → (s.lane i).state ≠ .down →
    let bytes := (s.lane i).receiver ++ f.overhead.data
    let scan := scanOverhead (bytes.length + 1) bytes
    ∃ k, SameBut [.laneRecords] s k ∧ k.lane (otherLane i) = s.lane (otherLane i) ∧
      (∀ n, (k.lane i).content.get n = slotContent f n) ∧
      (f.word.data = [0xB1, 0x4E, 0x27, 0xD8] → (k.lane i).badFrames = 0 ∧ (k.lane i).badDue = false) ∧
      (f.word.data ≠ [0xB1, 0x4E, 0x27, 0xD8] → (s.lane i).badFrames < 3 →
        (k.lane i).badFrames = (s.lane i).badFrames + 1 ∧ (k.lane i).badDue = (s.lane i).badDue) ∧
      (f.word.data ≠ [0xB1, 0x4E, 0x27, 0xD8] → (s.lane i).badFrames = 3 → (k.lane i).badDue = true) ∧
      (k.lane i).errors = (s.lane i).errors.map (fun e => min (e + scan.errors) 65535) ∧ (k.lane i).receiver = scan.rest ∧
      k.lane i = { s.lane i with content := (k.lane i).content, badFrames := (k.lane i).badFrames, badDue := (k.lane i).badDue,
                                 errors := (k.lane i).errors, receiver := (k.lane i).receiver } ∧
      exec (.laneFrameReceived i f) s = .next
        (if s.lanes.working = i ∧ (s.lanes.a.state = .up ∨ s.lanes.b.state = .up) then
          scan.messages.foldl (fun u m => u.deliver m.1 m.2) k else k)) ∧
  (∀ (s : State) (sequence : Byte) (body : List Byte),
    let old := ∃ last, s.lanes.lastSequence = some last ∧ 0 < s.lanes.duplicate.left ∧
      (sequence = last ∨ 128 ≤ (sequence - last).toNat)
    (old → s.deliver sequence body = s) ∧
    (¬ old → SameBut [.reception, .inbox, .peerCounts] s (s.deliver sequence body) ∧
      (s.deliver sequence body).lanes.lastSequence = some sequence ∧
      (s.deliver sequence body).lanes.duplicate = s.lanes.duplicate ∧
      (∀ m, parseMessage body = some m → (s.deliver sequence body).peer = { s.peer with inbox := s.peer.inbox ++ [m] }) ∧
      (parseMessage body = none → ∃ counts, (s.deliver sequence body).peer = { s.peer with
          received := counts, discards := { s.peer.discards with malformed := raise s.peer.discards.malformed } } ∧
        ∀ i : Fin 10, counts.get i =
          if body.head? = some (BitVec.ofNat 8 (i.val + 1)) then raise (s.peer.received.get i) else s.peer.received.get i))) ∧
  (∀ (s : State) (i : Lane) (f : LaneFrame), s.running = true → (s.lane i).lossOfLight = false → (s.lane i).state = .down →
    Happens s (.laneFrameReceived i f) [.laneRecords] fun t =>
      t.lane (otherLane i) = s.lane (otherLane i) ∧ (t.lane i).state = .down ∧
      (f.word.data ≠ [0xB1, 0x4E, 0x27, 0xD8] → (t.lane i).candidate = none ∧ (t.lane i).upDue = false) ∧
      (f.word.data = [0xB1, 0x4E, 0x27, 0xD8] → (s.lane i).candidate.getD 0 < 7 →
        (t.lane i).candidate = some ((s.lane i).candidate.getD 0 + 1) ∧ (t.lane i).upDue = false) ∧
      (f.word.data = [0xB1, 0x4E, 0x27, 0xD8] → (s.lane i).candidate.getD 0 = 7 → (t.lane i).upDue = true)) ∧
  ∀ (s : State) (i : Lane) (f : LaneFrame), (s.running = false ∨ (s.lane i).lossOfLight = true) →
    exec (.laneFrameReceived i f) s = .next s

/-- R97, R98, R99, R100, R104, R105, R106, R112, R113, R116: a lane goes UP, goes DOWN, becomes DEGRADED, ends an error interval,
and gets its light back, and fibre becomes available or unavailable, with what its loss makes of every circuit: the record, the
ABANDON messages, the timers, the matchers, the events and the reports (R53, R42, R49); the hold-off and the duplicate window run
out. The model's choices in it: the circuits come in ascending number (assumption 13), the idle content also of a frame in which a
lane has just gone UP (assumption 57) or has just become the working lane (assumption 61), the ring cells of the frame in which fibre is
lost (assumption 62), the STATE report names the new
working lane (assumption 37), what is idle in the frame of a failure (assumption 29), cause AUTOMATIC of a change by the working-lane
test (assumption 23), and the order of the ALIGNED circuits in the queue (assumption 13). The frame count 0 of a unit that becomes
FREE is the model's (assumption 9). The overhead receiver of a lane that goes UP has read nothing of the frame with which it goes UP
(assumption 63). -/
def Obligations.LaneTransitions : Prop :=
  (∀ (s : State) (i : Lane), Lawful s → (s.lane i).state = .down → (s.lane i).upDue = true →
    ∃ m k t, exec (.laneUp i) s = .next t ∧
      LaneTakes i { s.lane i with state := .up, candidate := none, upDue := false, badFrames := 0, badDue := false,
                                  interval := some ⟨8000, false⟩, errors := some 0, receiver := [] } .aligned s m ∧
      Tested .automatic m k ∧ Availability s.lanes.anyUp k.lanes.anyUp k t) ∧
  (∀ (s : State) (i : Lane), Lawful s → (s.lane i).state ≠ .down →
    let lost (light : Bool) : LaneRecord :=
      { s.lane i with state := .down, candidate := none, upDue := false, badFrames := 0, badDue := false, interval := none,
                      errors := none, receiver := [], lossOfLight := light }
    (∃ t, exec (.laneLossOfLight i) s = .next t ∧ LaneGoesDown i (lost true) .light s t) ∧
    ((s.lane i).badDue = true →
      ∃ t, exec (.laneAlignmentLoss i) s = .next t ∧ LaneGoesDown i (lost (s.lane i).lossOfLight) .alignment s t) ∧
    ((s.lane i).state = .up → 16 ≤ (s.lane i).errors.getD 0 →
      ∃ t, exec (.laneDegraded i) s = .next t ∧ LaneGraded i { s.lane i with state := .degraded } .errors s t) ∧
    ∀ x, (s.lane i).interval = some x → x.due = true →
      if (s.lane i).state = .degraded ∧ (s.lane i).errors = some 0 then
        ∃ t, exec (.errorIntervalEnd i) s = .next t ∧
          LaneGraded i { s.lane i with state := .up, interval := some ⟨8000, false⟩, errors := some 0 } .cleared s t
      else Happens s (.errorIntervalEnd i) [.laneRecords] fun t =>
        t.lane i = { s.lane i with interval := some ⟨8000, false⟩, errors := some 0 } ∧
        t.lane (otherLane i) = s.lane (otherLane i)) ∧
  (∀ (s : State) (i : Lane), (s.lane i).state = .down →
    Happens s (.laneLossOfLight i) [.laneRecords] fun t =>
      t.lane i = { s.lane i with lossOfLight := true, candidate := none, upDue := false } ∧
      t.lane (otherLane i) = s.lane (otherLane i)) ∧
  (∀ (s : State) (i : Lane),
    Happens s (.laneLightReturn i) [.laneRecords] fun t =>
      t.lane i = { s.lane i with lossOfLight := false } ∧ t.lane (otherLane i) = s.lane (otherLane i)) ∧
  (∀ s : State, s.lanes.holdOff.due = true →
    Happens s .holdOffExpiry [.selection] fun t =>
      t.lanes.holdOff = ⟨0, false⟩ ∧ t.lanes.holdOffSeconds = s.lanes.holdOffSeconds ∧ t.lanes.working = s.lanes.working ∧
      t.lanes.timing = s.lanes.timing) ∧
  ∀ s : State, s.lanes.duplicate.due = true →
    Happens s .duplicateWindowExpiry [.reception] fun t =>
      t.lanes.duplicate = ⟨0, false⟩ ∧ t.lanes.lastSequence = s.lanes.lastSequence

/-! ### Recognition and the site frame -/

/-- R14, R16, R102, R103, R33, R52: the recognition of a line condition from the switch or on a slot, and of a bridge flag, and
what a circuit does by it. The LINE event comes first (assumption 17), the splice without a delay leaves an older Δ in the context
(assumption 27), and a batch member's messages come in the order of `Turn` (assumption 31). A step taken on a slot stands in the
model's `slotsBefore` too (assumption 29). The frame count 0 of a unit that becomes FREE is the model's (assumption 9). -/
def Obligations.Recognition : Prop :=
  (∀ (s : State) (c : CircuitNo) (code : LineCondition), Lawful s → (s.highway.channels.get c).due = true →
    (s.highway.channels.get c).candidate = some code →
    ∃ m t, exec (.switchLineConditionChange c) s = .next t ∧ SameBut [.channels] s m ∧
      m.highway.channels.get c = ⟨code, none, 0, false⟩ ∧
      (∀ d, d ≠ c → m.highway.channels.get d = s.highway.channels.get d) ∧ InputJudged c (s.busy c) m t) ∧
  (∀ (s : State) (n : SlotNo) (code : LineCondition), Lawful s → (s.lanes.slots.get n).line.due = true →
    (s.lanes.slots.get n).line.candidate = some code →
    ∃ m t, exec (.slotLineConditionChange n) s = .next t ∧ SameBut [.slots] s m ∧
      m.lanes.slots.get n = ⟨⟨code, none, 0, false⟩, (s.lanes.slots.get n).flag⟩ ∧
      m.lanes.slotsBefore.get n = ⟨⟨code, none, 0, false⟩, (s.lanes.slotsBefore.get n).flag⟩ ∧
      (∀ j, j ≠ n → m.lanes.slots.get j = s.lanes.slots.get j ∧ m.lanes.slotsBefore.get j = s.lanes.slotsBefore.get j) ∧
      (∀ c, s.slotOwner n = some c → (s.circuit c).state = .fibre → InputJudged c (s.busy c) m t) ∧
      ((∀ c, s.slotOwner n = some c → (s.circuit c).state ≠ .fibre) → t = m)) ∧
  (∀ (s : State) (n : SlotNo), Lawful s → (s.lanes.slots.get n).flag.due = true →
    ∃ m t, exec (.bridgeFlagRecognised n) s = .next t ∧ SameBut [.slots] s m ∧
      m.lanes.slots.get n = ⟨(s.lanes.slots.get n).line, ⟨!(s.lanes.slots.get n).flag.present, 0, false⟩⟩ ∧
      m.lanes.slotsBefore.get n = ⟨(s.lanes.slotsBefore.get n).line, ⟨!(s.lanes.slots.get n).flag.present, 0, false⟩⟩ ∧
      (∀ j, j ≠ n → m.lanes.slots.get j = s.lanes.slots.get j ∧ m.lanes.slotsBefore.get j = s.lanes.slotsBefore.get j) ∧
      ((s.lanes.slots.get n).flag.present = true ∨ s.slotOwner n = none → t = m) ∧
      ∀ c, (s.lanes.slots.get n).flag.present = false → s.slotOwner n = some c →
        (∀ x, ((s.circuit c).state = .measuring ∨ (s.circuit c).state = .aligned) → s.spanDownOf (s.circuit c) = true →
          (s.circuit c).context = some x → Spliced c .rescued (rescueBuildOut x.delta) x.delta none x m t) ∧
        (∀ x, (s.circuit c).state = .measuring → s.spanDownOf (s.circuit c) = false → (s.circuit c).context = some x →
          if x.sub = some .bridgeWait then BridgeWaitJudged c x m t else t = m) ∧
        ((s.circuit c).state = .aligned ∧ s.spanDownOf (s.circuit c) = false ∨
          ((s.circuit c).state ≠ .measuring ∧ (s.circuit c).state ≠ .aligned) → t = m)) ∧
  ∀ (s : State) (c : CircuitNo) (n : SlotNo),
    ((s.highway.channels.get c).due = false → exec (.switchLineConditionChange c) s = .next s) ∧
    ((s.lanes.slots.get n).line.due = false → exec (.slotLineConditionChange n) s = .next s) ∧
    ((s.lanes.slots.get n).flag.due = false → exec (.bridgeFlagRecognised n) s = .next s)

/-- R113, R175, R6, R7, R8, R14, R54, R56, R60 to R62, R65, R85, R86, R101 to R103, R110: a site frame of a running part, with the
repetitions of its empty stores after its other work (assumption 14), so before any end of a window (assumption 52); a site frame of start-up, the last of which takes the switch's
codes (R14); and the end of start-up, whose first frame carries the idle code from the switch (assumption 15), and in which a port
refuses a head that spells no command (R178). A count's last lowering and the sixteenth frame of a run only mark the row that acts on
them (assumption 1), the inter-byte timer counts site frames, in start-up too (assumption 4), and a clear bridge flag restarts a
match in the very frame in which its window ends (assumption 46). The slots' recognition as the frame found it is kept in the model's
`slotsBefore` (assumption 29). -/
def Obligations.SiteFrame : Prop :=
  (∀ (s : State) (switch : Table 512 ChannelInput), s.running = true →
    ∃ k, FrameTaken switch s k ∧
      exec (.siteFrame switch) s = .next
        (((List.finRange 16).filter fun n => (s.span n).state = .up ∧ (s.span n).store = []).foldl
          (fun u n => u.slipStep n .repetition 0) k)) ∧
  (∀ (s : State) (switch : Table 512 ChannelInput), s.running = false →
    Happens s (.siteFrame switch) [.startUp, .ports, .channels, .routes] fun t =>
      Counted s.links.startUp t.links.startUp ∧ t.links.resetCause = s.links.resetCause ∧
      (t.links.startUp.due = false → t.highway = s.highway) ∧
      (t.links.startUp.due = true → t.highway.route = s.highway.route ∧ t.highway.fibreRoute = s.highway.fibreRoute ∧
        t.highway.idleCode = s.node.idleCode ∧
        ∀ c, Heard (switch.get c).code (s.highway.channels.get c) (t.highway.channels.get c)) ∧
      ∀ p, CountedIfAny (s.port p).interByte (t.port p).interByte ∧
        t.port p = { s.port p with interByte := (t.port p).interByte }) ∧
  (∀ s : State, s.links.startUp.due = true →
    Happens s .startUpEnd [.startUp, .spans, .laneRecords, .overhead, .sending, .reports, .ports] fun t =>
      t.links.startUp = ⟨0, false⟩ ∧ t.links.resetCause = s.links.resetCause ∧
      Reported [.start s.links.resetCause (s.port .primary).rate (s.port .craft).rate] s t ∧
      Transmitted (.fill ⟨s.node.idleCode, .idle⟩) s.fc s t ∧
      (∀ n, t.span n = { s.span n with transmit := (t.span n).transmit }) ∧
      (∀ port, t.port port = (s.port port).settled port) ∧
      ∀ i, t.lane i = { s.lane i with transmit := (t.lane i).transmit }) ∧
  ∀ s : State, s.links.startUp.due = false → exec .startUpEnd s = .next s

/-! ### The peer protocol -/

/-- R118, R119, R120, R122, R123, R44: a HELLO, judged by its node number and mode in each state of the link; the HELLO timer; and the
silence limit. The failed test is named in the order NODE-ZERO, NODE-EQUAL, MODE (assumption 22), and a link that leaves UP hands its
PEER report and then abandons the migrations in ascending circuit number (assumption 13). The frame count 0 of a unit that becomes
FREE is the model's (assumption 9). -/
def Obligations.PeerLink : Prop :=
  (∀ (s : State) (node : Nat) (mode : HandshakeMode) (rest : List PeerMessage), BatchLaw s →
    s.peer.inbox = .hello node mode :: rest →
    let up (k : State) : State :=
      (k.setPeer { k.peer with state := .up, qualified := some node }).handReport (.peer s.node.node s.node.mode (.up node mode))
    let failed : FailedTest := if node = 0 then .nodeZero else if node = s.node.node then .nodeEqual else .mode
    let good : Prop := node ≠ 0 ∧ node ≠ s.node.node ∧ mode = s.node.mode
    ∃ t, exec (.receivedHello node mode) s = .next t ∧
      ∃ k m, Received (.hello node mode) rest s k ∧ SameBut [.link] k m ∧
      m.peer.heard = some ⟨node, mode, s.fc⟩ ∧ m.peer.silence = some ⟨2400, false⟩ ∧ m.peer.hello = s.peer.hello ∧
      m.peer.state = s.peer.state ∧ m.peer.qualified = s.peer.qualified ∧
      (s.node.node = 0 → t = m) ∧
      (s.node.node ≠ 0 → good → s.peer.state ≠ .up → t = up m) ∧
      (s.node.node ≠ 0 → good → s.peer.state = .up → s.peer.qualified = some node → t = m) ∧
      (s.node.node ≠ 0 → good → s.peer.state = .up → s.peer.qualified ≠ some node →
        ∃ j, LeavesUp .down (.down .peerChange (some node) s.migratingCircuits.length) m j ∧ t = up j) ∧
      (s.node.node ≠ 0 → ¬ good → s.peer.state = .down →
        t = (m.setPeer { m.peer with state := .mismatch }).handReport
          (.peer s.node.node s.node.mode (.mismatch failed node mode 0))) ∧
      (s.node.node ≠ 0 → ¬ good → s.peer.state = .mismatch → t = m) ∧
      (s.node.node ≠ 0 → ¬ good → s.peer.state = .up →
        LeavesUp .mismatch (.mismatch failed node mode s.migratingCircuits.length) m t)) ∧
  (∀ (s : State) (x : Countdown), s.peer.hello = some x → x.due = true →
    ∃ t, exec .helloTimerExpiry s = .next t ∧ SameBut [.link, .overhead] s t ∧
      t.peer.hello = some ⟨800, false⟩ ∧ t.peer.state = s.peer.state ∧ t.peer.silence = s.peer.silence ∧
      t.peer.heard = s.peer.heard ∧ t.peer.qualified = s.peer.qualified ∧ Sent [.hello s.node.node s.node.mode] s t) ∧
  ∀ (s : State) (x : Countdown), BatchLaw s → s.peer.silence = some x → x.due = true →
    ∃ t, exec .silenceExpiry s = .next t ∧
      ∃ m, m = s.setPeer { s.peer with silence := none } ∧
      (s.peer.state = .up →
        LeavesUp .down (.down .silence (s.peer.heard.map PeerHeard.node) s.migratingCircuits.length) m t) ∧
      (s.peer.state = .mismatch → t = (m.setPeer { m.peer with state := .down }).handReport
        (.peer s.node.node s.node.mode (.down .silence (s.peer.heard.map PeerHeard.node) 0))) ∧
      (s.peer.state = .down → t = m)

/-- R128, R29, R30, R130, R131, R124, R125, R144: a PROPOSE, in each state of the link, the directory and the circuit. The MIGRATE-START
event comes before the test of BRIDGE-WAIT (assumption 18), and a batch member's messages come in the order of `Turn`
(assumption 31). -/
def Obligations.ReceivedPropose : Prop :=
  ∀ (s : State) (code : TrunkCode) (slot : SlotNo) (number : Byte) (rest : List PeerMessage), Lawful s →
    s.peer.inbox = .propose code slot number :: rest →
    ∃ k t, exec (.receivedPropose code slot number) s = .next t ∧ Received (.propose code slot number) rest s k ∧
      (s.peer.state ≠ .up → Discarded { s.peer.discards with ignored := raise s.peer.discards.ignored } k t) ∧
      (s.peer.state = .up → s.directory.busy = true → DeclineSent code number .busy k t) ∧
      (s.peer.state = .up → s.directory.busy = false → s.directory.lookup code = none →
        ∃ m, SameBut [.misses] k m ∧ m.directory.missCount = raise s.directory.missCount ∧
          m.directory.lastMiss = some ⟨code, .peer, 0x02, (primaryBucket code).val, (secondaryBucket code).val, s.fc⟩ ∧
          DeclineSent code number .unknownTrunk m t) ∧
      ∀ c found, s.peer.state = .up → s.directory.busy = false → s.directory.lookup code = some (c, found) →
        ((s.circuit c).state = .vacant ∨ (s.circuit c).state = .aligned ∨ (s.circuit c).state = .fibre →
          DeclineSent code number .notReady k t) ∧
        ((s.circuit c).state = .copper →
          if (s.circuit c).inhibit = true then DeclineSent code number .inhibited k t
          else if ((s.circuit c).fibre.isSome ∧ (s.circuit c).fibre ≠ some slot) ∨
              ((s.circuit c).fibre = none ∧ (s.slotOwner slot).isSome) then DeclineSent code number .slotConflict k t
          else AcceptedAt c code slot number k t) ∧
        (∀ x, (s.circuit c).state = .proposing → (s.circuit c).context = some x →
          if (s.circuit c).fibre ≠ some slot then DeclineSent code number .slotConflict k t
          else if s.peer.qualified.getD 0 < s.node.node then Inapplicable k t
          else
            let y : Context := { x with role := .acceptor, number := number, backoff := none }
            ∃ m, Becomes c ((s.circuit c).acceptorRecord s.node.mode y) k m ∧ Sent [.accept code slot number] k m ∧
              Timed c (if s.node.mode = .threeWay then some ⟨2000, false⟩ else none) k m ∧
              SameBut [.circuits, .overhead, .responses] k m ∧ AcceptorGoesOn c y m t) ∧
        ∀ x, (s.circuit c).state = .awaiting ∨ (s.circuit c).state = .measuring → (s.circuit c).context = some x →
          if x.role = .initiator then DeclineSent code number .notReady k t
          else if (s.circuit c).fibre ≠ some slot then DeclineSent code number .slotConflict k t
          else TakesContext c { x with number := number } k t ∧ Sent [.accept code slot number] k t ∧
            Timed c (if (s.circuit c).state = .awaiting then some ⟨2000, false⟩ else s.peer.response.get c) k t ∧
            SameBut [.circuits, .overhead, .responses] k t

/-- R132, R133, R134, R26, R27, R31: ACCEPT, DECLINE and CONFIRM for a circuit, with the link UP; and, for every message that names a
code, its discard while the link is not UP and while its code does not resolve (R124). STALE goes ahead of the circuit's state, and an
answer in a retry backoff is STALE whatever its number (assumption 38); the splice without a delay leaves an older Δ in the context
(assumption 27), and a batch member's messages come in the order of `Turn` (assumption 31). -/
def Obligations.ReceivedAnswers : Prop :=
  (∀ (s : State) (code : TrunkCode) (slot : SlotNo) (number : Byte) (decline : DeclineReason) (reason : Reason) (i : Instr)
      (msg : PeerMessage) (rest : List PeerMessage),
    (i, msg) ∈ ([(.receivedAccept code slot number, .accept code slot number),
      (.receivedDecline code number decline, .decline code number decline), (.receivedConfirm code number, .confirm code number),
      (.receivedSpliced code, .spliced code), (.receivedAbandon code reason, .abandon code reason),
      (.receivedRevert code, .revert code), (.receivedRevertDone code, .revertDone code),
      (.receivedRelease code, .release code)] : List (Instr × PeerMessage)) →
    s.peer.inbox = msg :: rest →
    (s.peer.state ≠ .up → ∃ k t, exec i s = .next t ∧ Received msg rest s k ∧
      Discarded { s.peer.discards with ignored := raise s.peer.discards.ignored } k t) ∧
    (s.peer.state = .up → s.directory.lookup code = none → ∃ k m t, exec i s = .next t ∧ Received msg rest s k ∧
      SameBut [.misses] k m ∧ m.directory.missCount = raise s.directory.missCount ∧
      m.directory.lastMiss = some ⟨code, .peer, BitVec.ofNat 8 ((messageIndex msg).val + 1), (primaryBucket code).val,
        (secondaryBucket code).val, s.fc⟩ ∧
      if msg = .revert code then DeclineSent code 0 .noFallback m t
      else Discarded { s.peer.discards with unresolved := raise s.peer.discards.unresolved } m t)) ∧
  (∀ (s : State) (code : TrunkCode) (slot : SlotNo) (number : Byte) (rest : List PeerMessage) (c : CircuitNo) (found : Found),
    Lawful s → s.peer.inbox = .accept code slot number :: rest → s.peer.state = .up →
    s.directory.lookup code = some (c, found) →
    ∃ k t, exec (.receivedAccept code slot number) s = .next t ∧ Received (.accept code slot number) rest s k ∧
      ((s.circuit c).context = none → Inapplicable k t) ∧
      ∀ x, (s.circuit c).context = some x →
        if x.number ≠ number then Stale k t
        else if (s.circuit c).state ≠ .proposing then Inapplicable k t
        else if x.backoff.isSome then Stale k t
        else if (s.circuit c).fibre ≠ some slot then Inapplicable k t
        else ∃ m, Becomes c ({ s.circuit c with fibreTransmit := .bridged }.measuringRecord x .bridgeWait) k m ∧
          Timed c none k m ∧
          Sent (if s.node.mode = .threeWay then (s.circuit c).messages fun own => .confirm own number else []) k m ∧
          SameBut [.circuits, .overhead, .responses] k m ∧
          ∀ y, (m.circuit c).context = some y → BridgeWaitJudged c y m t) ∧
  (∀ (s : State) (code : TrunkCode) (number : Byte) (reason : DeclineReason) (rest : List PeerMessage) (c : CircuitNo)
      (found : Found), Lawful s → s.peer.inbox = .decline code number reason :: rest → s.peer.state = .up →
    s.directory.lookup code = some (c, found) →
    ∃ k t, exec (.receivedDecline code number reason) s = .next t ∧ Received (.decline code number reason) rest s k ∧
      (reason = .noFallback → t.peer.lastRevertDecline = some ⟨code, s.fc⟩ ∧
        t.peer.discards = { s.peer.discards with inapplicable := raise s.peer.discards.inapplicable } ∧
        t.peer.received = k.peer.received ∧ t.peer.declines = k.peer.declines ∧ t.peer.lastAbandon = k.peer.lastAbandon ∧
        SameBut [.peerCounts] k t) ∧
      (reason ≠ .noFallback → (s.circuit c).context = none → Inapplicable k t) ∧
      ∀ x, reason ≠ .noFallback → (s.circuit c).context = some x →
        if x.number ≠ number then Stale k t
        else if (s.circuit c).state ≠ .proposing then Inapplicable k t
        else if x.backoff.isSome then Stale k t
        else Abandoned c .peerDeclined (some reason) k t ∧ SameBut turnBlocks k t) ∧
  ∀ (s : State) (code : TrunkCode) (number : Byte) (rest : List PeerMessage) (c : CircuitNo) (found : Found), Lawful s →
    s.peer.inbox = .confirm code number :: rest → s.peer.state = .up → s.directory.lookup code = some (c, found) →
    ∃ k t, exec (.receivedConfirm code number) s = .next t ∧ Received (.confirm code number) rest s k ∧
      ((s.circuit c).context = none → Inapplicable k t) ∧
      ∀ x, (s.circuit c).context = some x →
        if x.number ≠ number then Stale k t
        else if (s.circuit c).state ≠ .awaiting then Inapplicable k t
        else ∃ m, Becomes c ((s.circuit c).measuringRecord x .bridgeWait) k m ∧ Timed c none k m ∧
          SameBut [.circuits, .responses] k m ∧ ∀ y, (m.circuit c).context = some y → BridgeWaitJudged c y m t

/-- R135, R136, R51, R137, R49, R138, R45, R46, R91: SPLICED, ABANDON, REVERT, REVERT-DONE and RELEASE for a circuit, with the link UP. A
release may retire the span, whose RETIRED report is handed. For a migrating batch member the start step's proposals come before
REVERT-DONE (assumption 31), and a REVERT taken as an ABANDON leaves the record of the last ABANDON received (assumption 48). The
frame count 0 of a unit that becomes FREE is the model's (assumption 9). -/
def Obligations.ReceivedLater : Prop :=
  ∀ (s : State) (code : TrunkCode) (reason : Reason) (rest : List PeerMessage) (c : CircuitNo) (found : Found), Lawful s →
    s.peer.state = .up → s.directory.lookup code = some (c, found) →
    let keptUp : Prop := (s.circuit c).state = .fibre ∧ (s.circuit c).context.isSome ∧ s.spanUpOf (s.circuit c) = true
    (s.peer.inbox = .spliced code :: rest →
      ∃ k t, exec (.receivedSpliced code) s = .next t ∧ Received (.spliced code) rest s k ∧
        ((s.circuit c).context = none → Inapplicable k t) ∧
        ∀ x, (s.circuit c).context = some x →
          ∃ m, TakesContext c { x with peerSpliced := true } k m ∧ SameBut [.circuits] k m ∧
            if (s.circuit c).state = .fibre ∧ (s.circuit c).autoRelease = true ∧ x.hold.map Countdown.left = some 0 then
              Released c .holdExpired m t ∧ SameBut releaseBlocks m t
            else t = m) ∧
    (s.peer.inbox = .abandon code reason :: rest →
      ∃ k m t, exec (.receivedAbandon code reason) s = .next t ∧ Received (.abandon code reason) rest s k ∧
        SameBut [.peerCounts] k m ∧ m.peer = { k.peer with lastAbandon := some ⟨code, reason, s.fc⟩ } ∧
        ((s.circuit c).migrating = true → Abandoned c .peerAbandoned none m t ∧ SameBut turnBlocks m t) ∧
        (keptUp → ((s.circuit c).context.any fun x => x.peerSpliced) = false →
          ∃ j, Reverted c .peerAbandoned j m t ∧ SameBut outcomeBlocks m t) ∧
        ((s.circuit c).migrating = false → ¬ (keptUp ∧ ((s.circuit c).context.any fun x => x.peerSpliced) = false) →
          Inapplicable m t)) ∧
    (s.peer.inbox = .revert code :: rest →
      ∃ k t, exec (.receivedRevert code) s = .next t ∧ Received (.revert code) rest s k ∧
        (keptUp → ∃ j, Reverted c .peerReverted j k t ∧ SameBut outcomeBlocks k t) ∧
        ((s.circuit c).state = .fibre → ¬ keptUp → DeclineSent code 0 .noFallback k t) ∧
        ((s.circuit c).migrating = true → ∃ m, Abandoned c .peerAbandoned none k m ∧ SameBut turnBlocks k m ∧
          t = m.queueMessage (.revertDone code)) ∧
        ((s.circuit c).state = .copper → t = k.queueMessage (.revertDone code)) ∧
        ((s.circuit c).state = .vacant → DeclineSent code 0 .noFallback k t)) ∧
    (s.peer.inbox = .revertDone code :: rest →
      ∃ k t, exec (.receivedRevertDone code) s = .next t ∧ Received (.revertDone code) rest s k ∧
        ((s.circuit c).draining = true → Becomes c { s.circuit c with fibreTransmit := .off } k t ∧ SameBut [.circuits] k t) ∧
        ((s.circuit c).draining = false → Inapplicable k t)) ∧
    (s.peer.inbox = .release code :: rest →
      ∃ k t, exec (.receivedRelease code) s = .next t ∧ Received (.release code) rest s k ∧
        if (s.circuit c).state = .fibre ∧ (s.circuit c).context.isSome then
          Released c .peerReleased k t ∧ SameBut releaseBlocks k t
        else Inapplicable k t)

/-- R28, R31, R127, R33, R32, R36, R45, R7, R91: the expiries of a circuit's response timer, retry backoff, bridge limit, defer limit,
fallback hold and drain. A batch member's proposals come before its ABANDON (assumption 31), the splice without a delay leaves an
older Δ in the context (assumption 27), and a release may retire the span, whose RETIRED report is handed. The frame count 0 of a
unit that becomes FREE is the model's (assumption 9). -/
def Obligations.CircuitTimers : Prop :=
  (∀ (s : State) (c : CircuitNo) a, (s.circuit c).fibreTransmit = .draining a → a.due = true →
    Happens s (.drainEnd c) [.circuits] (Becomes c { s.circuit c with fibreTransmit := .off } s)) ∧
  ∀ (s : State) (c : CircuitNo) (x : Context), Lawful s → (s.circuit c).context = some x →
    (∀ a, s.peer.response.get c = some a → a.due = true →
      ((s.circuit c).state = .awaiting ∨ ((s.circuit c).state = .proposing ∧ x.attempts = 0) →
        Happens s (.responseTimerExpiry c) turnBlocks (Abandoned c .peerTimeout none s)) ∧
      ((s.circuit c).state = .proposing → 0 < x.attempts →
        Happens s (.responseTimerExpiry c) [.circuits, .responses, .proposals] fun t =>
          TakesContext c { x with attempts := x.attempts - 1, number := s.peer.counter, backoff := some ⟨s.node.backoff, false⟩ } s t ∧
          Timed c none s t ∧ t.peer.counter = s.peer.counter + 1)) ∧
    (∀ a, x.backoff = some a → a.due = true →
      (∀ code slot, (s.circuit c).state = .proposing → (s.circuit c).code = some code → (s.circuit c).fibre = some slot →
        Happens s (.retryBackoffExpiry c) [.circuits, .overhead, .responses] fun t =>
          TakesContext c { x with backoff := none } s t ∧ Sent [.propose code slot x.number] s t ∧
          Timed c (some ⟨2000, false⟩) s t) ∧
      ((s.circuit c).state = .measuring →
        ∃ m t, exec (.retryBackoffExpiry c) s = .next t ∧ TakesContext c { x with backoff := none } s m ∧ SameBut [.circuits] s m ∧
          if x.sub = some .bridgeWait then BridgeWaitJudged c { x with backoff := none } m t else t = m)) ∧
    ((s.circuit c).state = .measuring → x.bridgeLimit.due = true →
      Happens s (.bridgeLimitExpiry c) turnBlocks (Abandoned c .bridgeLimit none s)) ∧
    ((s.circuit c).state = .aligned → x.deferred = true → x.deferLimit.due = true →
      Happens s (.deferLimitExpiry c) turnBlocks (Abandoned c .deferLimit none s)) ∧
    ∀ a, (s.circuit c).state = .fibre → x.hold = some a → a.due = true →
      ∃ m t, exec (.fallbackHoldExpiry c) s = .next t ∧ TakesContext c { x with hold := some ⟨0, false⟩ } s m ∧
        SameBut [.circuits] s m ∧
        if (s.circuit c).autoRelease = true ∧ x.peerSpliced = true then
          Released c .holdExpired m t ∧ SameBut releaseBlocks m t
        else t = m

/-! ### The Trunk Directory -/

/-- R146, R149, R151, R142, R145: ADD TRUNK, REMOVE TRUNK, PIN and UNPIN, with their checks in their order. -/
def Obligations.TrunkEntries : Prop :=
  ∀ (s : State) (port : Port) (tag : Byte) (code : TrunkCode) (q : QueuedCommand) (rest : List QueuedCommand), Lawful s →
    let outside : Prop := 4096 ≤ code.route ∨ 256 ≤ code.member
    let covered (i : Fin 8) : Prop := ∃ e, s.directory.ranges.get i = some e ∧ e.route = code.route ∧ e.member ≤ code.member ∧
      code.member < e.member + e.size
    let uncovered : Prop := ∀ i, ¬ covered i
    let holds (b : Fin 128) (w : Fin 4) (e : TrunkEntry) : Prop := (s.directory.trunks.get b).get w = some e ∧ e.code = code
    let absent : Prop := ∀ b w e, ¬ holds b w e
    let full (b : Fin 128) : Prop := ∀ w, ((s.directory.trunks.get b).get w).isSome
    let free (b : Fin 128) (w : Fin 4) : Prop :=
      (s.directory.trunks.get b).get w = none ∧ ∀ v, v < w → ((s.directory.trunks.get b).get v).isSome
    let trunkBecomes (b : Fin 128) (w : Fin 4) (e : Option TrunkEntry) (t : State) : Prop :=
      t.directory.ranges = s.directory.ranges ∧
      ∀ b' w', (t.directory.trunks.get b').get w' = if b' = b ∧ w' = w then e else (s.directory.trunks.get b').get w'
    (∀ circuit pinned, Takes s port (.addTrunk port tag code circuit pinned) q rest →
      let i : Instr := .addTrunk port tag code circuit pinned
      (512 ≤ circuit ∨ outside → Refuses s i port q rest .range .empty) ∧
      (circuit < 512 → ¬ outside → s.directory.busy = true → Refuses s i port q rest .busy .empty) ∧
      ∀ c : CircuitNo, c.val = circuit → ¬ outside → s.directory.busy = false →
        (∀ j, covered j → (∀ h, h < j → ¬ covered h) → Refuses s i port q rest .shadowed (.shadowedBy j)) ∧
        (∀ b w e, uncovered → holds b w e → Refuses s i port q rest .duplicate (.duplicateOf e.circuit b w)) ∧
        (∀ own, uncovered → absent → (s.circuit c).code = some own →
          Refuses s i port q rest .conflict (.heldCode own)) ∧
        (uncovered → absent → (s.circuit c).code = none →
          (∀ b w, (b = primaryBucket code ∨ (b = secondaryBucket code ∧ full (primaryBucket code))) → free b w →
            Completes s i port q rest .ok (.trunkWritten b w) [.entries, .circuits] fun t =>
              trunkBecomes b w (some ⟨code, c, pinned.getD false⟩) t ∧ Becomes c { s.circuit c with code := some code } s t) ∧
          (full (primaryBucket code) → full (secondaryBucket code) →
            Refuses s i port q rest .full (.buckets (primaryBucket code).val (secondaryBucket code).val)))) ∧
    (∀ i : Instr, i ∈ [.removeTrunk port tag code, .pin port tag code, .unpin port tag code] → Takes s port i q rest →
      (outside → Refuses s i port q rest .range .empty) ∧
      (¬ outside → s.directory.busy = true → Refuses s i port q rest .busy .empty) ∧
      (¬ outside → s.directory.busy = false →
        (∀ j, covered j → (∀ h, h < j → ¬ covered h) →
          Refuses s i port q rest .shadowed (if i = .removeTrunk port tag code then .shadowedBy j else .empty)) ∧
        (uncovered → absent → Completes s i port q rest .notFound
          (.missed ⟨code, (primaryBucket code).val, (secondaryBucket code).val⟩) [.misses] fun t =>
          t.directory.missCount = raise s.directory.missCount ∧
          t.directory.lastMiss = some ⟨code, .primary, q.type, (primaryBucket code).val, (secondaryBucket code).val, s.fc⟩))) ∧
    ∀ b w e, ¬ outside → s.directory.busy = false → uncovered → holds b w e →
      (Takes s port (.removeTrunk port tag code) q rest →
        if (s.circuit e.circuit).migrating = true ∨ ((s.circuit e.circuit).state = .fibre ∧ (s.circuit e.circuit).context.isSome) then
          Refuses s (.removeTrunk port tag code) port q rest .state (.circuitState e.circuit (s.circuit e.circuit).state)
        else Completes s (.removeTrunk port tag code) port q rest .ok (.trunkRemoved e.circuit b w) [.entries, .circuits] fun t =>
          trunkBecomes b w none t ∧ Becomes e.circuit { s.circuit e.circuit with code := none } s t) ∧
      (Takes s port (.pin port tag code) q rest →
        Completes s (.pin port tag code) port q rest .ok (.pinned e.circuit b w true) [.entries]
          (trunkBecomes b w (some { e with pinned := true }))) ∧
      (Takes s port (.unpin port tag code) q rest →
        Completes s (.unpin port tag code) port q rest .ok (.pinned e.circuit b w false) [.entries]
          (trunkBecomes b w (some { e with pinned := false })))

/-- R147, R148, R150, R141, R145, R179: ADD RANGE with its checks in their order, the walk of a bucket, the completion, and
REMOVE RANGE. -/
def Obligations.RangeEntries : Prop :=
  (∀ (s : State) (port : Port) (tag : Byte) (e : RangeEntry) (q : QueuedCommand) (rest : List QueuedCommand),
    let i : Instr := .addRange port tag e.route e.member e.size e.base
    Takes s port i q rest →
    if 4096 ≤ e.route ∨ 256 ≤ e.member ∨ 512 ≤ e.base ∨ 512 < e.base + e.size then Refuses s i port q rest .range .empty
    else if e.size ∉ [1, 2, 4, 8, 16, 32, 64, 128, 256] ∨ e.member % e.size ≠ 0 then Refuses s i port q rest .format .empty
    else if s.directory.busy = true then Refuses s i port q rest .busy .empty
    else if ∀ j, (s.directory.ranges.get j).isSome then Refuses s i port q rest .full .empty
    else
      let meets (j : Fin 8) : Prop := ∃ x, s.directory.ranges.get j = some x ∧ x.route = e.route ∧
        x.member < e.member + e.size ∧ e.member < x.member + x.size
      (∀ j, meets j → (∀ h, h < j → ¬ meets h) → Refuses s i port q rest .shadowed (.shadowedBy j)) ∧
      ((∀ j, ¬ meets j) → Happens s i [.ports, .walk] fun t =>
        t.directory.walk = .rangeCheck 0 false port tag e none ∧ t.port (otherPort port) = s.port (otherPort port) ∧
        t.port port = { s.port port with input := rest, slot := some ⟨.pending, q.tag, q.type⟩ })) ∧
  (∀ (s : State) (b : Fin 128) (port : Port) (tag : Byte) (e : RangeEntry) (found : Option FoundTrunk),
    s.directory.walk = .rangeCheck b.val true port tag e found →
    let inside (w : Fin 4) (x : TrunkEntry) : Prop := (s.directory.trunks.get b).get w = some x ∧ x.code.route = e.route ∧
      e.member ≤ x.code.member ∧ x.code.member < e.member + e.size
    ∃ after, Happens s .rangeCheckBucket [.walk]
        (fun t => t.directory.walk = .rangeCheck (b.val + 1) false port tag e after) ∧
      (found.isSome → after = found) ∧
      (found = none → (∀ w x, ¬ inside w x) → after = none) ∧
      ∀ w x, found = none → inside w x → (∀ v y, v < w → ¬ inside v y) → after = some ⟨b.val, w.val, x.code⟩) ∧
  (∀ (s : State) (due : Bool) (port : Port) (tag : Byte) (e : RangeEntry) (found : Option FoundTrunk) (slot : ExecSlot), Lawful s →
    s.directory.walk = .rangeCheck 128 due port tag e found → (s.port port).slot = some slot →
    let own (c : CircuitNo) : Prop := e.base ≤ c.val ∧ c.val < e.base + e.size
    (∀ f, found = some f → Happens s .rangeCheckComplete [.walk, .ports] fun t =>
      t.directory.walk = .idle ∧ WalkAnswered port .shadowed (.trunkInside f) s t) ∧
    (∀ c code, found = none → own c → (s.circuit c).code = some code → (∀ d, d < c → own d → (s.circuit d).code = none) →
      Happens s .rangeCheckComplete [.walk, .ports] fun t =>
        t.directory.walk = .idle ∧ WalkAnswered port .conflict (.carriedCode c code) s t) ∧
    ∀ i, found = none → (∀ c, own c → (s.circuit c).code = none) → s.directory.ranges.get i = none →
      (∀ j, j < i → (s.directory.ranges.get j).isSome) →
      Happens s .rangeCheckComplete [.walk, .ports, .entries, .circuits] fun t =>
        t.directory.walk = .idle ∧ WalkAnswered port .ok (.rangeWritten i) s t ∧ t.directory.trunks = s.directory.trunks ∧
        (∀ j, t.directory.ranges.get j = if j = i then some e else s.directory.ranges.get j) ∧
        (∀ c, own c → t.circuit c = evaluated t.spans t.lanes
          { s.circuit c with code := some ⟨e.route, e.member + (c.val - e.base)⟩ }) ∧
        ∀ c, ¬ own c → t.circuit c = s.circuit c) ∧
  ∀ (s : State) (port : Port) (tag : Byte) (n : Nat) (q : QueuedCommand) (rest : List QueuedCommand), Lawful s →
    let i : Instr := .removeRange port tag n
    Takes s port i q rest →
    (8 ≤ n → Refuses s i port q rest .range .empty) ∧
    ∀ j : Fin 8, j.val = n →
      (s.directory.busy = true → Refuses s i port q rest .busy .empty) ∧
      (s.directory.busy = false → s.directory.ranges.get j = none → Refuses s i port q rest .notFound .empty) ∧
      ∀ e, s.directory.busy = false → s.directory.ranges.get j = some e →
        let own (c : CircuitNo) : Prop := e.base ≤ c.val ∧ c.val < e.base + e.size
        let held (c : CircuitNo) : Prop := own c ∧
          ((s.circuit c).migrating = true ∨ ((s.circuit c).state = .fibre ∧ (s.circuit c).context.isSome))
        (∀ c, held c → (∀ d, d < c → ¬ held d) →
          Refuses s i port q rest .state (.circuitState c (s.circuit c).state)) ∧
        ((∀ c, ¬ held c) → Completes s i port q rest .ok (.rangeRemoved e.size) [.entries, .circuits] fun t =>
          t.directory.trunks = s.directory.trunks ∧
          (∀ h, t.directory.ranges.get h = if h = j then none else s.directory.ranges.get h) ∧
          (∀ c, own c → t.circuit c = evaluated t.spans t.lanes { s.circuit c with code := none }) ∧
          ∀ c, ¬ own c → t.circuit c = s.circuit c)

/-- R152, R153, R154, R179: PURGE, the walk of a bucket, which removes its unpinned entries whose circuits neither migrate nor keep a
fallback, and the completion. -/
def Obligations.Purge : Prop :=
  (∀ (s : State) (port : Port) (tag : Byte) (q : QueuedCommand) (rest : List QueuedCommand), Takes s port (.purge port tag) q rest →
    (s.directory.busy = true → Refuses s (.purge port tag) port q rest .busy .empty) ∧
    (s.directory.busy = false → Happens s (.purge port tag) [.ports, .walk] fun t =>
      t.directory.walk = .purge 0 false port tag 0 ∧ t.port (otherPort port) = s.port (otherPort port) ∧
      t.port port = { s.port port with input := rest, slot := some ⟨.pending, q.tag, q.type⟩ })) ∧
  (∀ (s : State) (b : Fin 128) (port : Port) (tag : Byte) (removed : Nat), Lawful s →
    s.directory.walk = .purge b.val true port tag removed →
    let goes (w : Fin 4) (e : TrunkEntry) : Prop := (s.directory.trunks.get b).get w = some e ∧ e.pinned = false ∧
      (s.circuit e.circuit).migrating = false ∧ ¬ ((s.circuit e.circuit).state = .fibre ∧ (s.circuit e.circuit).context.isSome)
    Happens s .purgeBucket [.walk, .entries, .circuits] fun t =>
      t.directory.ranges = s.directory.ranges ∧
      (∀ b' w, b' ≠ b → (t.directory.trunks.get b').get w = (s.directory.trunks.get b').get w) ∧
      (∀ w e, goes w e → (t.directory.trunks.get b).get w = none ∧
        t.circuit e.circuit = evaluated t.spans t.lanes { s.circuit e.circuit with code := none }) ∧
      (∀ w, (∀ e, ¬ goes w e) → (t.directory.trunks.get b).get w = (s.directory.trunks.get b).get w) ∧
      (∀ c, (∀ w e, goes w e → e.circuit ≠ c) → t.circuit c = s.circuit c) ∧
      ∃ n, t.directory.walk = .purge (b.val + 1) false port tag (removed + n) ∧
        n + ((List.finRange 4).filter fun w => ((t.directory.trunks.get b).get w).isSome).length =
          ((List.finRange 4).filter fun w => ((s.directory.trunks.get b).get w).isSome).length) ∧
  ∀ (s : State) (due : Bool) (port : Port) (tag : Byte) (removed : Nat) (slot : ExecSlot),
    s.directory.walk = .purge 128 due port tag removed → (s.port port).slot = some slot →
    Happens s .purgeComplete [.walk, .ports] fun t =>
      t.directory.walk = .idle ∧ WalkAnswered port .ok (.purged removed) s t

/-! ### Batches and watches -/

/-- R158, R159, R126: OPEN BATCH: its checks in their order, the opening of the record, and the start step. That a bad batch id is
refused without an index, whatever the entries, is the model's choice (assumption 59). -/
def Obligations.OpenBatch : Prop :=
  ∀ (s : State) (port : Port) (tag : Byte) (batch mode limit : Nat) (entries : List Selector) (q : QueuedCommand)
    (rest : List QueuedCommand), Lawful s →
    let i : Instr := .openBatch port tag batch mode limit entries
    let outside (e : Selector) : Prop :=
      match e with | .number n => 512 ≤ n | .code code => 4096 ≤ code.route ∨ 256 ≤ code.member
    let byCode (e : Selector) : Prop := ∃ code, e = .code code
    Heads s port i q rest →
    (8 ≤ batch → Refuses s i port q rest .range .empty) ∧
    (∀ before e after, batch < 8 → entries = before ++ e :: after → outside e → (∀ x ∈ before, ¬ outside x) →
      Refuses s i port q rest .range (.entry before.length)) ∧
    ((∀ x ∈ entries, ¬ outside x) → ∀ id : Fin 8, id.val = batch →
      if 2 ≤ mode ∨ entries.length = 0 ∨ 64 < entries.length then Refuses s i port q rest .format .empty
      else if (s.batch id).isSome then Refuses s i port q rest .busy .empty
      else
        (∀ before e after, s.directory.busy = true → entries = before ++ e :: after → byCode e → (∀ x ∈ before, ¬ byCode x) →
          Refuses s i port q rest .busy (.entry before.length)) ∧
        ((s.directory.busy = false ∨ ∀ x ∈ entries, ¬ byCode x) →
          (∀ before e after done, entries = before ++ e :: after → Examined s before done →
            (∀ code, e = .code code → s.directory.lookup code = none →
              Completes s i port q rest .notFound
                (.entryMissed before.length ⟨code, (primaryBucket code).val, (secondaryBucket code).val⟩) [.misses] fun t =>
                t.directory.missCount = raise s.directory.missCount ∧
                t.directory.lastMiss = some ⟨code, (match port with | .primary => .primary | .craft => .craft), q.type,
                  (primaryBucket code).val, (secondaryBucket code).val, s.fc⟩) ∧
            ∀ c, Names s e c →
              (∀ j, done[j]? = some c → Refuses s i port q rest .duplicate (.entryDuplicate before.length j)) ∧
              (c ∉ done → (s.circuit c).state ≠ .copper →
                Refuses s i port q rest .state (.entryState before.length (s.circuit c).state)) ∧
              ∀ held, c ∉ done → (s.circuit c).state = .copper → (s.circuit c).batch = some held →
                Refuses s i port q rest .conflict (.entryBatch before.length held)) ∧
          ∀ circuits, Examined s entries circuits →
            let kind : BatchMode := if mode = 0 then .serial else .parallel
            let b : Batch := { mode := kind, limit := if mode = 0 then 1 else max 1 (min limit 16),
                               members := circuits.map fun c => ⟨c, .pending, none⟩, remaining := circuits.length, port := port,
                               tag := tag, opened := s.fc }
            ∃ k m, SameBut [.circuits, .batches] s k ∧ k.batch id = some b ∧ (∀ j, j ≠ id → k.batch j = s.batch j) ∧
              (∀ c ∈ circuits, k.circuit c = evaluated k.spans k.lanes { s.circuit c with batch := some id }) ∧
              (∀ c, c ∉ circuits → k.circuit c = s.circuit c) ∧ BatchStepped id b k m ∧
              Completes s i port q rest .ok
                (.batchOpened id kind b.limit (b.starts k).length ((b.afterStep k).numberOf .failed))
                [.circuits, .batches, .watches, .reports, .overhead, .proposals, .responses] (SameBut [.ports] m)))

/-- R163, R162, R160, R159: CANCEL BATCH, and what the Batch Unit makes of an outcome of a member: the member's status, and the start
step that follows. -/
def Obligations.BatchEnds : Prop :=
  (∀ (s : State) (port : Port) (tag : Byte) (n : Nat) (q : QueuedCommand) (rest : List QueuedCommand),
    Heads s port (.cancelBatch port tag n) q rest →
    (8 ≤ n → Refuses s (.cancelBatch port tag n) port q rest .range .empty) ∧
    ∀ id : Fin 8, id.val = n →
      (s.batch id = none → Refuses s (.cancelBatch port tag n) port q rest .state .empty) ∧
      ∀ b, s.batch id = some b →
        let after : Batch := { b with
          members := b.members.map fun m => if m.status = .pending then { m with status := .cancelled } else m
          remaining := b.numberOf .active }
        Completes s (.cancelBatch port tag n) port q rest .ok (.batchCancelled after.countsOf) [.circuits, .batches, .reports] fun t =>
          ∃ k, BatchClosed id after .cancelled s k ∧ SameBut [.ports] k t) ∧
  ∀ (s : State) (c : CircuitNo) (o : OutcomeRecord) (id : Fin 8) (b : Batch) (i : Nat) (m : Member), BatchLaw s →
    (s.circuit c).batch = some id → s.batch id = some b → b.members[i]? = some m → m.circuit = c →
    let stepped (after : Member) : Prop :=
      let members := b.members.set i after
      BatchStepped id { b with
        members := members
        remaining := (members.filter fun m => m.status = .pending).length + (members.filter fun m => m.status = .active).length }
        (s.setBatch id (some { b with
          members := members
          remaining := (members.filter fun m => m.status = .pending).length + (members.filter fun m => m.status = .active).length }))
        (s.batchOutcome c o)
    ((o.code = .spliced ∨ o.code = .splicedIdle ∨ o.code = .rescued) → (m.status = .active ∨ m.status = .pending) →
      stepped { m with status := .done }) ∧
    (o.code = .abandoned → m.status = .active →
      stepped { m with status := .failed, reason := some (.outcome o.reason o.decline) }) ∧
    (o.code = .reverted ∨ o.code = .released ∨ o.code = .collapsed ∨ o.code = .activated ∨
      (o.code = .abandoned ∧ m.status ≠ .active) ∨ (m.status ≠ .active ∧ m.status ≠ .pending) → s.batchOutcome c o = s)

/-- R169, whole: SET WATCH; an event that comes after it is matched against the settings it wrote. A class byte has a meaning in every bit (R188), so no class is outside its values. -/
def Obligations.SetWatch : Prop :=
  ∀ (s : State) (port : Port) (tag : Byte) (n : Nat) (p : WatchSettings) (q : QueuedCommand) (rest : List QueuedCommand),
    Heads s port (.setWatch port tag n p) q rest →
    let i : Instr := .setWatch port tag n p
    if 2 ≤ n ∨ (p.value.any fun v => decide (512 ≤ v)) = true then Refuses s i port q rest .range .empty
    else if p = ⟨none, none, none, none, none, none⟩ ∨ (p.compare.any fun v => decide (3 ≤ v)) = true ∨
        (p.action.any fun v => decide (2 ≤ v)) = true ∨ (p.combine.any fun v => decide (2 ≤ v)) = true ∨
        (n = 1 ∧ p.combine.isSome) then Refuses s i port q rest .format .empty
    else
      let written (w : Watch) : Watch := { w with
        enable := p.enable.getD w.enable
        value := p.value.getD w.value
        compare := (p.compare.map fun v => if v = 0 then .equal else if v = 1 then .below else .atOrAbove).getD w.compare
        classes := p.classes.getD w.classes
        action := (p.action.map fun v => if v = 0 then .report else .reportAndHold).getD w.action }
      let after : WatchUnit :=
        if n = 0 then { s.watches with
          first := written s.watches.first, joint := (p.combine.map fun v => decide (v = 1)).getD s.watches.joint }
        else { s.watches with second := written s.watches.second }
      let view (w : Watch) : WatchView :=
        { enable := w.enable, value := w.value, compare := w.compare, classes := w.classes, action := w.action }
      Completes s i port q rest .ok (.watchSettings (view after.first) (view after.second) after.joint) [.watches] fun t =>
        t.watches = after ∧ ∀ c cls, t.watches.hits c cls = after.hits c cls

/-- R166, R167, R168: an event at the watches: which of them it hits, what a hit records, the one WATCH report, and the answer HOLD.
And what the queues do with what is handed to them (R181, R111); and the whole of an outcome (R19, R160, R166): the record and the
changed flag, and then the Batch Unit, the Watch Unit by the outcome's class, and the report where notify is on, each handed it once,
in an order that is left open (assumption 11). -/
def Obligations.EventsAndQueues : Prop :=
  (∀ (s : State) (c : CircuitNo) (cls : EventClass) (o : Option OutcomeCode),
    let fits (w : Watch) : Prop := w.enable = true ∧ w.classes.getLsbD (classBit cls) = true ∧
      (match w.compare with | .equal => c.val = w.value | .below => c.val < w.value | .atOrAbove => w.value ≤ c.val)
    let hit (w : Watch) : Prop :=
      if s.watches.joint = true then fits s.watches.first ∧ fits s.watches.second else fits w
    let after (w : Watch) : Watch :=
      { w with hit := true, hits := if w.hits < 255 then w.hits + 1 else w.hits, lastHit := some ⟨c, cls, s.fc⟩ }
    (¬ hit s.watches.first → ¬ hit s.watches.second → s.watchEvent c cls o = s) ∧
    (hit s.watches.first ∨ hit s.watches.second →
      SameBut [.watches, .reports] s (s.watchEvent c cls o) ∧
      ∃ first second,
        (hit s.watches.first → first = some (after s.watches.first).hits ∧
          (s.watchEvent c cls o).watches.first = after s.watches.first) ∧
        (¬ hit s.watches.first → first = none ∧ (s.watchEvent c cls o).watches.first = s.watches.first) ∧
        (hit s.watches.second → second = some (after s.watches.second).hits ∧
          (s.watchEvent c cls o).watches.second = after s.watches.second) ∧
        (¬ hit s.watches.second → second = none ∧ (s.watchEvent c cls o).watches.second = s.watches.second) ∧
        (s.watchEvent c cls o).watches.joint = s.watches.joint ∧
        Reported [.watch first second c cls o] s (s.watchEvent c cls o)) ∧
    (cls = .aligned → (s.watchHolds c = true ↔
      (hit s.watches.first ∧ s.watches.first.action = .reportAndHold) ∨
      (hit s.watches.second ∧ s.watches.second.action = .reportAndHold)))) ∧
  (∀ (s : State) (body : ReportBody),
    SameBut [.reports] s (s.handReport body) ∧
    if s.links.reports.length < 32 then
      (s.handReport body).links.reports = s.links.reports ++ [⟨s.fc, s.links.lostFlag, body⟩] ∧
      (s.handReport body).links.lostFlag = false ∧ (s.handReport body).links.reportsLost = s.links.reportsLost
    else (s.handReport body).links.reports = s.links.reports ∧ (s.handReport body).links.lostFlag = true ∧
      (s.handReport body).links.reportsLost = (if s.links.reportsLost < 65535 then s.links.reportsLost + 1 else s.links.reportsLost)) ∧
  (∀ (s : State) (m : PeerMessage),
    SameBut [.overhead] s (s.queueMessage m) ∧
    if s.lanes.queue.length < 128 then
      (s.queueMessage m).lanes.queue = s.lanes.queue ++ [m] ∧ (s.queueMessage m).lanes.lost = s.lanes.lost
    else (s.queueMessage m).lanes.queue = s.lanes.queue ∧
      (s.queueMessage m).lanes.lost = (if s.lanes.lost < 65535 then s.lanes.lost + 1 else s.lanes.lost)) ∧
  (∀ (s : State) (c : CircuitNo) (o : OutcomeRecord), BatchLaw s →
    ((s.writeOutcome c o).circuit c).outcome = some o ∧ ((s.writeOutcome c o).circuit c).changed = true) ∧
  ∀ (s : State) (c : CircuitNo) (o : OutcomeRecord),
    let cls : Option EventClass :=
      match o.code with
      | .spliced => some .splice
      | .splicedIdle => some .splice
      | .rescued => some .splice
      | .reverted => some .revert
      | .abandoned => some .abandon
      | .released => some .release
      | .collapsed => none
      | .activated => none
    let toBatch (u : State) : State := u.batchOutcome c o
    let toWatch (u : State) : State := match cls with | some e => u.watchEvent c e (some o.code) | none => u
    let toReports (u : State) : State :=
      if (u.circuit c).notify = true then u.handReport (.circuit c (u.circuit c).code o) else u
    ∃ k order, Becomes c { s.circuit c with outcome := some o, changed := true } s k ∧ SameBut [.circuits, .freeValues] s k ∧
      List.Perm order [toBatch, toWatch, toReports] ∧ s.writeOutcome c o = order.foldl (fun u give => give u) k
end

