-- ==== Sys2Proof/Laws/Table.lean ====
section
/-! SUPPORT. The laws of `Table`: what a read finds after a write, a fill, a map. -/

namespace Sys2Proof.Table

variable {n : Nat} {α β : Type}

/-- A read is the list's element at the index. -/
theorem get_eq (t : Table n α) (i : Fin n) : t.get i = t.data[i.val]'(by simp [t.size]) := rfl

@[simp] theorem get_set_eq (t : Table n α) (i : Fin n) (a : α) : (t.set i a).get i = a := by
  simp [get_eq, Table.set]

@[simp] theorem get_set_ne (t : Table n α) {i j : Fin n} (a : α) (h : i ≠ j) : (t.set i a).get j = t.get j := by
  have h' : i.val ≠ j.val := fun e => h (Fin.ext e)
  simp [get_eq, Table.set, h']

theorem get_set (t : Table n α) (i j : Fin n) (a : α) : (t.set i a).get j = if i = j then a else t.get j := by
  by_cases h : i = j
  · subst h; simp
  · simp [h]

@[simp] theorem get_fill (a : α) (i : Fin n) : (Table.fill a : Table n α).get i = a := by
  simp [get_eq, Table.fill]

@[simp] theorem get_ofFn (f : Fin n → α) (i : Fin n) : (Table.ofFn f).get i = f i := by
  simp [get_eq, Table.ofFn]

@[simp] theorem get_mapIdx (t : Table n α) (f : Fin n → α → β) (i : Fin n) : (t.mapIdx f).get i = f i (t.get i) := by
  simp [Table.mapIdx]

@[simp] theorem get_map (t : Table n α) (f : α → β) (i : Fin n) : (t.map f).get i = f (t.get i) := by
  simp [get_eq, Table.map]

theorem get_modify (t : Table n α) (i j : Fin n) (f : α → α) :
    (t.modify i f).get j = if i = j then f (t.get i) else t.get j := by
  simp [Table.modify, get_set]

/-- Two tables with equal entries are equal. -/
theorem ext_get {t u : Table n α} (h : ∀ i, t.get i = u.get i) : t = u := by
  obtain ⟨a, ha⟩ := t
  obtain ⟨b, hb⟩ := u
  have : a = b := by
    apply List.ext_getElem (by rw [ha, hb])
    intro i hi hj
    have := h ⟨i, ha ▸ hi⟩
    simpa [get_eq] using this
  subst this
  rfl

@[simp] theorem set_get_self (t : Table n α) (i : Fin n) : t.set i (t.get i) = t :=
  ext_get fun j => by rw [get_set]; split <;> simp_all

/-- The later of two writes to one entry stays. -/
@[simp] theorem set_set_eq (t : Table n α) (i : Fin n) (a b : α) : (t.set i a).set i b = t.set i b :=
  ext_get fun j => by simp only [get_set]; split <;> rfl

end Sys2Proof.Table
end

