-- ==== Sys2Proof/Laws/State.lean ====
section
/-! SUPPORT. The fields of the state after each update: one lemma per field per update, so that no later proof unfolds a
record update. -/

namespace Sys2Proof.Machine

/-! ### setPending -/

section
variable (s : State) (x : List Instr)

@[simp] theorem State.setPending_pending : (s.setPending x).pending = x := rfl
@[simp] theorem State.setPending_node : (s.setPending x).node = s.node := rfl
@[simp] theorem State.setPending_circuits : (s.setPending x).circuits = s.circuits := rfl
@[simp] theorem State.setPending_timeslots : (s.setPending x).timeslots = s.timeslots := rfl
@[simp] theorem State.setPending_slotOwners : (s.setPending x).slotOwners = s.slotOwners := rfl
@[simp] theorem State.setPending_highway : (s.setPending x).highway = s.highway := rfl
@[simp] theorem State.setPending_spans : (s.setPending x).spans = s.spans := rfl
@[simp] theorem State.setPending_lanes : (s.setPending x).lanes = s.lanes := rfl
@[simp] theorem State.setPending_align : (s.setPending x).align = s.align := rfl
@[simp] theorem State.setPending_peer : (s.setPending x).peer = s.peer := rfl
@[simp] theorem State.setPending_directory : (s.setPending x).directory = s.directory := rfl
@[simp] theorem State.setPending_batches : (s.setPending x).batches = s.batches := rfl
@[simp] theorem State.setPending_watches : (s.setPending x).watches = s.watches := rfl
@[simp] theorem State.setPending_links : (s.setPending x).links = s.links := rfl
@[simp] theorem State.setPending_freeCount : (s.setPending x).freeCount = s.freeCount := rfl
@[simp] theorem State.setPending_circuit (c : CircuitNo) : (s.setPending x).circuit c = s.circuit c := rfl
@[simp] theorem State.setPending_span (n : SpanNo) : (s.setPending x).span n = s.span n := rfl
@[simp] theorem State.setPending_unit (u : UnitNo) : (s.setPending x).unit u = s.unit u := rfl
@[simp] theorem State.setPending_port (p : Port) : (s.setPending x).port p = s.port p := rfl
@[simp] theorem State.setPending_batch (b : Fin 8) : (s.setPending x).batch b = s.batch b := rfl
@[simp] theorem State.setPending_lane (i : Lane) : (s.setPending x).lane i = s.lane i := rfl
@[simp] theorem State.setPending_timeslotOwner (p : CopperPosition) : (s.setPending x).timeslotOwner p = s.timeslotOwner p := rfl
@[simp] theorem State.setPending_slotOwner (n : SlotNo) : (s.setPending x).slotOwner n = s.slotOwner n := rfl

end

/-! ### setNode -/

section
variable (s : State) (x : NodeParams)

@[simp] theorem State.setNode_pending : (s.setNode x).pending = s.pending := rfl
@[simp] theorem State.setNode_node : (s.setNode x).node = x := rfl
@[simp] theorem State.setNode_circuits : (s.setNode x).circuits = s.circuits := rfl
@[simp] theorem State.setNode_timeslots : (s.setNode x).timeslots = s.timeslots := rfl
@[simp] theorem State.setNode_slotOwners : (s.setNode x).slotOwners = s.slotOwners := rfl
@[simp] theorem State.setNode_highway : (s.setNode x).highway = s.highway := rfl
@[simp] theorem State.setNode_spans : (s.setNode x).spans = s.spans := rfl
@[simp] theorem State.setNode_lanes : (s.setNode x).lanes = s.lanes := rfl
@[simp] theorem State.setNode_align : (s.setNode x).align = s.align := rfl
@[simp] theorem State.setNode_peer : (s.setNode x).peer = s.peer := rfl
@[simp] theorem State.setNode_directory : (s.setNode x).directory = s.directory := rfl
@[simp] theorem State.setNode_batches : (s.setNode x).batches = s.batches := rfl
@[simp] theorem State.setNode_watches : (s.setNode x).watches = s.watches := rfl
@[simp] theorem State.setNode_links : (s.setNode x).links = s.links := rfl
@[simp] theorem State.setNode_freeCount : (s.setNode x).freeCount = s.freeCount := rfl
@[simp] theorem State.setNode_circuit (c : CircuitNo) : (s.setNode x).circuit c = s.circuit c := rfl
@[simp] theorem State.setNode_span (n : SpanNo) : (s.setNode x).span n = s.span n := rfl
@[simp] theorem State.setNode_unit (u : UnitNo) : (s.setNode x).unit u = s.unit u := rfl
@[simp] theorem State.setNode_port (p : Port) : (s.setNode x).port p = s.port p := rfl
@[simp] theorem State.setNode_batch (b : Fin 8) : (s.setNode x).batch b = s.batch b := rfl
@[simp] theorem State.setNode_lane (i : Lane) : (s.setNode x).lane i = s.lane i := rfl
@[simp] theorem State.setNode_timeslotOwner (p : CopperPosition) : (s.setNode x).timeslotOwner p = s.timeslotOwner p := rfl
@[simp] theorem State.setNode_slotOwner (n : SlotNo) : (s.setNode x).slotOwner n = s.slotOwner n := rfl

end

/-! ### setCircuits -/

section
variable (s : State) (x : Table 512 Circuit)

@[simp] theorem State.setCircuits_pending : (s.setCircuits x).pending = s.pending := rfl
@[simp] theorem State.setCircuits_node : (s.setCircuits x).node = s.node := rfl
@[simp] theorem State.setCircuits_circuits : (s.setCircuits x).circuits = x := rfl
@[simp] theorem State.setCircuits_timeslots : (s.setCircuits x).timeslots = s.timeslots := rfl
@[simp] theorem State.setCircuits_slotOwners : (s.setCircuits x).slotOwners = s.slotOwners := rfl
@[simp] theorem State.setCircuits_highway : (s.setCircuits x).highway = s.highway := rfl
@[simp] theorem State.setCircuits_spans : (s.setCircuits x).spans = s.spans := rfl
@[simp] theorem State.setCircuits_lanes : (s.setCircuits x).lanes = s.lanes := rfl
@[simp] theorem State.setCircuits_align : (s.setCircuits x).align = s.align := rfl
@[simp] theorem State.setCircuits_peer : (s.setCircuits x).peer = s.peer := rfl
@[simp] theorem State.setCircuits_directory : (s.setCircuits x).directory = s.directory := rfl
@[simp] theorem State.setCircuits_batches : (s.setCircuits x).batches = s.batches := rfl
@[simp] theorem State.setCircuits_watches : (s.setCircuits x).watches = s.watches := rfl
@[simp] theorem State.setCircuits_links : (s.setCircuits x).links = s.links := rfl
@[simp] theorem State.setCircuits_freeCount : (s.setCircuits x).freeCount = s.freeCount := rfl
@[simp] theorem State.setCircuits_span (n : SpanNo) : (s.setCircuits x).span n = s.span n := rfl
@[simp] theorem State.setCircuits_unit (u : UnitNo) : (s.setCircuits x).unit u = s.unit u := rfl
@[simp] theorem State.setCircuits_port (p : Port) : (s.setCircuits x).port p = s.port p := rfl
@[simp] theorem State.setCircuits_batch (b : Fin 8) : (s.setCircuits x).batch b = s.batch b := rfl
@[simp] theorem State.setCircuits_lane (i : Lane) : (s.setCircuits x).lane i = s.lane i := rfl
@[simp] theorem State.setCircuits_timeslotOwner (p : CopperPosition) : (s.setCircuits x).timeslotOwner p = s.timeslotOwner p := rfl
@[simp] theorem State.setCircuits_slotOwner (n : SlotNo) : (s.setCircuits x).slotOwner n = s.slotOwner n := rfl

end

/-! ### setTimeslots -/

section
variable (s : State) (x : Table 16 (Table 31 (Option CircuitNo)))

@[simp] theorem State.setTimeslots_pending : (s.setTimeslots x).pending = s.pending := rfl
@[simp] theorem State.setTimeslots_node : (s.setTimeslots x).node = s.node := rfl
@[simp] theorem State.setTimeslots_circuits : (s.setTimeslots x).circuits = s.circuits := rfl
@[simp] theorem State.setTimeslots_timeslots : (s.setTimeslots x).timeslots = x := rfl
@[simp] theorem State.setTimeslots_slotOwners : (s.setTimeslots x).slotOwners = s.slotOwners := rfl
@[simp] theorem State.setTimeslots_highway : (s.setTimeslots x).highway = s.highway := rfl
@[simp] theorem State.setTimeslots_spans : (s.setTimeslots x).spans = s.spans := rfl
@[simp] theorem State.setTimeslots_lanes : (s.setTimeslots x).lanes = s.lanes := rfl
@[simp] theorem State.setTimeslots_align : (s.setTimeslots x).align = s.align := rfl
@[simp] theorem State.setTimeslots_peer : (s.setTimeslots x).peer = s.peer := rfl
@[simp] theorem State.setTimeslots_directory : (s.setTimeslots x).directory = s.directory := rfl
@[simp] theorem State.setTimeslots_batches : (s.setTimeslots x).batches = s.batches := rfl
@[simp] theorem State.setTimeslots_watches : (s.setTimeslots x).watches = s.watches := rfl
@[simp] theorem State.setTimeslots_links : (s.setTimeslots x).links = s.links := rfl
@[simp] theorem State.setTimeslots_freeCount : (s.setTimeslots x).freeCount = s.freeCount := rfl
@[simp] theorem State.setTimeslots_circuit (c : CircuitNo) : (s.setTimeslots x).circuit c = s.circuit c := rfl
@[simp] theorem State.setTimeslots_span (n : SpanNo) : (s.setTimeslots x).span n = s.span n := rfl
@[simp] theorem State.setTimeslots_unit (u : UnitNo) : (s.setTimeslots x).unit u = s.unit u := rfl
@[simp] theorem State.setTimeslots_port (p : Port) : (s.setTimeslots x).port p = s.port p := rfl
@[simp] theorem State.setTimeslots_batch (b : Fin 8) : (s.setTimeslots x).batch b = s.batch b := rfl
@[simp] theorem State.setTimeslots_lane (i : Lane) : (s.setTimeslots x).lane i = s.lane i := rfl
@[simp] theorem State.setTimeslots_slotOwner (n : SlotNo) : (s.setTimeslots x).slotOwner n = s.slotOwner n := rfl

end

/-! ### setSlotOwners -/

section
variable (s : State) (x : Table 512 (Option CircuitNo))

@[simp] theorem State.setSlotOwners_pending : (s.setSlotOwners x).pending = s.pending := rfl
@[simp] theorem State.setSlotOwners_node : (s.setSlotOwners x).node = s.node := rfl
@[simp] theorem State.setSlotOwners_circuits : (s.setSlotOwners x).circuits = s.circuits := rfl
@[simp] theorem State.setSlotOwners_timeslots : (s.setSlotOwners x).timeslots = s.timeslots := rfl
@[simp] theorem State.setSlotOwners_slotOwners : (s.setSlotOwners x).slotOwners = x := rfl
@[simp] theorem State.setSlotOwners_highway : (s.setSlotOwners x).highway = s.highway := rfl
@[simp] theorem State.setSlotOwners_spans : (s.setSlotOwners x).spans = s.spans := rfl
@[simp] theorem State.setSlotOwners_lanes : (s.setSlotOwners x).lanes = s.lanes := rfl
@[simp] theorem State.setSlotOwners_align : (s.setSlotOwners x).align = s.align := rfl
@[simp] theorem State.setSlotOwners_peer : (s.setSlotOwners x).peer = s.peer := rfl
@[simp] theorem State.setSlotOwners_directory : (s.setSlotOwners x).directory = s.directory := rfl
@[simp] theorem State.setSlotOwners_batches : (s.setSlotOwners x).batches = s.batches := rfl
@[simp] theorem State.setSlotOwners_watches : (s.setSlotOwners x).watches = s.watches := rfl
@[simp] theorem State.setSlotOwners_links : (s.setSlotOwners x).links = s.links := rfl
@[simp] theorem State.setSlotOwners_freeCount : (s.setSlotOwners x).freeCount = s.freeCount := rfl
@[simp] theorem State.setSlotOwners_circuit (c : CircuitNo) : (s.setSlotOwners x).circuit c = s.circuit c := rfl
@[simp] theorem State.setSlotOwners_span (n : SpanNo) : (s.setSlotOwners x).span n = s.span n := rfl
@[simp] theorem State.setSlotOwners_unit (u : UnitNo) : (s.setSlotOwners x).unit u = s.unit u := rfl
@[simp] theorem State.setSlotOwners_port (p : Port) : (s.setSlotOwners x).port p = s.port p := rfl
@[simp] theorem State.setSlotOwners_batch (b : Fin 8) : (s.setSlotOwners x).batch b = s.batch b := rfl
@[simp] theorem State.setSlotOwners_lane (i : Lane) : (s.setSlotOwners x).lane i = s.lane i := rfl
@[simp] theorem State.setSlotOwners_timeslotOwner (p : CopperPosition) : (s.setSlotOwners x).timeslotOwner p = s.timeslotOwner p := rfl

end

/-! ### setHighway -/

section
variable (s : State) (x : Highway)

@[simp] theorem State.setHighway_pending : (s.setHighway x).pending = s.pending := rfl
@[simp] theorem State.setHighway_node : (s.setHighway x).node = s.node := rfl
@[simp] theorem State.setHighway_circuits : (s.setHighway x).circuits = s.circuits := rfl
@[simp] theorem State.setHighway_timeslots : (s.setHighway x).timeslots = s.timeslots := rfl
@[simp] theorem State.setHighway_slotOwners : (s.setHighway x).slotOwners = s.slotOwners := rfl
@[simp] theorem State.setHighway_highway : (s.setHighway x).highway = x := rfl
@[simp] theorem State.setHighway_spans : (s.setHighway x).spans = s.spans := rfl
@[simp] theorem State.setHighway_lanes : (s.setHighway x).lanes = s.lanes := rfl
@[simp] theorem State.setHighway_align : (s.setHighway x).align = s.align := rfl
@[simp] theorem State.setHighway_peer : (s.setHighway x).peer = s.peer := rfl
@[simp] theorem State.setHighway_directory : (s.setHighway x).directory = s.directory := rfl
@[simp] theorem State.setHighway_batches : (s.setHighway x).batches = s.batches := rfl
@[simp] theorem State.setHighway_watches : (s.setHighway x).watches = s.watches := rfl
@[simp] theorem State.setHighway_links : (s.setHighway x).links = s.links := rfl
@[simp] theorem State.setHighway_freeCount : (s.setHighway x).freeCount = s.freeCount := rfl
@[simp] theorem State.setHighway_circuit (c : CircuitNo) : (s.setHighway x).circuit c = s.circuit c := rfl
@[simp] theorem State.setHighway_span (n : SpanNo) : (s.setHighway x).span n = s.span n := rfl
@[simp] theorem State.setHighway_unit (u : UnitNo) : (s.setHighway x).unit u = s.unit u := rfl
@[simp] theorem State.setHighway_port (p : Port) : (s.setHighway x).port p = s.port p := rfl
@[simp] theorem State.setHighway_batch (b : Fin 8) : (s.setHighway x).batch b = s.batch b := rfl
@[simp] theorem State.setHighway_lane (i : Lane) : (s.setHighway x).lane i = s.lane i := rfl
@[simp] theorem State.setHighway_timeslotOwner (p : CopperPosition) : (s.setHighway x).timeslotOwner p = s.timeslotOwner p := rfl
@[simp] theorem State.setHighway_slotOwner (n : SlotNo) : (s.setHighway x).slotOwner n = s.slotOwner n := rfl

end

/-! ### setSpans -/

section
variable (s : State) (x : Table 16 Span)

@[simp] theorem State.setSpans_pending : (s.setSpans x).pending = s.pending := rfl
@[simp] theorem State.setSpans_node : (s.setSpans x).node = s.node := rfl
@[simp] theorem State.setSpans_circuits : (s.setSpans x).circuits = s.circuits := rfl
@[simp] theorem State.setSpans_timeslots : (s.setSpans x).timeslots = s.timeslots := rfl
@[simp] theorem State.setSpans_slotOwners : (s.setSpans x).slotOwners = s.slotOwners := rfl
@[simp] theorem State.setSpans_highway : (s.setSpans x).highway = s.highway := rfl
@[simp] theorem State.setSpans_spans : (s.setSpans x).spans = x := rfl
@[simp] theorem State.setSpans_lanes : (s.setSpans x).lanes = s.lanes := rfl
@[simp] theorem State.setSpans_align : (s.setSpans x).align = s.align := rfl
@[simp] theorem State.setSpans_peer : (s.setSpans x).peer = s.peer := rfl
@[simp] theorem State.setSpans_directory : (s.setSpans x).directory = s.directory := rfl
@[simp] theorem State.setSpans_batches : (s.setSpans x).batches = s.batches := rfl
@[simp] theorem State.setSpans_watches : (s.setSpans x).watches = s.watches := rfl
@[simp] theorem State.setSpans_links : (s.setSpans x).links = s.links := rfl
@[simp] theorem State.setSpans_freeCount : (s.setSpans x).freeCount = s.freeCount := rfl
@[simp] theorem State.setSpans_circuit (c : CircuitNo) : (s.setSpans x).circuit c = s.circuit c := rfl
@[simp] theorem State.setSpans_unit (u : UnitNo) : (s.setSpans x).unit u = s.unit u := rfl
@[simp] theorem State.setSpans_port (p : Port) : (s.setSpans x).port p = s.port p := rfl
@[simp] theorem State.setSpans_batch (b : Fin 8) : (s.setSpans x).batch b = s.batch b := rfl
@[simp] theorem State.setSpans_lane (i : Lane) : (s.setSpans x).lane i = s.lane i := rfl
@[simp] theorem State.setSpans_timeslotOwner (p : CopperPosition) : (s.setSpans x).timeslotOwner p = s.timeslotOwner p := rfl
@[simp] theorem State.setSpans_slotOwner (n : SlotNo) : (s.setSpans x).slotOwner n = s.slotOwner n := rfl

end

/-! ### setLanes -/

section
variable (s : State) (x : LaneInterface)

@[simp] theorem State.setLanes_pending : (s.setLanes x).pending = s.pending := rfl
@[simp] theorem State.setLanes_node : (s.setLanes x).node = s.node := rfl
@[simp] theorem State.setLanes_circuits : (s.setLanes x).circuits = s.circuits := rfl
@[simp] theorem State.setLanes_timeslots : (s.setLanes x).timeslots = s.timeslots := rfl
@[simp] theorem State.setLanes_slotOwners : (s.setLanes x).slotOwners = s.slotOwners := rfl
@[simp] theorem State.setLanes_highway : (s.setLanes x).highway = s.highway := rfl
@[simp] theorem State.setLanes_spans : (s.setLanes x).spans = s.spans := rfl
@[simp] theorem State.setLanes_lanes : (s.setLanes x).lanes = x := rfl
@[simp] theorem State.setLanes_align : (s.setLanes x).align = s.align := rfl
@[simp] theorem State.setLanes_peer : (s.setLanes x).peer = s.peer := rfl
@[simp] theorem State.setLanes_directory : (s.setLanes x).directory = s.directory := rfl
@[simp] theorem State.setLanes_batches : (s.setLanes x).batches = s.batches := rfl
@[simp] theorem State.setLanes_watches : (s.setLanes x).watches = s.watches := rfl
@[simp] theorem State.setLanes_links : (s.setLanes x).links = s.links := rfl
@[simp] theorem State.setLanes_freeCount : (s.setLanes x).freeCount = s.freeCount := rfl
@[simp] theorem State.setLanes_circuit (c : CircuitNo) : (s.setLanes x).circuit c = s.circuit c := rfl
@[simp] theorem State.setLanes_span (n : SpanNo) : (s.setLanes x).span n = s.span n := rfl
@[simp] theorem State.setLanes_unit (u : UnitNo) : (s.setLanes x).unit u = s.unit u := rfl
@[simp] theorem State.setLanes_port (p : Port) : (s.setLanes x).port p = s.port p := rfl
@[simp] theorem State.setLanes_batch (b : Fin 8) : (s.setLanes x).batch b = s.batch b := rfl
@[simp] theorem State.setLanes_timeslotOwner (p : CopperPosition) : (s.setLanes x).timeslotOwner p = s.timeslotOwner p := rfl
@[simp] theorem State.setLanes_slotOwner (n : SlotNo) : (s.setLanes x).slotOwner n = s.slotOwner n := rfl

end

/-! ### setAlign -/

section
variable (s : State) (x : AlignmentUnit)

@[simp] theorem State.setAlign_pending : (s.setAlign x).pending = s.pending := rfl
@[simp] theorem State.setAlign_node : (s.setAlign x).node = s.node := rfl
@[simp] theorem State.setAlign_circuits : (s.setAlign x).circuits = s.circuits := rfl
@[simp] theorem State.setAlign_timeslots : (s.setAlign x).timeslots = s.timeslots := rfl
@[simp] theorem State.setAlign_slotOwners : (s.setAlign x).slotOwners = s.slotOwners := rfl
@[simp] theorem State.setAlign_highway : (s.setAlign x).highway = s.highway := rfl
@[simp] theorem State.setAlign_spans : (s.setAlign x).spans = s.spans := rfl
@[simp] theorem State.setAlign_lanes : (s.setAlign x).lanes = s.lanes := rfl
@[simp] theorem State.setAlign_align : (s.setAlign x).align = x := rfl
@[simp] theorem State.setAlign_peer : (s.setAlign x).peer = s.peer := rfl
@[simp] theorem State.setAlign_directory : (s.setAlign x).directory = s.directory := rfl
@[simp] theorem State.setAlign_batches : (s.setAlign x).batches = s.batches := rfl
@[simp] theorem State.setAlign_watches : (s.setAlign x).watches = s.watches := rfl
@[simp] theorem State.setAlign_links : (s.setAlign x).links = s.links := rfl
@[simp] theorem State.setAlign_freeCount : (s.setAlign x).freeCount = s.freeCount := rfl
@[simp] theorem State.setAlign_circuit (c : CircuitNo) : (s.setAlign x).circuit c = s.circuit c := rfl
@[simp] theorem State.setAlign_span (n : SpanNo) : (s.setAlign x).span n = s.span n := rfl
@[simp] theorem State.setAlign_port (p : Port) : (s.setAlign x).port p = s.port p := rfl
@[simp] theorem State.setAlign_batch (b : Fin 8) : (s.setAlign x).batch b = s.batch b := rfl
@[simp] theorem State.setAlign_lane (i : Lane) : (s.setAlign x).lane i = s.lane i := rfl
@[simp] theorem State.setAlign_timeslotOwner (p : CopperPosition) : (s.setAlign x).timeslotOwner p = s.timeslotOwner p := rfl
@[simp] theorem State.setAlign_slotOwner (n : SlotNo) : (s.setAlign x).slotOwner n = s.slotOwner n := rfl

end

/-! ### setPeer -/

section
variable (s : State) (x : PeerEngine)

@[simp] theorem State.setPeer_pending : (s.setPeer x).pending = s.pending := rfl
@[simp] theorem State.setPeer_node : (s.setPeer x).node = s.node := rfl
@[simp] theorem State.setPeer_circuits : (s.setPeer x).circuits = s.circuits := rfl
@[simp] theorem State.setPeer_timeslots : (s.setPeer x).timeslots = s.timeslots := rfl
@[simp] theorem State.setPeer_slotOwners : (s.setPeer x).slotOwners = s.slotOwners := rfl
@[simp] theorem State.setPeer_highway : (s.setPeer x).highway = s.highway := rfl
@[simp] theorem State.setPeer_spans : (s.setPeer x).spans = s.spans := rfl
@[simp] theorem State.setPeer_lanes : (s.setPeer x).lanes = s.lanes := rfl
@[simp] theorem State.setPeer_align : (s.setPeer x).align = s.align := rfl
@[simp] theorem State.setPeer_peer : (s.setPeer x).peer = x := rfl
@[simp] theorem State.setPeer_directory : (s.setPeer x).directory = s.directory := rfl
@[simp] theorem State.setPeer_batches : (s.setPeer x).batches = s.batches := rfl
@[simp] theorem State.setPeer_watches : (s.setPeer x).watches = s.watches := rfl
@[simp] theorem State.setPeer_links : (s.setPeer x).links = s.links := rfl
@[simp] theorem State.setPeer_freeCount : (s.setPeer x).freeCount = s.freeCount := rfl
@[simp] theorem State.setPeer_circuit (c : CircuitNo) : (s.setPeer x).circuit c = s.circuit c := rfl
@[simp] theorem State.setPeer_span (n : SpanNo) : (s.setPeer x).span n = s.span n := rfl
@[simp] theorem State.setPeer_unit (u : UnitNo) : (s.setPeer x).unit u = s.unit u := rfl
@[simp] theorem State.setPeer_port (p : Port) : (s.setPeer x).port p = s.port p := rfl
@[simp] theorem State.setPeer_batch (b : Fin 8) : (s.setPeer x).batch b = s.batch b := rfl
@[simp] theorem State.setPeer_lane (i : Lane) : (s.setPeer x).lane i = s.lane i := rfl
@[simp] theorem State.setPeer_timeslotOwner (p : CopperPosition) : (s.setPeer x).timeslotOwner p = s.timeslotOwner p := rfl
@[simp] theorem State.setPeer_slotOwner (n : SlotNo) : (s.setPeer x).slotOwner n = s.slotOwner n := rfl

end

/-! ### setDirectory -/

section
variable (s : State) (x : Directory)

@[simp] theorem State.setDirectory_pending : (s.setDirectory x).pending = s.pending := rfl
@[simp] theorem State.setDirectory_node : (s.setDirectory x).node = s.node := rfl
@[simp] theorem State.setDirectory_circuits : (s.setDirectory x).circuits = s.circuits := rfl
@[simp] theorem State.setDirectory_timeslots : (s.setDirectory x).timeslots = s.timeslots := rfl
@[simp] theorem State.setDirectory_slotOwners : (s.setDirectory x).slotOwners = s.slotOwners := rfl
@[simp] theorem State.setDirectory_highway : (s.setDirectory x).highway = s.highway := rfl
@[simp] theorem State.setDirectory_spans : (s.setDirectory x).spans = s.spans := rfl
@[simp] theorem State.setDirectory_lanes : (s.setDirectory x).lanes = s.lanes := rfl
@[simp] theorem State.setDirectory_align : (s.setDirectory x).align = s.align := rfl
@[simp] theorem State.setDirectory_peer : (s.setDirectory x).peer = s.peer := rfl
@[simp] theorem State.setDirectory_directory : (s.setDirectory x).directory = x := rfl
@[simp] theorem State.setDirectory_batches : (s.setDirectory x).batches = s.batches := rfl
@[simp] theorem State.setDirectory_watches : (s.setDirectory x).watches = s.watches := rfl
@[simp] theorem State.setDirectory_links : (s.setDirectory x).links = s.links := rfl
@[simp] theorem State.setDirectory_freeCount : (s.setDirectory x).freeCount = s.freeCount := rfl
@[simp] theorem State.setDirectory_circuit (c : CircuitNo) : (s.setDirectory x).circuit c = s.circuit c := rfl
@[simp] theorem State.setDirectory_span (n : SpanNo) : (s.setDirectory x).span n = s.span n := rfl
@[simp] theorem State.setDirectory_unit (u : UnitNo) : (s.setDirectory x).unit u = s.unit u := rfl
@[simp] theorem State.setDirectory_port (p : Port) : (s.setDirectory x).port p = s.port p := rfl
@[simp] theorem State.setDirectory_batch (b : Fin 8) : (s.setDirectory x).batch b = s.batch b := rfl
@[simp] theorem State.setDirectory_lane (i : Lane) : (s.setDirectory x).lane i = s.lane i := rfl
@[simp] theorem State.setDirectory_timeslotOwner (p : CopperPosition) : (s.setDirectory x).timeslotOwner p = s.timeslotOwner p := rfl
@[simp] theorem State.setDirectory_slotOwner (n : SlotNo) : (s.setDirectory x).slotOwner n = s.slotOwner n := rfl

end

/-! ### setBatches -/

section
variable (s : State) (x : Table 8 (Option Batch))

@[simp] theorem State.setBatches_pending : (s.setBatches x).pending = s.pending := rfl
@[simp] theorem State.setBatches_node : (s.setBatches x).node = s.node := rfl
@[simp] theorem State.setBatches_circuits : (s.setBatches x).circuits = s.circuits := rfl
@[simp] theorem State.setBatches_timeslots : (s.setBatches x).timeslots = s.timeslots := rfl
@[simp] theorem State.setBatches_slotOwners : (s.setBatches x).slotOwners = s.slotOwners := rfl
@[simp] theorem State.setBatches_highway : (s.setBatches x).highway = s.highway := rfl
@[simp] theorem State.setBatches_spans : (s.setBatches x).spans = s.spans := rfl
@[simp] theorem State.setBatches_lanes : (s.setBatches x).lanes = s.lanes := rfl
@[simp] theorem State.setBatches_align : (s.setBatches x).align = s.align := rfl
@[simp] theorem State.setBatches_peer : (s.setBatches x).peer = s.peer := rfl
@[simp] theorem State.setBatches_directory : (s.setBatches x).directory = s.directory := rfl
@[simp] theorem State.setBatches_batches : (s.setBatches x).batches = x := rfl
@[simp] theorem State.setBatches_watches : (s.setBatches x).watches = s.watches := rfl
@[simp] theorem State.setBatches_links : (s.setBatches x).links = s.links := rfl
@[simp] theorem State.setBatches_freeCount : (s.setBatches x).freeCount = s.freeCount := rfl
@[simp] theorem State.setBatches_circuit (c : CircuitNo) : (s.setBatches x).circuit c = s.circuit c := rfl
@[simp] theorem State.setBatches_span (n : SpanNo) : (s.setBatches x).span n = s.span n := rfl
@[simp] theorem State.setBatches_unit (u : UnitNo) : (s.setBatches x).unit u = s.unit u := rfl
@[simp] theorem State.setBatches_port (p : Port) : (s.setBatches x).port p = s.port p := rfl
@[simp] theorem State.setBatches_lane (i : Lane) : (s.setBatches x).lane i = s.lane i := rfl
@[simp] theorem State.setBatches_timeslotOwner (p : CopperPosition) : (s.setBatches x).timeslotOwner p = s.timeslotOwner p := rfl
@[simp] theorem State.setBatches_slotOwner (n : SlotNo) : (s.setBatches x).slotOwner n = s.slotOwner n := rfl

end

/-! ### setWatches -/

section
variable (s : State) (x : WatchUnit)

@[simp] theorem State.setWatches_pending : (s.setWatches x).pending = s.pending := rfl
@[simp] theorem State.setWatches_node : (s.setWatches x).node = s.node := rfl
@[simp] theorem State.setWatches_circuits : (s.setWatches x).circuits = s.circuits := rfl
@[simp] theorem State.setWatches_timeslots : (s.setWatches x).timeslots = s.timeslots := rfl
@[simp] theorem State.setWatches_slotOwners : (s.setWatches x).slotOwners = s.slotOwners := rfl
@[simp] theorem State.setWatches_highway : (s.setWatches x).highway = s.highway := rfl
@[simp] theorem State.setWatches_spans : (s.setWatches x).spans = s.spans := rfl
@[simp] theorem State.setWatches_lanes : (s.setWatches x).lanes = s.lanes := rfl
@[simp] theorem State.setWatches_align : (s.setWatches x).align = s.align := rfl
@[simp] theorem State.setWatches_peer : (s.setWatches x).peer = s.peer := rfl
@[simp] theorem State.setWatches_directory : (s.setWatches x).directory = s.directory := rfl
@[simp] theorem State.setWatches_batches : (s.setWatches x).batches = s.batches := rfl
@[simp] theorem State.setWatches_watches : (s.setWatches x).watches = x := rfl
@[simp] theorem State.setWatches_links : (s.setWatches x).links = s.links := rfl
@[simp] theorem State.setWatches_freeCount : (s.setWatches x).freeCount = s.freeCount := rfl
@[simp] theorem State.setWatches_circuit (c : CircuitNo) : (s.setWatches x).circuit c = s.circuit c := rfl
@[simp] theorem State.setWatches_span (n : SpanNo) : (s.setWatches x).span n = s.span n := rfl
@[simp] theorem State.setWatches_unit (u : UnitNo) : (s.setWatches x).unit u = s.unit u := rfl
@[simp] theorem State.setWatches_port (p : Port) : (s.setWatches x).port p = s.port p := rfl
@[simp] theorem State.setWatches_batch (b : Fin 8) : (s.setWatches x).batch b = s.batch b := rfl
@[simp] theorem State.setWatches_lane (i : Lane) : (s.setWatches x).lane i = s.lane i := rfl
@[simp] theorem State.setWatches_timeslotOwner (p : CopperPosition) : (s.setWatches x).timeslotOwner p = s.timeslotOwner p := rfl
@[simp] theorem State.setWatches_slotOwner (n : SlotNo) : (s.setWatches x).slotOwner n = s.slotOwner n := rfl

end

/-! ### setLinks -/

section
variable (s : State) (x : Links)

@[simp] theorem State.setLinks_pending : (s.setLinks x).pending = s.pending := rfl
@[simp] theorem State.setLinks_node : (s.setLinks x).node = s.node := rfl
@[simp] theorem State.setLinks_circuits : (s.setLinks x).circuits = s.circuits := rfl
@[simp] theorem State.setLinks_timeslots : (s.setLinks x).timeslots = s.timeslots := rfl
@[simp] theorem State.setLinks_slotOwners : (s.setLinks x).slotOwners = s.slotOwners := rfl
@[simp] theorem State.setLinks_highway : (s.setLinks x).highway = s.highway := rfl
@[simp] theorem State.setLinks_spans : (s.setLinks x).spans = s.spans := rfl
@[simp] theorem State.setLinks_lanes : (s.setLinks x).lanes = s.lanes := rfl
@[simp] theorem State.setLinks_align : (s.setLinks x).align = s.align := rfl
@[simp] theorem State.setLinks_peer : (s.setLinks x).peer = s.peer := rfl
@[simp] theorem State.setLinks_directory : (s.setLinks x).directory = s.directory := rfl
@[simp] theorem State.setLinks_batches : (s.setLinks x).batches = s.batches := rfl
@[simp] theorem State.setLinks_watches : (s.setLinks x).watches = s.watches := rfl
@[simp] theorem State.setLinks_links : (s.setLinks x).links = x := rfl
@[simp] theorem State.setLinks_freeCount : (s.setLinks x).freeCount = s.freeCount := rfl
@[simp] theorem State.setLinks_circuit (c : CircuitNo) : (s.setLinks x).circuit c = s.circuit c := rfl
@[simp] theorem State.setLinks_span (n : SpanNo) : (s.setLinks x).span n = s.span n := rfl
@[simp] theorem State.setLinks_unit (u : UnitNo) : (s.setLinks x).unit u = s.unit u := rfl
@[simp] theorem State.setLinks_batch (b : Fin 8) : (s.setLinks x).batch b = s.batch b := rfl
@[simp] theorem State.setLinks_lane (i : Lane) : (s.setLinks x).lane i = s.lane i := rfl
@[simp] theorem State.setLinks_timeslotOwner (p : CopperPosition) : (s.setLinks x).timeslotOwner p = s.timeslotOwner p := rfl
@[simp] theorem State.setLinks_slotOwner (n : SlotNo) : (s.setLinks x).slotOwner n = s.slotOwner n := rfl

end

/-! ### setFreeCount -/

section
variable (s : State) (x : Nat)

@[simp] theorem State.setFreeCount_pending : (s.setFreeCount x).pending = s.pending := rfl
@[simp] theorem State.setFreeCount_node : (s.setFreeCount x).node = s.node := rfl
@[simp] theorem State.setFreeCount_circuits : (s.setFreeCount x).circuits = s.circuits := rfl
@[simp] theorem State.setFreeCount_timeslots : (s.setFreeCount x).timeslots = s.timeslots := rfl
@[simp] theorem State.setFreeCount_slotOwners : (s.setFreeCount x).slotOwners = s.slotOwners := rfl
@[simp] theorem State.setFreeCount_highway : (s.setFreeCount x).highway = s.highway := rfl
@[simp] theorem State.setFreeCount_spans : (s.setFreeCount x).spans = s.spans := rfl
@[simp] theorem State.setFreeCount_lanes : (s.setFreeCount x).lanes = s.lanes := rfl
@[simp] theorem State.setFreeCount_align : (s.setFreeCount x).align = s.align := rfl
@[simp] theorem State.setFreeCount_peer : (s.setFreeCount x).peer = s.peer := rfl
@[simp] theorem State.setFreeCount_directory : (s.setFreeCount x).directory = s.directory := rfl
@[simp] theorem State.setFreeCount_batches : (s.setFreeCount x).batches = s.batches := rfl
@[simp] theorem State.setFreeCount_watches : (s.setFreeCount x).watches = s.watches := rfl
@[simp] theorem State.setFreeCount_links : (s.setFreeCount x).links = s.links := rfl
@[simp] theorem State.setFreeCount_freeCount : (s.setFreeCount x).freeCount = x := rfl
@[simp] theorem State.setFreeCount_circuit (c : CircuitNo) : (s.setFreeCount x).circuit c = s.circuit c := rfl
@[simp] theorem State.setFreeCount_span (n : SpanNo) : (s.setFreeCount x).span n = s.span n := rfl
@[simp] theorem State.setFreeCount_unit (u : UnitNo) : (s.setFreeCount x).unit u = s.unit u := rfl
@[simp] theorem State.setFreeCount_port (p : Port) : (s.setFreeCount x).port p = s.port p := rfl
@[simp] theorem State.setFreeCount_batch (b : Fin 8) : (s.setFreeCount x).batch b = s.batch b := rfl
@[simp] theorem State.setFreeCount_lane (i : Lane) : (s.setFreeCount x).lane i = s.lane i := rfl
@[simp] theorem State.setFreeCount_timeslotOwner (p : CopperPosition) : (s.setFreeCount x).timeslotOwner p = s.timeslotOwner p := rfl
@[simp] theorem State.setFreeCount_slotOwner (n : SlotNo) : (s.setFreeCount x).slotOwner n = s.slotOwner n := rfl

end

/-! ### Writes of one entry -/

section
variable (s : State)

@[simp] theorem State.setCircuits_circuit (x : Table 512 Circuit) (c : CircuitNo) : (s.setCircuits x).circuit c = x.get c := rfl
@[simp] theorem State.setSpans_span (x : Table 16 Span) (n : SpanNo) : (s.setSpans x).span n = x.get n := rfl
@[simp] theorem State.setAlign_unit (x : AlignmentUnit) (u : UnitNo) : (s.setAlign x).unit u = x.units.get u := rfl
@[simp] theorem State.setLinks_port (x : Links) (p : Port) : (s.setLinks x).port p = x.port p := rfl
@[simp] theorem State.setBatches_batch (x : Table 8 (Option Batch)) (b : Fin 8) : (s.setBatches x).batch b = x.get b := rfl
@[simp] theorem State.setLanes_lane (x : LaneInterface) (i : Lane) : (s.setLanes x).lane i = x.lane i := rfl

@[simp] theorem State.setSpan_span_eq (n : SpanNo) (x : Span) : (s.setSpan n x).span n = x := by simp [State.setSpan]
@[simp] theorem State.setSpan_span_ne {n m : SpanNo} (x : Span) (h : n ≠ m) : (s.setSpan n x).span m = s.span m := by
  simp [State.setSpan, h]; rfl
@[simp] theorem State.setUnit_unit_eq (u : UnitNo) (x : Matcher) : (s.setUnit u x).unit u = x := by simp [State.setUnit]
@[simp] theorem State.setUnit_unit_ne {u v : UnitNo} (x : Matcher) (h : u ≠ v) : (s.setUnit u x).unit v = s.unit v := by
  simp [State.setUnit, h]; rfl
@[simp] theorem State.setBatch_batch_eq (b : Fin 8) (x : Option Batch) : (s.setBatch b x).batch b = x := by simp [State.setBatch]
@[simp] theorem State.setBatch_batch_ne {a b : Fin 8} (x : Option Batch) (h : a ≠ b) : (s.setBatch a x).batch b = s.batch b := by
  simp [State.setBatch, h]; rfl
@[simp] theorem State.setPort_port_eq (p : Port) (x : PortRecord) : (s.setPort p x).port p = x := by cases p <;> rfl
@[simp] theorem State.setPort_port_ne {p q : Port} (x : PortRecord) (h : p ≠ q) : (s.setPort p x).port q = s.port q := by
  cases p <;> cases q <;> first | rfl | exact absurd rfl h
@[simp] theorem State.setLane_lane_eq (i : Lane) (x : LaneRecord) : (s.setLane i x).lane i = x := by cases i <;> rfl
@[simp] theorem State.setLane_lane_ne {i j : Lane} (x : LaneRecord) (h : i ≠ j) : (s.setLane i x).lane j = s.lane j := by
  cases i <;> cases j <;> first | rfl | exact absurd rfl h

/-- A record written with its conditioning evaluated (R17). -/
@[simp] theorem State.putCircuit_circuit_eq (c : CircuitNo) (r : Circuit) :
    (s.putCircuit c r).circuit c = evaluated s.spans s.lanes r := by simp [State.putCircuit]
@[simp] theorem State.putCircuit_circuit_ne {c d : CircuitNo} (r : Circuit) (h : c ≠ d) :
    (s.putCircuit c r).circuit d = s.circuit d := by simp [State.putCircuit, h]; rfl
@[simp] theorem State.evaluateAll_circuit (c : CircuitNo) :
    s.evaluateAll.circuit c = evaluated s.spans s.lanes (s.circuit c) := by simp [State.evaluateAll]; rfl

end

/-! ### Evaluating conditioning changes nothing else (R17) -/

section
variable (spans : Table 16 Span) (lanes : LaneInterface) (r : Circuit)

@[simp] theorem evaluated_copper : (evaluated spans lanes r).copper = r.copper := rfl
@[simp] theorem evaluated_fibre : (evaluated spans lanes r).fibre = r.fibre := rfl
@[simp] theorem evaluated_code : (evaluated spans lanes r).code = r.code := rfl
@[simp] theorem evaluated_state : (evaluated spans lanes r).state = r.state := rfl
@[simp] theorem evaluated_copperTransmit : (evaluated spans lanes r).copperTransmit = r.copperTransmit := rfl
@[simp] theorem evaluated_fibreTransmit : (evaluated spans lanes r).fibreTransmit = r.fibreTransmit := rfl
@[simp] theorem evaluated_buildOut : (evaluated spans lanes r).buildOut = r.buildOut := rfl
@[simp] theorem evaluated_notify : (evaluated spans lanes r).notify = r.notify := rfl
@[simp] theorem evaluated_autoRelease : (evaluated spans lanes r).autoRelease = r.autoRelease := rfl
@[simp] theorem evaluated_holdSeconds : (evaluated spans lanes r).holdSeconds = r.holdSeconds := rfl
@[simp] theorem evaluated_inhibit : (evaluated spans lanes r).inhibit = r.inhibit := rfl
@[simp] theorem evaluated_changed : (evaluated spans lanes r).changed = r.changed := rfl
@[simp] theorem evaluated_batch : (evaluated spans lanes r).batch = r.batch := rfl
@[simp] theorem evaluated_context : (evaluated spans lanes r).context = r.context := rfl
@[simp] theorem evaluated_outcome : (evaluated spans lanes r).outcome = r.outcome := rfl
@[simp] theorem evaluated_conditioning : (evaluated spans lanes r).conditioning = conditioned spans lanes r := rfl

/-- Conditioning does not depend on its former value. -/
@[simp] theorem conditioned_evaluated (spans' : Table 16 Span) (lanes' : LaneInterface) :
    conditioned spans lanes (evaluated spans' lanes' r) = conditioned spans lanes r := rfl

@[simp] theorem evaluated_evaluated (spans' : Table 16 Span) (lanes' : LaneInterface) :
    evaluated spans lanes (evaluated spans' lanes' r) = evaluated spans lanes r := rfl

end

end Sys2Proof.Machine
end

