-- ==== Sys2Proof/Laws/Frames.lean ====
section
/-! SUPPORT. What each shared operation leaves as it was: one frame lemma per operation, composed from those of the
operations it calls. -/

namespace Sys2Proof.Machine

/-! ### The frame relation -/

theorem Block.same_refl (b : Block) (s : State) : b.same s s := by
  cases b <;> simp [Block.same]

theorem Block.same_trans {b : Block} {s t u : State} (h : b.same s t) (k : b.same t u) : b.same s u := by
  cases b <;> simp_all [Block.same]

theorem Block.same_symm {b : Block} {s t : State} (h : b.same s t) : b.same t s := by
  cases b <;> simp_all [Block.same]

theorem SameBut.refl (l : List Block) (s : State) : SameBut l s s := fun b _ => b.same_refl s

theorem SameBut.trans {l : List Block} {s t u : State} (h : SameBut l s t) (k : SameBut l t u) : SameBut l s u :=
  fun b hb => Block.same_trans (h b hb) (k b hb)

/-- A frame that names more holdings says less. -/
theorem SameBut.mono {l m : List Block} {s t : State} (h : SameBut l s t) (hlm : ∀ b ∈ l, b ∈ m) : SameBut m s t :=
  fun b hb => h b fun hl => hb (hlm b hl)

theorem SameBut.of_forall {l : List Block} {s t : State} (h : ∀ b : Block, b ∈ l ∨ b.same s t) : SameBut l s t :=
  fun b hb => (h b).resolve_left hb

/-- Any number of steps of one frame. -/
theorem SameBut.foldl {α : Type} {l : List Block} {f : State → α → State} (h : ∀ s a, SameBut l s (f s a)) :
    ∀ (xs : List α) (s : State), SameBut l s (xs.foldl f s)
  | [], s => .refl l s
  | x :: xs, s => (h s x).trans (SameBut.foldl h xs (f s x))

theorem SameBut.iff_same {l : List Block} {s t : State} (h : SameBut l s t) (b : Block) (hb : b ∉ l) : b.same s t := h b hb

/-! ### Single writes -/

section
variable (s : State)

theorem setCircuits_frame (x : Table 512 Circuit) : SameBut [.circuits] s (s.setCircuits x) :=
  .of_forall fun b => by cases b <;> simp [Block.same]

theorem putCircuit_frame (c : CircuitNo) (r : Circuit) : SameBut [.circuits] s (s.putCircuit c r) := setCircuits_frame s _

theorem evaluateAll_frame : SameBut [.circuits] s s.evaluateAll := setCircuits_frame s _

theorem putContext_frame (c : CircuitNo) (x : Context) : SameBut [.circuits] s (s.putContext c x) := setCircuits_frame s _

theorem setSpan_frame (n : SpanNo) (x : Span) : SameBut [.spans] s (s.setSpan n x) :=
  .of_forall fun b => by cases b <;> simp [Block.same, State.setSpan]

theorem setUnit_frame (u : UnitNo) (x : Matcher) : SameBut [.matchers] s (s.setUnit u x) :=
  .of_forall fun b => by cases b <;> simp [Block.same, State.setUnit]

theorem setBatch_frame (i : Fin 8) (x : Option Batch) : SameBut [.batches] s (s.setBatch i x) :=
  .of_forall fun b => by cases b <;> simp [Block.same, State.setBatch]

theorem setWatches_frame (x : WatchUnit) : SameBut [.watches] s (s.setWatches x) :=
  .of_forall fun b => by cases b <;> simp [Block.same]

theorem setNode_frame (x : NodeParams) : SameBut [.node] s (s.setNode x) :=
  .of_forall fun b => by cases b <;> simp [Block.same]

theorem setPending_frame (x : List Instr) : SameBut [.pending] s (s.setPending x) :=
  .of_forall fun b => by cases b <;> simp [Block.same]

theorem drawn_frame : SameBut [.freeValues] s s.drawn :=
  .of_forall fun b => by cases b <;> simp [Block.same, State.drawn]

theorem setPort_frame (p : Port) (x : PortRecord) : SameBut [.ports] s (s.setPort p x) :=
  .of_forall fun b => by cases b <;> cases p <;> simp [Block.same, State.setPort, Links.setPort]

theorem setLane_frame (i : Lane) (x : LaneRecord) : SameBut [.laneRecords] s (s.setLane i x) :=
  .of_forall fun b => by cases b <;> cases i <;> simp [Block.same, State.setLane, LaneInterface.setLane]

theorem updateSlot_frame (n : SlotNo) (f : SlotRecognition → SlotRecognition) : SameBut [.slots] s (s.updateSlot n f) :=
  .of_forall fun b => by cases b <;> simp [Block.same, State.updateSlot]

theorem markCopper_frame (p : Option CopperPosition) (c : Option CircuitNo) :
    SameBut [.occupancy] s (s.markCopper p c) :=
  .of_forall fun b => by cases b <;> cases p <;> simp [Block.same, State.markCopper, State.setTimeslotOwner]

theorem markFibre_frame (n : Option SlotNo) (c : Option CircuitNo) : SameBut [.occupancy] s (s.markFibre n c) :=
  .of_forall fun b => by cases b <;> cases n <;> simp [Block.same, State.markFibre, State.setSlotOwner]

theorem fillRing_frame (c : CircuitNo) : SameBut [.rings] s (s.fillRing c) :=
  .of_forall fun b => by cases b <;> simp [Block.same, State.fillRing]

theorem setResponse_frame (c : CircuitNo) (t : Option Countdown) : SameBut [.responses] s (s.setResponse c t) :=
  .of_forall fun b => by cases b <;> simp [Block.same, State.setResponse]

theorem stopResponse_frame (c : CircuitNo) : SameBut [.responses] s (s.stopResponse c) := setResponse_frame s c none

theorem startResponse_frame (c : CircuitNo) : SameBut [.responses] s (s.startResponse c) := setResponse_frame s c _

theorem takeNumber_frame : SameBut [.proposals] s s.takeNumber :=
  .of_forall fun b => by cases b <;> simp [Block.same, State.takeNumber]

theorem joinQueue_frame (c : CircuitNo) (k : SearchKind) : SameBut [.matcherQueue] s (s.joinQueue c k) :=
  .of_forall fun b => by cases b <;> simp [Block.same, State.joinQueue]

theorem releaseMatcher_frame (c : CircuitNo) : SameBut [.matchers, .matcherQueue] s (s.releaseMatcher c) :=
  .of_forall fun b => by cases b <;> simp [Block.same, State.releaseMatcher]

theorem recordMiss_frame (code : TrunkCode) (source : MissSource) (asked : Byte) :
    SameBut [.misses] s (s.recordMiss code source asked) :=
  .of_forall fun b => by cases b <;> simp [Block.same, State.recordMiss]

theorem setWalk_frame (w : Walk) : SameBut [.walk] s (s.setWalk w) :=
  .of_forall fun b => by cases b <;> simp [Block.same, State.setWalk]

theorem setDiscards_frame (d : DiscardCounts) : SameBut [.peerCounts] s (s.setDiscards d) :=
  .of_forall fun b => by cases b <;> simp [Block.same, State.setDiscards]

theorem setCode_frame (c : CircuitNo) (code : Option TrunkCode) : SameBut [.circuits] s (s.setCode c code) :=
  putCircuit_frame s c _

/-! ### Reports, messages, watches -/

theorem handReport_frame (b : ReportBody) : SameBut [.reports] s (s.handReport b) :=
  .of_forall fun k => by cases k <;> simp only [Block.same, State.handReport] <;> split <;> simp

theorem queueMessage_frame (m : PeerMessage) : SameBut [.overhead] s (s.queueMessage m) :=
  .of_forall fun k => by cases k <;> simp only [Block.same, State.queueMessage] <;> split <;> simp

theorem sendFor_frame (c : CircuitNo) (m : TrunkCode → PeerMessage) : SameBut [.overhead] s (s.sendFor c m) := by
  unfold State.sendFor
  split
  · exact queueMessage_frame s _
  · exact .refl _ s

theorem sendDecline_frame (code : TrunkCode) (number : Byte) (reason : DeclineReason) :
    SameBut [.overhead, .peerCounts] s (s.sendDecline code number reason) :=
  .of_forall fun k => by cases k <;> simp only [Block.same, State.sendDecline, State.queueMessage] <;> split <;> simp

theorem watchEvent_frame (c : CircuitNo) (cls : EventClass) (o : Option OutcomeCode) :
    SameBut [.watches, .reports] s (s.watchEvent c cls o) := by
  unfold State.watchEvent
  simp only
  split
  · exact ((setWatches_frame s _).mono (by decide)).trans ((handReport_frame _ _).mono (by decide))
  · exact .refl _ s

/-! ### Starting a migration and the batches (R25, R157 to R163) -/

theorem sendPropose_frame (c : CircuitNo) (number : Byte) :
    SameBut [.overhead, .responses] s (s.sendPropose c number) := by
  unfold State.sendPropose
  split
  · exact ((sendFor_frame s c _).mono (by decide)).trans ((startResponse_frame _ c).mono (by decide))
  · exact .refl _ s

theorem startMigration_frame (c : CircuitNo) :
    SameBut [.circuits, .overhead, .responses, .proposals, .watches, .reports] s (s.startMigration c) :=
  ((((takeNumber_frame s).mono (by decide)).trans ((putCircuit_frame _ c _).mono (by decide))).trans
    ((sendPropose_frame _ c _).mono (by decide))).trans ((watchEvent_frame _ c _ _).mono (by decide))

theorem closeBatch_frame (id : Fin 8) (cause : BatchCause) :
    SameBut [.circuits, .batches, .reports] s (s.closeBatch id cause) := by
  unfold State.closeBatch
  split
  · exact (((handReport_frame s _).mono (by decide)).trans
      ((SameBut.foldl (fun s _ => putCircuit_frame s _ _) _ _).mono (by decide))).trans
      ((setBatch_frame _ id _).mono (by decide))
  · exact .refl _ s

/-- What a start step may change. -/
def startBlocks : List Block := [.circuits, .batches, .watches, .reports, .overhead, .proposals, .responses]

theorem startMember_frame (id : Fin 8) (p : StartProgress) (i : Nat) :
    SameBut startBlocks p.state (startMember id p i).state := by
  unfold startMember
  split
  · split
    · split
      · split
        · exact ((startMigration_frame _ _).mono (by decide)).trans ((setBatch_frame _ id _).mono (by decide))
        · exact (setBatch_frame _ id _).mono (by decide)
      · exact .refl _ _
    · exact .refl _ _
  · exact .refl _ _

theorem startMembers_frame (id : Fin 8) :
    ∀ (l : List Nat) (p : StartProgress), SameBut startBlocks p.state (l.foldl (startMember id) p).state
  | [], _ => .refl _ _
  | i :: l, p => (startMember_frame id p i).trans (startMembers_frame id l (startMember id p i))

theorem startStep_frame (id : Fin 8) : SameBut startBlocks s (s.startStep id).state := by
  unfold State.startStep
  split
  · simp only
    split
    · split
      · exact (startMembers_frame id _ ⟨s, 0, 0⟩).trans ((closeBatch_frame _ id _).mono (by decide))
      · exact startMembers_frame id _ ⟨s, 0, 0⟩
    · exact startMembers_frame id _ ⟨s, 0, 0⟩
  · exact .refl _ s

theorem openBatch_frame (id : Fin 8) (b : Batch) : SameBut startBlocks s (s.openBatch id b).state :=
  (((setBatch_frame s id _).mono (by decide)).trans
    ((SameBut.foldl (fun s _ => putCircuit_frame s _ _) _ _).mono (by decide))).trans (startStep_frame _ id)

theorem batchOutcome_frame (c : CircuitNo) (o : OutcomeRecord) : SameBut startBlocks s (s.batchOutcome c o) := by
  unfold State.batchOutcome
  repeat' split
  · exact ((setBatch_frame s _ _).mono (by decide)).trans (startStep_frame _ _)
  all_goals exact .refl _ s

/-! ### Outcomes (R19) -/

theorem watchOutcome_frame (c : CircuitNo) (code : OutcomeCode) :
    SameBut [.watches, .reports] s (s.watchOutcome c code) := by
  unfold State.watchOutcome
  split
  · exact watchEvent_frame s c _ _
  · exact .refl _ s

theorem reportOutcome_frame (c : CircuitNo) (o : OutcomeRecord) : SameBut [.reports] s (s.reportOutcome c o) := by
  unfold State.reportOutcome
  split
  · exact handReport_frame s _
  · exact .refl _ s

theorem handOutcome_frame (c : CircuitNo) (o : OutcomeRecord) : SameBut outcomeBlocks s (s.handOutcome c o) := by
  have hb : ∀ s : State, SameBut outcomeBlocks s (s.batchOutcome c o) := fun s => (batchOutcome_frame s c o).mono (by decide)
  have hw : ∀ s : State, SameBut outcomeBlocks s (s.watchOutcome c o.code) :=
    fun s => (watchOutcome_frame s c o.code).mono (by decide)
  have hr : ∀ s : State, SameBut outcomeBlocks s (s.reportOutcome c o) := fun s => (reportOutcome_frame s c o).mono (by decide)
  have hd : SameBut outcomeBlocks s s.drawn := (drawn_frame s).mono (by decide)
  unfold State.handOutcome
  split
  · exact ((hb _).trans (hw _)).trans (hr _)
  · simp only
    split
    · exact ((hd.trans (hb _)).trans (hw _)).trans (hr _)
    · exact ((hd.trans (hb _)).trans (hr _)).trans (hw _)
    · exact ((hd.trans (hw _)).trans (hb _)).trans (hr _)
    · exact ((hd.trans (hw _)).trans (hr _)).trans (hb _)
    · exact ((hd.trans (hr _)).trans (hb _)).trans (hw _)
    · exact ((hd.trans (hr _)).trans (hw _)).trans (hb _)

theorem writeOutcome_frame (c : CircuitNo) (o : OutcomeRecord) : SameBut outcomeBlocks s (s.writeOutcome c o) :=
  ((putCircuit_frame s c _).mono (by decide)).trans (handOutcome_frame _ c o)

end

end Sys2Proof.Machine
end

