-- ==== Sys2Proof/Laws/MigrationFrames.lean ====
section
/-! SUPPORT. What each transition of a circuit leaves as it was. -/

namespace Sys2Proof.Machine

section
variable (s : State)

theorem offset_frame (v : Int) (k : Bool) : SameBut [.freeValues] s (s.offset v k).1 := by
  unfold State.offset
  split
  · exact drawn_frame s
  · exact .refl _ s

theorem spliceOffset_frame (d : Int) : SameBut [.freeValues] s (s.spliceOffset d).1 := offset_frame s _ _

theorem revertOffset_frame (r : Circuit) : SameBut [.freeValues] s (s.revertOffset r).1 := by
  unfold State.revertOffset
  split
  · exact offset_frame s _ _
  · exact .refl _ s

theorem retireSpan_frame (n : SpanNo) : SameBut [.spans, .circuits, .reports] s (s.retireSpan n) :=
  (((setSpan_frame s n _).mono (by decide)).trans ((evaluateAll_frame _).mono (by decide))).trans
    ((handReport_frame _ _).mono (by decide))

theorem autoRetire_frame (n : SpanNo) : SameBut [.spans, .circuits, .reports] s (s.autoRetire n) := by
  unfold State.autoRetire
  split
  · exact retireSpan_frame s n
  · exact .refl _ s

theorem releaseFallback_frame (c : CircuitNo) (reason : Reason) :
    SameBut releaseBlocks s (s.releaseFallback c reason) := by
  have h : SameBut releaseBlocks s (((s.markCopper (s.circuit c).copper none).putCircuit c
      { s.circuit c with copper := none, copperTransmit := false, context := none })) :=
    ((markCopper_frame s _ _).mono (by decide)).trans ((putCircuit_frame _ c _).mono (by decide))
  unfold State.releaseFallback
  simp only
  have h2 := fun o => h.trans ((writeOutcome_frame _ c o).mono (by decide))
  have h3 : ∀ t : State, SameBut releaseBlocks s t →
      SameBut releaseBlocks s (if reason = .peerReleased then t else t.sendFor c .release) := by
    intro t ht
    split
    · exact ht
    · exact ht.trans ((sendFor_frame t c _).mono (by decide))
  split
  · exact (h3 _ (h2 _)).trans ((autoRetire_frame _ _).mono (by decide))
  · exact h3 _ (h2 _)

theorem releaseTest_frame (c : CircuitNo) : SameBut releaseBlocks s (s.releaseTest c) := by
  unfold State.releaseTest
  split
  · exact releaseFallback_frame s c _
  · exact .refl _ s

theorem collapseTest_frame (c : CircuitNo) : SameBut outcomeBlocks s (s.collapseTest c) := by
  unfold State.collapseTest
  simp only
  split
  · exact ((putCircuit_frame s c _).mono (by decide)).trans (writeOutcome_frame _ c _)
  · exact .refl _ s

theorem splice_frame (c : CircuitNo) (code : OutcomeCode) (b : Nat) (d : Option Int) (j : Option SampleOffset) :
    SameBut releaseBlocks s (s.splice c code b d j) := by
  unfold State.splice
  simp only
  split
  · exact (((((releaseMatcher_frame s c).mono (by decide)).trans ((putCircuit_frame _ c _).mono (by decide))).trans
      ((sendFor_frame _ c _).mono (by decide))).trans ((writeOutcome_frame _ c _).mono (by decide))).trans
      ((releaseTest_frame _ c).trans ((collapseTest_frame _ c).mono (by decide)))
  · exact .refl _ s

theorem spliceSilent_frame (c : CircuitNo) : SameBut releaseBlocks s (s.spliceSilent c) := splice_frame s c _ _ _ _

theorem spliceAligned_frame (c : CircuitNo) (code : OutcomeCode) : SameBut releaseBlocks s (s.spliceAligned c code) := by
  unfold State.spliceAligned
  split
  · exact ((spliceOffset_frame s _).mono (by decide)).trans (splice_frame _ c _ _ _ _)
  · exact splice_frame s c _ _ _ _

theorem rescue_frame (c : CircuitNo) (handed : DelayRecord) : SameBut releaseBlocks s (s.rescue c handed) :=
  splice_frame s c _ _ _ _

theorem abandon_frame (c : CircuitNo) (reason : Reason) (decline : Option DeclineReason) :
    SameBut turnBlocks s (s.abandon c reason decline) := by
  have h : ∀ r o, SameBut turnBlocks s ((((s.stopResponse c).releaseMatcher c).putCircuit c r).writeOutcome c o) :=
    fun r o => ((((stopResponse_frame s c).mono (by decide)).trans ((releaseMatcher_frame _ c).mono (by decide))).trans
      ((putCircuit_frame _ c r).mono (by decide))).trans ((writeOutcome_frame _ c o).mono (by decide))
  unfold State.abandon
  simp only
  split
  · exact (h _ _).trans ((sendFor_frame _ c _).mono (by decide))
  · exact h _ _

theorem consumeAttempt_frame (c : CircuitNo) (reason : Reason) (goOn : State → State) (l : List Block)
    (hl : ∀ b ∈ turnBlocks, b ∈ l) (hg : ∀ t, SameBut l t (goOn t)) : SameBut l s (s.consumeAttempt c reason goOn) := by
  have hc : Block.circuits ∈ l := hl _ (by decide)
  unfold State.consumeAttempt
  split
  · split
    · exact (abandon_frame s c _ _).mono hl
    · exact ((putContext_frame s c _).mono (by simpa using hc)).trans (hg _)
  · exact .refl _ s

theorem revertCircuit_frame (c : CircuitNo) (reason : Reason) : SameBut outcomeBlocks s (s.revertCircuit c reason) := by
  have h : ∀ r o, SameBut outcomeBlocks s (((s.revertOffset (s.circuit c)).1.putCircuit c r).writeOutcome c o) :=
    fun r o => (((revertOffset_frame s _).mono (by decide)).trans ((putCircuit_frame _ c r).mono (by decide))).trans
      (writeOutcome_frame _ c o)
  unfold State.revertCircuit
  simp only
  split
  · exact (h _ _).trans ((sendFor_frame _ c _).mono (by decide))
  · exact h _ _

theorem enterMeasuring_frame (c : CircuitNo) (sub : SubStatus) : SameBut [.circuits] s (s.enterMeasuring c sub) := by
  unfold State.enterMeasuring
  split
  · exact putCircuit_frame s c _
  · exact .refl _ s

theorem queueForMatch_frame (c : CircuitNo) (x : Context) :
    SameBut [.circuits, .matcherQueue] s (s.queueForMatch c x) :=
  ((putContext_frame s c _).mono (by decide)).trans ((joinQueue_frame _ c _).mono (by decide))

theorem bridgeWaitTest_frame (c : CircuitNo) : SameBut releaseBlocks s (s.bridgeWaitTest c) := by
  unfold State.bridgeWaitTest
  repeat' split
  · exact rescue_frame s c _
  · exact spliceSilent_frame s c
  · exact (queueForMatch_frame s c _).mono (by decide)
  all_goals exact .refl _ s

theorem enterBridgeWait_frame (c : CircuitNo) : SameBut releaseBlocks s (s.enterBridgeWait c) :=
  ((enterMeasuring_frame s c _).mono (by decide)).trans (bridgeWaitTest_frame _ c)

theorem requeueFull_frame (c : CircuitNo) : SameBut [.circuits, .matcherQueue] s (s.requeueFull c) := by
  unfold State.requeueFull
  split
  · exact (((putContext_frame s c _).mono (by decide)).trans ((enterMeasuring_frame _ c _).mono (by decide))).trans
      ((joinQueue_frame _ c _).mono (by decide))
  · exact .refl _ s

theorem alignedEvaluation_frame (c : CircuitNo) : SameBut turnBlocks s (s.alignedEvaluation c) := by
  unfold State.alignedEvaluation
  split
  · split
    · exact (putContext_frame s c _).mono (by decide)
    · split
      · simp only
        split
        · exact ((putContext_frame s c _).mono (by decide)).trans (abandon_frame _ c _ _)
        · exact (putContext_frame s c _).mono (by decide)
      · exact (putContext_frame s c _).mono (by decide)
  · exact .refl _ s

theorem enterAligned_frame (c : CircuitNo) (d : Int) : SameBut turnBlocks s (s.enterAligned c d) := by
  unfold State.enterAligned
  split
  · exact (((putCircuit_frame s c _).mono (by decide)).trans ((watchEvent_frame _ c _ _).mono (by decide))).trans
      (alignedEvaluation_frame _ c)
  · exact .refl _ s

theorem takeSlippedDelta_frame (c : CircuitNo) (d : Int) : SameBut turnBlocks s (s.takeSlippedDelta c d) := by
  unfold State.takeSlippedDelta
  split
  · split
    · exact ((putCircuit_frame s c _).mono (by decide)).trans (alignedEvaluation_frame _ c)
    · exact ((putContext_frame s c _).mono (by decide)).trans
        (consumeAttempt_frame _ c _ _ _ (fun _ h => h) fun t => (requeueFull_frame t c).mono (by decide))
  · exact .refl _ s

theorem becameIdle_frame (c : CircuitNo) : SameBut releaseBlocks s (s.becameIdle c) := by
  unfold State.becameIdle
  split
  · exact bridgeWaitTest_frame s c
  · split
    · split
      · exact spliceAligned_frame s c _
      · exact enterBridgeWait_frame s c
    · exact .refl _ s
  · exact (collapseTest_frame s c).mono (by decide)
  · exact .refl _ s

theorem becameBusy_frame (c : CircuitNo) : SameBut turnBlocks s (s.becameBusy c) := by
  unfold State.becameBusy
  split
  · exact alignedEvaluation_frame s c
  · exact .refl _ s

theorem inputChanged_frame (c : CircuitNo) (wasBusy : Bool) : SameBut releaseBlocks s (s.inputChanged c wasBusy) := by
  have line : SameBut releaseBlocks s (if lineWatched (s.circuit c).state then s.watchEvent c .line none else s) := by
    split
    · exact (watchEvent_frame s c _ _).mono (by decide)
    · exact .refl _ s
  have result : ∀ t, SameBut releaseBlocks s t → SameBut releaseBlocks s
      (if wasBusy ∧ t.busy c = false then t.becameIdle c
        else if wasBusy = false ∧ t.busy c = true then t.becameBusy c else t) := by
    intro t h
    split
    · exact h.trans (becameIdle_frame t c)
    · split
      · exact h.trans ((becameBusy_frame t c).mono (by decide))
      · exact h
  exact result _ line

theorem spanLostFor_frame (handed : DelayRecord) (c : CircuitNo) :
    SameBut releaseBlocks s (State.spanLostFor handed s c) := by
  unfold State.spanLostFor
  repeat' split
  · exact .refl _ s
  · exact rescue_frame s c _
  · exact ((releaseMatcher_frame s c).mono (by decide)).trans ((putContext_frame _ c _).mono (by decide))
  · exact .refl _ s
  · exact .refl _ s

theorem spanLost_frame (n : SpanNo) (handed : DelayRecord) : SameBut releaseBlocks s (s.spanLost n handed) :=
  ((evaluateAll_frame s).mono (by decide)).trans (SameBut.foldl (fun t c => spanLostFor_frame t handed c) _ _)

theorem fibreLostFor_frame (c : CircuitNo) : SameBut turnBlocks s (s.fibreLostFor c) := by
  unfold State.fibreLostFor
  split
  · exact abandon_frame s c _ _
  · split
    · exact (revertCircuit_frame s c _).mono (by decide)
    · exact .refl _ s

theorem fibreLost_frame : SameBut turnBlocks s s.fibreLost :=
  ((evaluateAll_frame s).mono (by decide)).trans (SameBut.foldl fibreLostFor_frame _ _)

theorem abandonAll_frame : SameBut turnBlocks s s.abandonAll := by
  refine SameBut.foldl (fun t c => ?_) _ _
  unfold State.linkLostFor
  split
  · exact abandon_frame t c _ _
  · exact .refl _ t

theorem requeueAligned_frame : SameBut [.circuits, .matcherQueue] s s.requeueAligned := by
  refine SameBut.foldl (fun t c => ?_) _ _
  unfold State.requeueFor
  split
  · exact requeueFull_frame t c
  · exact .refl _ t

end

end Sys2Proof.Machine
end

