-- ==== Sys2Proof/Laws/Commands.lean ====
section
/-! SUPPORT. How a port takes a command and answers it: what `runCommand` comes to, once for all commands (R178). -/

namespace Sys2Proof.Machine

variable {s t : State} {port : Port} {c : Instr} {q : QueuedCommand} {rest : List QueuedCommand}

theorem takeHead_frame (s : State) (port : Port) (q : QueuedCommand) (rest : List QueuedCommand) :
    SameBut [.ports] s (s.takeHead port q rest) := setPort_frame s port _

theorem otherPort_ne (p : Port) : otherPort p ≠ p := by cases p <;> decide

@[simp] theorem takeHead_port (s : State) (port : Port) (q : QueuedCommand) (rest : List QueuedCommand) :
    (s.takeHead port q rest).port port = { s.port port with input := rest, slot := some ⟨.taken, q.tag, q.type⟩ } := by
  simp [State.takeHead]

@[simp] theorem takeHead_otherPort (s : State) (port : Port) (q : QueuedCommand) (rest : List QueuedCommand) :
    (s.takeHead port q rest).port (otherPort port) = s.port (otherPort port) := by
  simp [State.takeHead, (otherPort_ne port).symm]

/-- Two states agree on their ports when a frame does not name them. -/
theorem SameBut.samePort {l : List Block} (h : SameBut l s t) (hp : Block.ports ∉ l) (p : Port) : t.port p = s.port p := by
  have := h .ports hp
  cases p <;> simp_all [Block.same, State.port, Links.port]

/-- A command taken at the head of its port, once its class is allowed. -/
theorem runCommand_taken (rule : State → Handled) (h : Heads s port c q rest) (hauth : lacksAuthority port q.type = false) :
    runCommand c port rule s = .next ((rule (s.takeHead port q rest)).finish port) := by
  have hm : s.mayTake port = true := by simp [State.mayTake, h.running, h.free]
  simp [runCommand, h.head, h.spells, hm, hauth]

/-- A queued command that spells `c` is the frame of `c` up to its body: its port, its tag and its type. -/
theorem parseCommand_head {port : Port} {q : QueuedCommand} {c : Instr} (h : parseCommand port q = some c) :
    (commandFrame c).map (fun x => (x.1, x.2.tag, x.2.type)) = some (port, q.tag, q.type) := by
  obtain ⟨tag, type, body⟩ := q
  unfold parseCommand at h
  split at h
  all_goals first
    | contradiction
    | (rename_i ht
       have e : type = BitVec.ofNat 8 type.toNat := by simp
       rw [show type.toNat = _ from ht] at e
       subst e
       simp only [readAttach, readDetach, readCircuitOnly, readSetCircuit, readQueryCircuit, readSelectorOnly, readSetNode,
        readQueryAlignment, readSetSpan, readByteOnly, readNothing, readSetFrameClock, readFlagOnly, readAddTrunk, readAddRange,
        readCodeOnly, readLookup, readOpenBatch, readSetWatch, readExchange] at h
       repeat' split at h
       all_goals first
         | contradiction
         | (cases h; rfl)
         | (obtain ⟨_, _, rfl⟩ := Option.map_eq_some_iff.mp h; rfl))

/-- A command whose class is not PROVISION is allowed on both ports. -/
theorem Heads.authority (h : Heads s port c q rest)
    (hc : ((commandFrame c).bind fun x => commandClass x.2.type) ≠ some .provision) : lacksAuthority port q.type = false := by
  have hh := parseCommand_head h.spells
  cases hf : commandFrame c with
  | none => simp [hf] at hh
  | some x =>
    simp only [hf, Option.map_some, Option.some.injEq, Prod.mk.injEq] at hh
    simp only [hf, Option.bind_some, hh.2.2] at hc
    simp [lacksAuthority, hc]

/-- The primary port allows every class. -/
theorem Takes.authority (h : Takes s port c q rest) : lacksAuthority port q.type = false := by
  simp [lacksAuthority, h.allowed]

/-- A rule that answers without touching the ports: the command's whole step. -/
theorem runCommand_answered {rule : State → Handled} {l : List Block} {result : ResultCode} {body : ReplyBody}
    (h : Heads s port c q rest) (hauth : lacksAuthority port q.type = false)
    (hr : rule (s.takeHead port q rest) = answered t result body) (hf : SameBut l (s.takeHead port q rest) t)
    (hp : Block.ports ∉ l) :
    runCommand c port rule s = .next (t.setPort port ((s.port port).answeredWith q rest result body)) := by
  rw [runCommand_taken rule h hauth, hr]
  have ht : t.port port = { s.port port with input := rest, slot := some ⟨.taken, q.tag, q.type⟩ } := by
    rw [hf.samePort hp]; simp
  simp [Handled.finish, answered, State.reply, ht, PortRecord.answeredWith]

/-- The step of a command whose rule answers: the reply, the frame and the effect. -/
theorem completes_of_rule {rule : State → Handled} {l : List Block} {result : ResultCode} {body : ReplyBody}
    {effect : State → Prop} (he : exec c s = runCommand c port rule s) (h : Heads s port c q rest)
    (hauth : lacksAuthority port q.type = false)
    (hr : rule (s.takeHead port q rest) = answered t result body) (hf : SameBut l (s.takeHead port q rest) t)
    (hp : Block.ports ∉ l) (heff : ∀ u, SameBut [.ports] t u → effect u) :
    Completes s c port q rest result body l effect := by
  refine ⟨t.setPort port ((s.port port).answeredWith q rest result body), ?_, ⟨?_, ?_⟩, ?_, heff _ (setPort_frame t port _)⟩
  · rw [he, runCommand_answered h hauth hr hf hp]
  · simp
  · rw [State.setPort_port_ne _ _ (otherPort_ne port).symm, hf.samePort hp, takeHead_otherPort]
  · exact ((takeHead_frame s port q rest).mono (by simp)).trans
      ((hf.mono (by intro b hb; exact List.mem_cons_of_mem _ hb)).trans ((setPort_frame t port _).mono (by simp)))

/-- The step of a command whose rule refuses it and leaves the state as it was. -/
theorem refuses_of_rule {rule : State → Handled} {result : ResultCode} {body : ReplyBody}
    (he : exec c s = runCommand c port rule s) (h : Heads s port c q rest) (hauth : lacksAuthority port q.type = false)
    (hr : rule (s.takeHead port q rest) = answered (s.takeHead port q rest) result body) :
    exec c s = .next (s.answerHead port q rest result body) := by
  rw [he, runCommand_answered h hauth hr (.refl [] _) (by simp)]
  cases port <;> rfl

end Sys2Proof.Machine
end

