-- ==== Sys2Proof/Laws/Queues.lean ====
section
/-! SUPPORT. Reports, messages and watch events, handed one after another: what they rest on, what they leave, and how they
compose (R111, R167, R181). -/

namespace Sys2Proof.Machine

variable {s t u : State}

/-! ### Fields that a frame leaves -/

theorem SameBut.sameSpans {l : List Block} (h : SameBut l s t) (hb : Block.spans ∉ l) : t.spans = s.spans := h _ hb

theorem SameBut.sameCircuits {l : List Block} (h : SameBut l s t) (hb : Block.circuits ∉ l) : t.circuits = s.circuits := h _ hb

theorem SameBut.sameCircuit {l : List Block} (h : SameBut l s t) (hb : Block.circuits ∉ l) (c : CircuitNo) :
    t.circuit c = s.circuit c := by simp [State.circuit, h.sameCircuits hb]

theorem SameBut.sameNode {l : List Block} (h : SameBut l s t) (hb : Block.node ∉ l) : t.node = s.node := h _ hb

theorem SameBut.sameBatch {l : List Block} (h : SameBut l s t) (hb : Block.batches ∉ l) (i : Fin 8) : t.batch i = s.batch i := by
  have : t.batches = s.batches := h _ hb
  simp [State.batch, this]

theorem SameBut.sameClock {l : List Block} (h : SameBut l s t) (hb : Block.clock ∉ l) : t.fc = s.fc := h _ hb

theorem SameBut.sameResponse {l : List Block} (h : SameBut l s t) (hb : Block.responses ∉ l) : t.peer.response = s.peer.response := h _ hb

theorem SameBut.sameCounter {l : List Block} (h : SameBut l s t) (hb : Block.proposals ∉ l) : t.peer.counter = s.peer.counter := h _ hb

theorem SameBut.sameWatches {l : List Block} (h : SameBut l s t) (hb : Block.watches ∉ l) : t.watches = s.watches := h _ hb

theorem SameBut.sameLink {l : List Block} (h : SameBut l s t) (hb : Block.link ∉ l) : t.peer.state = s.peer.state := (h _ hb).1

theorem SameBut.sameQueue {l : List Block} (h : SameBut l s t) (hb : Block.matcherQueue ∉ l) : t.align.queue = s.align.queue := h _ hb

theorem SameBut.sameUnit {l : List Block} (h : SameBut l s t) (hb : Block.matchers ∉ l) (v : UnitNo) : t.unit v = s.unit v := by
  have : t.align.units = s.align.units := h _ hb
  simp [State.unit, this]

theorem SameBut.sameSpan {l : List Block} (h : SameBut l s t) (hb : Block.spans ∉ l) (n : SpanNo) : t.span n = s.span n := by
  simp [State.span, h.sameSpans hb]

theorem SameBut.sameOwner {l : List Block} (h : SameBut l s t) (hb : Block.occupancy ∉ l) :
    t.timeslots = s.timeslots ∧ t.slotOwners = s.slotOwners := h _ hb

/-- Conditioning rests on the spans' states and the lanes' states alone (R17). -/
theorem SameBut.evaluated_eq {l : List Block} (h : SameBut l s t) (hs : Block.spans ∉ l) (hl : Block.laneRecords ∉ l)
    (r : Circuit) : evaluated t.spans t.lanes r = evaluated s.spans s.lanes r := by
  have h1 := h.sameSpans hs
  have h2 : t.lanes.a = s.lanes.a ∧ t.lanes.b = s.lanes.b := h _ hl
  simp [evaluated, conditioned, LaneInterface.anyUp, h1, h2.1, h2.2]

/-- A circuit's write, at every circuit. -/
theorem putCircuit_circuit (s : State) (c d : CircuitNo) (r : Circuit) :
    (s.putCircuit c r).circuit d = if c = d then evaluated s.spans s.lanes r else s.circuit d := by
  split
  · subst_vars; simp
  · simp_all

/-! ### Reports -/

/-- Handing a report rests on the report queue and FC alone. -/
theorem handReport_congr (b : ReportBody) (h : Block.reports.same s t) (hc : t.fc = s.fc) :
    Block.reports.same (s.handReport b) (t.handReport b) := by
  obtain ⟨h1, h2, h3⟩ := h
  simp only [Block.same, State.handReport, h1, h2, h3, hc]
  split <;> simp

theorem handReports_congr (bodies : List ReportBody) (h : Block.reports.same s t) (hc : t.fc = s.fc) :
    Block.reports.same (bodies.foldl State.handReport s) (bodies.foldl State.handReport t) := by
  induction bodies generalizing s t with
  | nil => exact h
  | cons b bs ih =>
    refine ih (handReport_congr b h hc) ?_
    rw [(handReport_frame t b).sameClock (by simp), (handReport_frame s b).sameClock (by simp), hc]

theorem handReports_frame (bodies : List ReportBody) (s : State) : SameBut [.reports] s (bodies.foldl State.handReport s) :=
  SameBut.foldl (fun s b => handReport_frame s b) bodies s

/-- Reports handed in two runs, whatever else happened that is not to them or to FC. -/
theorem Reported.trans {a b : List ReportBody} (h : Reported a s t) (k : Reported b t u) (hc : t.fc = s.fc) :
    Reported (a ++ b) s u := by
  unfold Reported at *
  rw [List.foldl_append]
  refine Block.same_trans (handReports_congr b h ?_) k
  rw [hc, (handReports_frame a s).sameClock (by simp)]

theorem Reported.refl (s : State) : Reported [] s s := Block.same_refl _ s

/-- Nothing is reported where a frame does not name the reports. -/
theorem SameBut.reported {l : List Block} (h : SameBut l s t) (hb : Block.reports ∉ l) : Reported [] s t := h _ hb

theorem handReport_reported (s : State) (b : ReportBody) : Reported [b] s (s.handReport b) := Block.same_refl _ _

/-- A watch event hands at most one report. -/
theorem watchEvent_reported (s : State) (c : CircuitNo) (cls : EventClass) (o : Option OutcomeCode) :
    ∃ bodies, Reported bodies s (s.watchEvent c cls o) := by
  unfold State.watchEvent
  simp only
  split
  · exact ⟨[_], Reported.trans (SameBut.reported (setWatches_frame s _) (by simp)) (handReport_reported _ _) rfl⟩
  · exact ⟨[], .refl s⟩

/-! ### Messages -/

theorem queueMessage_congr (m : PeerMessage) (h : Block.overhead.same s t) :
    Block.overhead.same (s.queueMessage m) (t.queueMessage m) := by
  obtain ⟨h1, h2⟩ := h
  simp only [Block.same, State.queueMessage, h1, h2]
  split <;> simp

theorem queueMessages_congr (ms : List PeerMessage) (h : Block.overhead.same s t) :
    Block.overhead.same (ms.foldl State.queueMessage s) (ms.foldl State.queueMessage t) := by
  induction ms generalizing s t with
  | nil => exact h
  | cons m ms ih => exact ih (queueMessage_congr m h)

/-- Messages handed in two runs. -/
theorem Sent.trans {a b : List PeerMessage} (h : Sent a s t) (k : Sent b t u) : Sent (a ++ b) s u := by
  unfold Sent at *
  rw [List.foldl_append]
  exact Block.same_trans (queueMessages_congr b h) k

theorem Sent.refl (s : State) : Sent [] s s := Block.same_refl _ s

theorem SameBut.sentNone {l : List Block} (h : SameBut l s t) (hb : Block.overhead ∉ l) : Sent [] s t := h _ hb

theorem queueMessage_sent (s : State) (m : PeerMessage) : Sent [m] s (s.queueMessage m) := Block.same_refl _ _

theorem sendFor_sent (s : State) (c : CircuitNo) (m : TrunkCode → PeerMessage) :
    Sent ((s.circuit c).messages m) s (s.sendFor c m) := by
  unfold State.sendFor Circuit.messages
  cases h : (s.circuit c).code with
  | none => exact .refl s
  | some code => exact queueMessage_sent s _

/-! ### Watch events -/

theorem watchEvent_congr (c : CircuitNo) (cls : EventClass) (o : Option OutcomeCode) (hw : Block.watches.same s t)
    (hr : Block.reports.same s t) (hc : t.fc = s.fc) :
    Block.watches.same (s.watchEvent c cls o) (t.watchEvent c cls o) ∧
    Block.reports.same (s.watchEvent c cls o) (t.watchEvent c cls o) := by
  have hw' : t.watches = s.watches := hw
  unfold State.watchEvent
  simp only [hw', hc]
  split
  · constructor
    · change (State.handReport _ _).watches = (State.handReport _ _).watches
      rw [(handReport_frame _ _).sameWatches (by simp), (handReport_frame _ _).sameWatches (by simp)]
      simp
    · refine handReport_congr _ ?_ hc
      simpa [Block.same] using hr
  · exact ⟨hw, hr⟩

/-- R166, R167: what an event leaves of the watches. -/
theorem watchEvent_watches (s : State) (c : CircuitNo) (cls : EventClass) (o : Option OutcomeCode) :
    (s.watchEvent c cls o).watches = s.watches.afterEvent s.fc c cls := by
  unfold State.watchEvent WatchUnit.afterEvent
  simp only
  split
  · rw [(handReport_frame _ _).sameWatches (by simp)]
    rfl
  next h => simp_all

theorem Witnessed.trans {a b : List (CircuitNo × EventClass)} (h : Witnessed a s t) (k : Witnessed b t u) (hc : t.fc = s.fc) :
    Witnessed (a ++ b) s u := by
  unfold Witnessed at *
  rw [k, h, hc, List.foldl_append]

theorem SameBut.witnessed {l : List Block} (h : SameBut l s t) (hb : Block.watches ∉ l) : Witnessed [] s t := h.sameWatches hb

theorem watchEvent_witnessed (s : State) (c : CircuitNo) (cls : EventClass) (o : Option OutcomeCode) :
    Witnessed [(c, cls)] s (s.watchEvent c cls o) := watchEvent_watches s c cls o

/-- The events of a start step's starts. -/
theorem watchEvents_witnessed (l : List CircuitNo) (cls : EventClass) (s : State) :
    Witnessed (l.map fun c => (c, cls)) s (l.foldl (fun u c => u.watchEvent c cls none) s) := by
  induction l generalizing s with
  | nil => exact Eq.refl _
  | cons c l ih =>
    exact (watchEvent_witnessed s c cls none).trans (ih _) ((watchEvent_frame s c cls none).sameClock (by simp))

theorem Witnessed.taken {c : CircuitNo} {classes : List EventClass} (h : Witnessed (classes.map fun cls => (c, cls)) s t)
    (hn : .migrateStart ∉ classes) (started : List CircuitNo) : EventsTaken c classes started s t := by
  refine ⟨_, h, ?_, fun e he hm => ?_⟩
  · rw [List.filter_eq_self]
    intro e he
    obtain ⟨cls, hcls, rfl⟩ := List.mem_map.mp he
    simp only [ne_eq, decide_eq_true_eq]
    rintro rfl
    exact hn hcls
  · obtain ⟨cls, hcls, rfl⟩ := List.mem_map.mp he
    exact absurd (hm ▸ hcls) hn

theorem EventsTaken.none (c : CircuitNo) (started : List CircuitNo) (h : t.watches = s.watches) : EventsTaken c [] started s t :=
  Witnessed.taken (classes := []) h (by simp) started

theorem EventsTaken.trans {c : CircuitNo} {a b : List EventClass} {k l : List CircuitNo} (h : EventsTaken c a k s t)
    (g : EventsTaken c b l t u) (hl : ∀ d ∈ l, d ∈ k) (hc : t.fc = s.fc) : EventsTaken c (a ++ b) k s u := by
  obtain ⟨x, h1, h2, h3⟩ := h
  obtain ⟨y, g1, g2, g3⟩ := g
  refine ⟨x ++ y, h1.trans g1 hc, ?_, fun e he hm => ?_⟩
  · rw [List.filter_append, h2, g2, List.map_append]
  · rcases List.mem_append.mp he with he | he
    · exact h3 e he hm
    · exact hl _ (g3 e he hm)

theorem EventsTaken.mono {c : CircuitNo} {a : List EventClass} {k l : List CircuitNo} (h : EventsTaken c a k s t) (hl : ∀ d ∈ k, d ∈ l) :
    EventsTaken c a l s t := by
  obtain ⟨x, h1, h2, h3⟩ := h
  exact ⟨x, h1, h2, fun e he hm => hl _ (h3 e he hm)⟩

/-- Where nothing is started, the events are those of the circuit alone. -/
theorem EventsTaken.alone {c : CircuitNo} {a : List EventClass} (h : EventsTaken c a [] s t) :
    Witnessed (a.map fun cls => (c, cls)) s t := by
  obtain ⟨x, h1, h2, h3⟩ := h
  have : x.filter (fun e => e.2 ≠ .migrateStart) = x := by
    rw [List.filter_eq_self]
    intro e he
    simp only [ne_eq, decide_eq_true_eq]
    exact fun hm => absurd (h3 e he hm) (by simp)
  rw [← h2, this]
  exact h1

end Sys2Proof.Machine
end

