-- ==== Sys2Proof/Laws/Batches.lean ====
section
/-! SUPPORT. What the closing of a batch and a start step can do, said once (R159, R162). -/

namespace Sys2Proof.Machine

variable {s t : State}

/-! ### Closing (R162) -/

/-- A membership written into the records of a list of members. -/
theorem writeMembers (l : List Member) (f : Option (Fin 8)) (s : State) :
    let t := l.foldl (fun s m => s.putCircuit m.circuit { s.circuit m.circuit with batch := f }) s
    (∀ c, c ∈ l.map Member.circuit → t.circuit c = evaluated s.spans s.lanes { s.circuit c with batch := f }) ∧
    (∀ c, c ∉ l.map Member.circuit → t.circuit c = s.circuit c) ∧ SameBut [.circuits] s t := by
  induction l generalizing s with
  | nil => simpa using SameBut.refl _ s
  | cons m l ih =>
    obtain ⟨h1, h2, h3⟩ := ih (s.putCircuit m.circuit { s.circuit m.circuit with batch := f })
    refine ⟨?_, ?_, (putCircuit_frame s _ _).trans h3⟩
    · intro c hc
      by_cases hl : c ∈ l.map Member.circuit
      · rw [List.foldl_cons, h1 c hl, putCircuit_circuit]
        split
        · subst_vars; rfl
        · rfl
      · rw [List.foldl_cons, h2 c hl, putCircuit_circuit]
        have : m.circuit = c := by simp at hc hl; tauto
        simp [this]
    · intro c hc
      simp only [List.map_cons, List.mem_cons, not_or] at hc
      rw [List.foldl_cons, h2 c hc.2, putCircuit_circuit, if_neg (Ne.symm hc.1)]

/-- The closing step of an open batch. -/
theorem closeBatch_spec {id : Fin 8} {b : Batch} (cause : BatchCause) (h : s.batch id = some b) :
    BatchClosed id b cause s (s.closeBatch id cause) := by
  obtain ⟨h1, h2, h3⟩ := writeMembers b.members none (s.handReport (.batch id b.mode cause b.summary b.failedMembers))
  have hf := closeBatch_frame s id cause
  have hr := handReport_frame s (.batch id b.mode cause b.summary b.failedMembers)
  simp only [State.closeBatch, h] at hf ⊢
  refine ⟨⟨by simp, fun i hi => ?_⟩, fun c hc => ?_, fun c hc => ?_, ?_, hf⟩
  · rw [State.setBatch_batch_ne _ _ (Ne.symm hi), h3.sameBatch (by simp), hr.sameBatch (by simp)]
  · rw [hf.evaluated_eq (by simp) (by simp)]
    rw [(setBatch_frame _ _ _).sameCircuit (by simp), h1 c hc, hr.evaluated_eq (by simp) (by simp), hr.sameCircuit (by simp)]
  · rw [(setBatch_frame _ _ _).sameCircuit (by simp), h2 c hc, hr.sameCircuit (by simp)]
  · exact h3 .reports (by simp)

/-! ### Starting the members that the limit lets start (R159) -/

/-- R25's refusal rests on the circuit's record and the link alone. -/
theorem migrateRefusal_congr {c : CircuitNo} (h : t.circuit c = s.circuit c) (hl : t.peer.state = s.peer.state) :
    t.migrateRefusal c = s.migrateRefusal c := by
  simp [State.migrateRefusal, h, hl]

/-- What MIGRATE's checks 4 to 6 say of a circuit that passes them. -/
theorem startable_iff {c : CircuitNo} : s.startable c = true ↔
    ((s.circuit c).state = .copper ∧ (s.circuit c).fibre ≠ none) ∧ (s.circuit c).code ≠ none ∧
      (s.circuit c).inhibit = false ∧ s.peer.state = .up := by
  unfold State.startable State.migrateRefusal
  simp only
  split
  · rename_i h; simp only [Option.isNone_some]; tauto
  · split
    · simp_all
    · split
      · simp_all
      · split <;> simp_all

/-- R25: the start of a migration. -/
theorem startMigration_spec {c : CircuitNo} {code : TrunkCode} {slot : SlotNo} (hc : (s.circuit c).code = some code)
    (hf : (s.circuit c).fibre = some slot) : MigrationStarted c code slot s (s.startMigration c) := by
  have hfr := startMigration_frame s c
  set m := s.takeNumber.putCircuit c { s.circuit c with
    state := .proposing, buildOut := 0, context := some (newContext s.takeNumber.node .initiator s.peer.counter) } with hm
  have hmc : (m.circuit c).code = some code ∧ (m.circuit c).fibre = some slot := by simp [hm, hc, hf]
  have e : s.startMigration c =
      ((m.queueMessage (.propose code slot s.peer.counter)).startResponse c).watchEvent c .migrateStart none := by
    simp only [State.startMigration, State.sendPropose, ← hm, hmc.2, State.sendFor, hmc.1]
  set q := m.queueMessage (.propose code slot s.peer.counter) with hq
  set r := q.startResponse c with hr
  have f1 : SameBut [.circuits, .proposals] s m :=
    ((takeNumber_frame s).mono (by simp)).trans ((putCircuit_frame _ c _).mono (by simp))
  have f2 : SameBut [.overhead] m q := queueMessage_frame m _
  have f3 : SameBut [.responses] q r := startResponse_frame q c
  have f4 : SameBut [.watches, .reports] r (s.startMigration c) := by rw [e]; exact watchEvent_frame r c _ _
  have fsr : SameBut [.circuits, .proposals, .overhead, .responses] s r :=
    ((f1.mono (by decide)).trans (f2.mono (by decide))).trans (f3.mono (by decide))
  refine ⟨⟨?_, ?_⟩, ?_, ?_, ⟨?_, ?_⟩, ?_, hfr.mono (by decide)⟩
  · rw [f4.sameCircuit (by simp), f3.sameCircuit (by simp), f2.sameCircuit (by simp), hfr.evaluated_eq (by simp) (by simp)]
    simp [hm]; rfl
  · intro d hd
    rw [f4.sameCircuit (by simp), f3.sameCircuit (by simp), f2.sameCircuit (by simp), hm, putCircuit_circuit,
      if_neg (by simp at hd; exact fun h => hd h.symm)]
    rfl
  · rw [f4.sameCounter (by simp), f3.sameCounter (by simp), f2.sameCounter (by simp)]; rfl
  · have h1 : Sent [] s m := f1.sentNone (by simp)
    have h2 : Sent [.propose code slot s.peer.counter] m q := queueMessage_sent m _
    have h3 : Sent [] q (s.startMigration c) := ((f3.mono (by decide)).trans (f4.mono (by decide)) : SameBut [.responses, .watches, .reports] _ _).sentNone (by simp)
    simpa using (h1.trans h2).trans h3
  · rw [f4.sameResponse (by simp), hr]
    simp [State.startResponse, State.setResponse, Countdown.load, Config.responseFrames]
  · intro d hd
    rw [f4.sameResponse (by simp), hr]
    simp only [State.startResponse, State.setResponse, State.setPeer_peer, Table.get_set]
    rw [if_neg (Ne.symm hd), f2.sameResponse (by simp), f1.sameResponse (by simp)]
  · have := watchEvent_congr c .migrateStart none (fsr .watches (by simp)) (fsr .reports (by simp)) (fsr.sameClock (by simp))
    exact ⟨by rw [e]; exact this.1, by rw [e]; exact this.2⟩

end Sys2Proof.Machine
end

