-- ==== Sys2Proof/Laws/Starts.lean ====
section
/-! SUPPORT. What a start step of a batch does, said once: the members it starts and fails, in list order, under the limit, and
the closing of a batch that it leaves with nothing remaining (R159, R162). -/

namespace Sys2Proof.Machine

variable {s t : State}

/-! ### Counting members -/

/-- The number of members with a status. -/
def countOf (status : MemberStatus) (l : List Member) : Nat := (l.filter fun m => m.status = status).length

theorem countOf_cons (status : MemberStatus) (m : Member) (l : List Member) :
    countOf status (m :: l) = (if m.status = status then 1 else 0) + countOf status l := by
  unfold countOf
  rw [List.filter_cons]
  split <;> simp_all [Nat.add_comm]

/-- PENDING or ACTIVE. -/
theorem countOf_open (l : List Member) :
    (l.filter fun m => m.status = .pending ∨ m.status = .active).length = countOf .pending l + countOf .active l := by
  induction l with
  | nil => rfl
  | cons m l ih =>
    rw [countOf_cons, countOf_cons, List.filter_cons]
    cases h : m.status <;> simp_all <;> omega

/-- A change of one member's status, in every count. -/
theorem countOf_set (status : MemberStatus) (l : List Member) (i : Nat) (m x : Member) (h : l[i]? = some m) :
    countOf status (l.set i x) + (if m.status = status then 1 else 0) =
      countOf status l + (if x.status = status then 1 else 0) := by
  induction l generalizing i with
  | nil => simp at h
  | cons y l ih =>
    cases i with
    | zero =>
      obtain rfl : y = m := by simpa using h
      simp only [List.set_cons_zero, countOf_cons]; omega
    | succ i =>
      have := ih i (by simpa using h)
      simp only [List.set_cons_succ, countOf_cons]; omega

/-! ### The members of a start step, up to an index -/

/-- The circuits that a start step would start among the first `k` members, if no limit held it back. -/
def Batch.ready (b : Batch) (s : State) (k : Nat) : List CircuitNo :=
  ((b.members.take k).filter fun m => m.status = .pending ∧ s.startable m.circuit = true).map Member.circuit

/-- The circuits that a start step has started once it has passed the first `k` members. -/
def Batch.startsBefore (b : Batch) (s : State) (k : Nat) : List CircuitNo := (b.ready s k).take (b.limit - b.numberOf .active)

/-- The members once a start step has passed the first `k`. -/
def Batch.steppedBefore (b : Batch) (s : State) (k : Nat) : List Member :=
  b.members.mapIdx fun i m => if i < k then b.stepped s i m else m

theorem Batch.ahead_eq (b : Batch) (s : State) (k : Nat) : b.ahead s k = b.numberOf .active + (b.ready s k).length := by
  simp [Batch.ahead, Batch.ready]

theorem Batch.ready_succ {b : Batch} {k : Nat} {m : Member} (s : State) (h : b.members[k]? = some m) :
    b.ready s (k + 1) = b.ready s k ++ (if m.status = .pending ∧ s.startable m.circuit = true then [m.circuit] else []) := by
  simp only [Batch.ready, List.take_add_one, h, List.filter_append, List.map_append, Option.toList]
  congr 1
  split <;> simp_all

theorem Batch.steppedBefore_get {b : Batch} {k i : Nat} {m : Member} (s : State) (h : b.members[i]? = some m) :
    (b.steppedBefore s k)[i]? = some (if i < k then b.stepped s i m else m) := by
  simp [Batch.steppedBefore, h]

theorem Batch.steppedBefore_zero (b : Batch) (s : State) : b.steppedBefore s 0 = b.members :=
  List.ext_getElem? fun i => by simp [Batch.steppedBefore]

theorem Batch.steppedBefore_all (b : Batch) (s : State) : b.steppedBefore s b.members.length = b.members.mapIdx (b.stepped s) := by
  apply List.ext_getElem?
  intro i
  simp only [Batch.steppedBefore, List.getElem?_mapIdx]
  rcases lt_or_ge i b.members.length with h | h
  · simp [h]
  · simp [h]

theorem Batch.steppedBefore_succ {b : Batch} {k : Nat} {m : Member} (s : State) (h : b.members[k]? = some m) :
    b.steppedBefore s (k + 1) = (b.steppedBefore s k).set k (b.stepped s k m) := by
  apply List.ext_getElem?
  intro i
  have hk : k < b.members.length := (List.getElem?_eq_some_iff.mp h).1
  rw [List.getElem?_set]
  by_cases hi : k = i
  · subst hi
    rw [Batch.steppedBefore_get s h]
    simp [Batch.steppedBefore, hk]
  · rw [if_neg hi]
    simp only [Batch.steppedBefore, List.getElem?_mapIdx]
    cases b.members[i]? with
    | none => rfl
    | some x =>
      have : (i < k + 1) = (i < k) := by apply propext; omega
      simp [this]

/-- A start step changes no member's circuit. -/
theorem Batch.stepped_circuit (b : Batch) (s : State) (i : Nat) (m : Member) : (b.stepped s i m).circuit = m.circuit := by
  unfold Batch.stepped
  split
  · rfl
  · split <;> rfl

theorem Batch.afterStep_circuits (b : Batch) (s : State) : (b.afterStep s).members.map Member.circuit = b.members.map Member.circuit := by
  apply List.ext_getElem?
  intro i
  simp only [Batch.afterStep, List.getElem?_map, List.getElem?_mapIdx]
  cases b.members[i]? with
  | none => rfl
  | some m => simp [Batch.stepped_circuit]

theorem Batch.starts_eq (b : Batch) (s : State) : b.startsBefore s b.members.length = b.starts s := by
  simp [Batch.startsBefore, Batch.ready, Batch.starts]

/-- A circuit that a start step starts belongs to a member the step has passed. -/
theorem Batch.startsBefore_mem {b : Batch} {k : Nat} {c : CircuitNo} (h : c ∈ b.startsBefore s k) :
    c ∈ (b.members.take k).map Member.circuit := by
  have := List.mem_of_mem_take h
  simp only [Batch.ready, List.mem_map, List.mem_filter] at this ⊢
  obtain ⟨m, ⟨hm, -⟩, rfl⟩ := this
  exact ⟨m, hm, rfl⟩

theorem Batch.starts_mem {b : Batch} {c : CircuitNo} (h : c ∈ b.starts s) : c ∈ b.members.map Member.circuit := by
  rw [← Batch.starts_eq] at h
  simpa using Batch.startsBefore_mem h

theorem Batch.starts_startable {b : Batch} {c : CircuitNo} (h : c ∈ b.starts s) : s.startable c = true := by
  have := List.mem_of_mem_take h
  simp only [List.mem_map, List.mem_filter, decide_eq_true_eq] at this
  obtain ⟨m, ⟨-, -, hm⟩, rfl⟩ := this
  exact hm

/-! ### One member -/

/-- A start step of batch `id`, whose record was `b` in state `s`, once it has passed the first `k` members. -/
structure StepUpTo (id : Fin 8) (b : Batch) (s : State) (k : Nat) (p : StartProgress) : Prop where
  record : p.state.batch id = some { b with
    members := b.steppedBefore s k
    remaining := countOf .pending (b.steppedBefore s k) + countOf .active (b.steppedBefore s k) }
  otherRecords : ∀ i, i ≠ id → p.state.batch i = s.batch i
  active : countOf .active (b.steppedBefore s k) = b.numberOf .active + (b.startsBefore s k).length
  started : ∀ (j : Nat) c, (b.startsBefore s k)[j]? = some c → p.state.circuit c = evaluated s.spans s.lanes { s.circuit c with
    state := .proposing, buildOut := 0, context := some (startContext s .initiator (s.peer.counter + BitVec.ofNat 8 j)) }
  left : ∀ c, c ∉ b.startsBefore s k → p.state.circuit c = s.circuit c
  counter : p.state.peer.counter = s.peer.counter + BitVec.ofNat 8 (b.startsBefore s k).length
  sent : Sent ((b.startsBefore s k).zipIdx.flatMap fun x => s.proposalOf x.1 x.2) s p.state
  timers : ∀ c, p.state.peer.response.get c = if c ∈ b.startsBefore s k then some ⟨2000, false⟩ else s.peer.response.get c
  watched : Block.watches.same ((b.startsBefore s k).foldl (fun u c => u.watchEvent c .migrateStart none) s) p.state
  reports : Block.reports.same ((b.startsBefore s k).foldl (fun u c => u.watchEvent c .migrateStart none) s) p.state
  frame : SameBut startBlocks s p.state
  startedCount : p.started = (b.startsBefore s k).length
  failedCount : p.failed + b.numberOf .failed = countOf .failed (b.steppedBefore s k)

theorem watchEvents_frame (l : List CircuitNo) (cls : EventClass) (s : State) :
    SameBut [.watches, .reports] s (l.foldl (fun u c => u.watchEvent c cls none) s) :=
  SameBut.foldl (fun s c => watchEvent_frame s c cls none) l s

/-- A member that the step passes over leaves everything as it was. -/
theorem StepUpTo.pass {id : Fin 8} {b : Batch} {k : Nat} {p : StartProgress} {m : Member} (h : StepUpTo id b s k p)
    (hm : b.members[k]? = some m) (hp : m.status ≠ .pending ∨ b.limit ≤ b.ahead s k) : StepUpTo id b s (k + 1) p := by
  have e1 : b.steppedBefore s (k + 1) = b.steppedBefore s k := by
    rw [Batch.steppedBefore_succ s hm]
    have : b.stepped s k m = m := by unfold Batch.stepped; rw [if_pos hp]
    rw [this]
    apply List.ext_getElem?
    intro i
    rw [List.getElem?_set]
    split
    · subst_vars
      rw [Batch.steppedBefore_get s hm]
      have := (List.getElem?_eq_some_iff.mp hm).1
      simp [Batch.steppedBefore, this]
    · rfl
  have e2 : b.startsBefore s (k + 1) = b.startsBefore s k := by
    unfold Batch.startsBefore
    rw [Batch.ready_succ s hm]
    rcases hp with hp | hp
    · simp [hp]
    · rw [Batch.ahead_eq] at hp
      rw [List.take_append_of_le_length (by omega)]
  obtain ⟨h1, h2, h3, h4, h5, h6, h7, h8, h9, h10, h11, h12, h13⟩ := h
  refine ⟨?_, h2, ?_, ?_, ?_, ?_, ?_, ?_, ?_, ?_, h11, ?_, ?_⟩ <;> simpa only [e1, e2]

/-- The record after a change of the member that the step has come to. -/
theorem setMember_stepped {b : Batch} {k : Nat} {m x : Member} (hm : b.members[k]? = some m) (hx : b.stepped s k m = x) (n : Nat) :
    ({ b with members := b.steppedBefore s k, remaining := n } : Batch).setMember k x =
      { b with
        members := b.steppedBefore s (k + 1)
        remaining := countOf .pending (b.steppedBefore s (k + 1)) + countOf .active (b.steppedBefore s (k + 1)) } := by
  simp only [Batch.setMember, countOf_open, Batch.steppedBefore_succ s hm, hx]

/-- One member more. -/
theorem StepUpTo.next {id : Fin 8} {b : Batch} {k : Nat} {p : StartProgress} {m : Member} (h : StepUpTo id b s k p)
    (hd : (b.members.map Member.circuit).Nodup) (hm : b.members[k]? = some m) : StepUpTo id b s (k + 1) (startMember id p k) := by
  have hget : (b.steppedBefore s k)[k]? = some m := by simpa using Batch.steppedBefore_get (k := k) s hm
  have hfree : m.circuit ∉ b.startsBefore s k := by
    intro hc
    have h1 := Batch.startsBefore_mem hc
    rw [List.map_take, List.mem_take_iff_getElem] at h1
    obtain ⟨i, hi, he⟩ := h1
    have hk : k < b.members.length := (List.getElem?_eq_some_iff.mp hm).1
    have he' : (b.members.map Member.circuit)[i]'(by simp at hi ⊢; omega) = (b.members.map Member.circuit)[k]'(by simpa using hk) := by
      rw [he]; simp [(List.getElem?_eq_some_iff.mp hm).2]
    have := (hd.getElem_inj_iff).mp he'
    omega
  have hcirc : p.state.circuit m.circuit = s.circuit m.circuit := h.left _ hfree
  have hlink : p.state.peer.state = s.peer.state := h.frame.sameLink (by decide)
  have hahead := Batch.ahead_eq b s k
  have hlen : (b.startsBefore s k).length = min (b.limit - b.numberOf .active) (b.ready s k).length := by
    simp [Batch.startsBefore]
  have hcount : (({ b with
      members := b.steppedBefore s k
      remaining := countOf .pending (b.steppedBefore s k) + countOf .active (b.steppedBefore s k) } : Batch).count .active < b.limit) ↔
        ¬ b.limit ≤ b.ahead s k := by
    have : ({ b with
      members := b.steppedBefore s k
      remaining := countOf .pending (b.steppedBefore s k) + countOf .active (b.steppedBefore s k) } : Batch).count .active =
        countOf .active (b.steppedBefore s k) := rfl
    rw [this, h.active]
    omega
  unfold startMember
  rw [h.record]
  simp only [hget]
  by_cases hg : m.status ≠ .pending ∨ b.limit ≤ b.ahead s k
  · rw [if_neg (by rw [hcount]; tauto)]
    exact h.pass hm hg
  · rw [not_or, not_not] at hg
    rw [if_pos (by rw [hcount]; tauto), migrateRefusal_congr hcirc hlink]
    have hst : b.stepped s k m = match s.migrateRefusal m.circuit with
        | none => { m with status := .active }
        | some result => { m with status := .failed, reason := some (.refused result) } := by
      unfold Batch.stepped; refine (if_neg (by tauto)).trans ?_; cases s.migrateRefusal m.circuit <;> rfl
    cases hr : s.migrateRefusal m.circuit with
    | some result =>
      rw [hr] at hst
      have hns : s.startable m.circuit = false := by simp [State.startable, hr]
      have e2 : b.startsBefore s (k + 1) = b.startsBefore s k := by
        unfold Batch.startsBefore
        rw [Batch.ready_succ s hm]; simp [hns]
      have hset := fun st => countOf_set st _ k m { m with status := .failed, reason := some (.refused result) } hget
      have e1 := Batch.steppedBefore_succ s hm
      rw [hst] at e1
      have hb := setBatch_frame p.state id (some (({ b with
        members := b.steppedBefore s k
        remaining := countOf .pending (b.steppedBefore s k) + countOf .active (b.steppedBefore s k) } : Batch).setMember k
          { m with status := .failed, reason := some (.refused result) }))
      refine ⟨?_, fun i hi => ?_, ?_, fun j c hj => ?_, fun c hc => ?_, ?_, ?_, fun c => ?_, ?_, ?_, ?_, ?_, ?_⟩
      · simp only [State.setBatch_batch_eq]; rw [setMember_stepped hm hst]
      · simp only; rw [State.setBatch_batch_ne _ _ (Ne.symm hi)]; exact h.otherRecords i hi
      · rw [e2, ← h.active, e1]; have := hset .active; simp_all
      · rw [e2] at hj; rw [hb.sameCircuit (by simp)]; exact h.started j c hj
      · rw [e2] at hc; rw [hb.sameCircuit (by simp)]; exact h.left c hc
      · rw [e2, hb.sameCounter (by simp)]; exact h.counter
      · rw [e2]; exact Block.same_trans h.sent (hb .overhead (by simp))
      · rw [e2, hb.sameResponse (by simp)]; exact h.timers c
      · rw [e2]; exact Block.same_trans h.watched (hb .watches (by simp))
      · rw [e2]; exact Block.same_trans h.reports (hb .reports (by simp))
      · exact h.frame.trans (hb.mono (by decide))
      · rw [e2]; exact h.startedCount
      · have := hset .failed; rw [e1]; have := h.failedCount; simp_all; omega
    | none =>
      rw [hr] at hst
      have hs : s.startable m.circuit = true := by simp [State.startable, hr]
      obtain ⟨⟨-, hfib⟩, hcode, -, -⟩ := startable_iff.mp hs
      obtain ⟨slot, hfib⟩ := Option.ne_none_iff_exists'.mp hfib
      obtain ⟨code, hcode⟩ := Option.ne_none_iff_exists'.mp hcode
      have e2 : b.startsBefore s (k + 1) = b.startsBefore s k ++ [m.circuit] := by
        unfold Batch.startsBefore
        rw [Batch.ready_succ s hm, if_pos ⟨hg.1, hs⟩, List.take_append, List.take_of_length_le (by omega),
          List.take_of_length_le (by simp; omega)]
      have hms := startMigration_spec (s := p.state) (c := m.circuit) (code := code) (slot := slot) (by rw [hcirc, hcode]) (by rw [hcirc, hfib])
      set u := p.state.startMigration m.circuit with hu
      have hset := fun st => countOf_set st _ k m { m with status := .active } hget
      have e1 := Batch.steppedBefore_succ s hm
      rw [hst] at e1
      have hb := setBatch_frame u id (some (({ b with
        members := b.steppedBefore s k
        remaining := countOf .pending (b.steppedBefore s k) + countOf .active (b.steppedBefore s k) } : Batch).setMember k
          { m with status := .active }))
      have hf : SameBut startBlocks s u := h.frame.trans ((startMigration_frame p.state m.circuit).mono (by decide))
      have hnode : p.state.node = s.node := h.frame.sameNode (by decide)
      have hclock : ((b.startsBefore s k).foldl (fun u c => u.watchEvent c .migrateStart none) s).fc = s.fc :=
        (watchEvents_frame _ _ s).sameClock (by simp)
      have hw := watchEvent_congr m.circuit .migrateStart none h.watched h.reports
        ((h.frame.sameClock (by decide)).trans hclock.symm)
      refine ⟨?_, fun i hi => ?_, ?_, fun j c hj => ?_, fun c hc => ?_, ?_, ?_, fun c => ?_, ?_, ?_, ?_, ?_, ?_⟩
      · simp only [State.setBatch_batch_eq]; rw [setMember_stepped hm hst]
      · simp only; rw [State.setBatch_batch_ne _ _ (Ne.symm hi), hms.frame.sameBatch (by decide)]; exact h.otherRecords i hi
      · rw [e2, e1]; have := hset .active; have := h.active; simp_all; omega
      · rw [hb.sameCircuit (by simp)]
        rw [e2, List.getElem?_append] at hj
        split at hj
        · rw [hms.record.2 c (by simp; rintro rfl; exact hfree (List.mem_of_getElem? hj))]
          exact h.started j c hj
        · obtain ⟨rfl, hjk⟩ : c = m.circuit ∧ j = (b.startsBefore s k).length := by
            have := (List.getElem?_eq_some_iff.mp hj).1
            simp at this
            have hj0 : j - (b.startsBefore s k).length = 0 := by omega
            rw [hj0] at hj
            exact ⟨by simpa using hj.symm, by omega⟩
          rw [hms.record.1, hf.evaluated_eq (by decide) (by decide), hcirc, h.counter, hjk]
          simp [startContext, hnode]
      · rw [e2] at hc
        simp only [List.mem_append, List.mem_singleton, not_or] at hc
        rw [hb.sameCircuit (by simp), hms.record.2 c (by simpa using hc.2)]
        exact h.left c hc.1
      · rw [hb.sameCounter (by simp), hms.counter, h.counter, e2, List.length_append, List.length_singleton, BitVec.add_assoc,
          BitVec.ofNat_add]
        rfl
      · rw [e2, List.zipIdx_append, List.flatMap_append]
        refine (h.sent.trans ?_)
        have := Block.same_trans hms.sent (hb .overhead (by simp))
        rw [h.counter] at this
        simp only [List.zipIdx_cons, List.zipIdx_nil, List.flatMap_cons, List.flatMap_nil, List.append_nil, Nat.zero_add,
          State.proposalOf, hcode, hfib]
        exact this
      · rw [hb.sameResponse (by simp), e2]
        by_cases hc : c = m.circuit
        · subst hc; simp [hms.timer.1]
        · rw [hms.timer.2 c hc, h.timers c]; simp [hc]
      · rw [e2, List.foldl_append]
        exact Block.same_trans (Block.same_trans hw.1 hms.watched.1) (hb .watches (by simp))
      · rw [e2, List.foldl_append]
        exact Block.same_trans (Block.same_trans hw.2 hms.watched.2) (hb .reports (by simp))
      · exact hf.trans (hb.mono (by decide))
      · rw [e2]; have := h.startedCount; simp [this]
      · have := hset .failed; rw [e1]; have := h.failedCount; simp_all

/-! ### All members -/

theorem StepUpTo.zero {id : Fin 8} {b : Batch} (h : s.batch id = some b) (hr : b.remaining = b.count .pending + b.count .active) :
    StepUpTo id b s 0 ⟨s, 0, 0⟩ := by
  have e : b.startsBefore s 0 = [] := by simp [Batch.startsBefore, Batch.ready]
  have e' := b.steppedBefore_zero s
  refine ⟨?_, fun _ _ => rfl, ?_, ?_, fun _ _ => rfl, ?_, ?_, ?_, ?_, ?_, .refl _ s, ?_, ?_⟩
  · rw [e', h]
    congr
    obtain ⟨⟩ := b
    simp only [Batch.mk.injEq, true_and, and_true] at hr ⊢
    exact hr
  · simp [e, e', Batch.numberOf, countOf]
  · simp [e]
  · simp [e]
  · rw [e]; exact .refl s
  · simp [e]
  · rw [e]; exact Block.same_refl _ s
  · rw [e]; exact Block.same_refl _ s
  · simp [e]
  · simp [e', Batch.numberOf, countOf]

theorem StepUpTo.all {id : Fin 8} {b : Batch} (h : s.batch id = some b) (hb : b.lawful) :
    ∀ k, k ≤ b.members.length → StepUpTo id b s k ((List.range k).foldl (startMember id) ⟨s, 0, 0⟩)
  | 0, _ => .zero h hb.remaining
  | k + 1, hk => by
    rw [List.range_succ, List.foldl_append]
    have hk' : k < b.members.length := by omega
    exact (StepUpTo.all h hb k (by omega)).next hb.distinct (List.getElem?_eq_getElem hk')

/-- R159, R162: a start step of an open batch, with the counts of members that it has started and failed. -/
theorem startStep_spec {id : Fin 8} {b : Batch} (h : s.batch id = some b) (hb : b.lawful) :
    BatchStepped id b s (s.startStep id).state ∧ (s.startStep id).started = (b.starts s).length ∧
      (s.startStep id).failed + b.numberOf .failed = (b.afterStep s).numberOf .failed := by
  have hu := StepUpTo.all h hb b.members.length le_rfl
  have hfr := startStep_frame s id
  unfold State.startStep at hfr ⊢
  simp only [h] at hfr ⊢
  set p := (List.range b.members.length).foldl (startMember id) ⟨s, 0, 0⟩ with hp
  obtain ⟨h1, h2, h3, h4, h5, h6, h7, h8, h9, h10, h11, h12, h13⟩ := hu
  rw [Batch.starts_eq] at *
  rw [Batch.steppedBefore_all] at h1 h3 h13
  have hrec : p.state.batch id = some (b.afterStep s) := h1
  rw [hrec] at hfr ⊢
  simp only at hfr ⊢
  have hev : ∀ r, evaluated p.state.spans p.state.lanes r = evaluated s.spans s.lanes r := h11.evaluated_eq (by decide) (by decide)
  by_cases h0 : (b.afterStep s).remaining = 0
  · rw [if_pos h0] at hfr ⊢
    have hnone : b.starts s = [] := by
      have : countOf .active (b.members.mapIdx (b.stepped s)) = 0 := by
        have : (b.afterStep s).remaining = countOf .pending (b.members.mapIdx (b.stepped s)) + countOf .active (b.members.mapIdx (b.stepped s)) := rfl
        omega
      exact List.eq_nil_of_length_eq_zero (by omega)
    have hcl := closeBatch_spec (s := p.state) .completed hrec
    have hcm := b.afterStep_circuits s
    refine ⟨⟨?_, fun i hi => ?_, ?_, fun c _ => ?_, ?_, ?_, fun c => ?_, ?_, ?_, hfr⟩, h12, h13⟩
    · rw [if_pos h0]; exact hcl.record.1
    · rw [hcl.record.2 i hi]; exact h2 i hi
    · simp [hnone]
    · have hs := h5 c (by simp [hnone])
      rw [← hcm]
      by_cases hc : c ∈ (b.afterStep s).members.map Member.circuit
      · rw [if_pos ⟨h0, hc⟩, hcl.members c hc, hs]
      · rw [if_neg (fun x => hc x.2), hcl.others c hc, hs]
    · rw [hcl.frame.sameCounter (by simp)]; exact h6
    · exact Block.same_trans h7 (hcl.frame .overhead (by simp))
    · rw [hcl.frame.sameResponse (by simp)]; exact h8 c
    · exact Block.same_trans h9 (hcl.frame .watches (by simp))
    · rw [if_pos h0]
      have h10' : Block.reports.same s p.state := by simpa [hnone] using h10
      have := handReport_congr (.batch id b.mode .completed (b.afterStep s).countsOf (b.afterStep s).failures) h10' (h11.sameClock (by decide))
      exact Block.same_trans this hcl.report
  · rw [if_neg h0] at hfr ⊢
    refine ⟨⟨?_, h2, fun j c hj => ?_, fun c hc => ?_, h6, h7, h8, h9, ?_, hfr⟩, h12, h13⟩
    · rw [if_neg h0]; exact hrec
    · rw [hev]; exact h4 j c hj
    · rw [if_neg (fun x => h0 x.1)]; exact h5 c hc
    · rw [if_neg h0]; exact h10

end Sys2Proof.Machine
end

