-- ==== Sys2Proof/Laws/Outcomes.lean ====
section
/-! SUPPORT. What the writing of an outcome does, said once: the record, the handing to the Batch Unit, to the Watch Unit and to
the report queue, in whichever order (R19, R160, R161, R167). -/

namespace Sys2Proof.Machine

variable {s t u : State}

/-! ### The batch laws through a start step -/

theorem State.batchCircuits_congr {c : CircuitNo} (hc : (t.circuit c).batch = (s.circuit c).batch) (hb : t.batches = s.batches) :
    t.batchCircuits c = s.batchCircuits c := by
  have e : t.batch = s.batch := funext fun i => by simp [State.batch, hb]
  simp [State.batchCircuits, hc, e]

/-- The batch laws rest on the batch records and the membership fields alone. -/
theorem BatchLaw.congr (h : BatchLaw s) (hb : t.batches = s.batches) (hc : ∀ c, (t.circuit c).batch = (s.circuit c).batch) :
    BatchLaw t := by
  have e : ∀ i, t.batch i = s.batch i := fun i => by simp [State.batch, hb]
  exact ⟨fun id b hid => h.records id b (by rw [← e]; exact hid), fun c id => by rw [hc, h.members]; simp [e]⟩

/-- A circuit that carries a membership is a member of that open batch, and the converse. -/
theorem BatchLaw.batchCircuits (h : BatchLaw s) {c : CircuitNo} {id : Fin 8} (hc : (s.circuit c).batch = some id) :
    ∃ b, s.batch id = some b ∧ s.batchCircuits c = b.members.map Member.circuit ∧ c ∈ b.members.map Member.circuit := by
  obtain ⟨b, hb, hm⟩ := (h.members c id).mp hc
  exact ⟨b, hb, by simp [State.batchCircuits, hc, hb], hm⟩

theorem Batch.lawful_afterStep {b : Batch} (h : b.lawful) (s : State) : (b.afterStep s).lawful :=
  ⟨by simpa [Batch.afterStep] using h.size, h.limit, by rw [Batch.afterStep_circuits]; exact h.distinct, rfl⟩

/-- A start step writes no membership but at a closing. -/
theorem BatchStepped.batch_kept {id : Fin 8} {b : Batch} (h : BatchStepped id b s t) (c : CircuitNo)
    (hc : ¬ ((b.afterStep s).remaining = 0 ∧ c ∈ b.members.map Member.circuit)) : (t.circuit c).batch = (s.circuit c).batch := by
  by_cases hs : c ∈ b.starts s
  · obtain ⟨j, hj⟩ := List.getElem?_of_mem hs
    rw [h.started j c hj]; rfl
  · have := h.left c hs
    rw [if_neg hc] at this
    rw [this]

/-- A start step that closes its batch has started nothing. -/
theorem BatchStepped.starts_nil {id : Fin 8} {b : Batch} (hid : s.batch id = some b) (hb : b.lawful) (h0 : (b.afterStep s).remaining = 0) :
    b.starts s = [] := by
  have hu := StepUpTo.all hid hb b.members.length le_rfl
  have h3 := hu.active
  rw [Batch.starts_eq, Batch.steppedBefore_all] at h3
  have : (b.afterStep s).remaining = countOf .pending (b.members.mapIdx (b.stepped s)) + countOf .active (b.members.mapIdx (b.stepped s)) := rfl
  exact List.eq_nil_of_length_eq_zero (by omega)

theorem BatchStepped.batchLaw {id : Fin 8} {b : Batch} (hs : BatchLaw s) (hid : s.batch id = some b) (h : BatchStepped id b s t) :
    BatchLaw t := by
  have hl := hs.records id b hid
  by_cases h0 : (b.afterStep s).remaining = 0
  · have hnil := BatchStepped.starts_nil hid hl h0
    have hrec := h.record
    rw [if_pos h0] at hrec
    refine ⟨fun i x hx => ?_, fun c i => ?_⟩
    · have hi : i ≠ id := by rintro rfl; rw [hrec] at hx; cases hx
      exact hs.records i x (by rw [← h.otherRecords i hi]; exact hx)
    · have hleft := h.left c (by simp [hnil])
      by_cases hc : c ∈ b.members.map Member.circuit
      · rw [if_pos ⟨h0, hc⟩] at hleft
        rw [hleft]
        constructor
        · intro x; cases x
        · rintro ⟨x, hx, hm⟩
          have hi : i ≠ id := by rintro rfl; rw [hrec] at hx; cases hx
          rw [h.otherRecords i hi] at hx
          have h1 := (hs.members c i).mpr ⟨x, hx, hm⟩
          have h2 := (hs.members c id).mpr ⟨b, hid, hc⟩
          rw [h1] at h2; injection h2 with h2; exact absurd h2 hi
      · rw [if_neg (fun x => hc x.2)] at hleft
        rw [hleft, hs.members]
        constructor
        · rintro ⟨x, hx, hm⟩
          have hi : i ≠ id := by rintro rfl; rw [hid] at hx; injection hx with hx; subst hx; exact hc hm
          exact ⟨x, by rw [h.otherRecords i hi]; exact hx, hm⟩
        · rintro ⟨x, hx, hm⟩
          have hi : i ≠ id := by rintro rfl; rw [hrec] at hx; cases hx
          exact ⟨x, by rw [← h.otherRecords i hi]; exact hx, hm⟩
  · have hrec := h.record
    rw [if_neg h0] at hrec
    refine ⟨fun i x hx => ?_, fun c i => ?_⟩
    · by_cases hi : i = id
      · subst hi; rw [hrec] at hx; injection hx with hx; subst hx; exact Batch.lawful_afterStep hl s
      · exact hs.records i x (by rw [← h.otherRecords i hi]; exact hx)
    · rw [h.batch_kept c (fun x => h0 x.1), hs.members]
      by_cases hi : i = id
      · subst hi
        rw [hrec, hid]
        constructor
        · rintro ⟨x, hx, hm⟩
          injection hx with hx; subst hx
          exact ⟨_, rfl, by rw [Batch.afterStep_circuits]; exact hm⟩
        · rintro ⟨x, hx, hm⟩
          injection hx with hx; subst hx
          exact ⟨_, rfl, by rw [Batch.afterStep_circuits] at hm; exact hm⟩
      · rw [h.otherRecords i hi]

/-- The events of a start step's starts hand some reports. -/
theorem watchEvents_reported (l : List CircuitNo) (cls : EventClass) (s : State) :
    ∃ bodies, Reported bodies s (l.foldl (fun u c => u.watchEvent c cls none) s) := by
  induction l generalizing s with
  | nil => exact ⟨[], .refl s⟩
  | cons c l ih =>
    obtain ⟨a, ha⟩ := watchEvent_reported s c cls none
    obtain ⟨b, hb⟩ := ih (s.watchEvent c cls none)
    exact ⟨a ++ b, ha.trans hb ((watchEvent_frame s c cls none).sameClock (by simp))⟩

theorem BatchStepped.reported {id : Fin 8} {b : Batch} (h : BatchStepped id b s t) : ∃ bodies, Reported bodies s t := by
  have := h.reports
  split at this
  · exact ⟨[_], this⟩
  · obtain ⟨bodies, hb⟩ := watchEvents_reported (b.starts s) .migrateStart s
    exact ⟨bodies, Block.same_trans hb this⟩

/-- The messages of a start step are proposals. -/
theorem proposals_all (l : List (CircuitNo × Nat)) (s : State) : (l.flatMap fun x => s.proposalOf x.1 x.2).all isProposal = true := by
  simp only [List.all_flatMap, List.all_eq_true]
  intro x _
  unfold State.proposalOf
  split <;> simp [isProposal]

/-! ### The Batch Unit takes an outcome (R160) -/

/-- A member that an outcome touches keeps its circuit, and is no longer PENDING. -/
theorem memberAfter_some {m x : Member} {o : OutcomeRecord} (h : memberAfter m o = some x) :
    x.circuit = m.circuit ∧ x.status ≠ .pending := by
  unfold memberAfter at h
  split at h <;> first | (injection h with h; subst h; simp) | cases h

theorem Batch.lawful_setMember {b : Batch} {i : Nat} {m x : Member} (h : b.lawful) (hm : b.members[i]? = some m)
    (hx : x.circuit = m.circuit) : (b.setMember i x).lawful ∧ (b.setMember i x).members.map Member.circuit = b.members.map Member.circuit := by
  have hc : (b.setMember i x).members.map Member.circuit = b.members.map Member.circuit := by
    simp only [Batch.setMember, List.map_set, hx]
    apply List.ext_getElem?
    intro k
    rw [List.getElem?_set]
    split
    · subst_vars
      obtain ⟨hlt, rfl⟩ := List.getElem?_eq_some_iff.mp hm
      simp [hlt]
    · rfl
  refine ⟨⟨by simpa [Batch.setMember] using h.size, h.limit, by rw [hc]; exact h.distinct, ?_⟩, hc⟩
  simp only [Batch.setMember, countOf_open]
  rfl

/-- A start step on a batch one of whose members is not PENDING does not start that member's circuit. -/
theorem Batch.not_start {b : Batch} {i : Nat} {x : Member} (hb : b.lawful) (hi : b.members[i]? = some x) (hx : x.status ≠ .pending) :
    x.circuit ∉ b.starts s := by
  intro hc
  have hc := List.mem_of_mem_take hc
  simp only [List.mem_map, List.mem_filter, decide_eq_true_eq] at hc
  obtain ⟨m, ⟨hm, hp, -⟩, he⟩ := hc
  have : m = x := List.inj_on_of_nodup_map hb.distinct hm (List.mem_of_getElem? hi) he
  subst this
  exact hx hp

/-- R160: what the Batch Unit makes of an outcome: nothing, or a change of one member and a start step. -/
theorem batchOutcome_cases (hs : BatchLaw s) (c : CircuitNo) (o : OutcomeRecord) :
    s.batchOutcome c o = s ∨
    ∃ id b i m x, (s.circuit c).batch = some id ∧ s.batch id = some b ∧ b.members[i]? = some m ∧ m.circuit = c ∧
      memberAfter m o = some x ∧ BatchLaw (s.setBatch id (some (b.setMember i x))) ∧
      BatchStepped id (b.setMember i x) (s.setBatch id (some (b.setMember i x))) (s.batchOutcome c o) := by
  unfold State.batchOutcome
  split
  next id hid =>
    split
    next b hb =>
      split
      next i hi =>
        split
        next x hx =>
          obtain ⟨m, hm, hmx⟩ := Option.bind_eq_some_iff.mp hx
          have hmc : m.circuit = c := by
            obtain ⟨hlt, hp, -⟩ := List.findIdx?_eq_some_iff_getElem.mp hi
            rw [List.getElem?_eq_getElem hlt] at hm
            injection hm with hm
            subst hm
            simpa using hp
          obtain ⟨hxc, -⟩ := memberAfter_some hmx
          obtain ⟨hl, hmap⟩ := Batch.lawful_setMember (hs.records id b hb) hm hxc
          refine .inr ⟨id, b, i, m, x, hid, hb, hm, hmc, hmx, ?_, (startStep_spec (by simp) hl).1⟩
          refine ⟨fun k y hy => ?_, fun d k => ?_⟩
          · by_cases hk : k = id
            · subst hk; simp only [State.setBatch_batch_eq, Option.some.injEq] at hy; subst hy; exact hl
            · rw [State.setBatch_batch_ne _ _ (Ne.symm hk)] at hy; exact hs.records k y hy
          · rw [(setBatch_frame s id _).sameCircuit (by simp), hs.members]
            by_cases hk : k = id
            · subst hk
              simp only [State.setBatch_batch_eq, hb]
              constructor
              · rintro ⟨y, hy, hm⟩; injection hy with hy; subst hy; exact ⟨_, rfl, by rw [hmap]; exact hm⟩
              · rintro ⟨y, hy, hm⟩; injection hy with hy; subst hy; exact ⟨_, rfl, by rw [hmap] at hm; exact hm⟩
            · rw [State.setBatch_batch_ne _ _ (Ne.symm hk)]
        · exact .inl rfl
      · exact .inl rfl
    · exact .inl rfl
  · exact .inl rfl

/-! ### The handings of an outcome -/

/-- Every record carries the conditioning that its inputs call for (R17). -/
def AllEvaluated (s : State) : Prop := ∀ d, evaluated s.spans s.lanes (s.circuit d) = s.circuit d

/-- From `s` to `t` a circuit may have lost its membership, and has changed in nothing else. -/
def MayLeave (s t : State) (d : CircuitNo) : Prop :=
  t.circuit d = s.circuit d ∨ t.circuit d = evaluated t.spans t.lanes { s.circuit d with batch := none }

/-- Nothing is started: circuits can at most have left a batch that closes. -/
structure NoStart (s t : State) : Prop where
  circuits : ∀ d, MayLeave s t d
  responses : t.peer.response = s.peer.response
  sent : Sent [] s t

theorem MayLeave.trans {d : CircuitNo} (h : MayLeave s t d) (g : MayLeave t u d)
    (he : ∀ r, evaluated u.spans u.lanes r = evaluated t.spans t.lanes r) : MayLeave s u d := by
  rcases h with h | h <;> rcases g with g | g
  · exact .inl (g.trans h)
  · exact .inr (by rw [g, h])
  · exact .inr (by rw [g, h, he])
  · exact .inr (by rw [g, h]; rfl)

theorem NoStart.trans (h : NoStart s t) (g : NoStart t u) (he : ∀ r, evaluated u.spans u.lanes r = evaluated t.spans t.lanes r) : NoStart s u :=
  ⟨fun d => (h.circuits d).trans (g.circuits d) he, g.responses.trans h.responses, h.sent.trans g.sent⟩

/-- With the peer link out of UP no circuit can be started (R25). -/
theorem startable_link {c : CircuitNo} (h : s.peer.state ≠ .up) : s.startable c = false := by
  cases hs : s.startable c with
  | false => rfl
  | true => exact absurd (startable_iff.mp hs).2.2.2 h

theorem startedCircuits_mem {c d : CircuitNo} (h : d ∈ s.startedCircuits c) : d ∈ s.batchCircuits c := by
  unfold State.startedCircuits at h
  split at h
  · exact h
  · cases h

/-- Circuit `d` ends at `t` with the record `r` and the response timer `x`, whatever its conditioning, but for what its batch makes of
it: `EndsAs` before the conditioning of `t` is known. -/
def Ends (d : CircuitNo) (r : Circuit) (x : Option Countdown) (s t : State) : Prop :=
  ∃ b k, (b = r.batch ∨ b = none) ∧
    ((t.circuit d = { r with batch := b, conditioning := k } ∧ t.peer.response.get d = x) ∨
      (s.peer.state = .up ∧ r.batch.isSome = true ∧ r.mayStart = true ∧ t.peer.response.get d = some ⟨2000, false⟩ ∧
        ∃ number, t.circuit d = { r with
          batch := b, conditioning := k, state := .proposing, buildOut := 0, context := some (startContext s .initiator number) }))

theorem Ends.same {d : CircuitNo} (hc : t.circuit d = s.circuit d) (hr : t.peer.response.get d = s.peer.response.get d) :
    Ends d (s.circuit d) (s.peer.response.get d) s t := ⟨_, _, .inl rfl, .inl ⟨hc, hr⟩⟩

theorem Ends.settled {d : CircuitNo} {r : Circuit} {x : Option Countdown} (h : Ends d r x s t) (ht : AllEvaluated t) : EndsAs d r x s t := by
  obtain ⟨b, k, hb, h | ⟨h1, h2, h3, h4, number, h⟩⟩ := h
  · exact ⟨b, hb, .inl ⟨by rw [← ht d, h.1]; rfl, h.2⟩⟩
  · exact ⟨b, hb, .inr ⟨h1, h2, h3, h4, number, by rw [← ht d, h]; rfl⟩⟩

theorem startContext_congr (role : Role) (number : Byte) (h : t.node = s.node) : startContext t role number = startContext s role number := by
  unfold startContext; rw [h]

/-- A record and a later one that differ in the membership of a closed batch and the conditioning alone. -/
theorem Ends.of_near {d : CircuitNo} {r : Circuit} {b : Option (Fin 8)} {k : Bool} {x : Option Countdown} (hb : b = r.batch ∨ b = none)
    (h : Ends d { r with batch := b, conditioning := k } x s t) : Ends d r x s t := by
  obtain ⟨b', k', hb', h⟩ := h
  have hbb : b' = r.batch ∨ b' = none := by
    rcases hb' with h | h
    · rcases hb with g | g
      · exact .inl (h.trans g)
      · exact .inr (h.trans g)
    · exact .inr h
  refine ⟨b', k', hbb, ?_⟩
  rcases h with h | ⟨h1, h2, h3, h4, number, h⟩
  · exact .inl h
  · refine .inr ⟨h1, ?_, h3, h4, number, h⟩
    rcases hb with g | g
    · rw [← g]; exact h2
    · rw [g] at h2; cases h2

theorem Ends.trans {d : CircuitNo} {r : Circuit} {x : Option Countdown} (h : Ends d r x s t)
    (g : Ends d (t.circuit d) (t.peer.response.get d) t u) (hl : t.peer.state = s.peer.state) (hn : t.node = s.node) : Ends d r x s u := by
  have g' : Ends d (t.circuit d) (t.peer.response.get d) s u := by
    obtain ⟨b, k, hb, g⟩ := g
    refine ⟨b, k, hb, ?_⟩
    rcases g with g | ⟨g1, g2, g3, g4, number, g⟩
    · exact .inl g
    · exact .inr ⟨hl ▸ g1, g2, g3, g4, number, by rw [g, startContext_congr _ _ hn]⟩
  obtain ⟨b, k, hb, h | ⟨h1, h2, h3, h4, number, h⟩⟩ := h
  · rw [h.1, h.2] at g'
    exact g'.of_near hb
  · rw [h, h4] at g'
    obtain ⟨b', k', hb', g⟩ := g'
    have hbb : b' = r.batch ∨ b' = none := by
      rcases hb' with h | h
      · rcases hb with g | g
        · exact .inl (h.trans g)
        · exact .inr (h.trans g)
      · exact .inr h
    refine ⟨b', k', hbb, .inr ⟨h1, h2, h3, ?_⟩⟩
    rcases g with g | ⟨-, -, g3, -⟩
    · exact ⟨g.2, number, g.1⟩
    · exact absurd g3 (by simp [Circuit.mayStart])

/-- Between `s` and `t` an outcome of circuit `c` has been handed on, in part or whole, with these reports. -/
structure Handed (c : CircuitNo) (classes : List EventClass) (bodies : List ReportBody) (s t : State) : Prop where
  record : t.circuit c = s.circuit c ∨
    ((s.circuit c).batch.isSome ∧ t.circuit c = evaluated t.spans t.lanes { s.circuit c with batch := none })
  others : CircuitsBut (c :: s.batchCircuits c) s t
  passed : ∀ d, d ≠ c → Ends d (s.circuit d) (s.peer.response.get d) s t
  members : ∀ d ∈ t.batchCircuits c, d ∈ s.batchCircuits c
  copper : ∀ d, (t.circuit d).copper = (s.circuit d).copper
  timers : ∀ d, d ∉ c :: s.batchCircuits c → t.peer.response.get d = s.peer.response.get d
  timer : t.peer.response.get c = s.peer.response.get c
  reports : Reported bodies s t
  sent : ∃ proposals, proposals.all isProposal = true ∧ ((s.circuit c).batch = none ∨ s.peer.state ≠ .up → proposals = []) ∧
    Sent proposals s t
  frame : SameBut outcomeBlocks s t
  law : BatchLaw t
  conditioned : AllEvaluated s → AllEvaluated t
  stopped : s.peer.state ≠ .up → NoStart s t
  watches : EventsTaken c classes (s.startedCircuits c) s t

theorem Handed.refl (hs : BatchLaw s) (c : CircuitNo) : Handed c [] [] s s :=
  ⟨.inl rfl, fun _ _ => rfl, fun _ _ => .same rfl rfl, fun _ h => h, fun _ => rfl, fun _ _ => rfl, rfl, .refl s,
    ⟨[], rfl, fun _ => rfl, .refl s⟩, .refl _ s, hs, id,
    fun _ => ⟨fun _ => .inl rfl, rfl, .refl s⟩, .none c _ rfl⟩

theorem Handed.same {c : CircuitNo} {cl : List EventClass} {l : List ReportBody} (h : Handed c cl l s t) :
    (t.circuit c).notify = (s.circuit c).notify ∧ (t.circuit c).code = (s.circuit c).code ∧
      ((s.circuit c).batch = none → (t.circuit c).batch = none) := by
  rcases h.record with h | ⟨-, h⟩ <;> rw [h] <;> simp

theorem Handed.trans {c : CircuitNo} {a b : List EventClass} {k l : List ReportBody} (h : Handed c a k s t) (g : Handed c b l t u) :
    Handed c (a ++ b) (k ++ l) s u := by
  refine ⟨?_, fun d hd => ?_,
    fun d hd => (h.passed d hd).trans (g.passed d hd) (h.frame.sameLink (by decide)) (h.frame.sameNode (by decide)),
    fun d hd => h.members d (g.members d hd), fun d => (g.copper d).trans (h.copper d), fun d hd => ?_,
    g.timer.trans h.timer, h.reports.trans g.reports (h.frame.sameClock (by decide)), ?_, h.frame.trans g.frame, g.law,
    fun x => g.conditioned (h.conditioned x), fun x => (h.stopped x).trans
      (g.stopped (by rw [h.frame.sameLink (by decide)]; exact x)) (g.frame.evaluated_eq (by decide) (by decide)),
    h.watches.trans g.watches (fun d hd => ?_) (h.frame.sameClock (by decide))⟩
  · have he := g.frame.evaluated_eq (by decide) (by decide)
    rcases h.record with h1 | ⟨h0, h1⟩
    · rcases g.record with g1 | ⟨g0, g1⟩
      · exact .inl (g1.trans h1)
      · exact .inr ⟨by rw [← h1]; exact g0, by rw [g1, h1]⟩
    · rcases g.record with g1 | ⟨g0, -⟩
      · exact .inr ⟨h0, by rw [g1, h1, he]⟩
      · rw [h1] at g0; simp at g0
  · simp only [List.mem_cons, not_or] at hd
    rw [g.others d (by simp; exact ⟨hd.1, fun x => hd.2 (h.members d x)⟩), h.others d (by simp; exact hd)]
  · simp only [List.mem_cons, not_or] at hd
    rw [g.timers d (by simp; exact ⟨hd.1, fun x => hd.2 (h.members d x)⟩), h.timers d (by simp; exact hd)]
  · obtain ⟨a, ha, ha', hsa⟩ := h.sent
    obtain ⟨b, hb, hb', hsb⟩ := g.sent
    refine ⟨a ++ b, by simp [ha, hb], fun x => ?_, hsa.trans hsb⟩
    rw [ha' x, hb' (x.imp h.same.2.2 fun y => by rw [h.frame.sameLink (by decide)]; exact y)]; rfl
  · unfold State.startedCircuits at hd ⊢
    rw [h.frame.sameLink (by decide)] at hd
    split at hd
    next hup => rw [if_pos hup]; exact h.members d hd
    next => cases hd

/-- What touches the watches, the reports and the free values alone is a handing. -/
theorem Handed.quiet {cl : List EventClass} {l : List ReportBody} (hs : BatchLaw s) (c : CircuitNo)
    (hf : SameBut [.watches, .reports, .freeValues] s t) (hr : Reported l s t)
    (hw : Witnessed (cl.map fun cls => (c, cls)) s t) (hn : .migrateStart ∉ cl) : Handed c cl l s t := by
  have hc := hf.sameCircuit (by simp)
  have hb : t.batches = s.batches := hf .batches (by simp)
  refine ⟨.inl (hc c), fun d _ => hc d, fun d _ => .same (hc d) (by rw [hf.sameResponse (by simp)]), fun d => ?_, fun d => by rw [hc], fun d _ => ?_, ?_, hr, ⟨[], rfl, fun _ => rfl, hf.sentNone (by simp)⟩,
    hf.mono (by decide), hs.congr hb fun d => by rw [hc], fun h d => ?_,
    fun _ => ⟨fun d => .inl (hc d), hf.sameResponse (by simp), hf.sentNone (by simp)⟩, hw.taken hn _⟩
  · rw [State.batchCircuits_congr (by rw [hc]) hb]; exact id
  · rw [hf.sameResponse (by simp)]
  · rw [hf.sameResponse (by simp)]
  · rw [hf.evaluated_eq (by simp) (by simp), hc, h d]

/-- R160: the handing to the Batch Unit. -/
theorem batchOutcome_handed (hs : BatchLaw s) (c : CircuitNo) (o : OutcomeRecord) : ∃ l, Handed c [] l s (s.batchOutcome c o) := by
  rcases batchOutcome_cases hs c o with h | ⟨id, b, i, m, x, hid, hb, hm, hmc, hmx, hlaw, h⟩
  · rw [h]; exact ⟨[], .refl hs c⟩
  · obtain ⟨hxc, hxp⟩ := memberAfter_some hmx
    have hb0 := hs.records id b hb
    obtain ⟨hl, hmap⟩ := Batch.lawful_setMember hb0 hm hxc
    set k := s.setBatch id (some (b.setMember i x)) with hk
    have hf : SameBut [.batches] s k := setBatch_frame s id _
    have hfr := batchOutcome_frame s c o
    have hck : ∀ d, k.circuit d = s.circuit d := hf.sameCircuit (by simp)
    have hkb : k.batch id = some (b.setMember i x) := by simp [hk]
    have hbc : s.batchCircuits c = b.members.map Member.circuit := by simp [State.batchCircuits, hid, hb]
    have hns : c ∉ (b.setMember i x).starts k := by
      have := Batch.not_start (s := k) hl (i := i) (x := x)
        (by simp [Batch.setMember, (List.getElem?_eq_some_iff.mp hm).1]) hxp
      rwa [hxc, hmc] at this
    have hcm : c ∈ b.members.map Member.circuit := by rw [← hmc]; exact List.mem_map_of_mem (List.mem_of_getElem? hm)
    have hev := hfr.evaluated_eq (by decide) (by decide)
    obtain ⟨l, hr⟩ := h.reported
    have hcop : ∀ d, ((s.batchOutcome c o).circuit d).copper = (s.circuit d).copper := by
      intro d
      by_cases hd : d ∈ (b.setMember i x).starts k
      · obtain ⟨j, hj⟩ := List.getElem?_of_mem hd
        rw [h.started j d hj, hck]; rfl
      · have := h.left d hd
        split at this <;> rw [this, hck]; rfl
    have hck' : ∀ d, k.peer.response.get d = s.peer.response.get d := fun d => by rw [hf.sameResponse (by simp)]
    refine ⟨l, ?_, fun d hd => ?_, fun d hd => ?_, fun d hd => ?_, hcop, fun d hd => ?_, ?_, ?_, ?_, hfr.mono (by decide), h.batchLaw hlaw hkb, fun hall d => ?_, fun hup => ?_, ?_⟩
    · have := h.left c hns
      rw [hmap] at this
      split at this
      · exact .inr ⟨by rw [hid]; rfl, by rw [this, hck]⟩
      · exact .inl (by rw [this, hck])
    · simp only [List.mem_cons, not_or, hbc] at hd
      have hds : d ∉ (b.setMember i x).starts k := fun y => hd.2 (by rw [← hmap]; exact Batch.starts_mem y)
      have := h.left d hds
      rw [if_neg (by rw [hmap]; exact fun y => hd.2 y.2)] at this
      rw [this, hck]
    · by_cases hds : d ∈ (b.setMember i x).starts k
      · obtain ⟨j, hj⟩ := List.getElem?_of_mem hds
        obtain ⟨⟨m1, m2⟩, m3, m4, m5⟩ := startable_iff.mp (Batch.starts_startable hds)
        have hdm : (s.circuit d).batch = some id := (hs.members d id).mpr ⟨b, hb, by rw [← hmap]; exact Batch.starts_mem hds⟩
        rw [hck] at m1 m2 m3 m4
        refine ⟨(s.circuit d).batch, ((s.batchOutcome c o).circuit d).conditioning, .inl rfl, .inr ⟨by rw [← hf.sameLink (by simp)]; exact m5, by rw [hdm]; rfl, ?_, ?_,
          s.peer.counter + BitVec.ofNat 8 j, ?_⟩⟩
        · simp [Circuit.mayStart, m1, m4, Option.isSome_iff_ne_none, m2, m3]
        · rw [h.timers d, if_pos hds]
        · have hcn : k.peer.counter = s.peer.counter := hf.sameCounter (by simp)
          rw [h.started j d hj, hck, startContext_congr _ _ (hf.sameNode (by simp)), hcn]; rfl
      · have hr' : (s.batchOutcome c o).peer.response.get d = s.peer.response.get d := by rw [h.timers d, if_neg hds, hck']
        have := h.left d hds
        split at this
        · exact ⟨none, ((s.batchOutcome c o).circuit d).conditioning, .inr rfl, .inl ⟨by rw [this, hck]; rfl, hr'⟩⟩
        · exact .same (by rw [this, hck]) hr'
    · rw [hbc]
      unfold State.batchCircuits at hd
      by_cases h0 : ((b.setMember i x).afterStep k).remaining = 0
      · have := h.left c hns
        rw [if_pos ⟨h0, by rw [hmap]; exact hcm⟩] at this
        rw [this] at hd
        simp at hd
      · rw [h.batch_kept c (fun y => h0 y.1), hck, hid] at hd
        have hrec := h.record
        rw [if_neg h0] at hrec
        simp only [Option.bind_some, hrec] at hd
        rw [Batch.afterStep_circuits, hmap] at hd
        exact hd
    · simp only [List.mem_cons, not_or, hbc] at hd
      have hds : d ∉ (b.setMember i x).starts k := fun y => hd.2 (by rw [← hmap]; exact Batch.starts_mem y)
      rw [h.timers d, if_neg hds, hf.sameResponse (by simp)]
    · rw [h.timers c, if_neg hns, hf.sameResponse (by simp)]
    · simpa using (hf.reported (by simp)).trans hr (hf.sameClock (by simp))
    · refine ⟨_, proposals_all _ _, fun y => ?_, (Sent.trans (hf.sentNone (by simp)) h.sent)⟩
      rcases y with y | y
      · rw [hid] at y; cases y
      · have hnil : (b.setMember i x).starts k = [] := by
          simp only [Batch.starts, startable_link (s := k) (by rw [hf.sameLink (by simp)]; exact y)]
          simp
        rw [hnil]; rfl
    · by_cases hd : d ∈ (b.setMember i x).starts k
      · obtain ⟨j, hj⟩ := List.getElem?_of_mem hd
        rw [h.started j d hj, evaluated_evaluated]
      · have := h.left d hd
        split at this
        · rw [this, evaluated_evaluated]
        · rw [this, hck, hev]; exact hall d
    · have hnil : (b.setMember i x).starts k = [] := by
        simp only [Batch.starts, startable_link (s := k) hup]
        simp
      refine ⟨fun d => ?_, ?_, ?_⟩
      · have := h.left d (by rw [hnil]; simp)
        split at this
        · exact .inr (by rw [this, hck])
        · exact .inl (by rw [this, hck])
      · apply Table.ext_get
        intro d
        rw [h.timers d, if_neg (by rw [hnil]; simp), hf.sameResponse (by simp)]
      · have := h.sent
        rw [hnil] at this
        exact Sent.trans (a := []) (hf.sentNone (by simp)) this
    · have hw : Witnessed (((b.setMember i x).starts k).map fun d => (d, .migrateStart)) k (s.batchOutcome c o) :=
        Eq.trans h.watched (watchEvents_witnessed _ _ k)
      have hw' := (hf.witnessed (by simp)).trans hw (hf.sameClock (by simp))
      rw [List.nil_append] at hw'
      refine ⟨_, hw', ?_, fun e he _ => ?_⟩
      · rw [List.map_nil, List.filter_eq_nil_iff]
        intro e he
        obtain ⟨d, -, rfl⟩ := List.mem_map.mp he
        simp
      · obtain ⟨d, hd, rfl⟩ := List.mem_map.mp he
        have hup : s.peer.state = .up := by
          by_contra hup
          have hnil : (b.setMember i x).starts k = [] := by
            simp only [Batch.starts, startable_link (s := k) hup]
            simp
          rw [hnil] at hd
          cases hd
        unfold State.startedCircuits
        rw [if_pos hup, hbc, ← hmap]
        exact Batch.starts_mem hd

/-- R166, R167: the handing to the Watch Unit. -/
theorem watchOutcome_handed (hs : BatchLaw s) (c : CircuitNo) (code : OutcomeCode) :
    ∃ l, Handed c (outcomeClass code).toList l s (s.watchOutcome c code) := by
  have hr : ∃ l, Reported l s (s.watchOutcome c code) := by
    unfold State.watchOutcome
    split
    · exact watchEvent_reported s c _ _
    · exact ⟨[], .refl s⟩
  obtain ⟨l, hr⟩ := hr
  refine ⟨l, .quiet hs c ((watchOutcome_frame s c code).mono (by decide)) hr ?_ (by cases code <;> decide)⟩
  unfold State.watchOutcome
  cases outcomeClass code with
  | none => exact Eq.refl _
  | some cls => exact watchEvent_witnessed s c cls _

/-- R19: the report of an outcome. -/
theorem reportOutcome_handed (hs : BatchLaw s) (c : CircuitNo) (o : OutcomeRecord) :
    ∃ l, Handed c [] l s (s.reportOutcome c o) ∧ ((s.circuit c).notify = true → ReportBody.circuit c (s.circuit c).code o ∈ l) := by
  have hw := (reportOutcome_frame s c o).witnessed (by simp)
  have hf : SameBut [.watches, .reports, .freeValues] s (s.reportOutcome c o) := (reportOutcome_frame s c o).mono (by decide)
  by_cases hn : (s.circuit c).notify = true
  · refine ⟨[_], .quiet hs c hf ?_ hw (by simp), fun _ => List.mem_singleton.mpr rfl⟩
    unfold State.reportOutcome
    rw [if_pos hn]
    exact handReport_reported s _
  · refine ⟨[], .quiet hs c hf ?_ hw (by simp), fun h => absurd h hn⟩
    unfold State.reportOutcome
    rw [if_neg hn]
    exact .refl s

/-- R19, R161: the three handings of an outcome, in any order. -/
theorem handOutcome_handed (hs : BatchLaw s) (c : CircuitNo) (o : OutcomeRecord) :
    ∃ l, Handed c (outcomeClass o.code).toList l s (s.handOutcome c o) ∧
      ((s.circuit c).notify = true → ReportBody.circuit c (s.circuit c).code o ∈ l) := by
  have keep : ∀ {cl k t}, Handed c cl k s t → ∃ l, Handed c cl (k ++ l) s (t.reportOutcome c o) ∧
      ((s.circuit c).notify = true → ReportBody.circuit c (s.circuit c).code o ∈ l) := by
    intro cl k t h
    obtain ⟨l, hl, hm⟩ := reportOutcome_handed h.law c o
    refine ⟨l, by simpa using h.trans hl, fun hn => ?_⟩
    have := hm (by rw [h.same.1]; exact hn)
    rwa [h.same.2.1] at this
  have batch : ∀ {cl k t}, Handed c cl k s t → ∃ l, Handed c cl (k ++ l) s (t.batchOutcome c o) := by
    intro cl k t h
    obtain ⟨l, hl⟩ := batchOutcome_handed h.law c o
    exact ⟨l, by simpa using h.trans hl⟩
  have watch : ∀ {k t}, Handed c [] k s t → ∃ l, Handed c (outcomeClass o.code).toList (k ++ l) s (t.watchOutcome c o.code) := by
    intro k t h
    obtain ⟨l, hl⟩ := watchOutcome_handed h.law c o.code
    exact ⟨l, by simpa using h.trans hl⟩
  have hd : Handed c [] [] s s.drawn := .quiet hs c ((drawn_frame s).mono (by decide)) ((drawn_frame s).reported (by simp))
    ((drawn_frame s).witnessed (by simp)) (by simp)
  have bwr : ∀ {t}, Handed c [] [] s t → ∃ l, Handed c (outcomeClass o.code).toList l s
      (((t.batchOutcome c o).watchOutcome c o.code).reportOutcome c o) ∧
      ((s.circuit c).notify = true → ReportBody.circuit c (s.circuit c).code o ∈ l) := by
    intro t h
    obtain ⟨a, ha⟩ := batch h
    obtain ⟨b, hb⟩ := watch ha
    obtain ⟨d, hd, hm⟩ := keep hb
    exact ⟨_, hd, fun x => List.mem_append_right _ (hm x)⟩
  unfold State.handOutcome
  split
  · exact bwr (Handed.refl hs c)
  · simp only
    split
    · exact bwr hd
    · obtain ⟨a, ha⟩ := batch hd
      obtain ⟨e, he, hm⟩ := keep ha
      obtain ⟨b, hb⟩ := watch he
      exact ⟨_, hb, fun x => List.mem_append_left _ (List.mem_append_right _ (hm x))⟩
    · obtain ⟨b, hb⟩ := watch hd
      obtain ⟨a, ha⟩ := batch hb
      obtain ⟨e, he, hm⟩ := keep ha
      exact ⟨_, he, fun x => List.mem_append_right _ (hm x)⟩
    · obtain ⟨b, hb⟩ := watch hd
      obtain ⟨e, he, hm⟩ := keep hb
      obtain ⟨a, ha⟩ := batch he
      exact ⟨_, ha, fun x => List.mem_append_left _ (List.mem_append_right _ (hm x))⟩
    · obtain ⟨e, he, hm⟩ := keep hd
      obtain ⟨a, ha⟩ := batch he
      obtain ⟨b, hb⟩ := watch ha
      exact ⟨_, hb, fun x => List.mem_append_left _ (List.mem_append_left _ (List.mem_append_right _ (hm x)))⟩
    · obtain ⟨e, he, hm⟩ := keep hd
      obtain ⟨b, hb⟩ := watch he
      obtain ⟨a, ha⟩ := batch hb
      exact ⟨_, ha, fun x => List.mem_append_left _ (List.mem_append_left _ (List.mem_append_right _ (hm x)))⟩

/-- R160: an outcome that no membership takes notice of. -/
theorem batchOutcome_untouched (c : CircuitNo) {o : OutcomeRecord} (h : ∀ m, memberAfter m o = none) (s : State) :
    s.batchOutcome c o = s := by
  unfold State.batchOutcome
  split
  · split
    · split
      · split
        next hx =>
          obtain ⟨m, -, hm⟩ := Option.bind_eq_some_iff.mp hx
          rw [h] at hm; cases hm
        · rfl
      · rfl
    · rfl
  · rfl

end Sys2Proof.Machine
end

