-- ==== Sys2Proof/Laws/Turns.lean ====
section
/-! SUPPORT. What each turn of a circuit does, said once: abandonment, revert, release, collapse, splice (R40, R42, R46, R48,
R49, R191). -/

namespace Sys2Proof.Machine

variable {s t u : State}

/-! ### Writes of a record -/

theorem BatchLaw.of_frame {l : List Block} (h : BatchLaw s) (hf : SameBut l s t) (hb : Block.batches ∉ l)
    (hc : ∀ c, (t.circuit c).batch = (s.circuit c).batch) : BatchLaw t := h.congr (hf .batches hb) hc

theorem putCircuit_batch {c : CircuitNo} {r : Circuit} (hr : r.batch = (s.circuit c).batch) (d : CircuitNo) :
    ((s.putCircuit c r).circuit d).batch = (s.circuit d).batch := by
  rw [putCircuit_circuit]
  split
  · subst_vars; exact hr
  · rfl

theorem putCircuit_evaluated (c : CircuitNo) (r : Circuit) (h : AllEvaluated s) : AllEvaluated (s.putCircuit c r) := by
  intro d
  rw [(putCircuit_frame s c r).evaluated_eq (by simp) (by simp), putCircuit_circuit]
  split
  · rfl
  · exact h d

theorem AllEvaluated.of_frame {l : List Block} (h : AllEvaluated s) (hf : SameBut l s t) (hc : Block.circuits ∉ l) (hs : Block.spans ∉ l)
    (hl : Block.laneRecords ∉ l) : AllEvaluated t := fun d => by
  rw [hf.evaluated_eq hs hl, hf.sameCircuit hc]; exact h d

theorem Conditioned.allEvaluated (h : Conditioned s) : AllEvaluated s := by
  intro d
  have h' := h d
  have : conditioned s.spans s.lanes (s.circuit d) = (s.circuit d).conditioning := by
    have hc : conditioned s.spans s.lanes (s.circuit d) = true ↔ s.callsForConditioning (s.circuit d) := by
      unfold conditioned State.callsForConditioning
      cases (s.circuit d).state <;> cases (s.circuit d).copper <;>
        simp [LaneInterface.anyUp, State.span]
    exact Bool.eq_iff_iff.mpr (hc.trans h'.symm)
  simp only [evaluated, this]

theorem fc_eq {l : List Block} (h : SameBut l s t) (hc : Block.clock ∉ l) : t.fc = s.fc := h.sameClock hc

/-! ### Outcomes that no batch takes notice of -/

/-- What a turn that no batch takes notice of may change. -/
def quietBlocks : List Block := [.circuits, .occupancy, .spans, .watches, .reports, .overhead, .freeValues]

/-- A turn of circuit `c` to the record `r` that starts nothing and ends no batch: the messages and reports handed. -/
structure QuietTurn (c : CircuitNo) (classes : List EventClass) (r : Circuit) (msgs : List PeerMessage) (l : List ReportBody)
    (s t : State) : Prop where
  record : t.circuit c = evaluated t.spans t.lanes r
  others : CircuitsBut [c] s t
  batch : r.batch = (s.circuit c).batch
  reports : Reported l s t
  sent : Sent msgs s t
  frame : SameBut quietBlocks s t
  conditioned : AllEvaluated s → AllEvaluated t
  watches : Witnessed (classes.map fun cls => (c, cls)) s t
  starts : .migrateStart ∉ classes

theorem QuietTurn.law {c : CircuitNo} {cl : List EventClass} {r : Circuit} {msgs : List PeerMessage} {l : List ReportBody}
    (h : QuietTurn c cl r msgs l s t)
    (hs : BatchLaw s) : BatchLaw t := by
  refine hs.of_frame h.frame (by decide) fun d => ?_
  by_cases hd : d = c
  · subst hd; rw [h.record, evaluated_batch, h.batch]
  · rw [h.others d (by simpa using hd)]

/-- A quiet turn is a turn. -/
theorem QuietTurn.turn {c : CircuitNo} {cl : List EventClass} {r : Circuit} {before after : List PeerMessage} {l : List ReportBody}
    (h : QuietTurn c cl r (before ++ after) l s t)
    (hn : ∀ o, r.outcome = some o → r.notify = true → ReportBody.circuit c r.code o ∈ l) : Turn c cl r before after s t :=
  ⟨.inl h.record, fun d hd => h.others d (by simp at hd ⊢; exact hd.1), fun d _ => by rw [h.frame.sameResponse (by decide)], ⟨l, h.reports, hn⟩,
    ⟨[], rfl, fun _ => rfl, by simpa using h.sent⟩, h.watches.taken h.starts _⟩

/-- The handings of an outcome that changes no member. -/
theorem handOutcome_quiet (c : CircuitNo) {o : OutcomeRecord} (h : ∀ m, memberAfter m o = none) (s : State) :
    SameBut [.watches, .reports, .freeValues] s (s.handOutcome c o) ∧
      ∃ l, Reported l s (s.handOutcome c o) ∧ ((s.circuit c).notify = true → ReportBody.circuit c (s.circuit c).code o ∈ l) := by
  have hw : ∀ t : State, SameBut [.watches, .reports, .freeValues] t (t.watchOutcome c o.code) ∧ ∃ l, Reported l t (t.watchOutcome c o.code) := by
    intro t
    refine ⟨(watchOutcome_frame t c o.code).mono (by decide), ?_⟩
    unfold State.watchOutcome
    split
    · exact watchEvent_reported t c _ _
    · exact ⟨[], .refl t⟩
  have hr : ∀ t : State, SameBut [.watches, .reports, .freeValues] t (t.reportOutcome c o) ∧ ∃ l, Reported l t (t.reportOutcome c o) ∧
      ((t.circuit c).notify = true → ReportBody.circuit c (t.circuit c).code o ∈ l) := by
    intro t
    refine ⟨(reportOutcome_frame t c o).mono (by decide), ?_⟩
    unfold State.reportOutcome
    split
    · exact ⟨[_], handReport_reported t _, fun _ => List.mem_singleton.mpr rfl⟩
    · exact ⟨[], .refl t, fun h => absurd h ‹_›⟩
  have hd : SameBut [.watches, .reports, .freeValues] s s.drawn := (drawn_frame s).mono (by decide)
  have hdr : Reported [] s s.drawn := (drawn_frame s).reported (by simp)
  have wr : ∀ t : State, SameBut [.watches, .reports, .freeValues] s t → Reported [] s t →
      SameBut [.watches, .reports, .freeValues] s ((t.watchOutcome c o.code).reportOutcome c o) ∧
      ∃ l, Reported l s ((t.watchOutcome c o.code).reportOutcome c o) ∧
        ((s.circuit c).notify = true → ReportBody.circuit c (s.circuit c).code o ∈ l) := by
    intro t ht htr
    obtain ⟨f1, a, ha⟩ := hw t
    obtain ⟨f2, b, hb, hm⟩ := hr (t.watchOutcome c o.code)
    have hc : (t.watchOutcome c o.code).circuit c = s.circuit c := by rw [f1.sameCircuit (by simp), ht.sameCircuit (by simp)]
    rw [hc] at hm
    exact ⟨(ht.trans f1).trans f2, _, (htr.trans ha (ht.sameClock (by simp))).trans hb ((ht.trans f1).sameClock (by simp)),
      fun x => List.mem_append_right _ (hm x)⟩
  have rw' : ∀ t : State, SameBut [.watches, .reports, .freeValues] s t → Reported [] s t →
      SameBut [.watches, .reports, .freeValues] s ((t.reportOutcome c o).watchOutcome c o.code) ∧
      ∃ l, Reported l s ((t.reportOutcome c o).watchOutcome c o.code) ∧
        ((s.circuit c).notify = true → ReportBody.circuit c (s.circuit c).code o ∈ l) := by
    intro t ht htr
    obtain ⟨f2, b, hb, hm⟩ := hr t
    obtain ⟨f1, a, ha⟩ := hw (t.reportOutcome c o)
    rw [ht.sameCircuit (by simp)] at hm
    exact ⟨(ht.trans f2).trans f1, _, (htr.trans hb (ht.sameClock (by simp))).trans ha ((ht.trans f2).sameClock (by simp)),
      fun x => List.mem_append_left _ (List.mem_append_right _ (hm x))⟩
  unfold State.handOutcome
  simp only [batchOutcome_untouched c h]
  split
  · exact wr s (.refl _ s) (.refl s)
  · split
    · exact wr _ hd hdr
    · exact rw' _ hd hdr
    · exact wr _ hd hdr
    · exact wr _ hd hdr
    · exact rw' _ hd hdr
    · exact rw' _ hd hdr

/-- R166, R167: the events of an outcome that changes no member. -/
theorem handOutcome_witnessed (c : CircuitNo) {o : OutcomeRecord} (h : ∀ m, memberAfter m o = none) (s : State) :
    Witnessed ((outcomeClass o.code).toList.map fun cls => (c, cls)) s (s.handOutcome c o) := by
  have hw : ∀ t : State, Witnessed ((outcomeClass o.code).toList.map fun cls => (c, cls)) t (t.watchOutcome c o.code) := by
    intro t
    unfold State.watchOutcome
    cases outcomeClass o.code with
    | none => exact Eq.refl _
    | some cls => exact watchEvent_witnessed t c cls _
  have hr : ∀ t : State, Witnessed [] t (t.reportOutcome c o) := fun t => (reportOutcome_frame t c o).witnessed (by simp)
  have wr : ∀ t : State, t.watches = s.watches → t.fc = s.fc →
      Witnessed ((outcomeClass o.code).toList.map fun cls => (c, cls)) s ((t.watchOutcome c o.code).reportOutcome c o) := by
    intro t h1 h2
    have h0 : Witnessed [] s t := h1
    simpa using (h0.trans (hw t) h2).trans (hr _) (((watchOutcome_frame t c o.code).sameClock (by simp)).trans h2)
  have rw' : ∀ t : State, t.watches = s.watches → t.fc = s.fc →
      Witnessed ((outcomeClass o.code).toList.map fun cls => (c, cls)) s ((t.reportOutcome c o).watchOutcome c o.code) := by
    intro t h1 h2
    have h0 : Witnessed [] s t := h1
    simpa using (h0.trans (hr t) h2).trans (hw _) (((reportOutcome_frame t c o).sameClock (by simp)).trans h2)
  unfold State.handOutcome
  simp only [batchOutcome_untouched c h]
  split
  · exact wr s rfl rfl
  · split
    · exact wr _ rfl rfl
    · exact rw' _ rfl rfl
    · exact wr _ rfl rfl
    · exact wr _ rfl rfl
    · exact rw' _ rfl rfl
    · exact rw' _ rfl rfl

/-- The record of a circuit with an outcome written into it. -/
def Circuit.withOutcome (r : Circuit) (o : OutcomeRecord) : Circuit := { r with outcome := some o, changed := true }

/-- R19: an outcome that changes no member, written into a record. -/
theorem writeOutcome_quiet (c : CircuitNo) {o : OutcomeRecord} (h : ∀ m, memberAfter m o = none) (s : State) :
    ∃ l, QuietTurn c (outcomeClass o.code).toList ((s.circuit c).withOutcome o) [] l s (s.writeOutcome c o) ∧
      ((s.circuit c).notify = true → ReportBody.circuit c (s.circuit c).code o ∈ l) := by
  obtain ⟨hf, l, hl, hm⟩ := handOutcome_quiet c h (s.putCircuit c ((s.circuit c).withOutcome o))
  have hp := putCircuit_frame s c ((s.circuit c).withOutcome o)
  have hfr : SameBut [.circuits, .watches, .reports, .freeValues] s (s.writeOutcome c o) := (hp.mono (by decide)).trans (hf.mono (by decide))
  refine ⟨l, ⟨?_, fun d hd => ?_, rfl, ?_, hfr.sentNone (by simp), hfr.mono (by decide), ?_, ?_, by cases o.code <;> decide⟩, ?_⟩
  · rw [hfr.evaluated_eq (by simp) (by simp)]
    exact (hf.sameCircuit (by simp) c).trans (by simp)
  · refine (hf.sameCircuit (by simp) d).trans ?_
    exact State.putCircuit_circuit_ne _ _ (by simp at hd; exact Ne.symm hd)
  · exact (hp.reported (by simp)).trans hl (hp.sameClock (by simp))
  · intro x
    exact (putCircuit_evaluated c _ x).of_frame hf (by simp) (by simp) (by simp)
  · exact (hp.witnessed (by simp)).trans (handOutcome_witnessed c h _) (hp.sameClock (by simp))
  · simpa [Circuit.withOutcome] using hm

/-- A quiet turn after a change that no holding of an outcome shows, and before messages. -/
theorem QuietTurn.around {c : CircuitNo} {cl : List EventClass} {r : Circuit} {m n : List PeerMessage} {l : List ReportBody} {p q : State}
    (h : QuietTurn c cl r m l p q) (hpre : SameBut [.circuits, .occupancy, .freeValues] s p)
    (hb : r.batch = (s.circuit c).batch) (ho : CircuitsBut [c] s p) (he : AllEvaluated s → AllEvaluated p)
    (hpost : SameBut [.overhead] q t) (hs : Sent n q t) : QuietTurn c cl r (m ++ n) l s t := by
  refine ⟨?_, fun d hd => ?_, hb, ?_, ?_, ((hpre.mono (by decide)).trans h.frame).trans (hpost.mono (by decide)), fun x => ?_, ?_, h.starts⟩
  · rw [hpost.sameCircuit (by simp), h.record, hpost.evaluated_eq (by simp) (by simp)]
  · rw [hpost.sameCircuit (by simp), h.others d hd, ho d hd]
  · simpa using ((hpre.reported (by simp)).trans h.reports (hpre.sameClock (by simp))).trans (hpost.reported (by simp))
      ((hpre.mono (by decide)).trans h.frame |>.sameClock (by decide))
  · simpa using ((hpre.sentNone (by simp)).trans h.sent).trans hs
  · exact (h.conditioned (he x)).of_frame hpost (by simp) (by simp) (by simp)
  · simpa using ((hpre.witnessed (by simp)).trans h.watches (hpre.sameClock (by simp))).trans (hpost.witnessed (by simp))
      ((hpre.mono (by decide)).trans h.frame |>.sameClock (by decide))

/-- The messages for a circuit, by its code (R125). -/
theorem sendFor_spec (s : State) (c : CircuitNo) (m : TrunkCode → PeerMessage) {code : Option TrunkCode} (h : (s.circuit c).code = code) :
    Sent (code.toList.map m) s (s.sendFor c m) ∧ SameBut [.overhead] s (s.sendFor c m) := by
  have := sendFor_sent s c m
  rw [Circuit.messages, h] at this
  exact ⟨this, sendFor_frame s c m⟩

/-! ### Revert (R49) and collapse (R48) -/

/-- J of a revert (R74). -/
theorem revertOffset_spec (s : State) (r : Circuit) : RevertJ r (s.revertOffset r).2 := by
  unfold RevertJ State.revertOffset
  cases r.delta with
  | none => rfl
  | some d =>
    simp only [State.offset]
    split
    next h => exact ⟨_, by rw [h], fun x => by omega, fun x => by omega⟩
    next h => exact ⟨_, rfl, fun x => by simpa using x, fun x => by simp; omega⟩

theorem revert_quiet (c : CircuitNo) (reason : Reason) (s : State) :
    ∃ l, QuietTurn c [.revert] ((s.circuit c).revertedRecord reason (s.revertOffset (s.circuit c)).2 s.fc)
      (match reason with
        | .commanded => (s.circuit c).messages .revert
        | .peerReverted => (s.circuit c).messages .revertDone
        | _ => []) l s (s.revertCircuit c reason) ∧
      ((s.circuit c).notify = true → ∀ o, ((s.circuit c).revertedRecord reason (s.revertOffset (s.circuit c)).2 s.fc).outcome = some o →
        ReportBody.circuit c (s.circuit c).code o ∈ l) := by
  set r := s.circuit c with hr
  set j := s.revertOffset r with hj
  have f0 := revertOffset_frame s r
  rw [← hj] at f0
  set r1 := r.backToCopper (.draining (.load Config.drainFrames)) with hr1
  set p := j.1.putCircuit c r1 with hp
  have f1 : SameBut [.circuits, .freeValues] s p := (f0.mono (by decide)).trans ((putCircuit_frame j.1 c r1).mono (by decide))
  have hpc : p.circuit c = evaluated p.spans p.lanes r1 := by
    rw [hp, State.putCircuit_circuit_eq, (putCircuit_frame j.1 c r1).evaluated_eq (by simp) (by simp)]
  have hfc : p.fc = s.fc := f1.sameClock (by simp)
  obtain ⟨l, hq, hm⟩ := writeOutcome_quiet c (o := ⟨.reverted, some reason, none, r.delta, 0, j.2, r.attemptsUsed, p.fc⟩)
    (fun m => by cases m; rename_i st _; cases st <;> rfl) p
  have e : (p.circuit c).withOutcome ⟨.reverted, some reason, none, r.delta, 0, j.2, r.attemptsUsed, p.fc⟩ =
      evaluated p.spans p.lanes (r.revertedRecord reason j.2 s.fc) := by
    rw [hpc, hfc]; rfl
  have hrec : QuietTurn c [.revert] (r.revertedRecord reason j.2 s.fc) [] l p
      (p.writeOutcome c ⟨.reverted, some reason, none, r.delta, 0, j.2, r.attemptsUsed, p.fc⟩) :=
    ⟨by rw [hq.record, e, evaluated_evaluated], hq.others, by rw [hpc]; rfl, hq.reports, hq.sent, hq.frame, hq.conditioned,
      hq.watches, hq.starts⟩
  set w := p.writeOutcome c ⟨.reverted, some reason, none, r.delta, 0, j.2, r.attemptsUsed, p.fc⟩ with hw
  have hcode : (w.circuit c).code = r.code := by rw [hrec.record]; rfl
  have pre : SameBut [.circuits, .occupancy, .freeValues] s p := f1.mono (by decide)
  have ho : CircuitsBut [c] s p := fun d hd => by
    rw [hp, State.putCircuit_circuit_ne _ _ (by simp at hd; exact Ne.symm hd), f0.sameCircuit (by simp)]
  have he : AllEvaluated s → AllEvaluated p := fun x => putCircuit_evaluated c r1 (x.of_frame f0 (by simp) (by simp) (by simp))
  have hb : (r.revertedRecord reason j.2 s.fc).batch = (s.circuit c).batch := rfl
  have hfin : s.revertCircuit c reason = match revertMessage reason with
      | some m => w.sendFor c m
      | none => w := rfl
  refine ⟨l, ?_, fun hn o ho => ?_⟩
  · have send : ∀ m : TrunkCode → PeerMessage, QuietTurn c [.revert] (r.revertedRecord reason j.2 s.fc) (r.messages m) l s (w.sendFor c m) := by
      intro m
      obtain ⟨h1, h2⟩ := sendFor_spec w c m hcode
      exact hrec.around pre hb ho he h2 h1
    have still : QuietTurn c [.revert] (r.revertedRecord reason j.2 s.fc) [] l s w :=
      hrec.around pre hb ho he (.refl _ w) (.refl w)
    rw [hfin]
    cases reason <;> first | exact send _ | exact still
  · have := hm (by rw [hpc]; exact hn)
    rw [hpc] at this
    cases ho
    rw [hfc] at this
    exact this

/-- R49: what a revert does. -/
theorem revertCircuit_spec (c : CircuitNo) (reason : Reason) (s : State) :
    Reverted c reason (s.revertOffset (s.circuit c)).2 s (s.revertCircuit c reason) := by
  obtain ⟨l, hq, hm⟩ := revert_quiet c reason s
  exact ⟨revertOffset_spec s _, QuietTurn.turn (before := []) hq fun o ho hn => hm hn o ho⟩

/-- R48: the collapse of the build-out of a circuit in FIBRE. -/
theorem collapseTest_quiet (c : CircuitNo) (s : State) (hst : (s.circuit c).state = .fibre) (hev : s.circuit c = evaluated s.spans s.lanes (s.circuit c)) :
    ∃ l, QuietTurn c [] ((s.circuit c).afterCollapseTest (s.busy c) s.fc) [] l s (s.collapseTest c) ∧
      ((s.circuit c).notify = true → 0 < (s.circuit c).buildOut ∧ s.busy c = false →
        ∀ o, ((s.circuit c).collapsedRecord s.fc).outcome = some o → ReportBody.circuit c (s.circuit c).code o ∈ l) := by
  have hiff : ((s.circuit c).state = .fibre ∧ 0 < (s.circuit c).buildOut ∧ s.busy c = false) ↔
      (0 < (s.circuit c).buildOut ∧ s.busy c = false) := ⟨fun h => h.2, fun h => ⟨hst, h⟩⟩
  unfold State.collapseTest Circuit.afterCollapseTest
  simp only [hiff]
  split
  next h =>
    set r := s.circuit c with hr
    set p := s.putCircuit c { r with buildOut := 0 } with hp
    have f1 := putCircuit_frame s c { r with buildOut := 0 }
    rw [← hp] at f1
    have hpc : p.circuit c = evaluated p.spans p.lanes { r with buildOut := 0 } := by
      rw [hp, State.putCircuit_circuit_eq, f1.evaluated_eq (by simp) (by simp)]
    obtain ⟨l, hq, hm⟩ := writeOutcome_quiet c (o := ⟨.collapsed, none, none, r.delta, 0, some ⟨r.buildOut, true⟩, r.attemptsUsed, s.fc⟩)
      (fun m => by cases m; rename_i st _; cases st <;> rfl) p
    refine ⟨l, ?_, fun hn _ o ho => ?_⟩
    · refine QuietTurn.around (r := r.collapsedRecord s.fc) (m := []) (n := []) (p := p) ?_ (f1.mono (by decide)) rfl (fun d hd => ?_) (putCircuit_evaluated c _) (.refl _ _) (.refl _)
      · refine ⟨?_, hq.others, by rw [hpc]; rfl, hq.reports, hq.sent, hq.frame, hq.conditioned, hq.watches, hq.starts⟩
        rw [hq.record, hpc]
        rfl
      · exact State.putCircuit_circuit_ne _ _ (by simp at hd; exact Ne.symm hd)
    · have := hm (by rw [hpc]; exact hn)
      rw [hpc] at this
      cases ho
      exact this
  next h =>
    exact ⟨[], ⟨hev, fun _ _ => rfl, rfl, .refl s, .refl s, .refl _ s, id, Eq.refl _, by simp⟩, fun _ h' => absurd h' h⟩

/-! ### Release (R46) and auto-retire (R91) -/

/-- Every copper attachment is entered in the occupancy table (R9). -/
def CopperOwned (s : State) : Prop := ∀ d p, (s.circuit d).copper = some p → s.timeslotOwner p = some d

theorem setTimeslotOwner_owner (s : State) (p q : CopperPosition) (c : Option CircuitNo) :
    (s.setTimeslotOwner p c).timeslotOwner q = if p = q then c else s.timeslotOwner q := by
  obtain ⟨n, i⟩ := p
  obtain ⟨m, j⟩ := q
  simp only [State.timeslotOwner, State.setTimeslotOwner, State.setTimeslots_timeslots, Table.get_set, CopperPosition.mk.injEq]
  by_cases h : n = m
  · subst h; simp [Table.get_set]
  · simp [h]

theorem occupied_none (s : State) (n : SpanNo) : s.occupiedEntries n = 0 ↔ ∀ i : TimeslotNo, s.timeslotOwner ⟨n, i⟩ = none := by
  unfold State.occupiedEntries State.timeslotOwner
  rw [List.length_eq_zero_iff, List.filter_eq_nil_iff]
  constructor
  · intro h i
    have := h ((s.timeslots.get n).get i) (by rw [Table.get_eq]; exact List.getElem_mem _)
    simpa using this
  · intro h a ha
    obtain ⟨i, hi, rfl⟩ := List.getElem_of_mem ha
    have := h ⟨i, by rw [← (s.timeslots.get n).size]; exact hi⟩
    rw [Table.get_eq] at this
    simp [this]

/-- A span on which no circuit is attached changes no conditioning. -/
theorem evaluated_setSpan {s : State} {n : SpanNo} (x : Span) {r : Circuit} (h : ∀ i, r.copper ≠ some ⟨n, i⟩) :
    evaluated (s.setSpan n x).spans s.lanes r = evaluated s.spans s.lanes r := by
  have : conditioned (s.setSpan n x).spans s.lanes r = conditioned s.spans s.lanes r := by
    unfold conditioned
    cases hr : r.copper with
    | none => rfl
    | some p =>
      have hp : n ≠ p.span := by rintro rfl; exact h p.timeslot hr
      have : (s.setSpan n x).spans.get p.span = s.spans.get p.span := State.setSpan_span_ne s x hp
      simp only [this]
  simp only [evaluated, this]

/-- R91: what the freeing of a timeslot makes of its span. -/
theorem autoRetire_spec {u : State} (n : SpanNo) (hev : AllEvaluated u) (hown : CopperOwned u) :
    (u.autoRetire n).circuits = u.circuits ∧ AllEvaluated (u.autoRetire n) ∧
    (∃ l, Reported l u (u.autoRetire n) ∧ ((u.span n).autoRetire = true → (u.span n).state ≠ .retired →
      (∀ i : TimeslotNo, u.timeslotOwner ⟨n, i⟩ = none) → ReportBody.span n .retired ∈ l)) ∧
    (∀ m, (u.autoRetire n).span m = if m = n ∧ (u.span n).autoRetire = true ∧ (u.span n).state ≠ .retired ∧
        (∀ i : TimeslotNo, u.timeslotOwner ⟨n, i⟩ = none) then (u.span n).retired else u.span m) ∧
    SameBut [.spans, .circuits, .reports] u (u.autoRetire n) := by
  have hfr := autoRetire_frame u n
  unfold State.autoRetire at hfr ⊢
  simp only [occupied_none] at hfr ⊢
  split
  next h =>
    rw [if_pos h] at hfr
    have hno : ∀ d i, (u.circuit d).copper ≠ some ⟨n, i⟩ := by
      intro d i hd
      have := hown d _ hd
      rw [h.2.1 i] at this
      cases this
    set v := (u.setSpan n (u.span n).retired).evaluateAll with hv
    have hvc : v.circuits = u.circuits := by
      apply Table.ext_get
      intro d
      change v.circuit d = u.circuit d
      rw [hv, State.evaluateAll_circuit]
      have e : (u.setSpan n (u.span n).retired).circuit d = u.circuit d := rfl
      have e2 : (u.setSpan n (u.span n).retired).lanes = u.lanes := rfl
      rw [e, e2, evaluated_setSpan _ (hno d), hev d]
    have hr : u.retireSpan n = v.handReport (.span n .retired) := rfl
    have hf := handReport_frame v (.span n .retired)
    rw [← hr] at hf
    have hvs : ∀ m, v.span m = (u.setSpan n (u.span n).retired).span m := fun m => rfl
    refine ⟨(hf.sameCircuits (by simp)).trans hvc, fun d => ?_, ⟨[.span n .retired], ?_, fun _ _ _ => List.mem_singleton.mpr rfl⟩, fun m => ?_, hfr⟩
    · rw [hf.evaluated_eq (by simp) (by simp), hf.sameCircuit (by simp), hv, State.evaluateAll_circuit]
      rfl
    · have h0 : SameBut [.spans, .circuits] u v := ((setSpan_frame u n _).mono (by decide)).trans ((evaluateAll_frame _).mono (by decide))
      have := (h0.reported (by simp)).trans (handReport_reported v (.span n .retired)) (h0.sameClock (by simp))
      simpa [hr] using this
    · rw [hf.sameSpan (by simp), hvs]
      by_cases hm : m = n
      · subst hm
        rw [if_pos ⟨rfl, h.1, h.2.2, h.2.1⟩]; simp
      · rw [if_neg (fun x => hm x.1), State.setSpan_span_ne _ _ (Ne.symm hm)]
  next h =>
    refine ⟨rfl, hev, ⟨[], .refl u, fun h1 h2 h3 => absurd ⟨h1, h3, h2⟩ h⟩, fun m => ?_, .refl _ u⟩
    rw [if_neg]
    rintro ⟨-, h1, h2, h3⟩
    exact h ⟨h1, h3, h2⟩

/-- R46: the release of a fallback. -/
theorem release_quiet (c : CircuitNo) (reason : Reason) (hev : AllEvaluated s) (hown : CopperOwned s) :
    (∃ l, QuietTurn c [.release] ((s.circuit c).releasedRecord reason s.fc)
      (if reason = .peerReleased then [] else (s.circuit c).messages .release) l s (s.releaseFallback c reason) ∧
      ((s.circuit c).notify = true → ∀ o, ((s.circuit c).releasedRecord reason s.fc).outcome = some o →
        ReportBody.circuit c (s.circuit c).code o ∈ l) ∧
      ∀ n, Retires c s (s.releaseFallback c reason) n → ReportBody.span n .retired ∈ l) ∧
    CopperFreed c s (s.releaseFallback c reason) ∧ RetiredWhenEmpty c s (s.releaseFallback c reason) := by
  set r := s.circuit c with hr
  set r1 : Circuit := { r with copper := none, copperTransmit := false, context := none } with hr1
  set q := s.markCopper r.copper none with hq
  have f0 := markCopper_frame s r.copper none
  rw [← hq] at f0
  set p := q.putCircuit c r1 with hp
  have f1 : SameBut [.circuits, .occupancy, .freeValues] s p := (f0.mono (by decide)).trans ((putCircuit_frame q c r1).mono (by decide))
  have hpc : p.circuit c = evaluated p.spans p.lanes r1 := by
    rw [hp, State.putCircuit_circuit_eq, (putCircuit_frame q c r1).evaluated_eq (by simp) (by simp)]
  have hfc : p.fc = s.fc := f1.sameClock (by simp)
  set o : OutcomeRecord := ⟨.released, some reason, none, r.delta, r.buildOut, none, r.attemptsUsed, p.fc⟩ with ho
  obtain ⟨l, hq1, hm⟩ := writeOutcome_quiet c (o := o) (fun m => by cases m; rename_i st _; cases st <;> rfl) p
  have e : (p.circuit c).withOutcome o = evaluated p.spans p.lanes (r.releasedRecord reason s.fc) := by
    rw [hpc, ho, hfc]; rfl
  set w := p.writeOutcome c o with hw
  have hrec : QuietTurn c [.release] (r.releasedRecord reason s.fc) [] l p w :=
    ⟨by rw [hq1.record, e, evaluated_evaluated], hq1.others, by rw [hpc]; rfl, hq1.reports, hq1.sent, hq1.frame, hq1.conditioned,
      hq1.watches, hq1.starts⟩
  have hcode : (w.circuit c).code = r.code := by rw [hrec.record]; rfl
  have hob : CircuitsBut [c] s p := fun d hd => by
    rw [hp, State.putCircuit_circuit_ne _ _ (by simp at hd; exact Ne.symm hd), f0.sameCircuit (by simp)]
  have he : AllEvaluated s → AllEvaluated p := fun x => putCircuit_evaluated c r1 (x.of_frame f0 (by simp) (by simp) (by simp))
  set v := if reason = .peerReleased then w else w.sendFor c .release with hv
  have hqv : QuietTurn c [.release] (r.releasedRecord reason s.fc) (if reason = .peerReleased then [] else r.messages .release) l s v := by
    rw [hv]
    split
    · exact hrec.around (n := []) f1 rfl hob he (.refl _ w) (.refl w)
    · obtain ⟨h1, h2⟩ := sendFor_spec w c .release hcode
      exact hrec.around f1 rfl hob he h2 h1
  have hnote : r.notify = true → ∀ o', (r.releasedRecord reason s.fc).outcome = some o' → ReportBody.circuit c r.code o' ∈ l := by
    intro hn o' ho'
    have := hm (by rw [hpc]; exact hn)
    rw [hpc] at this
    cases ho'
    rw [ho, hfc] at this
    exact this
  have howner : ∀ x, v.timeslotOwner x = if r.copper = some x then none else s.timeslotOwner x := by
    intro x
    have hvp : v.timeslots = q.timeslots := by
      have h1 : SameBut [.circuits] q p := putCircuit_frame q c r1
      have h2 : SameBut outcomeBlocks p w := writeOutcome_frame p c o
      have h3 : SameBut [.overhead] w v := by
        rw [hv]; split
        · exact .refl _ w
        · exact sendFor_frame w c _
      exact ((h3.sameOwner (by decide)).1.trans (h2.sameOwner (by decide)).1).trans (h1.sameOwner (by decide)).1
    have : v.timeslotOwner x = q.timeslotOwner x := by simp [State.timeslotOwner, hvp]
    rw [this, hq]
    cases hcop : r.copper with
    | none => simp [State.markCopper]
    | some y => simp [State.markCopper, setTimeslotOwner_owner]
  have hslots : v.slotOwners = s.slotOwners := by
    have h0 : q.slotOwners = s.slotOwners := by rw [hq]; cases r.copper <;> rfl
    have h1 : SameBut [.circuits] q p := putCircuit_frame q c r1
    have h2 : SameBut outcomeBlocks p w := writeOutcome_frame p c o
    have h3 : SameBut [.overhead] w v := by
      rw [hv]; split
      · exact .refl _ w
      · exact sendFor_frame w c _
    exact (((h3.sameOwner (by decide)).2.trans (h2.sameOwner (by decide)).2).trans (h1.sameOwner (by decide)).2).trans h0
  have hvspans : ∀ n, v.span n = s.span n := by
    intro n
    have h2 : SameBut outcomeBlocks p w := writeOutcome_frame p c o
    have h3 : SameBut [.overhead] w v := by
      rw [hv]; split
      · exact .refl _ w
      · exact sendFor_frame w c _
    rw [h3.sameSpan (by decide), h2.sameSpan (by decide), f1.sameSpan (by decide)]
  have hfin : s.releaseFallback c reason = match r.copper with
      | some y => v.autoRetire y.span
      | none => v := rfl
  rw [hfin]
  cases hcop : r.copper with
  | none =>
    simp only
    refine ⟨⟨l, hqv, hnote, fun n hn => absurd hn.1 (by simp [← hr, Circuit.spanNo, hcop])⟩, ⟨fun x => ?_, hslots⟩,
      fun n => ⟨fun hn => absurd hn.1 (by simp [← hr, Circuit.spanNo, hcop]), fun _ => hvspans n⟩⟩
    · rw [← hr]; exact howner x
  | some y =>
    simp only
    have hvown : CopperOwned v := by
      intro d x hd
      rw [howner]
      by_cases hdc : d = c
      · subst hdc; rw [hqv.record] at hd; simp [Circuit.releasedRecord] at hd
      · rw [hqv.others d (by simpa using hdc)] at hd
        rw [if_neg, hown d x hd]
        intro hx
        have := hown c x hx
        rw [hown d x hd] at this
        injection this with this
        exact hdc this
    obtain ⟨h1, h2, ⟨k, h3, h3'⟩, h4, h5⟩ := autoRetire_spec (u := v) y.span (hqv.conditioned hev) hvown
    have hc : ∀ d, (v.autoRetire y.span).circuit d = v.circuit d := fun d => by simp [State.circuit, h1]
    have ht : ∀ x, (v.autoRetire y.span).timeslotOwner x = v.timeslotOwner x := fun x => by
      have := (h5.sameOwner (by decide)).1
      simp [State.timeslotOwner, this]
    refine ⟨⟨l ++ k, ⟨?_, fun d hd => ?_, rfl, ?_, ?_, ?_, fun _ => h2, ?_, hqv.starts⟩,
      fun hn o' ho' => List.mem_append_left _ (hnote hn o' ho'), fun n hn => List.mem_append_right _ ?_⟩,
      ⟨fun x => ?_, ?_⟩, fun n => ?_⟩
    · rw [← h2 c, hc, hqv.record, evaluated_evaluated]
    · rw [hc]; exact hqv.others d hd
    · exact hqv.reports.trans h3 (hqv.frame.sameClock (by decide))
    · have := hqv.sent.trans (h5.sentNone (by decide))
      rwa [List.append_nil] at this
    · exact hqv.frame.trans (h5.mono (by decide))
    · have := hqv.watches.trans (h5.witnessed (by decide)) (hqv.frame.sameClock (by decide))
      rwa [List.append_nil] at this
    · obtain ⟨n1, n2, n3, n4⟩ := hn
      have e1 : y.span = n := by
        rw [← hr] at n1
        simpa [Circuit.spanNo, hcop] using n1
      subst e1
      exact h3' (by rw [hvspans]; exact n2) (by rw [hvspans]; exact n3) fun i => by rw [← ht]; exact n4 i
    · rw [ht, ← hr]; exact howner x
    · rw [(h5.sameOwner (by decide)).2, hslots]
    · have e1 : ((s.circuit c).spanNo = some n) ↔ n = y.span := by
        rw [← hr]
        simp only [Circuit.spanNo, hcop, Option.map_some, Option.some.injEq]; exact eq_comm
      have e2 : Retires c s (v.autoRetire y.span) n ↔ n = y.span ∧ (v.span y.span).autoRetire = true ∧
          (v.span y.span).state ≠ .retired ∧ ∀ i : TimeslotNo, v.timeslotOwner ⟨y.span, i⟩ = none := by
        unfold Retires
        simp only [ht, e1, ← hvspans n]
        constructor <;> rintro ⟨rfl, h⟩ <;> exact ⟨rfl, h⟩
      rw [h4 n, hvspans n]
      refine ⟨fun hn => ?_, fun hn => if_neg (mt e2.mpr hn)⟩
      rw [if_pos (e2.mp hn), (e2.mp hn).1, hvspans]

/-- R46: what a release does. -/
theorem releaseFallback_spec (c : CircuitNo) (reason : Reason) (hev : AllEvaluated s) (hown : CopperOwned s) :
    Released c reason s (s.releaseFallback c reason) := by
  obtain ⟨⟨l, hq, hm, hret⟩, hf, hs⟩ := release_quiet (s := s) c reason hev hown
  exact ⟨QuietTurn.turn (before := []) hq fun o ho hn => hm hn o ho, hf, hs,
    fun n hn => ⟨l, hq.reports, hret n hn, fun o ho hn => hm hn o ho⟩⟩

end Sys2Proof.Machine
end

