-- ==== Sys2Proof/Laws/Splices.lean ====
section
/-! SUPPORT. What an abandonment, a splice and a rescue do, said once: the turns whose outcome a batch takes notice of (R40,
R42, R52, R160, R191). -/

namespace Sys2Proof.Machine

variable {s t u : State}

/-! ### Turns whose outcome a batch takes notice of -/

/-- A turn of circuit `c` to the record `r`, with all that a later turn of the same step rests on. -/
structure LoudTurn (c : CircuitNo) (classes : List EventClass) (r : Circuit) (before after : List PeerMessage) (l : List ReportBody)
    (s t : State) : Prop where
  record : t.circuit c = evaluated t.spans t.lanes r ∨
    (r.batch.isSome ∧ t.circuit c = evaluated t.spans t.lanes { r with batch := none })
  others : CircuitsBut (c :: s.batchCircuits c) s t
  passed : ∀ d, d ≠ c → Ends d (s.circuit d) (s.peer.response.get d) s t
  members : ∀ d ∈ t.batchCircuits c, d ∈ s.batchCircuits c
  copper : ∀ d, d ≠ c → (t.circuit d).copper = (s.circuit d).copper
  batch : r.batch = (s.circuit c).batch
  timers : ∀ d, d ∉ c :: s.batchCircuits c → t.peer.response.get d = s.peer.response.get d
  reports : Reported l s t
  sent : ∃ proposals, proposals.all isProposal = true ∧ ((s.circuit c).batch = none ∨ s.peer.state ≠ .up → proposals = []) ∧
    Sent (before ++ proposals ++ after) s t
  frame : SameBut releaseBlocks s t
  law : BatchLaw t
  conditioned : AllEvaluated s → AllEvaluated t
  stopped : s.peer.state ≠ .up → (∀ d, d ≠ c → MayLeave s t d ∧ t.peer.response.get d = s.peer.response.get d) ∧ Sent (before ++ after) s t
  watches : EventsTaken c classes (s.startedCircuits c) s t

theorem LoudTurn.turn {c : CircuitNo} {cl : List EventClass} {r : Circuit} {before after : List PeerMessage} {l : List ReportBody}
    (h : LoudTurn c cl r before after l s t)
    (hn : ∀ o, r.outcome = some o → r.notify = true → ReportBody.circuit c r.code o ∈ l) : Turn c cl r before after s t :=
  ⟨h.record, h.others, h.timers, ⟨l, h.reports, hn⟩, h.sent, h.watches⟩

/-- A circuit's code does not depend on how its turn ends with its batch. -/
theorem LoudTurn.code {c : CircuitNo} {cl : List EventClass} {r : Circuit} {before after : List PeerMessage} {l : List ReportBody}
    (h : LoudTurn c cl r before after l s t) : (t.circuit c).code = r.code := by
  rcases h.record with h | ⟨-, h⟩ <;> rw [h] <;> rfl

theorem SameBut.sameAlign {l : List Block} (h : SameBut l s t) (h1 : Block.rings ∉ l) (h2 : Block.matchers ∉ l)
    (h3 : Block.matcherQueue ∉ l) (h4 : Block.pause ∉ l) : t.align = s.align := by
  have j1 := h _ h1
  have j2 := h _ h2
  have j3 := h _ h3
  have j4 := h _ h4
  simp only [Block.same] at j1 j2 j3 j4
  cases hs : s.align
  cases ht : t.align
  simp_all

/-- What a turn changes before its outcome is handed on. -/
def preBlocks : List Block := [.circuits, .matchers, .matcherQueue, .responses, .overhead, .freeValues]

/-- R19: the writing of an outcome, and messages after it, end a turn. -/
theorem writeOutcome_loud {c : CircuitNo} {r : Circuit} {o : OutcomeRecord} {before after : List PeerMessage} {p : State}
    (hs : BatchLaw s) (hpc : p.circuit c = evaluated p.spans p.lanes r) (hb : r.batch = (s.circuit c).batch)
    (pre : SameBut preBlocks s p) (hob : CircuitsBut [c] s p) (hresp : ∀ d, d ≠ c → p.peer.response.get d = s.peer.response.get d)
    (hsent : Sent before s p) (he : AllEvaluated s → AllEvaluated p)
    (hpost : SameBut [.overhead] (p.writeOutcome c o) t) (hafter : Sent after (p.writeOutcome c o) t) :
    ∃ l, LoudTurn c (outcomeClass o.code).toList (r.withOutcome o) before after l s t ∧ (r.notify = true → ReportBody.circuit c r.code o ∈ l) ∧
      (t.peer.response.get c = p.peer.response.get c ∧ t.align = p.align) := by
  set q := p.putCircuit c ((p.circuit c).withOutcome o) with hq
  have fq : SameBut [.circuits] p q := putCircuit_frame p c _
  have hqc : q.circuit c = evaluated q.spans q.lanes (r.withOutcome o) := by
    rw [hq, State.putCircuit_circuit_eq, fq.evaluated_eq (by simp) (by simp), hpc]; rfl
  have hpb : BatchLaw p := by
    refine hs.of_frame pre (by decide) fun d => ?_
    by_cases hd : d = c
    · subst hd; rw [hpc]; exact hb
    · rw [hob d (by simpa using hd)]
  have hqb : BatchLaw q := hpb.of_frame fq (by decide) (putCircuit_batch rfl)
  have hqo : CircuitsBut [c] s q := fun d hd => by
    rw [hq, State.putCircuit_circuit_ne _ _ (by simp at hd; exact Ne.symm hd)]; exact hob d hd
  have hsq : SameBut preBlocks s q := pre.trans (fq.mono (by decide))
  obtain ⟨l, h, hm⟩ := handOutcome_handed hqb c o
  set w := p.writeOutcome c o with hw
  have hw' : q.handOutcome c o = w := rfl
  rw [hw'] at h
  have hbc : q.batchCircuits c = s.batchCircuits c :=
    State.batchCircuits_congr (by rw [hqc]; exact hb) (hsq .batches (by decide))
  have hpw : ∀ r, evaluated t.spans t.lanes r = evaluated w.spans w.lanes r := hpost.evaluated_eq (by simp) (by simp)
  have hqw : ∀ r, evaluated w.spans w.lanes r = evaluated q.spans q.lanes r := h.frame.evaluated_eq (by decide) (by decide)
  have htc := hpost.sameCircuit (by simp)
  refine ⟨l, ⟨?_, fun d hd => ?_, fun d hd => ?_, fun d hd => ?_, fun d hd => ?_, hb, fun d hd => ?_, ?_, ?_, ?_, ?_, fun x => ?_, fun hup => ⟨fun d hd => ⟨?_, ?_⟩, ?_⟩, ?_⟩, fun hn => ?_, ?_, ?_⟩
  · rw [htc, hpw]
    rcases h.record with h1 | ⟨h0, h1⟩
    · left; rw [h1, hqc, hqw]
    · right
      refine ⟨by rw [hqc] at h0; exact h0, ?_⟩
      rw [h1, hqc, hpw]; rfl
  · rw [htc, h.others d (by rw [hbc]; exact hd), hqo d (by simp at hd ⊢; exact hd.1)]
  · have hsw : SameBut turnBlocks s w := (hsq.mono (by decide)).trans (h.frame.mono (by decide))
    have h1 : Ends d (s.circuit d) (s.peer.response.get d) s q :=
      .same (hqo d (by simpa using hd)) (by rw [fq.sameResponse (by simp)]; exact hresp d hd)
    exact (h1.trans (h.passed d hd) (hsq.sameLink (by decide)) (hsq.sameNode (by decide))).trans
      (.same (htc d) (by rw [hpost.sameResponse (by simp)])) (hsw.sameLink (by decide)) (hsw.sameNode (by decide))
  · rw [← hbc]
    refine h.members d ?_
    rwa [State.batchCircuits_congr (by rw [htc]) (hpost .batches (by simp))] at hd
  · rw [htc, h.copper, hqo d (by simpa using hd)]
  · rw [hpost.sameResponse (by simp), h.timers d (by rw [hbc]; exact hd), fq.sameResponse (by simp), hresp d (by simp at hd; exact hd.1)]
  · have := (hsq.reported (by decide)).trans h.reports (hsq.sameClock (by decide))
    simpa using this.trans (hpost.reported (by simp)) ((hsq.sameClock (by decide)) ▸ h.frame.sameClock (by decide))
  · obtain ⟨props, h1, h2, h3⟩ := h.sent
    refine ⟨props, h1, fun x => h2 (x.imp (fun y => by rw [hqc]; exact hb.trans y) fun y => by rw [hsq.sameLink (by decide)]; exact y), ?_⟩
    have := (((hsent.trans (fq.sentNone (by simp))).trans h3).trans hafter)
    simpa using this
  · exact ((hsq.mono (by decide)).trans (h.frame.mono (by decide))).trans (hpost.mono (by decide))
  · exact h.law.of_frame hpost (by simp) fun d => by rw [htc]
  · exact (h.conditioned (putCircuit_evaluated c _ (he x))).of_frame hpost (by simp) (by simp) (by simp)
  · have hst := (h.stopped (by rw [hsq.sameLink (by decide)]; exact hup)).circuits d
    have hqd : q.circuit d = s.circuit d := hqo d (by simpa using hd)
    rcases hst with h1 | h1
    · exact .inl (by rw [htc, h1, hqd])
    · exact .inr (by rw [htc, h1, hqd, hpw])
  · have hst := (h.stopped (by rw [hsq.sameLink (by decide)]; exact hup)).responses
    rw [hpost.sameResponse (by simp), hst, fq.sameResponse (by simp), hresp d hd]
  · have hst := (h.stopped (by rw [hsq.sameLink (by decide)]; exact hup)).sent
    have := (((hsent.trans (fq.sentNone (by simp))).trans hst).trans hafter)
    simpa using this
  · have h1 : EventsTaken c [] (s.startedCircuits c) s q := .none c _ (hsq.sameWatches (by decide))
    have h2 := h1.trans h.watches (fun d hd => by
      unfold State.startedCircuits at hd ⊢
      rwa [hsq.sameLink (by decide), hbc] at hd) (hsq.sameClock (by decide))
    have h3 := h2.trans (EventsTaken.none c [] (hpost.sameWatches (by simp))) (by simp)
      ((hsq.sameClock (by decide)) ▸ h.frame.sameClock (by decide))
    simpa using h3
  · have := hm (by rw [hqc]; exact hn)
    rw [hqc] at this
    exact this
  · rw [hpost.sameResponse (by simp), h.timer, fq.sameResponse (by simp)]
  · rw [hpost.sameAlign (by simp) (by simp) (by simp) (by simp), h.frame.sameAlign (by decide) (by decide) (by decide) (by decide),
      fq.sameAlign (by simp) (by simp) (by simp) (by simp)]

/-- The fields of a released matcher (R67). -/
theorem releaseMatcher_givenUp (c : CircuitNo) (s : State) : GivenUp c s (s.releaseMatcher c) := by
  refine ⟨rfl, fun u => ?_⟩
  simp only [State.releaseMatcher, State.setAlign_unit, Table.get_map]
  rfl

theorem GivenUp.of_align {c : CircuitNo} (h : GivenUp c s t) (e : u.align = t.align) : GivenUp c s u := by
  refine ⟨by rw [e]; exact h.1, fun v => ?_⟩
  have : u.unit v = t.unit v := by simp [State.unit, e]
  rw [this]; exact h.2 v

/-! ### Abandonment (R42) -/

/-- R42: the turn of an abandonment. -/
theorem abandon_loud (hs : BatchLaw s) (c : CircuitNo) (reason : Reason) (decline : Option DeclineReason) :
    ∃ l, LoudTurn c [.abandon] ((s.circuit c).abandonedRecord reason decline s.fc) []
      (if reason = .peerDeclined ∨ reason = .peerAbandoned then [] else (s.circuit c).messages fun code => .abandon code reason) l s
      (s.abandon c reason decline) ∧
    ((s.circuit c).notify = true → ∀ o, ((s.circuit c).abandonedRecord reason decline s.fc).outcome = some o →
      ReportBody.circuit c (s.circuit c).code o ∈ l) ∧
    (s.abandon c reason decline).peer.response.get c = none ∧ GivenUp c s (s.abandon c reason decline) := by
  set r := s.circuit c with hr
  set q := (s.stopResponse c).releaseMatcher c with hq
  have f0 : SameBut [.responses, .matchers, .matcherQueue] s q :=
    ((stopResponse_frame s c).mono (by decide)).trans ((releaseMatcher_frame _ c).mono (by decide))
  have hqr : q.peer.response = s.peer.response.set c none := rfl
  set r1 := r.backToCopper (drainBridge r.fibreTransmit) with hr1
  set p := q.putCircuit c r1 with hp
  have fp : SameBut [.circuits] q p := putCircuit_frame q c r1
  have f1 : SameBut preBlocks s p := (f0.mono (by decide)).trans (fp.mono (by decide))
  have hpc : p.circuit c = evaluated p.spans p.lanes r1 := by
    rw [hp, State.putCircuit_circuit_eq, (putCircuit_frame q c r1).evaluated_eq (by simp) (by simp)]
  have hfc : p.fc = s.fc := f1.sameClock (by decide)
  have hob : CircuitsBut [c] s p := fun d hd => by
    rw [hp, State.putCircuit_circuit_ne _ _ (by simp at hd; exact Ne.symm hd), f0.sameCircuit (by simp)]
  have he : AllEvaluated s → AllEvaluated p := fun x => putCircuit_evaluated c r1 (x.of_frame f0 (by simp) (by simp) (by simp))
  set o : OutcomeRecord := ⟨.abandoned, some reason, decline, r.delta, 0, none, r.attemptsUsed, p.fc⟩ with ho
  have hrec : r1.withOutcome o = r.abandonedRecord reason decline s.fc := by
    simp only [hr1, ho, hfc, Circuit.withOutcome, Circuit.backToCopper, Circuit.abandonedRecord]
    congr 1
  have hgu : ∀ w : State, w.align = p.align → GivenUp c s w := fun w hw => by
    have h0 := releaseMatcher_givenUp c (s.stopResponse c)
    exact GivenUp.of_align (t := q) h0 (hw.trans rfl)
  have hresp : ∀ d, d ≠ c → p.peer.response.get d = s.peer.response.get d := fun d hd => by
    rw [fp.sameResponse (by simp), hqr, Table.get_set_ne _ _ (Ne.symm hd)]
  have hrc : p.peer.response.get c = none := by rw [fp.sameResponse (by simp), hqr]; simp
  set w := p.writeOutcome c o with hw
  have hsent : Sent [] s p := (f0.sentNone (by simp)).trans (fp.sentNone (by simp))
  have hcode : (w.circuit c).code = r.code := by
    obtain ⟨l, h, -⟩ := writeOutcome_loud (o := o) (before := []) (after := []) (t := w) hs hpc rfl f1 hob hresp hsent he
      (.refl _ w) (.refl w)
    rw [h.code]; rfl
  have hfin : s.abandon c reason decline = if abandonSends reason then w.sendFor c fun code => .abandon code reason else w := rfl
  have send : ∀ (after : List PeerMessage) (t : State), SameBut [.overhead] w t → Sent after w t →
      ∃ l, LoudTurn c [.abandon] (r.abandonedRecord reason decline s.fc) [] after l s t ∧
        (r.notify = true → ∀ o', (r.abandonedRecord reason decline s.fc).outcome = some o' → ReportBody.circuit c r.code o' ∈ l) ∧
        t.peer.response.get c = none ∧ GivenUp c s t := by
    intro after t h1 h2
    obtain ⟨l, h, hm, h3, h4⟩ := writeOutcome_loud hs hpc rfl f1 hob hresp hsent he h1 h2
    rw [hrec] at h
    refine ⟨l, h, fun hn o' ho' => ?_, by rw [h3, hrc], hgu t h4⟩
    rw [← hrec] at ho'
    cases ho'
    exact hm hn
  rw [hfin]
  obtain ⟨h1, h2⟩ := sendFor_spec w c (fun code => .abandon code reason) hcode
  have hsend := send _ _ h2 h1
  have hstill := send [] w (.refl _ w) (.refl w)
  cases reason <;> first | exact hsend | exact hstill

/-- R42: what an abandonment does. -/
theorem abandon_spec (hs : BatchLaw s) (c : CircuitNo) (reason : Reason) (decline : Option DeclineReason) :
    Abandoned c reason decline s (s.abandon c reason decline) := by
  obtain ⟨l, h, hm, hr, hg⟩ := abandon_loud hs c reason decline
  exact ⟨h.turn fun o ho hn => hm hn o ho, hr, hg⟩

theorem abandon_law (hs : BatchLaw s) (c : CircuitNo) (reason : Reason) (decline : Option DeclineReason) :
    BatchLaw (s.abandon c reason decline) := by
  obtain ⟨l, h, -⟩ := abandon_loud hs c reason decline
  exact h.law

/-! ### Splices (R40, R191) -/

/-- What the release test and the collapse test make of a record, as `due` and `busy` say. -/
def Circuit.tested (r : Circuit) (due busy : Bool) (fc : FrameCount) : Circuit :=
  (if due then r.releasedRecord .holdExpired fc else r).afterCollapseTest busy fc

/-- The tests do not depend on the conditioning of the record. -/
theorem tested_conditioning (spans : Table 16 Span) (lanes : LaneInterface) (r : Circuit) (k due busy : Bool) (fc : FrameCount) :
    evaluated spans lanes (({ r with conditioning := k } : Circuit).tested due busy fc) = evaluated spans lanes (r.tested due busy fc) := by
  cases due <;> cases busy <;> by_cases h : 0 < r.buildOut <;>
    simp [Circuit.tested, Circuit.afterCollapseTest, Circuit.releasedRecord, h] <;> rfl

theorem tested_evaluated (spans spans' : Table 16 Span) (lanes lanes' : LaneInterface) (r : Circuit) (due busy : Bool) (fc : FrameCount) :
    evaluated spans lanes ((evaluated spans' lanes' r).tested due busy fc) = evaluated spans lanes (r.tested due busy fc) :=
  tested_conditioning spans lanes r _ due busy fc

/-- A splice does not depend on the conditioning of the record. -/
theorem splicedThrough_evaluated (spans spans' : Table 16 Span) (lanes lanes' : LaneInterface) (r : Circuit) (x : Context) (code : OutcomeCode)
    (b : Nat) (delta : Option Int) (j : Option SampleOffset) (busy : Bool) (fc : FrameCount) :
    evaluated spans lanes ((evaluated spans' lanes' r).splicedThrough x code b delta j busy fc) =
      evaluated spans lanes (r.splicedThrough x code b delta j busy fc) :=
  tested_conditioning spans lanes (r.splicedRecord x code b delta j fc) _ _ busy fc

theorem tested_left (r : Circuit) (due busy : Bool) (fc : FrameCount) :
    ({ r with batch := none } : Circuit).tested due busy fc = { r.tested due busy fc with batch := none } := by
  cases due <;> cases busy <;> by_cases h : 0 < r.buildOut <;>
    simp [Circuit.tested, Circuit.afterCollapseTest, Circuit.releasedRecord, Circuit.collapsedRecord, Circuit.delta,
      Circuit.attemptsUsed, h]

theorem tested_kept (r : Circuit) (due busy : Bool) (fc : FrameCount) : (r.tested due busy fc).batch = r.batch ∧
    (r.tested due busy fc).notify = r.notify ∧ (r.tested due busy fc).code = r.code := by
  cases due <;> cases busy <;> by_cases h : 0 < r.buildOut <;>
    simp [Circuit.tested, Circuit.afterCollapseTest, Circuit.releasedRecord, Circuit.collapsedRecord, h]

/-- R16: on the fibre route, busy is of the two recognised inputs alone. -/
theorem busy_fibre {c : CircuitNo} {l : List Block} (h : SameBut l s t) (h1 : Block.channels ∉ l) (h2 : Block.slots ∉ l)
    (hst : (t.circuit c).state = .fibre) (hf : (t.circuit c).fibre = (s.circuit c).fibre) : t.busy c = s.fibreBusy c := by
  have e1 : t.highway.channels = s.highway.channels := h _ h1
  have e2 : t.lanes.slots = s.lanes.slots := (h _ h2).1
  unfold State.busy State.fibreBusy State.switchCondition State.farCondition State.farBy State.slotCondition
  simp only [hst, hf, e1, e2]

/-- R45, R48: the release test and the collapse test after a splice. -/
theorem tests_quiet (c : CircuitNo) {due : Bool} {w : State} (hst : (w.circuit c).state = .fibre) (hdue : (w.circuit c).mayRelease = due)
    (hev : AllEvaluated w) (hown : CopperOwned w) :
    ∃ l, QuietTurn c (if due then [.release] else []) ((w.circuit c).tested due (w.fibreBusy c) w.fc) (if due then (w.circuit c).messages .release else []) l w
        ((w.releaseTest c).collapseTest c) ∧
      ((w.circuit c).notify = true → ∀ o, ((w.circuit c).tested due (w.fibreBusy c) w.fc).outcome = some o →
        (w.circuit c).outcome = some o ∨ ReportBody.circuit c (w.circuit c).code o ∈ l) ∧
      (due = true → (w.circuit c).notify = true → ∀ o, ((w.circuit c).releasedRecord .holdExpired w.fc).outcome = some o →
        ReportBody.circuit c (w.circuit c).code o ∈ l) ∧
      (due = false → ((w.releaseTest c).collapseTest c).timeslots = w.timeslots ∧
        ((w.releaseTest c).collapseTest c).slotOwners = w.slotOwners ∧ ((w.releaseTest c).collapseTest c).spans = w.spans) ∧
      (due = true → CopperFreed c w ((w.releaseTest c).collapseTest c) ∧ RetiredWhenEmpty c w ((w.releaseTest c).collapseTest c) ∧
        ∀ n, Retires c w ((w.releaseTest c).collapseTest c) n → ReportBody.span n .retired ∈ l) := by
  have hrd : (w.circuit c).releaseDue = due := by
    rw [← hdue]
    unfold Circuit.releaseDue Circuit.mayRelease
    rw [hst]
    cases (w.circuit c).context <;> rfl
  cases due with
  | false =>
    have hv : w.releaseTest c = w := by simp [State.releaseTest, hrd]
    rw [hv]
    obtain ⟨l, hq, hm⟩ := collapseTest_quiet c w hst (hev c).symm
    have hb : w.busy c = w.fibreBusy c := busy_fibre (.refl [] w) (by simp) (by simp) hst rfl
    have hf := collapseTest_frame w c
    rw [hb] at hq hm
    refine ⟨l, hq, fun hn o ho => ?_, (fun h => by cases h), fun _ => ?_, fun h => by cases h⟩
    · simp only [Circuit.tested, Bool.false_eq_true, if_false] at ho
      unfold Circuit.afterCollapseTest at ho
      split at ho
      next h => exact .inr (hm hn h o ho)
      next h => exact .inl ho
    · exact ⟨(hf.sameOwner (by decide)).1, (hf.sameOwner (by decide)).2, hf.sameSpans (by decide)⟩
  | true =>
    have hv : w.releaseTest c = w.releaseFallback c .holdExpired := by simp [State.releaseTest, hrd]
    rw [hv]
    obtain ⟨⟨k, hr, hrm, hrr⟩, hfreed, hret⟩ := release_quiet (s := w) c .holdExpired hev hown
    set v := w.releaseFallback c .holdExpired with hv'
    have hvst : (v.circuit c).state = .fibre := by rw [hr.record]; exact hst
    have hvev := hr.conditioned hev
    obtain ⟨l, hq, hm⟩ := collapseTest_quiet c v hvst (hvev c).symm
    have hb : v.busy c = w.fibreBusy c := busy_fibre hr.frame (by decide) (by decide) hvst (by rw [hr.record]; rfl)
    have hfc : v.fc = w.fc := hr.frame.sameClock (by decide)
    rw [hb, hfc] at hq hm
    have hf := collapseTest_frame v c
    set t := v.collapseTest c with ht
    refine ⟨k ++ l, ⟨?_, fun d hd => by rw [hq.others d hd, hr.others d hd], (tested_kept _ _ _ _).1, ?_, ?_,
      hr.frame.trans hq.frame, fun x => hq.conditioned (hr.conditioned x), ?_, by decide⟩, fun hn o ho => .inr ?_, fun _ hn o ho => List.mem_append_left _ (hrm hn o ho), (fun h => by cases h),
      fun _ => ⟨⟨fun x => ?_, ?_⟩, fun n => ?_, fun n hn => List.mem_append_left _ (hrr n ?_)⟩⟩
    · rw [hq.record, hr.record]
      exact tested_evaluated t.spans v.spans t.lanes v.lanes ((w.circuit c).releasedRecord .holdExpired w.fc) false (w.fibreBusy c) w.fc
    · exact hr.reports.trans hq.reports hfc
    · have := hr.sent.trans hq.sent
      simpa using this
    · exact hr.watches.trans hq.watches hfc
    · simp only [Circuit.tested, if_true] at ho
      unfold Circuit.afterCollapseTest at ho
      split at ho
      next h =>
        have h' : 0 < (v.circuit c).buildOut ∧ w.fibreBusy c = false := by rw [hr.record]; exact h
        have := hm (by rw [hr.record]; exact hn) h' o (by rw [hr.record]; exact ho)
        rw [hr.record] at this
        exact List.mem_append_right _ this
      next h => exact List.mem_append_left _ (hrm hn o ho)
    · have : t.timeslotOwner x = v.timeslotOwner x := by simp [State.timeslotOwner, (hf.sameOwner (by decide)).1]
      rw [this]; exact hfreed.1 x
    · rw [(hf.sameOwner (by decide)).2]; exact hfreed.2
    · have : ∀ x, t.timeslotOwner x = v.timeslotOwner x := fun x => by simp [State.timeslotOwner, (hf.sameOwner (by decide)).1]
      have e : Retires c w t n ↔ Retires c w v n := by simp only [Retires, this]
      rw [hf.sameSpan (by decide), e]
      exact hret n
    · have : ∀ x, t.timeslotOwner x = v.timeslotOwner x := fun x => by simp [State.timeslotOwner, (hf.sameOwner (by decide)).1]
      simpa only [Retires, this] using hn

/-- R40, R191: what a splice does, with the tests that follow it. -/
theorem splice_loud (hs : BatchLaw s) (hev : AllEvaluated s) (hown : CopperOwned s) {c : CircuitNo} {x : Context}
    (hx : (s.circuit c).context = some x) {code : OutcomeCode} (hspl : outcomeClass code = some .splice) (b : Nat) (delta : Option Int)
    (j : Option SampleOffset) :
    Spliced c code b delta j x s (s.splice c code b delta j) ∧ BatchLaw (s.splice c code b delta j) ∧
      AllEvaluated (s.splice c code b delta j) ∧
      (∀ d, d ≠ c → ((s.splice c code b delta j).circuit d).copper = (s.circuit d).copper) ∧
      ∀ d, d ≠ c → Ends d (s.circuit d) (s.peer.response.get d) s (s.splice c code b delta j) := by
  have hfr := splice_frame s c code b delta j
  set r := s.circuit c with hr
  set r1 : Circuit := { r with state := .fibre, buildOut := b, context := some (x.spliced r.holdSeconds) } with hr1
  set q := s.releaseMatcher c with hq
  have f0 : SameBut [.matchers, .matcherQueue] s q := releaseMatcher_frame s c
  set p0 := q.putCircuit c r1 with hp0
  have fp : SameBut [.circuits] q p0 := putCircuit_frame q c r1
  set p := p0.sendFor c .spliced with hp
  obtain ⟨hsp, f2⟩ := sendFor_spec p0 c .spliced (code := r.code) (by rw [hp0, State.putCircuit_circuit_eq]; rfl)
  rw [← hp] at hsp f2
  have f1 : SameBut preBlocks s p := ((f0.mono (by decide)).trans (fp.mono (by decide))).trans (f2.mono (by decide))
  have hpc : p.circuit c = evaluated p.spans p.lanes r1 := by
    rw [f2.sameCircuit (by simp), hp0, State.putCircuit_circuit_eq, f2.evaluated_eq (by simp) (by simp), fp.evaluated_eq (by simp) (by simp)]
  have hfc : p.fc = s.fc := f1.sameClock (by decide)
  have hob : CircuitsBut [c] s p := fun d hd => by
    rw [f2.sameCircuit (by simp), hp0, State.putCircuit_circuit_ne _ _ (by simp at hd; exact Ne.symm hd), f0.sameCircuit (by simp)]
  have he : AllEvaluated s → AllEvaluated p := fun y =>
    (putCircuit_evaluated c r1 (y.of_frame f0 (by simp) (by simp) (by simp))).of_frame f2 (by simp) (by simp) (by simp)
  have hresp : ∀ d, d ≠ c → p.peer.response.get d = s.peer.response.get d := fun d _ => by
    rw [f2.sameResponse (by simp), fp.sameResponse (by simp), f0.sameResponse (by simp)]
  have hsent : Sent (r.messages .spliced) s p := by
    have := ((f0.sentNone (by simp)).trans (fp.sentNone (by simp))).trans hsp
    simpa [Circuit.messages] using this
  set o : OutcomeRecord := ⟨code, none, none, delta, b, j, r.attemptsUsed, p.fc⟩ with ho
  set w := p.writeOutcome c o with hw
  obtain ⟨l, hl, hm, hrc, halign⟩ := writeOutcome_loud (o := o) (after := []) (t := w) hs hpc rfl f1 hob hresp hsent he (.refl _ w) (.refl w)
  have hrec : r1.withOutcome o = r.splicedRecord x code b delta j s.fc := by
    simp only [hr1, ho, hfc, Circuit.withOutcome, Context.spliced, Circuit.splicedRecord]
    rfl
  rw [hrec] at hl
  set R := r.splicedRecord x code b delta j s.fc with hR
  have fw : SameBut turnBlocks s w := by
    have h2 : SameBut outcomeBlocks p w := writeOutcome_frame p c o
    have h1 : SameBut turnBlocks s p := f1.mono (by decide)
    exact h1.trans (h2.mono (by decide))
  have hwst : (w.circuit c).state = .fibre := by rcases hl.record with h | ⟨-, h⟩ <;> rw [h] <;> rfl
  have hdue : (w.circuit c).mayRelease = R.mayRelease := by rcases hl.record with h | ⟨-, h⟩ <;> rw [h] <;> rfl
  have hwf : (w.circuit c).fibre = r.fibre := by rcases hl.record with h | ⟨-, h⟩ <;> rw [h] <;> rfl
  have hwc : (w.circuit c).copper = r.copper := by rcases hl.record with h | ⟨-, h⟩ <;> rw [h] <;> rfl
  have hwn : (w.circuit c).notify = r.notify ∧ (w.circuit c).outcome = R.outcome := by
    rcases hl.record with h | ⟨-, h⟩ <;> rw [h] <;> exact ⟨rfl, rfl⟩
  have hcode : (w.circuit c).code = r.code := hl.code
  have hwo : ∀ y, w.timeslotOwner y = s.timeslotOwner y := fun y => by simp [State.timeslotOwner, (fw.sameOwner (by decide)).1]
  have hwown : CopperOwned w := by
    intro d y hd
    rw [hwo]
    by_cases hdc : d = c
    · subst hdc; rw [hwc] at hd; exact hown _ y hd
    · rw [hl.copper d hdc] at hd; exact hown d y hd
  have hwfc : w.fc = s.fc := fw.sameClock (by decide)
  have hbusy : w.fibreBusy c = s.fibreBusy c := by
    have e1 : w.highway.channels = s.highway.channels := fw .channels (by decide)
    have e2 : w.lanes.slots = s.lanes.slots := (fw .slots (by decide)).1
    unfold State.fibreBusy State.switchCondition State.farCondition State.farBy State.slotCondition
    simp only [hwf, e1, e2, ← hr]
  obtain ⟨k, ht, hk, hkrel, hkept, hfreed⟩ := tests_quiet c hwst hdue (hl.conditioned hev) hwown
  have hfin : s.splice c code b delta j = (w.releaseTest c).collapseTest c := by
    unfold State.splice
    simp only [← hr, hx]
    rfl
  rw [hfin] at hfr ⊢
  set t := (w.releaseTest c).collapseTest c with htd
  rw [hwfc, hbusy] at ht hk
  have hmsg : (w.circuit c).messages .release = r.messages .release := by simp [Circuit.messages, hcode]
  have hthrough : r.splicedThrough x code b delta j (s.fibreBusy c) s.fc = R.tested R.mayRelease (s.fibreBusy c) s.fc := rfl
  have hkeep := tested_kept R R.mayRelease (s.fibreBusy c) s.fc
  have hrep : Reported (l ++ k) s t := hl.reports.trans ht.reports hwfc
  have hnote : ∀ o', (r.splicedThrough x code b delta j (s.fibreBusy c) s.fc).outcome = some o' →
      (r.splicedThrough x code b delta j (s.fibreBusy c) s.fc).notify = true →
      ReportBody.circuit c (r.splicedThrough x code b delta j (s.fibreBusy c) s.fc).code o' ∈ l ++ k := by
    intro o' ho' hn
    rw [hthrough] at ho' hn ⊢
    rw [hkeep.2.1] at hn
    rw [hkeep.2.2]
    have hto : ((w.circuit c).tested R.mayRelease (s.fibreBusy c) s.fc).outcome = some o' := by
      have : ((w.circuit c).tested R.mayRelease (s.fibreBusy c) s.fc).outcome = (R.tested R.mayRelease (s.fibreBusy c) s.fc).outcome := by
        rcases hl.record with h | ⟨-, h⟩
        · rw [h, ← evaluated_outcome w.spans w.lanes, tested_evaluated]; rfl
        · rw [h, ← evaluated_outcome w.spans w.lanes, tested_evaluated, tested_left]; rfl
      rw [this]; exact ho'
    have hn' : r.notify = true := hn
    rcases hk (by rw [hwn.1]; exact hn') o' hto with h | h
    · rw [hwn.2] at h
      refine List.mem_append_left _ ?_
      have h2 : some o = some o' := by rw [← h, ← hrec]; rfl
      cases h2
      exact hm hn'
    · rw [hcode] at h
      exact List.mem_append_right _ h
  have hnotes : OutcomesReported c r (r.spliceOutcomes x code b delta j (s.fibreBusy c) s.fc) (l ++ k) := by
    intro hn o' ho'
    have hfirst : ∀ o', R.outcome = some o' → ReportBody.circuit c r.code o' ∈ l ++ k := fun o' h => by
      have h2 : some o = some o' := by rw [← h, ← hrec]; rfl
      cases h2
      exact List.mem_append_left _ (hm hn)
    simp only [Circuit.spliceOutcomes, List.mem_filterMap, List.mem_cons, List.not_mem_nil, or_false] at ho'
    obtain ⟨y, hy, ho'⟩ := ho'
    rcases hy with rfl | rfl | rfl
    · exact hfirst o' ho'
    · split at ho'
      next hdue' =>
        have := hkrel hdue' (by rw [hwn.1]; exact hn) o' (by
          rcases hl.record with h | ⟨-, h⟩ <;> rw [h, hwfc] <;> exact ho')
        rw [hcode] at this
        exact List.mem_append_right _ this
      next => exact hfirst o' ho'
    · have := hnote o' ho' (by rw [hthrough, hkeep.2.1]; exact hn)
      rw [hthrough, hkeep.2.2] at this
      exact this
  have hev2 : EventsTaken c (if R.mayRelease then [.splice, .release] else [.splice]) (s.startedCircuits c) s t := by
    have h1 := hl.watches.trans (ht.watches.taken ht.starts []) (by simp) hwfc
    have hcls : outcomeClass code = some .splice := hspl
    rw [show outcomeClass o.code = outcomeClass code from rfl, hcls] at h1
    cases hR' : R.mayRelease <;> rw [hR'] at h1 <;> exact h1
  refine ⟨⟨⟨?_, fun d hd => ?_, fun d hd => ?_, ⟨l ++ k, hrep, hnote⟩, ?_, hev2⟩, fun h => ?_, fun h => ?_, ⟨l ++ k, hrep, hnotes, fun h n hn => ?_⟩, ?_, ?_, hfr⟩,
    ht.law hl.law, ht.conditioned (hl.conditioned hev), fun d hd => by rw [ht.others d (by simpa using hd), hl.copper d hd],
    fun d hd => (hl.passed d hd).trans (.same (ht.others d (by simpa using hd)) (by rw [ht.frame.sameResponse (by decide)]))
      (fw.sameLink (by decide)) (fw.sameNode (by decide))⟩
  · rw [hthrough, ht.record]
    rcases hl.record with h | ⟨h0, h⟩
    · left; rw [h, tested_evaluated]
    · right
      refine ⟨by rw [hkeep.1]; exact h0, ?_⟩
      rw [h, tested_evaluated, tested_left]
  · rw [ht.others d (by simp at hd ⊢; exact hd.1), hl.others d hd]
  · rw [ht.frame.sameResponse (by decide), hl.timers d hd]
  · obtain ⟨props, h1, h2, h3⟩ := hl.sent
    refine ⟨props, h1, h2, ?_⟩
    have := h3.trans ht.sent
    rw [hmsg] at this
    simpa using this
  · obtain ⟨h1, h2, h3⟩ := hkept h
    exact ⟨h1.trans (fw.sameOwner (by decide)).1, h2.trans (fw.sameOwner (by decide)).2, h3.trans (fw.sameSpans (by decide))⟩
  · obtain ⟨⟨h1, h2⟩, h3, h4⟩ := hfreed h
    have e : ∀ n, Retires c s t n ↔ Retires c w t n := fun n => by
      simp only [Retires, Circuit.spanNo, hwc, ← hr, fw.sameSpan (by decide)]
    refine ⟨⟨fun y => ?_, h2.trans (fw.sameOwner (by decide)).2⟩, fun n => ?_, fun n hn =>
      ⟨l ++ k, hrep, List.mem_append_right _ (h4 n ((e n).mp hn)), hnote⟩⟩
    · rw [h1 y, hwc, hwo]
    · rw [e, ← fw.sameSpan (by decide)]
      exact h3 n
  · refine List.mem_append_right _ ((hfreed h).2.2 n ?_)
    simpa only [Retires, Circuit.spanNo, hwc, ← hr, fw.sameSpan (by decide)] using hn
  · rw [ht.frame.sameResponse (by decide), hrc, f2.sameResponse (by simp), fp.sameResponse (by simp), f0.sameResponse (by simp)]
  · have h0 := releaseMatcher_givenUp c s
    have hpq : p.align = q.align := by
      rw [f2.sameAlign (by simp) (by simp) (by simp) (by simp), fp.sameAlign (by simp) (by simp) (by simp) (by simp)]
    refine GivenUp.of_align h0 ?_
    rw [ht.frame.sameAlign (by decide) (by decide) (by decide) (by decide), halign, hpq]

end Sys2Proof.Machine
end

