-- ==== Sys2Proof/Laws/Transitions.lean ====
section
/-! SUPPORT. What the tests and evaluations of a circuit do, said once: BRIDGE-WAIT (R33), ALIGNED (R35), and a change of the
idle and busy result (R16, R36). -/

namespace Sys2Proof.Machine

variable {s t : State}

/-- What the turns of a circuit rest on. -/
structure Sound (s : State) : Prop where
  batches : BatchLaw s
  conditioned : AllEvaluated s
  copper : CopperOwned s

theorem Lawful.sound (h : Lawful s) : Sound s :=
  ⟨h.batches, h.conditioned.allEvaluated, fun d p hd => (h.occupancy.timeslots p d).mpr hd⟩

theorem Sound.of_frame {l : List Block} (h : Sound s) (hf : SameBut l s t) (hc : Block.circuits ∉ l) (hb : Block.batches ∉ l)
    (hs : Block.spans ∉ l) (hl : Block.laneRecords ∉ l) (ho : Block.occupancy ∉ l) : Sound t :=
  ⟨h.batches.of_frame hf hb fun c => by rw [hf.sameCircuit hc], h.conditioned.of_frame hf hc hs hl, fun d p hd => by
    rw [hf.sameCircuit hc] at hd
    have := (hf.sameOwner ho).1
    simp only [State.timeslotOwner, this]
    exact h.copper d p hd⟩

/-- A write of one record that keeps its copper attachment and its membership. -/
theorem Sound.putCircuit {c : CircuitNo} {r : Circuit} (h : Sound s) (hb : r.batch = (s.circuit c).batch) (hc : r.copper = (s.circuit c).copper) :
    Sound (s.putCircuit c r) :=
  ⟨h.batches.of_frame (putCircuit_frame s c r) (by simp) (putCircuit_batch hb), putCircuit_evaluated c r h.conditioned, fun d p hd => by
    rw [putCircuit_circuit] at hd
    split at hd
    · subst_vars; rw [evaluated_copper, hc] at hd; exact h.copper _ p hd
    · exact h.copper d p hd⟩

/-- One record written. -/
theorem putCircuit_becomes (s : State) (c : CircuitNo) (r : Circuit) : Becomes c r s (s.putCircuit c r) := by
  refine ⟨?_, fun d hd => State.putCircuit_circuit_ne _ _ (by simp at hd; exact Ne.symm hd)⟩
  rw [State.putCircuit_circuit_eq, (putCircuit_frame s c r).evaluated_eq (by simp) (by simp)]

theorem putContext_takes (s : State) (c : CircuitNo) (x : Context) : TakesContext c x s (s.putContext c x) := putCircuit_becomes s c _

/-- A record written, through a frame that names no record. -/
theorem Becomes.of_frame {c : CircuitNo} {r : Circuit} {l : List Block} {u : State} (h : Becomes c r s t) (hf : SameBut l t u)
    (hc : Block.circuits ∉ l) (hs : Block.spans ∉ l) (hl : Block.laneRecords ∉ l) : Becomes c r s u :=
  ⟨by rw [hf.sameCircuit hc, h.1, hf.evaluated_eq hs hl], fun d hd => by rw [hf.sameCircuit hc]; exact h.2 d hd⟩

/-! ### Measuring (R32, R33) -/

theorem enterMeasuring_becomes {c : CircuitNo} {x : Context} (hx : (s.circuit c).context = some x) (sub : SubStatus) :
    Becomes c ((s.circuit c).measuringRecord x sub) s (s.enterMeasuring c sub) := by
  unfold State.enterMeasuring
  rw [hx]
  exact putCircuit_becomes s c _

theorem recordValid_iff (s : State) (c : CircuitNo) : s.recordValid c ↔ (s.recordOf c).validDelta.isSome = true := by
  unfold State.recordValid State.recordOf
  cases hc : (s.circuit c).copper with
  | none => simp [DelayRecord.validDelta]
  | some p =>
    simp only [Option.some.injEq, exists_and_left, exists_eq_left']
    cases (s.span p.span).record <;> simp [DelayRecord.validDelta]

/-- R33, case 3. -/
theorem queueForMatch_spec (s : State) (c : CircuitNo) (x : Context) : JoinsQueue c x s (s.queueForMatch c x) := by
  have hq : (s.queueForMatch c x).align.queue = s.align.queue ++ [⟨c, if (s.recordOf c).validDelta.isSome then .confirm else .full⟩] := rfl
  refine ⟨(putContext_takes s c _).of_frame (joinQueue_frame _ c _) (by simp) (by simp) (by simp), ⟨fun h => ?_, fun h => ?_⟩,
    queueForMatch_frame s c x⟩
  · rw [hq, if_pos ((recordValid_iff s c).mp h)]
  · rw [hq, if_neg (fun y => h ((recordValid_iff s c).mpr y))]

/-- R52: a rescue is a splice. -/
theorem rescue_eq (s : State) (c : CircuitNo) (handed : DelayRecord) : s.rescue c handed =
    s.splice c .rescued (rescueBuildOut ((s.circuit c).rescueAt handed)) ((s.circuit c).rescueAt handed) none := by
  have e : rescueDelta (s.circuit c) handed = (s.circuit c).rescueAt handed := by
    unfold rescueDelta Circuit.rescueAt
    cases (s.circuit c).delta <;> cases handed <;> rfl
  have e2 : ((rescueDelta (s.circuit c) handed).map buildOutOf).getD 0 = rescueBuildOut ((s.circuit c).rescueAt handed) := by
    rw [e]; cases (s.circuit c).rescueAt handed <;> rfl
  unfold State.rescue
  simp only
  rw [e2, e]

/-- R52: a rescue. -/
theorem rescue_spec (h : Sound s) {c : CircuitNo} {x : Context} (hx : (s.circuit c).context = some x) (handed : DelayRecord) :
    Spliced c .rescued (rescueBuildOut ((s.circuit c).rescueAt handed)) ((s.circuit c).rescueAt handed) none x s (s.rescue c handed) := by
  rw [rescue_eq]
  exact (splice_loud h.batches h.conditioned h.copper hx rfl _ _ _).1

/-- R33: the test of BRIDGE-WAIT. -/
theorem bridgeWaitTest_spec (h : Sound s) {c : CircuitNo} {x : Context} (hst : (s.circuit c).state = .measuring)
    (hx : (s.circuit c).context = some x) (hsub : x.sub = some .bridgeWait) : BridgeWaitJudged c x s (s.bridgeWaitTest c) := by
  unfold BridgeWaitJudged State.bridgeWaitTest
  simp only [hst, hx, hsub, true_and]
  cases hf : s.flagPresent c with
  | false => simp
  | true =>
    simp only [if_true, Bool.true_eq_false, if_false]
    split
    · have := rescue_spec h hx .invalid
      have e : (s.circuit c).rescueAt .invalid = x.delta := by
        simp only [Circuit.rescueAt, Circuit.delta, hx, Option.bind_some]
        cases x.delta <;> rfl
      rwa [e] at this
    · split
      · exact (splice_loud h.batches h.conditioned h.copper hx rfl _ _ _).1
      · split
        · exact queueForMatch_spec s c x
        · rfl

/-- A circuit that is not in BRIDGE-WAIT is not concerned by its test. -/
theorem bridgeWaitTest_other {c : CircuitNo} (h : (s.circuit c).state ≠ .measuring ∨ ∀ x, (s.circuit c).context = some x → x.sub ≠ some .bridgeWait) :
    s.bridgeWaitTest c = s := by
  unfold State.bridgeWaitTest
  split
  next hst hx =>
    rcases h with h | h
    · exact absurd hst h
    · rw [if_neg (fun y => h _ hx y.1)]
  · rfl

/-- R32, R33: an entry to BRIDGE-WAIT of a circuit whose bridge flag is absent. -/
theorem enterBridgeWait_absent {c : CircuitNo} {x : Context} (hx : (s.circuit c).context = some x) (hf : s.flagPresent c = false) :
    Becomes c ((s.circuit c).measuringRecord x .bridgeWait) s (s.enterBridgeWait c) ∧ SameBut [.circuits] s (s.enterBridgeWait c) := by
  have hb := enterMeasuring_becomes hx .bridgeWait
  have hfr := enterMeasuring_frame s c .bridgeWait
  have hff : (s.enterMeasuring c .bridgeWait).flagPresent c = false := by
    have e1 : ((s.enterMeasuring c .bridgeWait).circuit c).fibre = (s.circuit c).fibre := by rw [hb.1]; rfl
    have e2 : (s.enterMeasuring c .bridgeWait).lanes.slots = s.lanes.slots := (hfr .slots (by simp)).1
    unfold State.flagPresent at hf ⊢
    rw [e1, e2]; exact hf
  have : s.enterBridgeWait c = s.enterMeasuring c .bridgeWait := by
    unfold State.enterBridgeWait State.bridgeWaitTest
    split
    · rw [if_neg (by rw [hff]; simp)]
    · rfl
  rw [this]
  exact ⟨hb, hfr⟩

/-! ### Aligned (R35) -/

/-- R35: the ALIGNED evaluation. -/
theorem alignedEvaluation_spec (h : BatchLaw s) {c : CircuitNo} {x : Context} {d : Int} {p : CopperPosition}
    (hx : (s.circuit c).context = some x) (hd : x.delta = some d) (hp : (s.circuit c).copper = some p) :
    AlignedJudged c x d (s.span p.span).tolerance s (s.alignedEvaluation c) := by
  have hover : s.overTolerance c x = s.overAt c d (s.span p.span).tolerance := by
    simp [State.overTolerance, State.overAt, hd, hp]
  unfold AlignedJudged State.alignedEvaluation Context.runsOut Context.judged
  simp only [hx, hover]
  cases x.held
  · cases s.overAt c d (s.span p.span).tolerance
    · exact ⟨putContext_takes s c _, putContext_frame s c _⟩
    · by_cases hl : x.deferLimit.left = 0
      · simp only [hl, decide_true, Bool.not_false, Bool.and_true, if_true, Bool.false_eq_true, if_false]
        refine ⟨_, putContext_takes s c _, putContext_frame s c _, abandon_spec ?_ c _ _, abandon_frame _ c _ _⟩
        exact h.of_frame (putContext_frame s c _) (by simp) (putCircuit_batch rfl)
      · simp only [hl, decide_false, Bool.and_false, if_true, Bool.false_eq_true, if_false]
        exact ⟨putContext_takes s c _, putContext_frame s c _⟩
  · exact ⟨putContext_takes s c _, putContext_frame s c _⟩

/-- R35, R168: the entry to ALIGNED. -/
theorem enterAligned_spec (h : BatchLaw s) {c : CircuitNo} {x : Context} {p : CopperPosition}
    (hx : (s.circuit c).context = some x) (hp : (s.circuit c).copper = some p) (d : Int) :
    EntersAligned c x d (s.span p.span).tolerance s (s.enterAligned c d) := by
  set y := s.alignedContext c x d with hy
  set m := s.putCircuit c ((s.circuit c).alignedRecord y) with hm
  have hfm : SameBut [.circuits] s m := putCircuit_frame s c _
  set n := m.watchEvent c .aligned none with hn
  have hfn : SameBut [.watches, .reports] m n := watchEvent_frame m c _ _
  have hnc : n.circuit c = evaluated s.spans s.lanes ((s.circuit c).alignedRecord y) := by
    rw [hfn.sameCircuit (by simp), hm, State.putCircuit_circuit_eq]
  have hlaw : BatchLaw n := (h.of_frame hfm (by simp) (putCircuit_batch rfl)).of_frame hfn (by simp) fun e => by rw [hfn.sameCircuit (by simp)]
  have hfin : s.enterAligned c d = n.alignedEvaluation c := by
    unfold State.enterAligned
    rw [hx]
    rfl
  refine ⟨m, n, putCircuit_becomes s c _, hfm, ⟨Block.same_refl _ _, Block.same_refl _ _⟩, hfn, ?_⟩
  rw [hfin]
  have ht : (s.span p.span).tolerance = (n.span p.span).tolerance := by rw [hfn.sameSpan (by simp), hfm.sameSpan (by simp)]
  rw [ht]
  exact alignedEvaluation_spec hlaw (by rw [hnc]; rfl) rfl (by rw [hnc]; exact hp)

/-! ### The idle and busy result (R16) -/

/-- R40: the J of a splice at a measured Δ. -/
theorem spliceOffset_spec (s : State) (d : Int) : SpliceJ d (some (s.spliceOffset d).2) := by
  unfold SpliceJ State.spliceOffset State.offset
  by_cases hd : 0 < d
  · rw [if_pos hd, if_neg (by omega), max_eq_left (by omega)]
  · rw [if_neg hd, if_pos (by omega)]
    exact ⟨_, rfl⟩

/-- R36, R41: the splice of an ALIGNED circuit at its measured Δ. -/
theorem spliceAligned_spec (h : Sound s) {c : CircuitNo} {x : Context} {d : Int} (hx : (s.circuit c).context = some x)
    (hd : x.delta = some d) {code : OutcomeCode} (hspl : outcomeClass code = some .splice) :
    ∃ m j, SameBut [.freeValues] s m ∧ SpliceJ d j ∧ Spliced c code (s.circuit c).buildOut (some d) j x m (s.spliceAligned c code) := by
  have e : (s.circuit c).delta = some d := by simp [Circuit.delta, hx, hd]
  have hf := spliceOffset_frame s d
  refine ⟨(s.spliceOffset d).1, some (s.spliceOffset d).2, hf, spliceOffset_spec s d, ?_⟩
  have hs := h.of_frame hf (by simp) (by simp) (by simp) (by simp) (by simp)
  unfold State.spliceAligned
  rw [e]
  exact (splice_loud hs.batches hs.conditioned hs.copper (by rw [hf.sameCircuit (by simp)]; exact hx) hspl _ _ _).1

/-- R16: what a circuit does when it has become idle. -/
theorem becameIdle_spec (h : Sound s) {c : CircuitNo} (hidle : s.busy c = false) : BecomesIdle c s (s.becameIdle c) := by
  unfold BecomesIdle State.becameIdle
  cases hst : (s.circuit c).state with
  | measuring =>
    intro x hx
    simp only
    split
    next hsub => exact bridgeWaitTest_spec h hst hx hsub
    next hsub =>
      refine bridgeWaitTest_other (.inr fun y hy => ?_)
      rw [hx] at hy; injection hy with hy; subst hy; exact hsub
  | aligned =>
    intro x d hx hd
    simp only [hx]
    cases hdef : x.deferred with
    | false => simp
    | true =>
      simp only [Bool.true_eq_false, if_false, if_true]
      split
      · exact spliceAligned_spec h hx hd rfl
      next hf => exact enterBridgeWait_absent hx (by simpa using hf)
  | fibre =>
    simp only
    obtain ⟨l, hq, hm⟩ := collapseTest_quiet c s hst (h.conditioned c).symm
    split
    next hb =>
      rw [hidle] at hq hm
      have e : (s.circuit c).afterCollapseTest false s.fc = (s.circuit c).collapsedRecord s.fc := by
        unfold Circuit.afterCollapseTest; rw [if_pos ⟨hb, rfl⟩]
      rw [e] at hq
      exact ⟨QuietTurn.turn (before := []) hq fun o ho hn => hm hn ⟨hb, rfl⟩ o ho, collapseTest_frame s c⟩
    next hb =>
      unfold State.collapseTest
      simp only
      rw [if_neg (fun y => hb y.2.1)]
  | vacant => rfl
  | copper => rfl
  | proposing => rfl
  | awaiting => rfl

/-- R16, R36: what a circuit does when it has become busy. -/
theorem becameBusy_spec (h : BatchLaw s) (c : CircuitNo) : BecomesBusy c s (s.becameBusy c) := by
  unfold BecomesBusy State.becameBusy
  split
  · exact fun x d p hx hd hp => alignedEvaluation_spec h hx hd hp
  · rfl

/-- R16: a change of an input of a circuit's idle and busy result. -/
theorem inputChanged_spec (h : Sound s) (c : CircuitNo) (wasBusy : Bool) : InputJudged c wasBusy s (s.inputChanged c wasBusy) := by
  have hl : lineWatched (s.circuit c).state = true ↔ ¬ ((s.circuit c).state = .vacant ∨ (s.circuit c).state = .copper) := by
    cases (s.circuit c).state <;> simp [lineWatched]
  set m := if lineWatched (s.circuit c).state then s.watchEvent c .line none else s with hm
  have hs : Sound m := by
    rw [hm]; split
    · exact h.of_frame (watchEvent_frame s c _ _) (by simp) (by simp) (by simp) (by simp) (by simp)
    · exact h
  have hfin : s.inputChanged c wasBusy = if wasBusy ∧ m.busy c = false then m.becameIdle c
      else if wasBusy = false ∧ m.busy c = true then m.becameBusy c else m := rfl
  refine ⟨m, ?_, ?_⟩
  · split
    next hv => rw [hm, if_neg (fun y => hl.mp y hv)]
    next hv =>
      rw [hm, if_pos (hl.mpr hv)]
      exact ⟨⟨Block.same_refl _ _, Block.same_refl _ _⟩, watchEvent_frame s c _ _⟩
  · rw [hfin]
    split
    next hi => exact becameIdle_spec hs hi.2
    next hi =>
      split
      · exact becameBusy_spec hs.batches c
      · rfl

end Sys2Proof.Machine
end

