-- ==== Sys2Proof/Laws/Masses.lean ====
section
/-! SUPPORT. Steps that concern many circuits, said once: each circuit of a list takes its turn, in order, and what the turns leave
of every other circuit, with the starts of batches that they cause, adds up (assumption 13; R52, R53, R159). -/

namespace Sys2Proof.Machine

variable {s t u : State}

/-! ### A circuit through the turns of others -/

theorem Ends.of_start {d : CircuitNo} {r : Circuit} {x : Option Countdown} (h : Ends d r x t u) (hl : t.peer.state = s.peer.state)
    (hn : t.node = s.node) : Ends d r x s u := by
  obtain ⟨b, k, hb, h⟩ := h
  refine ⟨b, k, hb, ?_⟩
  rcases h with h | ⟨h1, h2, h3, h4, number, h⟩
  · exact .inl h
  · exact .inr ⟨hl ▸ h1, h2, h3, h4, number, by rw [h, startContext_congr _ _ hn]⟩

/-- What no turn and no start changes of a record. -/
theorem Ends.kept {d : CircuitNo} {r : Circuit} {x : Option Countdown} (h : Ends d r x s t) :
    (t.circuit d).notify = r.notify ∧ (t.circuit d).code = r.code ∧ (t.circuit d).outcome = r.outcome ∧
      ((t.circuit d).batch = r.batch ∨ (t.circuit d).batch = none) := by
  obtain ⟨b, k, hb, ⟨h, -⟩ | ⟨-, -, -, -, number, h⟩⟩ := h <;> rw [h] <;> exact ⟨rfl, rfl, rfl, hb⟩

/-- Circuit `c` is at `u` as it was at `s`, but for the membership of a batch that has closed. -/
def Carried (c : CircuitNo) (s u : State) : Prop :=
  ∃ b k, (b = (s.circuit c).batch ∨ b = none) ∧ u.circuit c = { s.circuit c with batch := b, conditioning := k } ∧
    u.peer.response.get c = s.peer.response.get c

theorem Carried.refl (c : CircuitNo) (s : State) : Carried c s s := ⟨_, _, .inl rfl, rfl, rfl⟩

/-- A circuit that is not in COPPER cannot be started. -/
theorem Ends.carried {c : CircuitNo} (h : Ends c (s.circuit c) (s.peer.response.get c) s t) (hc : (s.circuit c).state ≠ .copper) :
    Carried c s t := by
  obtain ⟨b, k, hb, h | ⟨-, -, h, -⟩⟩ := h
  · exact ⟨b, k, hb, h.1, h.2⟩
  · simp [Circuit.mayStart, hc] at h

theorem Carried.trans {c : CircuitNo} (h : Carried c s t) (g : Carried c t u) : Carried c s u := by
  obtain ⟨b, k, hb, h1, h2⟩ := h
  obtain ⟨b', k', hb', g1, g2⟩ := g
  rw [h1] at hb' g1
  refine ⟨b', k', ?_, g1, g2.trans h2⟩
  rcases hb' with hb' | hb'
  · rcases hb with hb | hb
    · exact .inl (hb'.trans hb)
    · exact .inr (hb'.trans hb)
  · exact .inr hb'

/-! ### The matchers -/

theorem AllGivenUp.congr {f g : CircuitNo → Bool} (h : AllGivenUp f s t) (hfg : ∀ c, f c = g c) : AllGivenUp g s t := by
  obtain rfl : f = g := funext hfg
  exact h

theorem AllGivenUp.of_align {f : CircuitNo → Bool} (h : t.align = s.align) (hf : ∀ c, f c = false) : AllGivenUp f s t := by
  refine ⟨by simp [h, hf], fun u => ?_⟩
  have : t.unit u = s.unit u := by simp [State.unit, h]
  rw [this, if_neg (by cases (s.unit u).circuit <;> simp [hf])]

theorem GivenUp.all {c : CircuitNo} (h : GivenUp c s t) : AllGivenUp (fun d => d == c) s t := by
  refine ⟨?_, fun u => ?_⟩
  · rw [h.1]; congr 1; funext e; rw [Bool.eq_iff_iff]; simp
  · rw [h.2 u]
    congr 1
    cases (s.unit u).circuit <;> simp

theorem AllGivenUp.trans {f g : CircuitNo → Bool} (h : AllGivenUp f s t) (k : AllGivenUp g t u) :
    AllGivenUp (fun c => f c || g c) s u := by
  refine ⟨?_, fun v => ?_⟩
  · rw [k.queue, h.queue, List.filter_filter]
    congr 1; funext e
    cases f e.circuit <;> cases g e.circuit <;> rfl
  · rw [k.units, h.units]
    cases hc : (s.unit v).circuit with
    | none => simp [hc]
    | some c =>
      cases hf : f c <;> cases hg : g c <;> simp [hc, hf, hg, Matcher.freed]

/-! ### One circuit's part -/

/-- R91, R95: a span that has retired between `s` and `t` has its RETIRED report among these. -/
def NewlyRetired (bodies : List ReportBody) (s t : State) : Prop :=
  ∀ n, (s.span n).state ≠ .retired → (t.span n).state = .retired → ReportBody.span n .retired ∈ bodies

theorem NewlyRetired.of_spans (h : t.spans = s.spans) (bodies : List ReportBody) : NewlyRetired bodies s t := fun n h1 h2 => by
  rw [State.span, h] at h2; exact absurd h2 h1

/-- Circuit `c`'s part in a step over many circuits: the record and the response timer that it ends with, the messages and events it
hands on, the outcomes it writes, and whether it gives its matcher up; every other circuit ends as it was, but for its batch. -/
structure Taken (c : CircuitNo) (r : Circuit) (x : Option Countdown) (messages : List PeerMessage) (classes : List EventClass)
    (outcomes : List OutcomeRecord) (gone : Bool) (s t : State) : Prop where
  ends : Ends c r x s t
  member : (t.circuit c).batch.isSome = true → (s.circuit c).batch.isSome = true
  passed : ∀ d, d ≠ c → Ends d (s.circuit d) (s.peer.response.get d) s t
  handedOn : HandedOn ([c].filter fun _ => !classes.isEmpty) messages (classes.map fun cls => (c, cls)) s t
  reports : ∃ bodies, Reported bodies s t ∧ OutcomesReported c (s.circuit c) outcomes bodies ∧ NewlyRetired bodies s t
  matchers : AllGivenUp (fun d => gone && d == c) s t
  frame : SameBut releaseBlocks s t
  sound : Sound t

/-- The circuits of an open batch carry its membership. -/
theorem BatchLaw.member {c d : CircuitNo} (h : BatchLaw s) (hd : d ∈ s.batchCircuits c) : (s.circuit d).batch.isSome = true := by
  unfold State.batchCircuits at hd
  split at hd
  next b hb =>
    obtain ⟨id, -, hid⟩ := Option.bind_eq_some_iff.mp hb
    rw [(h.members d id).mpr ⟨b, hid, hd⟩]; rfl
  next => cases hd

/-- A turn of a circuit as its part in a step over many. -/
theorem Turn.taken {c : CircuitNo} {cl : List EventClass} {r : Circuit} {before after : List PeerMessage} {outs : List OutcomeRecord}
    {gone : Bool} (h : Turn c cl r before after s t) (hl : BatchLaw s) (hb : r.batch = (s.circuit c).batch)
    (hm : ∀ m ∈ before ++ after, isProposal m = false)
    (hp : ∀ d, d ≠ c → Ends d (s.circuit d) (s.peer.response.get d) s t)
    (hcl : cl.isEmpty = false)
    (hr : ∃ bodies, Reported bodies s t ∧ OutcomesReported c (s.circuit c) outs bodies ∧ NewlyRetired bodies s t)
    (hg : AllGivenUp (fun d => gone && d == c) s t) (hf : SameBut releaseBlocks s t) (hs : Sound t) :
    Taken c r (t.peer.response.get c) (before ++ after) cl outs gone s t := by
  refine ⟨?_, ?_, hp, ⟨?_, ?_⟩, hr, hg, hf, hs⟩
  · rcases h.record with h | ⟨-, h⟩
    · exact ⟨r.batch, _, .inl rfl, .inl ⟨h, rfl⟩⟩
    · exact ⟨none, _, .inr rfl, .inl ⟨h, rfl⟩⟩
  · rcases h.record with h | ⟨-, h⟩ <;> rw [h]
    · rw [evaluated_batch, hb]; exact id
    · intro x; cases x
  · obtain ⟨props, h1, h2, h3⟩ := h.sent
    refine ⟨_, h3, ?_, fun x => ?_⟩
    · rw [List.filter_append, List.filter_append]
      have e : props.filter (fun m => !isProposal m) = [] := by
        rw [List.filter_eq_nil_iff]
        intro m hmem
        simp [List.all_eq_true.mp h1 m hmem]
      rw [e, List.append_nil, ← List.filter_append, List.filter_eq_self]
      intro m hmem
      simp [hm m hmem]
    · have : props = [] := h2 (x.imp (fun y => y c (by simp [hcl])) id)
      rw [this, List.append_nil]
  · obtain ⟨events, h1, h2, h3⟩ := h.watches
    refine ⟨events, h1, h2, fun e he hm' => ?_⟩
    have := h3 e he hm'
    unfold State.startedCircuits at this
    split at this
    next hup => exact ⟨hup, hl.member this⟩
    next => cases this

/-- A circuit that hands nothing on. -/
theorem Taken.silent {c : CircuitNo} {r : Circuit} {gone : Bool} (h : Becomes c r s t) (hb : r.batch = (s.circuit c).batch)
    (hf : SameBut [.circuits, .matchers, .matcherQueue] s t) (hg : AllGivenUp (fun d => gone && d == c) s t) (hs : Sound t) :
    Taken c r (s.peer.response.get c) [] [] [] gone s t := by
  have hr : ∀ d, t.peer.response.get d = s.peer.response.get d := fun d => by rw [hf.sameResponse (by simp)]
  refine ⟨⟨r.batch, _, .inl rfl, .inl ⟨h.1, hr c⟩⟩, by rw [h.1, evaluated_batch, hb]; exact id,
    fun d hd => .same (h.2 d (by simpa using hd)) (hr d), ⟨⟨[], hf.sentNone (by simp), rfl, fun _ => rfl⟩,
      ⟨[], hf.witnessed (by simp), rfl, fun e he => by cases he⟩⟩, ⟨[], hf.reported (by simp), (fun _ o ho => by cases ho),
        .of_spans (hf.sameSpans (by simp)) _⟩, hg,
    hf.mono (by decide), hs⟩

/-- A circuit that is passed over. -/
theorem Taken.idle (h : Sound s) (c : CircuitNo) : Taken c (s.circuit c) (s.peer.response.get c) [] [] [] false s s :=
  .silent ⟨(h.conditioned c).symm, fun _ _ => rfl⟩ rfl (.refl _ s) (.of_align rfl fun _ => rfl) h

/-- A part said of the record as the step began, of which the turns before have left the membership of a closed batch and the
conditioning alone open. -/
theorem Taken.of_carried {c : CircuitNo} {r q : Circuit} {b : Option (Fin 8)} {k : Bool} {x y : Option Countdown}
    {m m' : List PeerMessage} {cl cl' : List EventClass} {outs outs' : List OutcomeRecord} {gone gone' : Bool}
    (h : Taken c q x m cl outs gone s t) (hb : b = r.batch ∨ b = none) (hq : q = { r with batch := b, conditioning := k })
    (hx : x = y) (hm : m = m') (hcl : cl = cl') (ho : outs = outs') (hg : gone = gone') : Taken c r y m' cl' outs' gone' s t := by
  subst hq hx hm hcl ho hg
  exact ⟨h.ends.of_near hb, h.member, h.passed, h.handedOn, h.reports, h.matchers, h.frame, h.sound⟩

/-! ### All of them -/

/-- What a step over many circuits makes of each: the records that it may end with and the outcomes written with them, its response
timer, its messages, its events, and whether it gives its matcher up. -/
structure Plan where
  ends : CircuitNo → Circuit → List OutcomeRecord → Prop
  timer : CircuitNo → Option Countdown
  messages : CircuitNo → List PeerMessage
  classes : CircuitNo → List EventClass
  gone : CircuitNo → Bool

/-- The circuits of the list `l` have taken their parts of the plan, in its order. -/
structure Plan.Done (p : Plan) (l : List CircuitNo) (s t : State) : Prop where
  listed : ∃ bodies, Reported bodies s t ∧ NewlyRetired bodies s t ∧ ∀ c ∈ l, ∃ r outs, p.ends c r outs ∧ Ends c r (p.timer c) s t ∧
    OutcomesReported c (s.circuit c) outs bodies
  others : ∀ c, c ∉ l → Ends c (s.circuit c) (s.peer.response.get c) s t
  handedOn : HandedOn (l.filter fun c => !(p.classes c).isEmpty) (l.flatMap p.messages) (l.flatMap fun c => (p.classes c).map fun cls => (c, cls)) s t
  matchers : AllGivenUp (fun c => decide (c ∈ l) && p.gone c) s t
  frame : SameBut releaseBlocks s t
  sound : Sound t

/-- A step over many circuits follows its plan, when every circuit does, in whatever state `u` the turns before its own leave. None of
the circuits is in COPPER as the step begins in `o`, so that no start step takes it before its turn. -/
theorem Plan.done (p : Plan) (f : State → CircuitNo → State) (o : State) (concerned : CircuitNo → Prop) (I : State → Prop)
    (hstep : ∀ c u, concerned c → I u → Sound u → Carried c o u → ∃ r outs, p.ends c r outs ∧
      Taken c r (p.timer c) (p.messages c) (p.classes c) outs (p.gone c) u (f u c))
    (hkeep : ∀ c u, concerned c → I u → Sound u → Carried c o u → I (f u c))
    (hstate : ∀ c, concerned c → (o.circuit c).state ≠ .copper) :
    ∀ (l : List CircuitNo) (s : State), l.Nodup → (∀ c ∈ l, concerned c ∧ Carried c o s) → I s → Sound s → p.Done l s (l.foldl f s)
  | [], s, _, _, _, hs => ⟨⟨[], .refl s, .of_spans rfl _, fun c h => by cases h⟩, fun c _ => .same rfl rfl,
      ⟨⟨[], .refl s, rfl, fun _ => rfl⟩, ⟨[], Eq.refl _, rfl, fun e h => by cases h⟩⟩, .of_align rfl fun _ => rfl, .refl _ s, hs⟩
  | a :: l, s, hn, hc, hi, hs => by
    obtain ⟨ha, hn⟩ := List.nodup_cons.mp hn
    obtain ⟨hca, hcar⟩ := hc a List.mem_cons_self
    obtain ⟨r, outs, hr, ht⟩ := hstep a s hca hi hs hcar
    have hi' := hkeep a s hca hi hs hcar
    have hstay : ∀ c ∈ l, Carried c s (f s a) := fun c hcl => by
      refine (ht.passed c (by rintro rfl; exact ha hcl)).carried ?_
      obtain ⟨b, k, -, h, -⟩ := (hc c (List.mem_cons_of_mem a hcl)).2
      rw [h]; exact hstate c (hc c (List.mem_cons_of_mem a hcl)).1
    have ih := p.done f o concerned I hstep hkeep hstate l (f s a) hn
      (fun c hcl => ⟨(hc c (List.mem_cons_of_mem a hcl)).1, (hc c (List.mem_cons_of_mem a hcl)).2.trans (hstay c hcl)⟩) hi' ht.sound
    rw [List.foldl_cons]
    have hl : (f s a).peer.state = s.peer.state := ht.frame.sameLink (by decide)
    have hnode : (f s a).node = s.node := ht.frame.sameNode (by decide)
    have hfc : (f s a).fc = s.fc := ht.frame.sameClock (by decide)
    have hbatch : ∀ d, ((f s a).circuit d).batch.isSome = true → (s.circuit d).batch.isSome = true := fun d hd => by
      by_cases hda : d = a
      · subst hda; exact ht.member hd
      · rcases (ht.passed d hda).kept.2.2.2 with h | h
        · rw [← h]; exact hd
        · rw [h] at hd; cases hd
    obtain ⟨k, hk, hko, hkn⟩ := ht.reports
    obtain ⟨k', hk', hkn', hlisted⟩ := ih.listed
    refine ⟨⟨k ++ k', hk.trans hk' hfc, fun n h1 h2 => ?_, fun c hcm => ?_⟩, fun c hcm => ?_, ⟨?_, ?_⟩, ?_, ht.frame.trans ih.frame, ih.sound⟩
    · by_cases h3 : ((f s a).span n).state = .retired
      · exact List.mem_append_left _ (hkn n h1 h3)
      · exact List.mem_append_right _ (hkn' n h3 h2)
    · rcases List.mem_cons.mp hcm with rfl | hcl
      · exact ⟨r, outs, hr, ht.ends.trans (ih.others c ha) hl hnode, fun hn' x hx => List.mem_append_left _ (hko hn' x hx)⟩
      · obtain ⟨r', outs', h1, h2, h3⟩ := hlisted c hcl
        have hkept := (ht.passed c (by rintro rfl; exact ha hcl)).kept
        refine ⟨r', outs', h1, h2.of_start hl hnode, fun hn' x hx => List.mem_append_right _ ?_⟩
        have := h3 (hkept.1.trans hn') x hx
        rwa [hkept.2.1] at this
    · simp only [List.mem_cons, not_or] at hcm
      exact (ht.passed c hcm.1).trans (ih.others c hcm.2) hl hnode
    · obtain ⟨x, hx, hx', hx''⟩ := ht.handedOn.sent
      obtain ⟨y, hy, hy', hy''⟩ := ih.handedOn.sent
      refine ⟨x ++ y, hx.trans hy, by rw [List.filter_append, hx', hy', List.flatMap_cons], fun h => ?_⟩
      have e1 : x = p.messages a := hx'' (h.imp (fun g c hcm => by
        obtain ⟨h1, h2⟩ := List.mem_filter.mp hcm
        rw [List.mem_singleton.mp h1]
        exact g a (List.mem_filter.mpr ⟨List.mem_cons_self, h2⟩)) id)
      have e2 : y = l.flatMap p.messages := hy'' (h.imp (fun g c hcl => by
        obtain ⟨h1, h2⟩ := List.mem_filter.mp hcl
        have hca : c ≠ a := by rintro rfl; exact ha h1
        rcases (ht.passed c hca).kept.2.2.2 with h' | h'
        · rw [h']; exact g c (List.mem_filter.mpr ⟨List.mem_cons_of_mem a h1, h2⟩)
        · exact h') fun g => by rw [hl]; exact g)
      rw [e1, e2, List.flatMap_cons]
    · obtain ⟨x, hx, hx', hx''⟩ := ht.handedOn.events
      obtain ⟨y, hy, hy', hy''⟩ := ih.handedOn.events
      refine ⟨x ++ y, hx.trans hy hfc, by rw [List.filter_append, hx', hy', List.flatMap_cons], fun e he hm => ?_⟩
      rcases List.mem_append.mp he with he | he
      · exact hx'' e he hm
      · exact ⟨hl ▸ (hy'' e he hm).1, hbatch _ (hy'' e he hm).2⟩
    · refine (ht.matchers.trans ih.matchers).congr fun c => ?_
      by_cases hca' : c = a
      · subst hca'; simp [ha]
      · simp [hca']

end Sys2Proof.Machine
end

