-- ==== Sys2Proof/Laws/Losses.lean ====
section
/-! SUPPORT. What the steps that concern many circuits do, said once: the loss of a span (R52), of fibre (R53), of the peer link
(R44, R122). -/

namespace Sys2Proof.Machine

variable {s t u : State}

/-! ### Lists of the circuits concerned -/

theorem filter_flatMap {α β : Type} (P : α → Bool) (g : α → List β) : ∀ l : List α,
    (l.filter P).flatMap g = l.flatMap fun a => if P a then g a else []
  | [] => rfl
  | a :: l => by
    rw [List.flatMap_cons, ← filter_flatMap P g l]
    cases h : P a <;> simp [h]

theorem flatMap_filters {α β : Type} {P Q : α → Bool} {g h : α → List β} (l : List α)
    (e : ∀ a, (if P a then g a else []) = if Q a then h a else []) : (l.filter P).flatMap g = (l.filter Q).flatMap h := by
  rw [filter_flatMap, filter_flatMap]
  congr 1; funext a; exact e a

/-- A step that begins with the evaluation of every record's conditioning. -/
theorem Plan.Done.of_evaluated {p : Plan} {l : List CircuitNo} (h : p.Done l s.evaluateAll t) : p.Done l s t := by
  have hf := evaluateAll_frame s
  have hc : ∀ c, s.evaluateAll.circuit c = evaluated s.spans s.lanes (s.circuit c) := State.evaluateAll_circuit s
  obtain ⟨bodies, hr, hn, hl⟩ := h.listed
  refine ⟨⟨bodies, by simpa using (hf.reported (by simp)).trans hr rfl, hn, fun c hcl => ?_⟩, fun c hcl => ?_, ⟨?_, ?_⟩,
    ⟨h.matchers.queue, h.matchers.units⟩, (hf.mono (by decide)).trans h.frame, h.sound⟩
  · obtain ⟨r, outs, h1, h2, h3⟩ := hl c hcl
    rw [hc] at h3
    exact ⟨r, outs, h1, h2.of_start rfl rfl, h3⟩
  · have := h.others c hcl
    rw [hc] at this
    exact (this.of_start rfl rfl).of_near (.inl rfl)
  · obtain ⟨x, h1, h2, h3⟩ := h.handedOn.sent
    refine ⟨x, by simpa using (hf.sentNone (by simp)).trans h1, h2, fun g => h3 (g.imp (fun k c hcl => ?_) id)⟩
    rw [hc]; exact k c hcl
  · obtain ⟨x, h1, h2, h3⟩ := h.handedOn.events
    refine ⟨x, by simpa using (hf.witnessed (by simp)).trans h1 rfl, h2, fun e he hm => ?_⟩
    have := h3 e he hm
    rw [hc] at this
    exact this

theorem Carried.evaluateAll (s : State) (c : CircuitNo) : Carried c s s.evaluateAll :=
  ⟨_, _, .inl rfl, State.evaluateAll_circuit s c, rfl⟩

/-! ### What the turns leave of the laws -/

theorem abandon_sound (h : Sound s) (c : CircuitNo) (reason : Reason) (decline : Option DeclineReason) : Sound (s.abandon c reason decline) := by
  obtain ⟨l, hl, -⟩ := abandon_loud h.batches c reason decline
  refine ⟨hl.law, hl.conditioned h.conditioned, fun d p hd => ?_⟩
  have ho := (abandon_frame s c reason decline).sameOwner (by decide)
  simp only [State.timeslotOwner, ho.1]
  refine h.copper d p ?_
  by_cases hdc : d = c
  · subst hdc
    rcases hl.record with hr | ⟨-, hr⟩ <;> rw [hr] at hd <;> exact hd
  · rw [hl.copper d hdc] at hd; exact hd

theorem revert_sound (h : Sound s) (c : CircuitNo) (reason : Reason) : Sound (s.revertCircuit c reason) := by
  obtain ⟨l, hq, -⟩ := revert_quiet c reason s
  refine ⟨hq.law h.batches, hq.conditioned h.conditioned, fun d p hd => ?_⟩
  have ho := (revertCircuit_frame s c reason).sameOwner (by decide)
  simp only [State.timeslotOwner, ho.1]
  refine h.copper d p ?_
  by_cases hdc : d = c
  · subst hdc; rw [hq.record] at hd; exact hd
  · rw [hq.others d (by simpa using hdc)] at hd; exact hd

theorem splice_sound (h : Sound s) {c : CircuitNo} {x : Context} (hx : (s.circuit c).context = some x) {code : OutcomeCode}
    (hspl : outcomeClass code = some .splice) (b : Nat)
    (delta : Option Int) (j : Option SampleOffset) : Sound (s.splice c code b delta j) := by
  obtain ⟨hs, hl, hc, hcop, -⟩ := splice_loud h.batches h.conditioned h.copper hx hspl b delta j
  refine ⟨hl, hc, fun d p hd => ?_⟩
  have hrec : ((s.splice c code b delta j).circuit c).copper =
      ((s.circuit c).splicedThrough x code b delta j (s.fibreBusy c) s.fc).copper := by
    rcases hs.turn.record with hr | ⟨-, hr⟩ <;> rw [hr] <;> rfl
  cases hm : ((s.circuit c).splicedRecord x code b delta j s.fc).mayRelease with
  | false =>
    have hk := (hs.kept hm).1
    simp only [State.timeslotOwner, hk]
    refine h.copper d p ?_
    by_cases hdc : d = c
    · subst hdc
      rw [hrec] at hd
      unfold Circuit.splicedThrough Circuit.afterCollapseTest at hd
      rw [hm] at hd
      simp only [Bool.false_eq_true, if_false] at hd
      split at hd <;> exact hd
    · rw [hcop d hdc] at hd; exact hd
  | true =>
    have hf := (hs.released hm).1.1 p
    have hdc : d ≠ c := by
      rintro rfl
      rw [hrec] at hd
      unfold Circuit.splicedThrough Circuit.afterCollapseTest at hd
      rw [hm] at hd
      simp only [if_true] at hd
      split at hd <;> simp [Circuit.collapsedRecord, Circuit.releasedRecord] at hd
    rw [hcop d hdc] at hd
    rw [hf, if_neg, h.copper d p hd]
    intro hp
    have h1 := h.copper c p hp
    rw [h.copper d p hd] at h1
    injection h1 with h1
    exact hdc h1

/-! ### Loss of a span (R52) -/

theorem evaluateAll_sound (h : Sound s) : Sound s.evaluateAll :=
  ⟨h.batches.of_frame (evaluateAll_frame s) (by simp) fun c => by rw [State.evaluateAll_circuit]; rfl, fun d => by
    rw [State.evaluateAll_circuit]; rfl, fun d p hd => h.copper d p (by rw [State.evaluateAll_circuit] at hd; exact hd)⟩

/-- `evaluateAll` finds its conditioning no matter what it was. -/
theorem evaluateAll_free (hb : BatchLaw s) (hc : CopperOwned s) : Sound s.evaluateAll :=
  ⟨hb.of_frame (evaluateAll_frame s) (by simp) fun c => by rw [State.evaluateAll_circuit]; rfl, fun d => by
    rw [State.evaluateAll_circuit]; rfl, fun d p hd => hc d p (by rw [State.evaluateAll_circuit] at hd; exact hd)⟩

/-! ### Loss of a span (R52) -/

/-- The release test after a splice, on the record before it (R45). -/
theorem mayRelease_spliced {r : Circuit} {x : Context} (hx : r.context = some x) (code : OutcomeCode) (b : Nat) (delta : Option Int)
    (j : Option SampleOffset) (fc : FrameCount) : (r.splicedRecord x code b delta j fc).mayRelease = r.splicesToRelease := by
  simp only [Circuit.mayRelease, Circuit.splicedRecord, Circuit.splicesToRelease, hx, Option.any_some, Option.map_some]
  congr 1
  rw [Bool.eq_iff_iff]
  simp

/-- A splice does not depend on the membership and the conditioning of the record. -/
theorem splicedThrough_near (r : Circuit) (m : Option (Fin 8)) (k : Bool) (x : Context) (code : OutcomeCode) (b : Nat)
    (delta : Option Int) (j : Option SampleOffset) (busy : Bool) (fc : FrameCount) :
    ({ r with batch := m, conditioning := k } : Circuit).splicedThrough x code b delta j busy fc =
      { r.splicedThrough x code b delta j busy fc with batch := m, conditioning := k } := by
  have e : ∀ due : Bool, ({ r.splicedRecord x code b delta j fc with batch := m, conditioning := k } : Circuit).tested due busy fc =
      { (r.splicedRecord x code b delta j fc).tested due busy fc with batch := m, conditioning := k } := by
    intro due
    cases due <;> cases busy <;> by_cases h : 0 < (r.splicedRecord x code b delta j fc).buildOut <;>
      simp [Circuit.tested, Circuit.afterCollapseTest, Circuit.releasedRecord, Circuit.collapsedRecord, Circuit.delta,
        Circuit.attemptsUsed, h]
  exact e _

theorem spliceOutcomes_near (r : Circuit) (m : Option (Fin 8)) (k : Bool) (x : Context) (code : OutcomeCode) (b : Nat)
    (delta : Option Int) (j : Option SampleOffset) (busy : Bool) (fc : FrameCount) :
    ({ r with batch := m, conditioning := k } : Circuit).spliceOutcomes x code b delta j busy fc =
      r.spliceOutcomes x code b delta j busy fc := by
  have e := congrArg Circuit.outcome (splicedThrough_near r m k x code b delta j busy fc)
  have h1 : ({ r with batch := m, conditioning := k } : Circuit).splicedRecord x code b delta j fc =
      { r.splicedRecord x code b delta j fc with batch := m, conditioning := k } := rfl
  unfold Circuit.splicedThrough at e
  unfold Circuit.spliceOutcomes
  simp only [List.filterMap_cons, e]
  rw [h1]
  cases h : (r.splicedRecord x code b delta j fc).mayRelease
  · have h' : ({ r.splicedRecord x code b delta j fc with batch := m, conditioning := k } : Circuit).mayRelease = false := h
    simp only [h']; rfl
  · have h' : ({ r.splicedRecord x code b delta j fc with batch := m, conditioning := k } : Circuit).mayRelease = true := h
    simp only [h']; rfl

theorem bridgedOn_mem (n : SpanNo) (c : CircuitNo) : c ∈ s.bridgedOn n ↔ s.bridgedAt n c := by
  unfold State.bridgedOn State.bridgedAt allCircuits
  simp only [List.mem_filter, List.mem_finRange, true_and, decide_eq_true_eq]
  cases h : (s.circuit c).state <;> simp [Circuit.bridgedState, h]

theorem bridgedOn_iff (n : SpanNo) (c : CircuitNo) : c ∈ s.bridgedOn n ↔
    (s.circuit c).spanNo = some n ∧ ((s.circuit c).state = .measuring ∨ (s.circuit c).state = .aligned) := bridgedOn_mem n c

/-- R52, R45: whether the loss of span `n` releases the fallback of circuit `c` as it rescues it. -/
def State.releasedAt (s : State) (n : SpanNo) (c : CircuitNo) : Bool := s.rescuedAt n c && (s.circuit c).splicesToRelease

/-- R52: what the loss of span `n` makes of each circuit bridged on it. -/
def spanPlan (n : SpanNo) (handed : DelayRecord) (s : State) : Plan where
  ends c r outs :=
    if s.rescuedAt n c = true then ∃ x, (s.circuit c).context = some x ∧
      r = (s.circuit c).splicedThrough x .rescued (rescueBuildOut ((s.circuit c).rescueAt handed)) ((s.circuit c).rescueAt handed)
        none (s.fibreBusy c) s.fc ∧
      outs = (s.circuit c).spliceOutcomes x .rescued (rescueBuildOut ((s.circuit c).rescueAt handed)) ((s.circuit c).rescueAt handed)
        none (s.fibreBusy c) s.fc
    else if s.withdrawnAt n c = true then ∃ x, (s.circuit c).context = some x ∧
      r = { s.circuit c with context := some { x with sub := some .bridgeWait } } ∧ outs = []
    else r = s.circuit c ∧ outs = []
  timer c := s.peer.response.get c
  messages c := if s.rescuedAt n c then (s.circuit c).messages .spliced ++
    if (s.circuit c).splicesToRelease then (s.circuit c).messages .release else [] else []
  classes c := if s.rescuedAt n c then .splice :: if (s.circuit c).splicesToRelease then [.release] else [] else []
  gone c := s.rescuedAt n c || s.withdrawnAt n c

theorem SameBut.flagPresent {l : List Block} (h : SameBut l s u) (hs : Block.slots ∉ l) {c : CircuitNo}
    (hc : (u.circuit c).fibre = (s.circuit c).fibre) : u.flagPresent c = s.flagPresent c := by
  unfold State.flagPresent
  rw [hc, (h .slots hs).1]

theorem SameBut.fibreBusy {l : List Block} (h : SameBut l s u) (hs : Block.slots ∉ l) (hh : Block.channels ∉ l) {c : CircuitNo}
    (hc : (u.circuit c).fibre = (s.circuit c).fibre) : u.fibreBusy c = s.fibreBusy c := by
  have e1 : u.highway.channels = s.highway.channels := h _ hh
  have e2 : u.lanes.slots = s.lanes.slots := (h _ hs).1
  unfold State.fibreBusy State.switchCondition State.farCondition State.farBy State.slotCondition
  simp only [hc, e1, e2]

/-- R52: one circuit's part in the loss of its span, `s` being the state as the step began and `u` as its turn comes. -/
theorem spanLostFor_part {n : SpanNo} {c : CircuitNo} (handed : DelayRecord) (hb : s.bridgedAt n c) (hf : SameBut releaseBlocks s u)
    (hu : Sound u) (hc : Carried c s u) :
    (∃ r outs, (spanPlan n handed s).ends c r outs ∧ Taken c r ((spanPlan n handed s).timer c) ((spanPlan n handed s).messages c)
      ((spanPlan n handed s).classes c) outs ((spanPlan n handed s).gone c) u (State.spanLostFor handed u c)) ∧
    (s.releasedAt n c = false → (State.spanLostFor handed u c).timeslots = u.timeslots ∧
      (State.spanLostFor handed u c).slotOwners = u.slotOwners ∧ (State.spanLostFor handed u c).spans = u.spans) ∧
    (s.releasedAt n c = true → CopperFreed c u (State.spanLostFor handed u c) ∧
      RetiredWhenEmpty c u (State.spanLostFor handed u c)) := by
  obtain ⟨b, k, hbk, huc, htim⟩ := hc
  have hctx : (u.circuit c).context = (s.circuit c).context := by rw [huc]
  have hst : (u.circuit c).bridgedState = true := by
    rw [huc]; rcases hb.2 with h | h <;> simp [Circuit.bridgedState, h]
  have hfl : u.flagPresent c = s.flagPresent c := hf.flagPresent (by decide) (by rw [huc])
  have hdec : decide ((s.circuit c).spanNo = some n ∧ ((s.circuit c).state = .measuring ∨ (s.circuit c).state = .aligned)) = true :=
    decide_eq_true hb
  have idle : s.rescuedAt n c = false → s.withdrawnAt n c = false → State.spanLostFor handed u c = u →
      (∃ r outs, (spanPlan n handed s).ends c r outs ∧ Taken c r ((spanPlan n handed s).timer c) ((spanPlan n handed s).messages c)
        ((spanPlan n handed s).classes c) outs ((spanPlan n handed s).gone c) u (State.spanLostFor handed u c)) ∧
      (s.releasedAt n c = false → (State.spanLostFor handed u c).timeslots = u.timeslots ∧
        (State.spanLostFor handed u c).slotOwners = u.slotOwners ∧ (State.spanLostFor handed u c).spans = u.spans) ∧
      (s.releasedAt n c = true → CopperFreed c u (State.spanLostFor handed u c) ∧
        RetiredWhenEmpty c u (State.spanLostFor handed u c)) := by
    intro h1 h2 h3
    rw [h3]
    refine ⟨⟨s.circuit c, [], by simp [spanPlan, h1, h2], ?_⟩, fun _ => ⟨rfl, rfl, rfl⟩, fun h => by simp [State.releasedAt, h1] at h⟩
    exact (Taken.idle hu c).of_carried hbk huc htim (by simp [spanPlan, h1]) (by simp [spanPlan, h1]) rfl (by simp [spanPlan, h1, h2])
  cases hx : (s.circuit c).context with
  | none =>
    refine idle ?_ ?_ ?_
    · simp [State.rescuedAt, hx]
    · simp [State.withdrawnAt, hx]
    · unfold State.spanLostFor; rw [hctx, hx]
  | some x =>
    have hux : (u.circuit c).context = some x := hctx.trans hx
    cases hp : s.flagPresent c with
    | true =>
      have h1 : s.rescuedAt n c = true := by
        unfold State.rescuedAt; rw [hdec, hx, hp]; rfl
      have hdef : State.spanLostFor handed u c = u.rescue c handed := by
        unfold State.spanLostFor; rw [hux]; simp only [hst, hfl, hp, Bool.true_eq_false, if_false, if_true]
      have hres : (u.circuit c).rescueAt handed = (s.circuit c).rescueAt handed := by rw [huc]; rfl
      have hbusy : u.fibreBusy c = s.fibreBusy c := hf.fibreBusy (by decide) (by decide) (by rw [huc])
      have hfc : u.fc = s.fc := hf.sameClock (by decide)
      rw [hdef, rescue_eq, hres]
      obtain ⟨hs, -, -, -, hpass⟩ := splice_loud hu.batches hu.conditioned hu.copper hux (code := .rescued) rfl
        (rescueBuildOut ((s.circuit c).rescueAt handed)) ((s.circuit c).rescueAt handed) none
      have hsound := splice_sound hu hux (code := .rescued) rfl
        (rescueBuildOut ((s.circuit c).rescueAt handed)) ((s.circuit c).rescueAt handed) none
      generalize hB : rescueBuildOut ((s.circuit c).rescueAt handed) = B at *
      generalize hD : (s.circuit c).rescueAt handed = D at *
      obtain ⟨t, ht⟩ : ∃ t, t = u.splice c .rescued B D none := ⟨_, rfl⟩
      rw [← ht] at hs hpass hsound ⊢
      have hmay : ((u.circuit c).splicedRecord x .rescued B D none u.fc).mayRelease = (s.circuit c).splicesToRelease := by
        rw [mayRelease_spliced hux, huc]; rfl
      obtain ⟨bodies, hr1, hr2, hr3⟩ := hs.reported
      have hnew : NewlyRetired bodies u t := by
        intro m h2 h3
        cases hm : ((u.circuit c).splicedRecord x .rescued B D none u.fc).mayRelease with
        | false => exact absurd h3 (by rw [State.span, (hs.kept hm).2.2]; exact h2)
        | true =>
          by_cases hret : Retires c u t m
          · exact hr3 hm m hret
          · rw [((hs.released hm).2.1 m).2 hret] at h3; exact absurd h3 h2
      have htk := hs.turn.taken (outs := (u.circuit c).spliceOutcomes x .rescued B D none (u.fibreBusy c) u.fc) (gone := true)
        hu.batches (tested_kept _ _ _ _).1 (fun m hm => ?_) hpass (by split <;> rfl) ⟨bodies, hr1, hr2, hnew⟩
        (by simpa using hs.matcher.all) hs.frame hsound
      · refine ⟨⟨_, _, ?_, htk.of_carried (r := (s.circuit c).splicedThrough x .rescued B D none (s.fibreBusy c) s.fc)
          (b := b) (k := k) (hbk.imp (fun h => h.trans
            (tested_kept ((s.circuit c).splicedRecord x .rescued B D none s.fc) _ _ _).1.symm) id) ?_ ?_ ?_ ?_ rfl (by simp [spanPlan, h1])⟩, fun h => ?_, fun h => ?_⟩
        · simp only [spanPlan, h1, if_true, hB, hD]
          refine ⟨x, hx, rfl, ?_⟩
          rw [huc, hbusy, hfc, spliceOutcomes_near]
        · rw [huc, hbusy, hfc, splicedThrough_near]
        · rw [hs.response]; exact htim
        · rw [hmay, huc]
          simp [spanPlan, h1, Circuit.messages]
        · rw [hmay]
          simp only [spanPlan, h1, if_true]
          cases (s.circuit c).splicesToRelease <;> rfl
        · rw [State.releasedAt, h1, Bool.true_and] at h
          exact hs.kept (hmay.trans h)
        · rw [State.releasedAt, h1, Bool.true_and] at h
          exact ⟨(hs.released (hmay.trans h)).1, (hs.released (hmay.trans h)).2.1⟩
      · simp only [Circuit.messages, List.mem_append] at hm
        rcases hm with hm | hm
        · obtain ⟨code, -, rfl⟩ := List.mem_map.mp hm; rfl
        · split at hm
          · obtain ⟨code, -, rfl⟩ := List.mem_map.mp hm; rfl
          · cases hm
    | false =>
      have h1 : s.rescuedAt n c = false := by simp [State.rescuedAt, hp]
      by_cases hq : x.sub = some .queued ∨ x.sub = some .matching
      · have h2 : s.withdrawnAt n c = true := by
          unfold State.withdrawnAt; rw [hdec, hx, hp]
          simpa using hq
        have hdef : State.spanLostFor handed u c = (u.releaseMatcher c).putContext c { x with sub := some .bridgeWait } := by
          unfold State.spanLostFor; rw [hux]; simp only [hst, hfl, hp, Bool.true_eq_false, Bool.false_eq_true, if_false, hq, if_true]
        obtain ⟨q, hqd⟩ : ∃ q, q = u.releaseMatcher c := ⟨_, rfl⟩
        have f0 : SameBut [.matchers, .matcherQueue] u q := by rw [hqd]; exact releaseMatcher_frame u c
        have hqs : Sound q := hu.of_frame f0 (by simp) (by simp) (by simp) (by simp) (by simp)
        rw [hdef, ← hqd]
        have hw : Sound (q.putContext c { x with sub := some .bridgeWait }) := hqs.putCircuit rfl rfl
        have hbec : TakesContext c { x with sub := some .bridgeWait } q (q.putContext c { x with sub := some .bridgeWait }) :=
          putContext_takes q c _
        have hgu : GivenUp c u (q.putContext c { x with sub := some .bridgeWait }) := by
          rw [hqd]; exact (releaseMatcher_givenUp c u).of_align rfl
        have hfr : SameBut [.circuits, .matchers, .matcherQueue] u (q.putContext c { x with sub := some .bridgeWait }) :=
          (f0.mono (by simp)).trans ((putContext_frame q c _).mono (by simp))
        have hbec' : Becomes c { u.circuit c with context := some { x with sub := some .bridgeWait } } u
            (q.putContext c { x with sub := some .bridgeWait }) :=
          ⟨by rw [hbec.1, f0.sameCircuit (by simp)], fun d hd => by rw [hbec.2 d hd, f0.sameCircuit (by simp)]⟩
        have htk := Taken.silent (gone := true) hbec' rfl hfr (by simpa using hgu.all) hw
        refine ⟨⟨_, [], ?_, htk.of_carried (r := { s.circuit c with context := some { x with sub := some .bridgeWait } })
          (k := k) hbk ?_ ?_ ?_ ?_ rfl (by simp [spanPlan, h2])⟩,
          fun _ => ⟨(hfr.sameOwner (by simp)).1, (hfr.sameOwner (by simp)).2, hfr.sameSpans (by simp)⟩, fun h => by simp [State.releasedAt, h1] at h⟩
        · simp only [spanPlan, h1, h2, if_true, Bool.false_eq_true, if_false]
          exact ⟨x, hx, rfl, trivial⟩
        · rw [huc]
        · exact htim
        · simp [spanPlan, h1]
        · simp [spanPlan, h1]
      · refine idle h1 ?_ ?_
        · unfold State.withdrawnAt; rw [hx]; simpa using fun _ _ _ => not_or.mp hq
        · unfold State.spanLostFor; rw [hux]
          simp only [hst, hfl, hp, Bool.true_eq_false, Bool.false_eq_true, if_false, hq]


/-- R52: the circuits that the loss of span `n` rescues, of those bridged on it. -/
theorem rescuedAt_bridged {n : SpanNo} {c : CircuitNo} (h : s.rescuedAt n c = true) : s.bridgedAt n c := by
  unfold State.rescuedAt at h
  simp only [Bool.and_eq_true, decide_eq_true_eq] at h
  exact h.1.1

theorem withdrawnAt_bridged {n : SpanNo} {c : CircuitNo} (h : s.withdrawnAt n c = true) : s.bridgedAt n c := by
  unfold State.withdrawnAt at h
  simp only [Bool.and_eq_true, decide_eq_true_eq] at h
  exact h.1.1

theorem Carried.copper {c : CircuitNo} (h : Carried c s u) : (u.circuit c).copper = (s.circuit c).copper := by
  obtain ⟨b, k, -, h, -⟩ := h
  rw [h]

theorem Carried.spanNo {c : CircuitNo} (h : Carried c s u) : (u.circuit c).spanNo = (s.circuit c).spanNo := by
  unfold Circuit.spanNo; rw [h.copper]

/-- R46, R91: the timeslots and the spans through the loss of span `n`, from `u` on: the releases free their timeslots, and the span
retires with the last of them. -/
theorem spanLost_places {n : SpanNo} (handed : DelayRecord) : ∀ (l : List CircuitNo) (u : State), l.Nodup →
    (∀ c ∈ l, s.bridgedAt n c ∧ Carried c s u) → SameBut releaseBlocks s u → Sound u → (u.span n).state ≠ .retired →
    let t := l.foldl (State.spanLostFor handed) u
    (∀ p, t.timeslotOwner p =
      if ∃ c ∈ l, s.releasedAt n c = true ∧ (s.circuit c).copper = some p then none
      else u.timeslotOwner p) ∧
    t.slotOwners = u.slotOwners ∧ (∀ m, m ≠ n → t.span m = u.span m) ∧
    t.span n = if (u.span n).autoRetire = true ∧ (∃ c ∈ l, s.releasedAt n c = true) ∧
      (∀ i : TimeslotNo, t.timeslotOwner ⟨n, i⟩ = none) then (u.span n).retired else u.span n
  | [], u, _, _, _, _, _ => by simp
  | a :: l, u, hn, hc, hf, hu, hret => by
    obtain ⟨ha, hn⟩ := List.nodup_cons.mp hn
    obtain ⟨hba, hca⟩ := hc a List.mem_cons_self
    obtain ⟨⟨r, outs, -, htk⟩, hstill, hfree⟩ := spanLostFor_part handed hba hf hu hca
    obtain ⟨v, hv⟩ : ∃ v, v = State.spanLostFor handed u a := ⟨_, rfl⟩
    rw [← hv] at htk hstill hfree
    have hf' : SameBut releaseBlocks s v := hf.trans htk.frame
    have hstay : ∀ c ∈ l, s.bridgedAt n c ∧ Carried c s v := fun c hcl => by
      obtain ⟨h1, h2⟩ := hc c (List.mem_cons_of_mem a hcl)
      refine ⟨h1, h2.trans ((htk.passed c (by rintro rfl; exact ha hcl)).carried ?_)⟩
      obtain ⟨b, k, -, h, -⟩ := h2
      rw [h]; rcases h1.2 with h | h <;> simp [h]
    have hvo : ∀ c ∈ l, ∃ i : TimeslotNo, v.timeslotOwner ⟨n, i⟩ = some c := fun c hcl => by
      obtain ⟨h1, h2⟩ := hstay c hcl
      have h3 := h1.1
      unfold Circuit.spanNo at h3
      obtain ⟨p, hp, hpn⟩ := Option.map_eq_some_iff.mp h3
      refine ⟨p.timeslot, ?_⟩
      rw [← hpn]
      exact htk.sound.copper c p (by rw [h2.copper]; exact hp)
    simp only [List.foldl_cons, ← hv]
    cases hrel : s.releasedAt n a with
    | false =>
      obtain ⟨h1, h2, h3⟩ := hstill hrel
      have e1 : ∀ m, v.span m = u.span m := fun m => by simp [State.span, h3]
      have e2 : ∀ p, v.timeslotOwner p = u.timeslotOwner p := fun p => by simp [State.timeslotOwner, h1]
      obtain ⟨i1, i2, i3, i4⟩ := spanLost_places handed l v hn hstay hf' htk.sound (by rw [e1]; exact hret)
      refine ⟨fun p => ?_, i2.trans h2, fun m hm => (i3 m hm).trans (e1 m), ?_⟩
      · rw [i1 p, e2]; simp [hrel]
      · rw [i4, e1]; simp [hrel]
    | true =>
      obtain ⟨⟨g1, g2⟩, g3⟩ := hfree hrel
      rw [hca.copper] at g1
      have hn1 : ∀ m, m ≠ n → v.span m = u.span m := fun m hm => (g3 m).2 fun hr => by
        have h1 := hr.1
        rw [hca.spanNo, hba.1] at h1
        injection h1 with h1; exact hm h1.symm
      have hiff : Retires a u v n ↔ (u.span n).autoRetire = true ∧ ∀ i : TimeslotNo, v.timeslotOwner ⟨n, i⟩ = none := by
        unfold Retires
        rw [hca.spanNo]
        exact ⟨fun h => ⟨h.2.1, h.2.2.2⟩, fun h => ⟨hba.1, h.1, hret, h.2⟩⟩
      by_cases hr : Retires a u v n
      · obtain rfl : l = [] := by
          cases l with
          | nil => rfl
          | cons c l =>
            obtain ⟨i, hi⟩ := hvo c List.mem_cons_self
            rw [(hiff.mp hr).2 i] at hi; cases hi
        refine ⟨fun p => ?_, g2, hn1, ?_⟩
        · simp only [List.foldl_nil]; rw [g1 p]; simp [hrel]
        · have h3 : (u.span n).autoRetire = true ∧ (∃ c ∈ [a], s.releasedAt n c = true) ∧ ∀ i : TimeslotNo, v.timeslotOwner ⟨n, i⟩ = none :=
            ⟨(hiff.mp hr).1, ⟨a, List.mem_cons_self, hrel⟩, (hiff.mp hr).2⟩
          exact ((g3 n).1 hr).trans (if_pos h3).symm
      · have e1 : v.span n = u.span n := (g3 n).2 hr
        obtain ⟨i1, i2, i3, i4⟩ := spanLost_places handed l v hn hstay hf' htk.sound (by rw [e1]; exact hret)
        refine ⟨fun p => ?_, i2.trans g2, fun m hm => (i3 m hm).trans (hn1 m hm), ?_⟩
        · rw [i1 p, g1 p]
          by_cases h1 : ∃ c ∈ l, s.releasedAt n c = true ∧ (s.circuit c).copper = some p
          · have h2 : ∃ c ∈ a :: l, s.releasedAt n c = true ∧ (s.circuit c).copper = some p := by
              obtain ⟨c, hcl, h2⟩ := h1
              exact ⟨c, List.mem_cons_of_mem a hcl, h2⟩
            rw [if_pos h1, if_pos h2]
          · rw [if_neg h1]
            by_cases h2 : (s.circuit a).copper = some p
            · rw [if_pos h2, if_pos ⟨a, List.mem_cons_self, hrel, h2⟩]
            · rw [if_neg h2, if_neg]
              rintro ⟨c, hcm, h3⟩
              rcases List.mem_cons.mp hcm with rfl | hcl
              · exact h2 h3.2
              · exact h1 ⟨c, hcl, h3⟩
        · rw [i4, e1]
          by_cases h1 : ∃ c ∈ l, s.releasedAt n c = true
          · have h2 : ∃ c ∈ a :: l, s.releasedAt n c = true := by
              obtain ⟨c, hcl, h2⟩ := h1
              exact ⟨c, List.mem_cons_of_mem a hcl, h2⟩
            simp only [h1, h2]
          · have h2 : ∀ p, (l.foldl (State.spanLostFor handed) v).timeslotOwner p = v.timeslotOwner p := fun p => by
              rw [i1 p, if_neg]
              rintro ⟨c, hcl, h3⟩
              exact h1 ⟨c, hcl, h3.1⟩
            rw [if_neg (fun h => h1 h.2.1), if_neg]
            rintro ⟨h3, -, h4⟩
            exact hr (hiff.mpr ⟨h3, fun i => by rw [← h2]; exact h4 i⟩)

/-- R52: what the loss of a span that is not RETIRED does, its retirement, and what it leaves of the laws. -/
theorem spanLost_spec (hb : BatchLaw s) (hc : CopperOwned s) (n : SpanNo) (handed : DelayRecord) (hret : (s.span n).state ≠ .retired) :
    (∃ bodies, SpanLost n handed bodies s (s.spanLost n handed) ∧ Reported bodies s (s.spanLost n handed) ∧
      (RetiresAtLoss n s (s.spanLost n handed) → (s.spanLost n handed).span n = (s.span n).retired ∧ .span n .retired ∈ bodies) ∧
      (¬ RetiresAtLoss n s (s.spanLost n handed) → (s.spanLost n handed).span n = s.span n)) ∧ Sound (s.spanLost n handed) := by
  have he := evaluateAll_free hb hc
  have hf0 : SameBut releaseBlocks s s.evaluateAll := (evaluateAll_frame s).mono (by decide)
  have hnd : (s.bridgedOn n).Nodup := (List.nodup_finRange 512).filter _
  have hcar : ∀ c ∈ s.bridgedOn n, s.bridgedAt n c ∧ Carried c s s.evaluateAll :=
    fun c hcm => ⟨(bridgedOn_mem n c).mp hcm, .evaluateAll s c⟩
  have hd := ((spanPlan n handed s).done (State.spanLostFor handed) s (s.bridgedAt n) (SameBut releaseBlocks s)
    (fun c u h1 h2 h3 h4 => (spanLostFor_part handed h1 h2 h3 h4).1)
    (fun c u h1 h2 h3 h4 => by
      obtain ⟨⟨r, outs, -, h5⟩, -⟩ := spanLostFor_part handed h1 h2 h3 h4
      exact h2.trans h5.frame)
    (fun c h => by rcases h.2 with h | h <;> simp [h]) (s.bridgedOn n) s.evaluateAll hnd hcar hf0 he).of_evaluated
  obtain ⟨p1, p2, p3, p4⟩ := spanLost_places handed (s.bridgedOn n) s.evaluateAll hnd hcar hf0 he hret
  have hdef : (s.bridgedOn n).foldl (State.spanLostFor handed) s.evaluateAll = s.spanLost n handed := rfl
  rw [hdef] at hd p1 p2 p3 p4
  obtain ⟨t, ht⟩ : ∃ t, t = s.spanLost n handed := ⟨_, rfl⟩
  rw [← ht] at hd p1 p2 p3 p4 ⊢
  obtain ⟨bodies, hr, hnew, hl⟩ := hd.listed
  have hsp : s.evaluateAll.span n = s.span n := rfl
  have hex : ∀ Q : CircuitNo → Prop, (∃ c ∈ s.bridgedOn n, s.releasedAt n c = true ∧ Q c) ↔
      ∃ c, s.rescuedAt n c = true ∧ (s.circuit c).splicesToRelease = true ∧ Q c := fun Q => by
    constructor
    · rintro ⟨c, -, h1, h2⟩
      rw [State.releasedAt, Bool.and_eq_true] at h1
      exact ⟨c, h1.1, h1.2, h2⟩
    · rintro ⟨c, h1, h2, h3⟩
      exact ⟨c, (bridgedOn_mem n c).mpr (rescuedAt_bridged h1), by rw [State.releasedAt, h1, h2]; rfl, h3⟩
  have hret' : RetiresAtLoss n s t ↔ (s.span n).autoRetire = true ∧
      (∃ c ∈ s.bridgedOn n, s.releasedAt n c = true) ∧ ∀ i : TimeslotNo, t.timeslotOwner ⟨n, i⟩ = none := by
    have := hex fun _ => True
    simp only [and_true] at this
    unfold RetiresAtLoss
    rw [this]
  rw [hsp] at p4
  have hb1 : ∀ c, s.rescuedAt n c = true → c ∈ s.bridgedOn n := fun c h => (bridgedOn_mem n c).mpr (rescuedAt_bridged h)
  have hb2 : ∀ c, s.withdrawnAt n c = true → c ∈ s.bridgedOn n := fun c h => (bridgedOn_mem n c).mpr (withdrawnAt_bridged h)
  have hres : ∀ c, s.rescuedAt n c = true → s.withdrawnAt n c = false := fun c h => by
    simp only [State.rescuedAt, Bool.and_eq_true] at h
    simp [State.withdrawnAt, h.2]
  refine ⟨⟨bodies, ⟨fun c x h1 hx => ?_, fun c x h1 hx => ?_, fun c h1 h2 => ?_, hd.matchers.congr fun c => ?_, ?_, fun p => ?_,
    p2, p3⟩, hr, fun h => ?_, fun h => ?_⟩, hd.sound⟩
  · obtain ⟨r, outs, h2, h3, h4⟩ := hl c (hb1 c h1)
    simp only [spanPlan, h1, if_true] at h2
    obtain ⟨y, hy, rfl, rfl⟩ := h2
    rw [hx] at hy; injection hy with hy; subst hy
    exact ⟨h3.settled hd.sound.conditioned, h4⟩
  · obtain ⟨r, outs, h2, h3, h4⟩ := hl c (hb2 c h1)
    have h0 : s.rescuedAt n c = false := by
      cases h : s.rescuedAt n c with
      | false => rfl
      | true => rw [hres c h] at h1; cases h1
    simp only [spanPlan, h0, h1, if_true, Bool.false_eq_true, if_false] at h2
    obtain ⟨y, hy, rfl, rfl⟩ := h2
    rw [hx] at hy; injection hy with hy; subst hy
    exact h3.settled hd.sound.conditioned
  · by_cases hm : c ∈ s.bridgedOn n
    · obtain ⟨r, outs, h3, h4, -⟩ := hl c hm
      simp only [spanPlan, h1, h2, Bool.false_eq_true, if_false] at h3
      obtain ⟨rfl, -⟩ := h3
      exact h4.settled hd.sound.conditioned
    · exact (hd.others c hm).settled hd.sound.conditioned
  · by_cases hm : c ∈ s.bridgedOn n
    · simp [hm, spanPlan]
    · have h1 : s.rescuedAt n c = false := by
        cases h : s.rescuedAt n c with
        | false => rfl
        | true => exact absurd (hb1 c h) hm
      have h2 : s.withdrawnAt n c = false := by
        cases h : s.withdrawnAt n c with
        | false => rfl
        | true => exact absurd (hb2 c h) hm
      simp [hm, h1, h2]
  · have e : ∀ {β : Type} (g : CircuitNo → List β), (s.bridgedOn n).flatMap (fun c => if s.rescuedAt n c then g c else []) =
        (allCircuits.filter fun c => s.rescuedAt n c).flatMap g := fun g => by
      refine flatMap_filters allCircuits fun c => ?_
      cases h : s.rescuedAt n c with
      | false => simp
      | true =>
        have := rescuedAt_bridged h
        have h2 : (s.circuit c).bridgedState = true := by rcases this.2 with h | h <;> simp [Circuit.bridgedState, h]
        simp [this.1, h2]
    have h := hd.handedOn
    have e1 : (s.bridgedOn n).filter (fun c => !((spanPlan n handed s).classes c).isEmpty) = allCircuits.filter fun c => s.rescuedAt n c := by
      unfold State.bridgedOn
      rw [List.filter_filter]
      refine List.filter_congr fun c _ => ?_
      cases h : s.rescuedAt n c with
      | false => simp [spanPlan, h]
      | true =>
        have := rescuedAt_bridged h
        have h2 : (s.circuit c).bridgedState = true := by rcases this.2 with h | h <;> simp [Circuit.bridgedState, h]
        simp [spanPlan, h, this.1, h2]
    have e2 := e fun c => (s.circuit c).messages .spliced ++ if (s.circuit c).splicesToRelease then (s.circuit c).messages .release else []
    have e3 := e fun c => (c, EventClass.splice) :: if (s.circuit c).splicesToRelease then [(c, EventClass.release)] else []
    have e4 : (spanPlan n handed s).messages = fun c => if s.rescuedAt n c = true then (s.circuit c).messages .spliced ++
      if (s.circuit c).splicesToRelease then (s.circuit c).messages .release else [] else [] := rfl
    have e5 : (fun c => ((spanPlan n handed s).classes c).map fun cls => (c, cls)) = fun c => if s.rescuedAt n c = true then
        (c, EventClass.splice) :: if (s.circuit c).splicesToRelease then [(c, EventClass.release)] else [] else [] := by
      funext c
      simp only [spanPlan]
      cases s.rescuedAt n c with
      | false => rfl
      | true => cases (s.circuit c).splicesToRelease <;> rfl
    rw [e1, e4, e5, e2, e3] at h
    exact h
  · rw [p1 p]
    have := hex fun c => (s.circuit c).copper = some p
    simp only [this]
    rfl
  · have h3 : t.span n = (s.span n).retired := by rw [p4, if_pos (hret'.mp h)]
    exact ⟨h3, hnew n hret (by rw [h3]; rfl)⟩
  · rw [p4, if_neg (mt hret'.mpr h)]

theorem setSpan_circuit (s : State) (n : SpanNo) (x : Span) (c : CircuitNo) : (s.setSpan n x).circuit c = s.circuit c := rfl

theorem BatchLaw.setSpan (h : BatchLaw s) (n : SpanNo) (x : Span) : BatchLaw (s.setSpan n x) :=
  h.of_frame (setSpan_frame s n x) (by simp) fun c => by rw [setSpan_circuit]

theorem CopperOwned.setSpan (h : CopperOwned s) (n : SpanNo) (x : Span) : CopperOwned (s.setSpan n x) := by
  intro d p hd
  rw [setSpan_circuit] at hd
  exact h d p hd

/-- R82, R52: a span goes DOWN. -/
theorem spanLowered_spec (hb : BatchLaw s) (hc : CopperOwned s) (n : SpanNo) (cause : SpanDownCause) :
    SpanGoesDown n cause s (s.spanLowered n cause) := by
  obtain ⟨m, hm⟩ : ∃ m, m = s.setSpan n (s.span n).lowered := ⟨_, rfl⟩
  have hmb : BatchLaw m := by rw [hm]; exact hb.setSpan n _
  have hmo : CopperOwned m := by rw [hm]; exact hc.setSpan n _
  have hfm : SameBut [.spans] s m := by rw [hm]; exact setSpan_frame s n _
  have hmn : m.span n = (s.span n).lowered := by rw [hm, State.setSpan_span_eq]
  obtain ⟨u, hu⟩ : ∃ u, u = m.spanLost n (s.span n).record := ⟨_, rfl⟩
  obtain ⟨⟨bodies, hl, hk, hret, hnot⟩, -⟩ := spanLost_spec hmb hmo n (s.span n).record (by rw [hmn]; simp [Span.lowered, Span.hunt])
  have hfu := spanLost_frame m n (s.span n).record
  rw [← hu] at hl hk hret hnot hfu
  have hmc : ∀ c, m.circuit c = s.circuit c := hfm.sameCircuit (by simp)
  have hmf : ∀ c, m.flagPresent c = s.flagPresent c := fun c => hfm.flagPresent (by simp) (by rw [hmc])
  have hmbusy : ∀ c, m.fibreBusy c = s.fibreBusy c := fun c => hfm.fibreBusy (by simp) (by simp) (by rw [hmc])
  have hmfc : m.fc = s.fc := hfm.sameClock (by simp)
  have hmr : ∀ c, m.rescuedAt n c = s.rescuedAt n c := fun c => by simp only [State.rescuedAt, hmc, hmf]
  have hmw : ∀ c, m.withdrawnAt n c = s.withdrawnAt n c := fun c => by simp only [State.withdrawnAt, hmc, hmf]
  have hmresp : m.peer.response = s.peer.response := hfm.sameResponse (by simp)
  have hmo' : ∀ p, m.timeslotOwner p = s.timeslotOwner p := fun p => by
    simp only [State.timeslotOwner, (hfm.sameOwner (by simp)).1]
  obtain ⟨v, hv⟩ : ∃ v, v = u.setSpan n { u.span n with record := .invalid } := ⟨_, rfl⟩
  obtain ⟨t, ht⟩ : ∃ t, t = s.spanLowered n cause := ⟨_, rfl⟩
  have hfin : t = v.handReport (.span n (.down cause (s.span n).record)) := by rw [ht, hv, hu, hm]; rfl
  have fr := handReport_frame v (.span n (.down cause (s.span n).record))
  rw [← hfin] at fr
  have fv : SameBut [.spans] u v := by rw [hv]; exact setSpan_frame u n _
  have fut : SameBut [.spans, .reports] u t := (fv.mono (by simp)).trans (fr.mono (by simp))
  rw [← ht]
  have hvu : ∀ r, evaluated v.spans v.lanes r = evaluated u.spans u.lanes r := by
    intro r
    have : ∀ j, (v.spans.get j).state = (u.spans.get j).state := by
      intro j
      change (v.span j).state = (u.span j).state
      by_cases hj : n = j
      · subst hj; rw [hv, State.setSpan_span_eq]
      · rw [hv, State.setSpan_span_ne _ _ hj]
    have hl2 : v.lanes = u.lanes := by rw [hv]; rfl
    simp only [evaluated, conditioned, this, hl2]
  have hte : ∀ r, evaluated t.spans t.lanes r = evaluated u.spans u.lanes r := fun r => by rw [fr.evaluated_eq (by simp) (by simp), hvu]
  have htc : ∀ c, t.circuit c = u.circuit c := fut.sameCircuit (by simp)
  have hto : ∀ p, t.timeslotOwner p = u.timeslotOwner p := fun p => by simp only [State.timeslotOwner, (fut.sameOwner (by simp)).1]
  have htr : t.peer.response = u.peer.response := fut.sameResponse (by simp)
  have hta : t.align = u.align := fut.sameAlign (by simp) (by simp) (by simp) (by simp)
  have hends : ∀ {c r x}, EndsAs c r x m u → EndsAs c r x s t := by
    rintro c r x ⟨b, hb, h⟩
    refine ⟨b, hb, ?_⟩
    rw [htc, htr]
    simp only [hte]
    rcases h with h | ⟨h1, h2, h3, h4, number, h⟩
    · exact .inl h
    · refine .inr ⟨by rw [← hfm.sameLink (by simp)]; exact h1, h2, h3, h4, number, ?_⟩
      rw [h, startContext_congr _ _ (hfm.sameNode (by simp))]
  have hretires : RetiresAtLoss n m u ↔ RetiresAtLoss n s t := by
    unfold RetiresAtLoss
    simp only [hmr, hmc, hto, hmn]
    rfl
  have htn : t.span n = { u.span n with record := .invalid } := by rw [fr.sameSpan (by simp), hv, State.setSpan_span_eq]
  refine ⟨bodies, ⟨fun c x h1 hx => ?_, fun c x h1 hx => ?_, fun c h1 h2 => ?_, ⟨?_, fun w => ?_⟩, ⟨?_, ?_⟩, fun p => ?_, ?_, fun j hj => ?_⟩,
    ?_, fun h => ?_, fun h => ?_⟩
  · have := hl.rescued c x (by rw [hmr]; exact h1) (by rw [hmc]; exact hx)
    rw [hmc, hmbusy, hmfc, hmresp] at this
    exact ⟨hends this.1, this.2⟩
  · have := hl.withdrawn c x (by rw [hmw]; exact h1) (by rw [hmc]; exact hx)
    rw [hmc, hmresp] at this
    exact hends this
  · have := hl.others c (by rw [hmr]; exact h1) (by rw [hmw]; exact h2)
    rw [hmc, hmresp] at this
    exact hends this
  · have := hl.matchers.queue
    simp only [hmr, hmw] at this
    rw [hta, this, hfm.sameAlign (by simp) (by simp) (by simp) (by simp)]
  · have := hl.matchers.units w
    simp only [hmr, hmw, hfm.sameUnit (by simp)] at this
    rw [fut.sameUnit (by simp), this]
  · obtain ⟨x, h1, h2, h3⟩ := hl.handedOn.sent
    simp only [hmr, hmc] at h2 h3
    refine ⟨x, ?_, h2, fun h => h3 (h.imp id fun g => by rw [hfm.sameLink (by simp)]; exact g)⟩
    simpa using ((hfm.sentNone (by simp)).trans h1).trans (fut.sentNone (by simp))
  · obtain ⟨x, h1, h2, h3⟩ := hl.handedOn.events
    simp only [hmr, hmc] at h2 h3
    refine ⟨x, ?_, h2, fun e he hm' => by rw [← hfm.sameLink (by simp)]; exact h3 e he hm'⟩
    simpa using ((hfm.witnessed (by simp)).trans h1 hmfc).trans (fut.witnessed (by simp)) ((hfu.sameClock (by decide)).trans hmfc)
  · have := hl.timeslots p
    simp only [hmr, hmc, hmo'] at this
    rw [hto, this]
  · rw [(fut.sameOwner (by simp)).2, hl.slots, (hfm.sameOwner (by simp)).2]
  · rw [fr.sameSpan (by simp), hv, State.setSpan_span_ne _ _ (Ne.symm hj), hl.spans j hj, hm, State.setSpan_span_ne _ _ (Ne.symm hj)]
  · have h1 : Reported [] s m := hfm.reported (by simp)
    have h2 : Reported [] u v := fv.reported (by simp)
    have hclock : u.fc = s.fc := (hfu.sameClock (by decide)).trans hmfc
    have hclock2 : v.fc = s.fc := (fv.sameClock (by simp)).trans hclock
    have := ((h1.trans hk hmfc).trans h2 hclock).trans (handReport_reported v (.span n (.down cause (s.span n).record))) hclock2
    rw [← hfin] at this
    simpa using this
  · obtain ⟨h1, h2⟩ := hret (hretires.mpr h)
    exact ⟨by rw [htn, h1, hmn]; rfl, h2⟩
  · rw [htn, hnot (mt hretires.mp h), hmn]
    exact ⟨⟨rfl, rfl, rfl, rfl, rfl, rfl, rfl, rfl, rfl, rfl, rfl, rfl, rfl, rfl, rfl, rfl⟩, rfl, rfl, fun i => by simp [Span.lowered], rfl⟩

/-! ### Loss of fibre (R53) -/

/-- R53: what the loss of fibre makes of each circuit that is migrating or has its fallback kept. -/
def fibrePlan (s : State) : Plan where
  ends c r outs :=
    if (s.circuit c).migrating = true then r = (s.circuit c).abandonedRecord .laneLoss none s.fc ∧ outs = r.outcome.toList
    else if s.returnedAtLoss c = true then
      (∃ j, RevertJ (s.circuit c) j ∧ r = (s.circuit c).revertedRecord .laneLoss j s.fc) ∧ outs = r.outcome.toList
    else r = s.circuit c ∧ outs = []
  timer c := if (s.circuit c).migrating then none else s.peer.response.get c
  messages c := if (s.circuit c).migrating then (s.circuit c).messages fun code => .abandon code .laneLoss else []
  classes c := if s.returnedAtLoss c then [if (s.circuit c).migrating then .abandon else .revert] else []
  gone c := (s.circuit c).migrating

/-- R53: one circuit's part in the loss of fibre, `s` being the state as the step began and `u` as its turn comes. -/
theorem fibreLostFor_part {c : CircuitNo} (hf : SameBut turnBlocks s u) (hu : Sound u) (hc : Carried c s u) :
    ∃ r outs, (fibrePlan s).ends c r outs ∧ Taken c r ((fibrePlan s).timer c) ((fibrePlan s).messages c)
      ((fibrePlan s).classes c) outs ((fibrePlan s).gone c) u (u.fibreLostFor c) := by
  obtain ⟨b, k, hbk, huc, htim⟩ := hc
  have hfc : u.fc = s.fc := hf.sameClock (by decide)
  have hmig : (u.circuit c).migrating = (s.circuit c).migrating := by rw [huc]; rfl
  have hret : ((u.circuit c).kept && u.spanUpOf (u.circuit c)) = ((s.circuit c).kept && s.spanUpOf (s.circuit c)) := by
    have e : u.spanUpOf (u.circuit c) = s.spanUpOf (s.circuit c) := by
      rw [huc]; unfold State.spanUpOf State.span; rw [hf.sameSpans (by decide)]
    rw [e, huc]; rfl
  cases hm : (s.circuit c).migrating with
  | true =>
    have hdef : u.fibreLostFor c = u.abandon c .laneLoss none := by
      unfold State.fibreLostFor; rw [if_pos (hmig.trans hm)]
    rw [hdef]
    obtain ⟨bodies, hl, hnote, hr, hg⟩ := abandon_loud hu.batches c .laneLoss none
    have hfr := abandon_frame u c .laneLoss none
    have htk := (hl.turn fun o ho hn => hnote hn o ho).taken (outs := ((u.circuit c).abandonedRecord .laneLoss none u.fc).outcome.toList)
      (gone := true) hu.batches rfl (fun m hm' => ?_) hl.passed rfl
      ⟨bodies, hl.reports, fun hn o ho => hnote hn o (by simpa using ho), .of_spans (hfr.sameSpans (by decide)) _⟩
      (by simpa using hg.all) (hfr.mono (by decide)) (abandon_sound hu c _ _)
    · refine ⟨_, _, ?_, htk.of_carried (r := (s.circuit c).abandonedRecord .laneLoss none s.fc) (b := b) (k := k) hbk ?_ ?_ ?_ ?_ rfl ?_⟩
      · simp only [fibrePlan, hm, if_true]
        refine ⟨trivial, ?_⟩
        rw [huc, hfc]; rfl
      · rw [huc, hfc]; rfl
      · simp [fibrePlan, hm, hr]
      · simp [fibrePlan, hm, huc, Circuit.messages]
      · simp [fibrePlan, hm, State.returnedAtLoss]
      · simp [fibrePlan, hm]
    · simp only [Circuit.messages, reduceCtorEq, or_self, if_false, List.nil_append] at hm'
      obtain ⟨code, -, rfl⟩ := List.mem_map.mp hm'; rfl
  | false =>
    cases hk : (s.circuit c).kept && s.spanUpOf (s.circuit c) with
    | true =>
      have hdef : u.fibreLostFor c = u.revertCircuit c .laneLoss := by
        unfold State.fibreLostFor
        rw [if_neg (by rw [hmig, hm]; simp), if_pos (by rw [← Bool.and_eq_true]; exact hret.trans hk)]
      rw [hdef]
      obtain ⟨bodies, hq, hnote⟩ := revert_quiet c .laneLoss u
      have hfr := revertCircuit_frame u c .laneLoss
      have hresp : ∀ d, (u.revertCircuit c .laneLoss).peer.response.get d = u.peer.response.get d := fun d => by
        rw [hq.frame.sameResponse (by decide)]
      have hj := revertOffset_spec u (u.circuit c)
      have hreturned : s.returnedAtLoss c = true := by rw [State.returnedAtLoss, hm, hk]; rfl
      have htk := (QuietTurn.turn (before := []) (after := []) hq fun o ho hn => hnote hn o ho).taken
        (outs := ((u.circuit c).revertedRecord .laneLoss (u.revertOffset (u.circuit c)).2 u.fc).outcome.toList)
        (gone := false) hu.batches rfl (fun m hm' => by cases hm') (fun d hd => .same (hq.others d (by simpa using hd)) (hresp d)) rfl
        ⟨bodies, hq.reports, fun hn o ho => hnote hn o (by simpa using ho), .of_spans (hfr.sameSpans (by decide)) _⟩
        (.of_align (hfr.sameAlign (by decide) (by decide) (by decide) (by decide)) fun _ => rfl) (hfr.mono (by decide)) (revert_sound hu c _)
      refine ⟨_, _, ?_, htk.of_carried (r := (s.circuit c).revertedRecord .laneLoss (u.revertOffset (u.circuit c)).2 s.fc)
        (b := b) (k := k) hbk ?_ ?_ ?_ ?_ rfl ?_⟩
      · simp only [fibrePlan, hm, hreturned, if_true, Bool.false_eq_true, if_false]
        refine ⟨⟨_, ?_, rfl⟩, ?_⟩
        · unfold RevertJ at hj ⊢
          simp only [huc] at hj ⊢
          exact hj
        · rw [hfc]
          generalize (u.revertOffset (u.circuit c)).2 = j
          rw [huc]; rfl
      · rw [hfc]
        generalize (u.revertOffset (u.circuit c)).2 = j
        rw [huc]; rfl
      · simp [fibrePlan, hm, hresp, htim]
      · simp [fibrePlan, hm]
      · simp [fibrePlan, hm, hreturned]
      · simp [fibrePlan, hm]
    | false =>
      have hdef : u.fibreLostFor c = u := by
        unfold State.fibreLostFor
        rw [if_neg (by rw [hmig, hm]; simp), if_neg (by rw [← Bool.and_eq_true, hret, hk]; simp)]
      rw [hdef]
      have hreturned : s.returnedAtLoss c = false := by rw [State.returnedAtLoss, hm, hk]; rfl
      refine ⟨s.circuit c, [], by simp [fibrePlan, hm, hreturned], (Taken.idle hu c).of_carried hbk huc ?_ ?_ ?_ rfl ?_⟩
      · simp [fibrePlan, hm, htim]
      · simp [fibrePlan, hm]
      · simp [fibrePlan, hreturned]
      · simp [fibrePlan, hm]

/-- R53: what the loss of fibre does, and what it leaves of the laws. -/
theorem fibreLost_spec (hb : BatchLaw s) (hc : CopperOwned s) : FibreLost s s.fibreLost ∧ Sound s.fibreLost := by
  have he := evaluateAll_free hb hc
  have hnd : s.fibreUsers.Nodup := (List.nodup_finRange 512).filter _
  have hmem : ∀ c, c ∈ s.fibreUsers ↔ ((s.circuit c).migrating = true ∨ (s.circuit c).kept = true) := by
    intro c
    simp [State.fibreUsers, allCircuits]
  have hd := ((fibrePlan s).done State.fibreLostFor s (fun c => (s.circuit c).migrating = true ∨ (s.circuit c).kept = true)
    (SameBut turnBlocks s) (fun c u _ h2 h3 h4 => fibreLostFor_part h2 h3 h4)
    (fun c u _ h2 _ _ => h2.trans (fibreLostFor_frame u c))
    (fun c h hst => by simp [Circuit.migrating, Circuit.kept, hst] at h) s.fibreUsers s.evaluateAll hnd
    (fun c hcm => ⟨(hmem c).mp hcm, .evaluateAll s c⟩) ((evaluateAll_frame s).mono (by decide)) he).of_evaluated
  have hdef : s.fibreUsers.foldl State.fibreLostFor s.evaluateAll = s.fibreLost := rfl
  rw [hdef] at hd
  obtain ⟨t, ht⟩ : ∃ t, t = s.fibreLost := ⟨_, rfl⟩
  rw [← ht] at hd ⊢
  obtain ⟨bodies, hr, -, hl⟩ := hd.listed
  have hev := hd.sound.conditioned
  have hret : ∀ c, s.returnedAtLoss c = true → c ∈ s.fibreUsers := fun c h => by
    rw [State.returnedAtLoss, Bool.or_eq_true, Bool.and_eq_true] at h
    exact (hmem c).mpr (h.imp id fun h => h.1)
  have hfilter : ∀ P : CircuitNo → Bool, (∀ c, P c = true → s.returnedAtLoss c = true) → s.fibreUsers.filter P = allCircuits.filter P := by
    intro P hP
    unfold State.fibreUsers
    rw [List.filter_filter]
    refine List.filter_congr fun c _ => ?_
    cases h : P c with
    | false => rfl
    | true =>
      have := (hmem c).mp (hret c (hP c h))
      rw [← Bool.or_eq_true] at this
      rw [this]; rfl
  refine ⟨⟨fun c hm => ?_, fun c hk hu => ?_, fun c hn => ?_, hd.matchers.congr fun c => ?_, ?_, ⟨bodies, hr, fun c h => ?_⟩⟩, hd.sound⟩
  · obtain ⟨r, outs, h1, h2, -⟩ := hl c ((hmem c).mpr (.inl hm))
    simp only [fibrePlan, hm, if_true] at h1 h2
    rw [h1.1] at h2
    exact h2.settled hev
  · have hm : (s.circuit c).migrating = false := by
      unfold Circuit.kept at hk
      unfold Circuit.migrating
      cases hst : (s.circuit c).state <;> simp_all
    obtain ⟨r, outs, h1, h2, -⟩ := hl c ((hmem c).mpr (.inr hk))
    have hreturned : s.returnedAtLoss c = true := by rw [State.returnedAtLoss, hk, hu]; simp
    simp only [fibrePlan, hm, hreturned, if_true, Bool.false_eq_true, if_false] at h1 h2
    obtain ⟨⟨j, hj, rfl⟩, -⟩ := h1
    exact ⟨j, hj, h2.settled hev⟩
  · have hm : (s.circuit c).migrating = false := by
      rw [State.returnedAtLoss, Bool.or_eq_false_iff] at hn; exact hn.1
    by_cases hcm : c ∈ s.fibreUsers
    · obtain ⟨r, outs, h1, h2, -⟩ := hl c hcm
      simp only [fibrePlan, hm, hn, Bool.false_eq_true, if_false] at h1 h2
      rw [h1.1] at h2
      exact h2.settled hev
    · exact (hd.others c hcm).settled hev
  · cases hm : (s.circuit c).migrating with
    | false => simp [fibrePlan, hm]
    | true =>
      have := (hmem c).mpr (.inl hm)
      simp [fibrePlan, hm, this]
  · have h := hd.handedOn
    have e1 : s.fibreUsers.filter (fun c => !((fibrePlan s).classes c).isEmpty) = allCircuits.filter fun c => s.returnedAtLoss c := by
      have : (fun c => !((fibrePlan s).classes c).isEmpty) = fun c => s.returnedAtLoss c := by
        funext c; simp only [fibrePlan]; cases s.returnedAtLoss c <;> rfl
      rw [this]; exact hfilter _ fun _ h => h
    have e2 : s.fibreUsers.flatMap (fibrePlan s).messages =
        (allCircuits.filter fun c => (s.circuit c).migrating).flatMap fun c => (s.circuit c).messages fun code => .abandon code .laneLoss := by
      have h1 : (fibrePlan s).messages = fun c => if (s.circuit c).migrating = true then
        (s.circuit c).messages (fun code => .abandon code .laneLoss) else [] := rfl
      rw [h1, ← filter_flatMap, hfilter]
      intro c h; simp [State.returnedAtLoss, h]
    have e3 : (s.fibreUsers.flatMap fun c => ((fibrePlan s).classes c).map fun cls => (c, cls)) =
        (allCircuits.filter fun c => s.returnedAtLoss c).map fun c => (c, if (s.circuit c).migrating then .abandon else .revert) := by
      have h1 : (fun c => ((fibrePlan s).classes c).map fun cls => (c, cls)) = fun c => if s.returnedAtLoss c = true then
          [(c, if (s.circuit c).migrating then EventClass.abandon else EventClass.revert)] else [] := by
        funext c; simp only [fibrePlan]; cases s.returnedAtLoss c <;> rfl
      rw [h1, ← filter_flatMap, hfilter _ fun _ h => h, List.map_eq_flatMap]
    rw [e1, e2, e3] at h
    exact h
  · obtain ⟨r, outs, h1, h2, h3⟩ := hl c (hret c h)
    have : outs = (t.circuit c).outcome.toList := by
      rw [h2.kept.2.2.1]
      cases hm : (s.circuit c).migrating with
      | true => simp only [fibrePlan, hm, if_true] at h1; exact h1.2
      | false => simp only [fibrePlan, hm, h, if_true, Bool.false_eq_true, if_false] at h1; exact h1.2
    rw [← this]; exact h3

/-! ### Loss of the peer link (R44, R122) -/

/-- R44: what the end of one migration leaves of its record, but for the membership of a batch that closes. -/
def EndedRecord (s t : State) (c : CircuitNo) : Prop :=
  ∃ b, (b = (s.circuit c).batch ∨ b = none) ∧
    t.circuit c = evaluated t.spans t.lanes { (s.circuit c).abandonedRecord .peerDown none s.fc with batch := b }

/-- A record whose membership may have gone, abandoned. -/
theorem EndedRecord.of_left {c : CircuitNo} (h : MayLeave s t c) (hc : t.fc = s.fc) (g : EndedRecord t u c) : EndedRecord s u c := by
  obtain ⟨b, hb, hr⟩ := g
  rw [hc] at hr
  rcases h with h | h
  · rw [h] at hb hr; exact ⟨b, hb, hr⟩
  · rw [h] at hb hr
    refine ⟨b, .inr ?_, hr⟩
    rcases hb with hb | hb <;> exact hb

theorem EndedRecord.left {c : CircuitNo} (h : EndedRecord s t c) (g : MayLeave t u c)
    (he : ∀ r, evaluated u.spans u.lanes r = evaluated t.spans t.lanes r) : EndedRecord s u c := by
  obtain ⟨b, hb, hr⟩ := h
  rcases g with g | g
  · exact ⟨b, hb, by rw [g, hr, he]⟩
  · exact ⟨none, .inr rfl, by rw [g, hr]; rfl⟩

theorem MayLeave.migrating {c : CircuitNo} (h : MayLeave s t c) :
    (t.circuit c).migrating = (s.circuit c).migrating ∧ (t.circuit c).code = (s.circuit c).code := by
  rcases h with h | h <;> rw [h] <;> exact ⟨rfl, rfl⟩

theorem linkLost_foldl : ∀ (l : List CircuitNo) (s : State), BatchLaw s → s.peer.state ≠ .up → l.Nodup →
    (∀ c ∈ l, (s.circuit c).migrating = true) →
    (∀ c ∈ l, (l.foldl State.linkLostFor s).peer.response.get c = none ∧ EndedRecord s (l.foldl State.linkLostFor s) c) ∧
    (∀ c, c ∉ l → (l.foldl State.linkLostFor s).peer.response.get c = s.peer.response.get c ∧ MayLeave s (l.foldl State.linkLostFor s) c) ∧
    Sent (l.flatMap fun c => (s.circuit c).messages fun code => .abandon code .peerDown) s (l.foldl State.linkLostFor s) ∧
    (∃ bodies, Reported bodies s (l.foldl State.linkLostFor s) ∧ ∀ c o, c ∈ l → (s.circuit c).notify = true →
      ((s.circuit c).abandonedRecord .peerDown none s.fc).outcome = some o → ReportBody.circuit c (s.circuit c).code o ∈ bodies) ∧
    Witnessed (l.map fun c => (c, .abandon)) s (l.foldl State.linkLostFor s) ∧
    AllGivenUp (fun c => decide (c ∈ l)) s (l.foldl State.linkLostFor s) ∧
    SameBut turnBlocks s (l.foldl State.linkLostFor s)
  | [], s, _, _, _, _ => ⟨fun c h => (by cases h), fun _ _ => ⟨rfl, .inl rfl⟩, .refl s,
      ⟨[], .refl s, fun _ _ h => (by cases h)⟩, Eq.refl _, .of_align rfl fun _ => rfl, .refl _ s⟩
  | a :: l, s, hs, hup, hn, hm => by
    have ha : a ∉ l := (List.nodup_cons.mp hn).1
    have hstep : State.linkLostFor s a = s.abandon a .peerDown none := by
      unfold State.linkLostFor
      rw [if_pos (hm a (List.mem_cons_self))]
    obtain ⟨k, hl, hnote, hr, hg⟩ := abandon_loud hs a .peerDown none
    have hf := abandon_frame s a .peerDown none
    obtain ⟨hothers, hsent⟩ := hl.stopped hup
    set m := s.abandon a .peerDown none with hmd
    have hfc : m.fc = s.fc := hf.sameClock (by decide)
    have hmup : m.peer.state ≠ .up := by rw [hf.sameLink (by decide)]; exact hup
    have hml : ∀ c ∈ l, MayLeave s m c := fun c hc => (hothers c (by rintro rfl; exact ha hc)).1
    obtain ⟨h1, h2, h3, ⟨bodies, h5, h6⟩, h7, h8, h4⟩ := linkLost_foldl l m hl.law hmup (List.nodup_cons.mp hn).2
      fun c hc => by rw [(hml c hc).migrating.1]; exact hm c (List.mem_cons_of_mem a hc)
    rw [List.foldl_cons, hstep]
    have hev := h4.evaluated_eq (by decide) (by decide)
    refine ⟨fun c hc => ?_, fun c hc => ?_, ?_, ⟨k ++ bodies, hl.reports.trans h5 hfc, fun c o hc hn' ho => ?_⟩, ?_, ?_, hf.trans h4⟩
    · rcases List.mem_cons.mp hc with rfl | hcl
      · obtain ⟨g1, g2⟩ := h2 c ha
        refine ⟨g1.trans hr, EndedRecord.left ?_ g2 hev⟩
        rcases hl.record with h | ⟨-, h⟩
        · exact ⟨_, .inl rfl, h⟩
        · exact ⟨none, .inr rfl, h⟩
      · exact ⟨(h1 c hcl).1, (h1 c hcl).2.of_left (hml c hcl) hfc⟩
    · simp only [List.mem_cons, not_or] at hc
      obtain ⟨g1, g2⟩ := h2 c hc.2
      obtain ⟨k1, k2⟩ := hothers c hc.1
      exact ⟨g1.trans k2, k1.trans g2 hev⟩
    · have := hsent.trans h3
      have e : (l.flatMap fun c => (m.circuit c).messages fun code => .abandon code .peerDown) =
          l.flatMap fun c => (s.circuit c).messages fun code => .abandon code .peerDown := by
        rw [List.flatMap_def, List.flatMap_def]
        congr 1
        refine List.map_congr_left fun c hc => ?_
        simp only [Circuit.messages, (hml c hc).migrating.2]
      rw [e] at this
      simpa [List.flatMap_cons] using this
    · rcases List.mem_cons.mp hc with rfl | hcl
      · exact List.mem_append_left _ (hnote hn' o ho)
      · have hrec : (m.circuit c).notify = (s.circuit c).notify ∧ (m.circuit c).code = (s.circuit c).code ∧
            ((m.circuit c).abandonedRecord .peerDown none m.fc).outcome = ((s.circuit c).abandonedRecord .peerDown none s.fc).outcome := by
          rw [hfc]
          rcases hml c hcl with h | h <;> rw [h] <;> exact ⟨rfl, rfl, rfl⟩
        have := h6 c o hcl (hrec.1.trans hn') (hrec.2.2.trans ho)
        rw [hrec.2.1] at this
        exact List.mem_append_right _ this
    · have hw := hl.watches
      unfold State.startedCircuits at hw
      rw [if_neg hup] at hw
      exact hw.alone.trans h7 hfc
    · refine (hg.all.trans h8).congr fun c => ?_
      by_cases hca : c = a <;> simp [hca]

/-- R44, R122: the end of every migration, once the peer link has left UP. -/
theorem abandonAll_spec (h : BatchLaw s) (hup : s.peer.state ≠ .up) : MigrationsEnded s s.abandonAll := by
  have hnd : s.migratingCircuits.Nodup := (List.nodup_finRange 512).filter _
  have hmem : ∀ c, c ∈ s.migratingCircuits ↔ (s.circuit c).migrating = true := by
    intro c
    simp [State.migratingCircuits, allCircuits]
  obtain ⟨h1, h2, h3, ⟨bodies, h5, h6⟩, h7, h8, h4⟩ := linkLost_foldl s.migratingCircuits s h hup hnd fun c hc => (hmem c).mp hc
  have hdef : s.migratingCircuits.foldl State.linkLostFor s = s.abandonAll := rfl
  rw [hdef] at h1 h2 h3 h4 h5 h7 h8
  refine ⟨fun c hc => h1 c ((hmem c).mpr hc), fun c hc => ?_, h3, ⟨bodies, h5, fun c o hc hn ho => h6 c o ((hmem c).mpr hc) hn ho⟩, h7, h8.congr fun c => by rw [Bool.eq_iff_iff]; simpa using hmem c, h4⟩
  have hnot : c ∉ s.migratingCircuits := mt (hmem c).mp (by rw [hc]; simp)
  exact h2 c hnot

/-- R122: the link leaves UP. -/
theorem leaveUp_spec (h : BatchLaw s) {after : LinkState} (ha : after ≠ .up) (kind : Nat → PeerReportKind) :
    LeavesUp after (kind s.migratingCircuits.length) s (s.leaveUp after kind) := by
  have hended : MigrationsEnded ((s.setPeer { s.peer with state := after, qualified := none }).handReport
      (.peer s.node.node s.node.mode (kind s.migratingCircuits.length))) (s.leaveUp after kind) := by
    refine abandonAll_spec ?_ ?_
    · exact (h.of_frame (t := s.setPeer { s.peer with state := after, qualified := none }) (l := [.link])
        (.of_forall fun b => by cases b <;> simp [Block.same]) (by simp) fun _ => rfl).of_frame (handReport_frame _ _) (by simp)
        fun c => by rw [(handReport_frame _ _).sameCircuit (by simp)]
    · rw [(handReport_frame _ _).sameLink (by simp)]
      exact ha
  obtain ⟨bodies, hb, -⟩ := hended.reports
  have h0 : Reported [] s (s.setPeer { s.peer with state := after, qualified := none }) := ⟨rfl, rfl, rfl⟩
  exact ⟨⟨_, rfl, hended⟩, bodies, (h0.trans (handReport_reported _ _) rfl).trans hb ((handReport_frame _ _).sameClock (by simp))⟩

end Sys2Proof.Machine
end

