-- ==== Sys2Proof/Laws/LaneChanges.lean ====
section
/-! SUPPORT. What a lane's change of state, the working-lane test and the availability of fibre do, said once (R100, R104, R105,
R113, R116). -/

namespace Sys2Proof.Machine

variable {s t u : State}

/-! ### The timing source (R113) -/

/-- The timing source chosen from the lane states is the manual's. -/
theorem timingOf_eq (l : LaneInterface) : l.timingOf = l.source := by
  unfold LaneInterface.timingOf LaneInterface.source
  cases hw : l.working <;> cases ha : l.a.state <;> cases hb : l.b.state <;> simp [LaneInterface.lane, otherLane, ha, hb]

theorem retimed_timing (l : LaneInterface) : l.retimed.timing = l.retimed.source := timingOf_eq l

/-- The working-lane test's target, by its two conditions (R104). -/
theorem testTarget_some (l : LaneInterface) : l.testTarget.isSome = true ↔ l.mustChange := by
  unfold LaneInterface.testTarget LaneInterface.mustChange
  simp only
  split
  next h => exact ⟨fun _ => h, fun _ => rfl⟩
  next h => exact ⟨fun x => (by cases x), fun x => absurd x h⟩

/-! ### ALIGNED circuits go back to the queue (R38) -/

theorem requeueFull_spec {c : CircuitNo} {x : Context} (hx : (s.circuit c).context = some x) :
    Becomes c ((s.circuit c).requeuedRecord x) s (s.requeueFull c) ∧ (s.requeueFull c).align.queue = s.align.queue ++ [⟨c, .full⟩] := by
  set q := s.putContext c { x with delta := none } with hq
  have hqc : (q.circuit c).context = some { x with delta := none } := by rw [hq, State.putContext, State.putCircuit_circuit_eq]; rfl
  have hm := enterMeasuring_becomes hqc .queued
  have fm := enterMeasuring_frame q c .queued
  have hfin : s.requeueFull c = (q.enterMeasuring c .queued).joinQueue c .full := by
    unfold State.requeueFull
    rw [hx]
  have fj := joinQueue_frame (q.enterMeasuring c .queued) c .full
  rw [hfin]
  refine ⟨⟨?_, fun d hd => ?_⟩, ?_⟩
  · rw [fj.sameCircuit (by simp), hm.1, fj.evaluated_eq (by simp) (by simp), hq, State.putContext, State.putCircuit_circuit_eq]
    rfl
  · rw [fj.sameCircuit (by simp), hm.2 d hd, hq, State.putContext, State.putCircuit_circuit_ne _ _ (by simp at hd; exact Ne.symm hd)]
  · change (q.enterMeasuring c .queued).align.queue ++ _ = _
    rw [fm.sameQueue (by simp)]
    rfl

/-- An ALIGNED circuit with a context. -/
def State.requeues (s : State) (c : CircuitNo) : Prop := (s.circuit c).state = .aligned ∧ (s.circuit c).context.isSome = true

theorem requeueFor_still {c : CircuitNo} (h : ¬ ((s.circuit c).state = .aligned ∧ (s.circuit c).context.isSome = true)) :
    State.requeueFor s c = s := by
  unfold State.requeueFor
  split
  next ha =>
    unfold State.requeueFull
    cases hx : (s.circuit c).context with
    | none => rfl
    | some x => exact absurd ⟨ha, by rw [hx]; rfl⟩ h
  · rfl

theorem requeue_foldl : ∀ (l : List CircuitNo) (s : State), l.Nodup →
    (∀ c ∈ l, ∀ x, (s.circuit c).state = .aligned → (s.circuit c).context = some x →
      (l.foldl State.requeueFor s).circuit c = evaluated (l.foldl State.requeueFor s).spans (l.foldl State.requeueFor s).lanes ((s.circuit c).requeuedRecord x)) ∧
    (∀ c, c ∉ l ∨ (s.circuit c).state ≠ .aligned → (l.foldl State.requeueFor s).circuit c = s.circuit c) ∧
    (l.foldl State.requeueFor s).align.queue = s.align.queue ++
      (l.filter fun c => (s.circuit c).state = .aligned ∧ (s.circuit c).context.isSome).map (fun c => ⟨c, .full⟩) ∧
    SameBut [.circuits, .matcherQueue] s (l.foldl State.requeueFor s)
  | [], s, _ => ⟨fun c h => (by cases h), fun _ _ => rfl, by simp, .refl _ s⟩
  | a :: l, s, hn => by
    have ha : a ∉ l := (List.nodup_cons.mp hn).1
    obtain ⟨h1, h2, h3, h4⟩ := requeue_foldl l (State.requeueFor s a) (List.nodup_cons.mp hn).2
    set m := State.requeueFor s a with hm
    rw [List.foldl_cons, ← hm]
    have hmf : SameBut [.circuits, .matcherQueue] s m := by
      rw [hm]; unfold State.requeueFor; split
      · exact requeueFull_frame s a
      · exact .refl _ s
    have hmo : ∀ c, c ≠ a → m.circuit c = s.circuit c := by
      intro c hc
      by_cases hr : (s.circuit a).state = .aligned ∧ (s.circuit a).context.isSome = true
      · obtain ⟨x, hx⟩ := Option.isSome_iff_exists.mp hr.2
        rw [hm, State.requeueFor, if_pos hr.1]
        exact (requeueFull_spec hx).1.2 c (by simpa using hc)
      · rw [hm, requeueFor_still hr]
    have hfilter : (l.filter fun c => (m.circuit c).state = .aligned ∧ (m.circuit c).context.isSome) =
        l.filter fun c => (s.circuit c).state = .aligned ∧ (s.circuit c).context.isSome :=
      List.filter_congr fun c hc => by rw [hmo c (by rintro rfl; exact ha hc)]
    refine ⟨fun c hc x hst hx => ?_, fun c hc => ?_, ?_, hmf.trans h4⟩
    · rcases List.mem_cons.mp hc with rfl | hcl
      · have hs := (requeueFull_spec hx).1.1
        have hmc : m = s.requeueFull c := by rw [hm, State.requeueFor, if_pos hst]
        rw [h2 c (.inl ha), h4.evaluated_eq (by simp) (by simp), hmc]
        exact hs
      · have hca : c ≠ a := by rintro rfl; exact ha hcl
        have := h1 c hcl x (by rw [hmo c hca]; exact hst) (by rw [hmo c hca]; exact hx)
        rwa [hmo c hca] at this
    · by_cases hca : c = a
      · subst hca
        have hst : (s.circuit c).state ≠ .aligned := by
          rcases hc with hc | hc
          · exact absurd (List.mem_cons_self) hc
          · exact hc
        have hmc : m = s := by rw [hm]; exact requeueFor_still fun y => hst y.1
        rw [h2 c (.inl ha), hmc]
      · rw [h2 c ?_, hmo c hca]
        rw [hmo c hca]
        rcases hc with hc | hc
        · exact .inl fun y => hc (List.mem_cons_of_mem a y)
        · exact .inr hc
    · rw [h3, hfilter]
      by_cases hr : (s.circuit a).state = .aligned ∧ (s.circuit a).context.isSome = true
      · obtain ⟨x, hx⟩ := Option.isSome_iff_exists.mp hr.2
        have hq : m.align.queue = s.align.queue ++ [⟨a, .full⟩] := by
          rw [hm, State.requeueFor, if_pos hr.1]; exact (requeueFull_spec hx).2
        rw [hq, List.filter_cons_of_pos (by simpa using hr)]
        simp
      · rw [hm, requeueFor_still hr, List.filter_cons_of_neg (by simpa using hr)]

/-! ### The working lane (R104, R105) -/

/-- The record of a span after a change of the working lane keeps its state, on which conditioning rests. -/
theorem staleRecords_evaluated (s : State) (lanes : LaneInterface) (r : Circuit) :
    evaluated s.staleRecords.spans lanes r = evaluated s.spans lanes r := by
  have : ∀ n, ((s.spans.map fun u => { u with record := u.record.staled }).get n).state = (s.spans.get n).state := fun n => by simp
  simp only [State.staleRecords, State.setSpans_spans, evaluated, conditioned, this]

/-- R105: a change of the working lane. -/
theorem changeWorking_spec (cause : WorkingCause) (s : State) : WorkingChanged cause s (s.changeWorking cause) := by
  have hnd : allCircuits.Nodup := List.nodup_finRange 512
  obtain ⟨p, hp⟩ : ∃ p, p = (s.setLanes s.lanes.switched).staleRecords.laneChangeAlign := ⟨_, rfl⟩
  obtain ⟨q, hq⟩ : ∃ q, q = p.requeueAligned := ⟨_, rfl⟩
  obtain ⟨t, ht⟩ : ∃ t, t = s.changeWorking cause := ⟨_, rfl⟩
  have htq : t = q.handReport (.lane q.lanes.working q.lanes.timing (.working s.lanes.working q.lanes.working cause q.fibreCount)) := by
    rw [ht, hq, hp]; rfl
  obtain ⟨h1, h2, h3, h4⟩ := requeue_foldl allCircuits p hnd
  have hdef : allCircuits.foldl State.requeueFor p = q := by rw [hq]; rfl
  rw [hdef] at h1 h2 h3 h4
  have ft : SameBut [.reports] q t := by rw [htq]; exact handReport_frame q _
  rw [← ht]
  have hmemAll : ∀ c : CircuitNo, c ∈ allCircuits := List.mem_finRange
  have hpc : ∀ c, p.circuit c = (s.circuit c).laneChanged := fun c => by
    rw [hp]; simp only [State.laneChangeAlign, State.setCircuits_circuit, Table.get_map]; rfl
  have hpst : ∀ c, (p.circuit c).state = (s.circuit c).state := fun c => by
    rw [hpc]; unfold Circuit.laneChanged; split <;> rfl
  have hal : ∀ c, (s.circuit c).state = .aligned → p.circuit c = s.circuit c := fun c hc => by
    rw [hpc]; unfold Circuit.laneChanged; rw [hc]; rfl
  have hqst : ∀ c, (q.circuit c).state = .fibre ↔ (s.circuit c).state = .fibre := by
    intro c
    by_cases hc : (s.circuit c).state = .aligned
    · cases hx : (p.circuit c).context with
      | some x =>
        rw [h1 c (hmemAll c) x (by rw [hpst]; exact hc) hx]
        simp [Circuit.requeuedRecord, Circuit.measuringRecord, hc]
      | none =>
        have : ∀ l : List CircuitNo, ∀ v : State, (v.circuit c).context = none → (v.circuit c).state = .aligned →
            ((l.foldl State.requeueFor v).circuit c).state = .aligned := by
          intro l
          induction l with
          | nil => exact fun v _ h => h
          | cons a l ih =>
            intro v hv1 hv2
            rw [List.foldl_cons]
            have hk : (State.requeueFor v a).circuit c = v.circuit c := by
              by_cases hr : (v.circuit a).state = .aligned ∧ (v.circuit a).context.isSome = true
              · obtain ⟨x, hx⟩ := Option.isSome_iff_exists.mp hr.2
                have hca : c ≠ a := by rintro rfl; rw [hx] at hv1; cases hv1
                rw [State.requeueFor, if_pos hr.1]
                exact (requeueFull_spec hx).1.2 c (by simpa using hca)
              · rw [requeueFor_still hr]
            exact ih _ (by rw [hk]; exact hv1) (by rw [hk]; exact hv2)
        rw [← hdef, this allCircuits p hx (by rw [hpst]; exact hc), hc]
    · rw [h2 c (.inr (by rw [hpst]; exact hc)), hpst]
  have hcount : q.fibreCount = (allCircuits.filter fun c => (s.circuit c).state = .fibre).length := by
    have e : (allCircuits.filter fun c => (q.circuit c).state = .fibre) = allCircuits.filter fun c => (s.circuit c).state = .fibre :=
      List.filter_congr fun c _ => by simp only [hqst c]
    simp only [State.fibreCount, e]
  have hql : q.lanes = s.lanes.switched := by
    have hpl : p.lanes = s.lanes.switched := by rw [hp]; rfl
    rw [← hpl, ← hdef]
    have : ∀ (l : List CircuitNo) (v : State), (l.foldl State.requeueFor v).lanes = v.lanes := by
      intro l
      induction l with
      | nil => exact fun _ => rfl
      | cons a l ih =>
        intro v
        rw [List.foldl_cons, ih]
        unfold State.requeueFor State.requeueFull
        split
        · split
          · have := enterMeasuring_frame (v.putContext a { ‹Context› with delta := none }) a .queued
            change (State.enterMeasuring _ a .queued).lanes = v.lanes
            unfold State.enterMeasuring
            split <;> rfl
          · rfl
        · rfl
    exact this allCircuits p
  have htl : t.lanes = s.lanes.switched := by
    rw [← hql, htq]
    unfold State.handReport
    split <;> rfl
  have hps : ∀ n, p.span n = { s.span n with record := (s.span n).record.staled } := fun n => by
    rw [hp]; simp only [State.laneChangeAlign, State.setCircuits_span, State.setAlign_span, State.staleRecords, State.setSpans_span,
      Table.get_map, State.setLanes_spans]; rfl
  have hpu : ∀ u, p.unit u = ((s.setLanes s.lanes.switched).staleRecords).laneChangeUnit (s.unit u) := fun u => by
    rw [hp]; simp only [State.laneChangeAlign, State.setCircuits_unit, State.setAlign_unit, Table.get_map]; rfl
  have hpf : SameBut [.circuits, .spans, .selection, .slots, .reception, .matchers, .pause] s p := by
    rw [hp]
    refine .of_forall fun b => ?_
    cases b <;> first | (left; decide) | (right; rfl) | (right; exact ⟨rfl, rfl⟩) | (right; exact ⟨rfl, rfl, rfl⟩) |
      (right; exact ⟨rfl, rfl, rfl, rfl, rfl⟩)
  have htc : ∀ c, t.circuit c = q.circuit c := ft.sameCircuit (by simp)
  have hte : ∀ r, evaluated t.spans t.lanes r = evaluated q.spans q.lanes r := ft.evaluated_eq (by simp) (by simp)
  have hframe : SameBut workingBlocks s t := ((hpf.mono (by decide)).trans (h4.mono (by decide))).trans (ft.mono (by decide))
  refine ⟨?_, ?_, ?_, fun n => ?_, fun n => ?_, ?_, fun n => ?_, ?_, fun u c hc hst => ?_, fun u hu => ?_, fun c x hc hx => ?_, fun c hc => ?_,
    fun c h5 h6 h7 => ?_, ?_, ?_, hframe⟩
  · rw [htl]; rfl
  · rw [htl]; exact ⟨rfl, rfl⟩
  · rw [htl]; exact ⟨rfl, rfl⟩
  · rw [htl]
    simp only [LaneInterface.switched, LaneInterface.retimed, Table.get_map]
    rfl
  · rw [htl]
    simp only [LaneInterface.switched, LaneInterface.retimed, Table.get_map]
    rfl
  · unfold TimingLaw
    rw [htl]
    exact retimed_timing _
  · rw [ft.sameSpan (by simp), h4.sameSpan (by simp), hps]
  · have e1 : t.align.pause = q.align.pause := ft .pause (by simp)
    have e2 : q.align.pause = p.align.pause := h4 .pause (by simp)
    rw [e1, e2, hp]
    rfl
  · rw [ft.sameUnit (by simp), h4.sameUnit (by simp), hpu]
    unfold State.laneChangeUnit
    simp only [hc]
    unfold Matcher.laneChange
    cases hs : (s.unit u).state <;> first | rfl | exact absurd hs hst
  · rw [ft.sameUnit (by simp), h4.sameUnit (by simp), hpu]
    unfold State.laneChangeUnit
    rcases hu with hu | hu
    · simp only [hu]
    · split
      · unfold Matcher.laneChange
        simp only [hu]
      · rfl
  · rw [htc, hte]
    have := h1 c (hmemAll c) x (by rw [hpst]; exact hc) (by rw [hal c hc]; exact hx)
    rw [hal c hc] at this
    exact this
  · rw [htc, h2 c (.inr (by rw [hpst]; rcases hc with h | h <;> rw [h] <;> simp)), hpc]
    unfold Circuit.laneChanged
    rw [if_pos (by rcases hc with h | h <;> rw [h] <;> rfl)]
  · rw [htc, h2 c (.inr (by rw [hpst]; exact h5)), hpc]
    unfold Circuit.laneChanged
    rw [if_neg]
    cases hst : (s.circuit c).state <;> first | exact absurd hst h6 | exact absurd hst h7 | simp [deltaLostAtLaneChange]
  · have e : (allCircuits.filter fun c => (p.circuit c).state = .aligned ∧ (p.circuit c).context.isSome) =
        allCircuits.filter fun c => (s.circuit c).state = .aligned ∧ (s.circuit c).context.isSome :=
      List.filter_congr fun c _ => by
        by_cases hc : (s.circuit c).state = .aligned
        · rw [hal c hc]
        · simp [hpst, hc]
    rw [ft.sameQueue (by simp), h3, hpf.sameQueue (by simp), e]
  · have h5 := (hpf.reported (by simp)).trans (h4.reported (by simp)) (hpf.sameClock (by simp))
    have h6 := h5.trans (handReport_reported q (.lane q.lanes.working q.lanes.timing (.working s.lanes.working q.lanes.working cause q.fibreCount)))
      ((hpf.mono (by decide) |>.trans (h4.mono (by decide)) : SameBut workingBlocks s q).sameClock (by decide))
    rw [← htq, hcount, hql] at h6
    rw [htl]
    exact h6

/-- R104: the working-lane test. -/
theorem workingTest_spec (cause : WorkingCause) (s : State) : Tested cause s (s.workingTest cause) := by
  have h := testTarget_some s.lanes
  unfold State.workingTest
  cases ht : s.lanes.testTarget with
  | some x =>
    rw [ht] at h
    exact ⟨fun _ => changeWorking_spec cause s, fun hn => absurd (h.mp rfl) hn⟩
  | none =>
    rw [ht] at h
    exact ⟨fun hm => absurd (h.mpr hm) (by simp), fun _ => rfl⟩

/-! ### A lane's change of state (R113, R116) -/

/-- R113, R116: a lane takes a record. -/
theorem laneState_spec (i : Lane) (after : LaneRecord) (cause : LaneCause) (s : State) : LaneTakes i after cause s (s.laneState i after cause) := by
  set m := s.setLanes (s.lanes.setLane i after).retimed with hm
  have hml : m.lanes = (s.lanes.setLane i after).retimed := rfl
  have fm : SameBut [.laneRecords, .selection] s m := by
    refine .of_forall fun b => ?_
    cases b <;> cases i <;> simp [Block.same, hm, LaneInterface.setLane, LaneInterface.retimed]
  set t := s.laneState i after cause with ht
  have hfin : t = m.handReport (.lane m.lanes.settled.working m.lanes.settled.timing (.state i (s.lane i).state after.state cause)) := rfl
  have ft : SameBut [.reports] m t := by rw [hfin]; exact handReport_frame m _
  have htl : t.lanes = m.lanes := by
    rw [hfin]; unfold State.handReport; split <;> rfl
  have hsel : m.lanes.working = s.lanes.working ∧ m.lanes.holdOff = s.lanes.holdOff ∧ m.lanes.holdOffSeconds = s.lanes.holdOffSeconds := by
    cases i <;> exact ⟨rfl, rfl, rfl⟩
  have hlane : ∀ j, t.lane j = m.lane j := fun j => by simp [State.lane, htl]
  refine ⟨⟨?_, ?_⟩, ?_, ?_, ⟨m.lanes.settled.working, m.lanes.settled.timing, ?_, fun hc => ?_, fun hc => ?_, ?_⟩, (fm.mono (by decide)).trans (ft.mono (by decide))⟩
  · rw [hlane]; cases i <;> rfl
  · rw [hlane]; cases i <;> rfl
  · unfold TimingLaw; rw [htl]; exact retimed_timing _
  · rw [htl]; exact hsel
  · rw [hfin]
    have := (fm.reported (by simp)).trans (handReport_reported m (.lane m.lanes.settled.working m.lanes.settled.timing (.state i (s.lane i).state after.state cause)))
      (fm.sameClock (by simp))
    exact this
  · rw [htl] at hc ⊢
    obtain ⟨x, hx⟩ := Option.isSome_iff_exists.mp ((testTarget_some m.lanes).mpr hc)
    unfold LaneInterface.settled
    rw [hx]
    rfl
  · rw [htl] at hc ⊢
    have hx : m.lanes.testTarget = none := by
      cases hx : m.lanes.testTarget with
      | none => rfl
      | some x => exact absurd ((testTarget_some m.lanes).mp (by rw [hx]; rfl)) hc
    unfold LaneInterface.settled
    rw [hx]
    rfl
  · rw [htl]
    unfold LaneInterface.settled
    cases hx : m.lanes.testTarget with
    | none => exact timingOf_eq _
    | some x => exact timingOf_eq _

/-! ### Availability (R100) -/

/-- R100: fibre becomes unavailable. -/
theorem fibreUnavailable_spec (hb : BatchLaw s) (hc : CopperOwned s) : FibreUnavailable s s.fibreUnavailable := by
  set m := s.setLanes { s.lanes with
    slots := s.lanes.slots.map SlotRecognition.unavailable
    slotsBefore := s.lanes.slotsBefore.map SlotRecognition.unavailable } with hm
  have fm : SameBut [.slots] s m := .of_forall fun b => by cases b <;> simp [Block.same, hm]
  have hmc : ∀ c, m.circuit c = s.circuit c := fun c => rfl
  have hfin : s.fibreUnavailable = m.fibreLost := rfl
  have hf := fibreLost_frame m
  have hl := (fibreLost_spec (s := m) (hb.of_frame fm (by simp) fun c => by rw [hmc]) hc).1
  have hms : m.lanes.slots = s.lanes.slots.map SlotRecognition.unavailable := rfl
  have hmb : m.lanes.slotsBefore = s.lanes.slotsBefore.map SlotRecognition.unavailable := rfl
  rw [hfin]
  obtain ⟨hs, hb⟩ := hf .slots (by decide)
  obtain ⟨l, hsent, hmessages, hnone⟩ := hl.handedOn.sent
  obtain ⟨bodies, hreports, houtcomes⟩ := hl.reports
  refine ⟨fun n => ?_, fun n => ?_, ⟨hl.abandoned, hl.reverted, hl.others, ⟨hl.matchers.queue, hl.matchers.units⟩,
      ⟨⟨l, (fm.sentNone (by simp)).trans hsent, hmessages, hnone⟩, hl.handedOn.events⟩,
      ⟨bodies, (fm.reported (by simp)).trans hreports (fm.sameClock (by simp)), houtcomes⟩⟩, (fm.mono (by simp)).trans (hf.mono (by decide))⟩
  · rw [hs, hms, Table.get_map]; rfl
  · rw [hb, hmb, Table.get_map]; rfl


/-- R100: what follows a change of the count of UP lanes. -/
theorem availability_spec (hb : BatchLaw s) (hc : CopperOwned s) (wasUp : Bool) :
    Availability wasUp s.lanes.anyUp s (s.availability wasUp) := by
  unfold Availability State.availability
  split
  · exact fibreUnavailable_spec hb hc
  · split
    · exact ⟨fun c => State.evaluateAll_circuit s c, evaluateAll_frame s⟩
    · rfl

/-! ### A lane goes DOWN, changes between UP and DEGRADED, goes UP (R97, R98, R99) -/

/-- R14, R102: one frame's code into a recognition. -/
theorem take_heard (r : LineRecognition) (code : LineCondition) : Heard code r (r.take code) := by
  unfold Heard LineRecognition.take Config.recognitionRun
  repeat' split
  all_goals rfl

/-- R103: one frame's flag into a recognition. -/
theorem take_flagHeard (r : FlagRecognition) (flag : Bool) : FlagHeard flag r (r.take flag) := by
  unfold FlagHeard FlagRecognition.take Config.recognitionRun
  repeat' split
  all_goals rfl

/-- R61, R59: the restart of a unit's priming, as the laws say it. -/
theorem Matcher.restart_eq (m : Matcher) (record : DelayRecord) : m.restart m.kind record = m.restarted record := by
  unfold Matcher.restart Matcher.restarted candidateSet DelayRecord.validDelta
  cases hk : m.kind <;> cases record <;> simp only [Matcher.restartedFull]
  split
  · rw [← hk]
  · rfl

/-- R65: a unit of a circuit on a slot restarts in a frame whose flags are all clear. -/
theorem flagClearUnit_restarts {m : Matcher} {content : SlotNo → SlotContent} (hclear : ∀ n, (content n).flag = false)
    {c : CircuitNo} (hc : m.circuit = some c) (hf : (s.circuit c).fibre.isSome = true)
    (hm : m.state = .priming ∨ m.state = .window) : s.flagClearUnit content m = m.restarted (s.recordOf c) := by
  obtain ⟨n, hn⟩ := Option.isSome_iff_exists.mp hf
  rw [← Matcher.restart_eq]
  unfold State.flagClearUnit
  rcases hm with hm | hm <;> simp [hm, hc, hn, hclear]

theorem flagClearUnit_resting {m : Matcher} (content : SlotNo → SlotContent)
    (hm : m.circuit = none ∨ m.state = .free ∨ m.state = .done) : s.flagClearUnit content m = m := by
  unfold State.flagClearUnit
  rcases hm with hm | hm | hm
  · cases hs : m.state <;> simp [hm]
  · simp [hm]
  · simp [hm]

theorem idleSlots_frame (s : State) : SameBut [.slots] s s.idleSlots :=
  .of_forall fun b => by cases b <;> simp [Block.same, State.idleSlots]

theorem idleRings_frame (s : State) : SameBut [.rings] s s.idleRings :=
  .of_forall fun b => by cases b <;> simp [Block.same, State.idleRings]

theorem flagClearUnits_frame (s : State) (content : SlotNo → SlotContent) : SameBut [.matchers] s (s.flagClearUnits content) :=
  .of_forall fun b => by cases b <;> simp [Block.same, State.flagClearUnits]

theorem idleRoutes_frame (s : State) : SameBut [.routes] s s.idleRoutes :=
  .of_forall fun b => by cases b <;> simp [Block.same, State.idleRoutes]

/-- R101, with the remark of R105: the idle content of a frame in which the working lane fails. -/
theorem idleFrame_spec (s : State) : IdleFrame s s.idleFrame := by
  obtain ⟨k, hk⟩ : ∃ k, k = s.idleSlots.idleRings := ⟨_, rfl⟩
  obtain ⟨m, hm⟩ : ∃ m, m = k.flagClearUnits fun _ => .idle s.node.idleCode := ⟨_, rfl⟩
  have hfin : s.idleFrame = m.idleRoutes := by rw [hm, hk]; rfl
  have fk : SameBut [.slots, .rings] s k := by
    rw [hk]; exact ((idleSlots_frame s).mono (by decide)).trans ((idleRings_frame _).mono (by decide))
  have fm : SameBut [.matchers] k m := by rw [hm]; exact flagClearUnits_frame k _
  have ft : SameBut [.routes] m s.idleFrame := by rw [hfin]; exact idleRoutes_frame m
  have fsm : SameBut [.slots, .rings, .matchers] s m := (fk.mono (by decide)).trans (fm.mono (by decide))
  have hkc : ∀ c, k.circuit c = s.circuit c := fk.sameCircuit (by decide)
  have hu : ∀ u, s.idleFrame.unit u = k.flagClearUnit (fun _ => .idle s.node.idleCode) (s.unit u) := fun u => by
    rw [ft.sameUnit (by decide), hm, ← fk.sameUnit (by decide)]
    simp [State.flagClearUnits, State.unit]
  have hslots : s.idleFrame.lanes.slots = s.lanes.slotsBefore.map (fun r => r.hear (.idle s.node.idleCode)) ∧
      s.idleFrame.lanes.slotsBefore = s.lanes.slotsBefore := by
    obtain ⟨h1, h2⟩ := ft .slots (by decide)
    obtain ⟨h3, h4⟩ := fm .slots (by decide)
    obtain ⟨h5, h6⟩ := idleRings_frame s.idleSlots .slots (by decide)
    rw [h1, h2, h3, h4, hk, h5, h6]
    exact ⟨rfl, rfl⟩
  have hring : ∀ c, s.idleFrame.ring c = if (s.circuit c).fibre.isSome then (s.ring c).set (cellOf s.fc) s.node.idleCode else s.ring c := by
    intro c
    have h1 : s.idleFrame.align.rings = m.align.rings := ft .rings (by decide)
    have h2 : m.align.rings = k.align.rings := fm .rings (by decide)
    simp only [State.ring, h1, h2, hk, State.idleRings, State.setAlign_align, Table.get_mapIdx]
    rfl
  have hh : m.highway = s.highway := by
    obtain ⟨h1, h2, h3⟩ := fsm .routes (by decide)
    have h4 : m.highway.channels = s.highway.channels := fsm .channels (by decide)
    cases h : m.highway; cases h' : s.highway
    simp_all
  refine ⟨fun n => ?_, hslots.2, fun c j => ?_, fun u c hc hf hst => ?_, fun u hr => ?_, fun c => ?_, ?_, ?_,
    (fsm.mono (by decide)).trans (ft.mono (by decide))⟩
  · rw [hslots.1, Table.get_map]
    exact ⟨take_heard _ _, take_flagHeard _ _⟩
  · rw [hring]
    have e : ringCell s.fc = cellOf s.fc := rfl
    rw [e]
    split
    next h => rw [Table.get_set]; simp [h, eq_comm]
    next h => simp [h]
  · rw [hu, flagClearUnit_restarts (fun _ => rfl) hc (by rw [hkc]; exact hf) hst]
    unfold State.recordOf State.span
    rw [hkc, fk.sameSpans (by decide)]
  · rw [hu, flagClearUnit_resting _ hr]
  · have hn : m.node = s.node := fsm .node (by decide)
    rw [hfin, State.idleRoutes, State.setHighway_highway, State.setHighway_lanes, Table.get_mapIdx, hh]
    cases s.highway.fibreRoute.get c <;> simp only [State.idleRoute, hn]
  · rw [hfin, State.idleRoutes, State.setHighway_highway, hh]
  · rw [hfin, State.idleRoutes, State.setHighway_highway, hh]

/-- R98, R100, R104: a framed lane goes DOWN. -/
theorem laneLowered_spec (h : Sound s) (i : Lane) (cause : LaneCause) : LaneGoesDown i (s.lane i).lowered cause s (s.laneLowered i cause) := by
  obtain ⟨m, hm⟩ : ∃ m, m = s.laneState i (s.lane i).lowered cause := ⟨_, rfl⟩
  have hl := laneState_spec i (s.lane i).lowered cause s
  rw [← hm] at hl
  have low : ∀ k : State, SameBut [.slots, .rings, .matchers, .routes] m k → BatchLaw k ∧ CopperOwned k := by
    intro k hk
    have hf : SameBut [.laneRecords, .selection, .reports, .slots, .rings, .matchers, .routes] s k := (hl.frame.mono (by decide)).trans (hk.mono (by decide))
    have hc := hf.sameCircuit (by decide)
    refine ⟨h.batches.of_frame hf (by decide) fun c => by rw [hc], fun d p hd => ?_⟩
    rw [hc] at hd
    simp only [State.timeslotOwner, (hf.sameOwner (by decide)).1]
    exact h.copper d p hd
  obtain ⟨k, hk⟩ : ∃ k, k = if s.lanes.working = i ∧ m.lanes.anyUp = true then m.idleFrame else m := ⟨_, rfl⟩
  have hkm : SameBut [.slots, .rings, .matchers, .routes] m k := by
    rw [hk]; split
    · exact (idleFrame_spec m).frame
    · exact .refl _ m
  have hup : k.lanes.anyUp = m.lanes.anyUp := by
    have := hkm .laneRecords (by decide)
    obtain ⟨h1, h2⟩ := this
    simp only [LaneInterface.anyUp, h1, h2]
  have ha := availability_spec (low k hkm).1 (low k hkm).2 s.lanes.anyUp
  rw [hup] at ha
  have hfin : s.laneLowered i cause = (k.availability s.lanes.anyUp).workingTest .automatic := by rw [hk, hm]; rfl
  rw [hfin]
  refine ⟨m, k, k.availability s.lanes.anyUp, hl, ?_, ha, workingTest_spec .automatic _⟩
  rw [hk]
  split
  · exact idleFrame_spec m
  · rfl

/-- R99: a framed lane changes between UP and DEGRADED. -/
theorem laneGraded_spec (h : Sound s) (i : Lane) (after : LaneRecord) (cause : LaneCause) :
    LaneGraded i after cause s (s.laneGraded i after cause) := by
  have hl := laneState_spec i after cause s
  have hc := hl.frame.sameCircuit (by decide)
  refine ⟨_, _, hl, availability_spec ?_ ?_ _, workingTest_spec .automatic _⟩
  · exact h.batches.of_frame hl.frame (by decide) fun c => by rw [hc]
  · intro d p hd
    rw [hc] at hd
    simp only [State.timeslotOwner, (hl.frame.sameOwner (by decide)).1]
    exact h.copper d p hd

end Sys2Proof.Machine
end

