-- ==== Sys2Proof/Laws/Lawful.lean ====
section
/-! SUPPORT. A check of the laws of the whole part that evaluates on a concrete state, and the changes of a state that no
law rests on. -/

namespace Sys2Proof.Machine

/-! ### Tables entry by entry -/

/-- A check of every entry of a table with its index. -/
def everyEntry {n : Nat} {α : Type} (t : Table n α) (p : Fin n → α → Bool) : Bool :=
  ((List.finRange n).zip t.data).all fun x => p x.1 x.2

theorem everyEntry_get {n : Nat} {α : Type} {t : Table n α} {p : Fin n → α → Bool} (h : everyEntry t p = true) (i : Fin n) :
    p i (t.get i) = true := by
  have hm : (i, t.get i) ∈ (List.finRange n).zip t.data := by
    rw [List.mem_iff_getElem]
    exact ⟨i.val, by simp [t.size], by simp [Table.get_eq]⟩
  exact List.all_eq_true.mp h _ hm

/-! ### The checks -/

/-- The table of section 1.2 for one record. -/
def Circuit.lawfulCheck (r : Circuit) : Bool :=
  match r.state with
  | .vacant => r.copper.isNone && !r.copperTransmit && decide (r.fibreTransmit ≠ .bridged) && r.context.isNone && r.buildOut == 0
  | .copper => r.copper.isSome && r.copperTransmit && decide (r.fibreTransmit ≠ .bridged) && r.context.isNone && r.buildOut == 0
  | .proposing =>
    r.copper.isSome && r.fibre.isSome && r.copperTransmit && decide (r.fibreTransmit ≠ .bridged) &&
      r.context.any (fun x => decide (x.role = .initiator) && x.sub.isNone) && r.buildOut == 0
  | .awaiting =>
    r.copper.isSome && r.fibre.isSome && r.copperTransmit && decide (r.fibreTransmit = .bridged) &&
      r.context.any (fun x => decide (x.role = .acceptor) && x.sub.isNone) && r.buildOut == 0
  | .measuring =>
    r.copper.isSome && r.fibre.isSome && r.copperTransmit && decide (r.fibreTransmit = .bridged) &&
      r.context.any (fun x => x.sub.isSome) && r.buildOut == 0
  | .aligned =>
    r.copper.isSome && r.fibre.isSome && r.copperTransmit && decide (r.fibreTransmit = .bridged) &&
      r.context.any (fun x => x.sub.isNone)
  | .fibre =>
    r.fibre.isSome && decide (r.fibreTransmit = .bridged) &&
      (match r.context with
        | some x => r.copper.isSome && r.copperTransmit && x.sub.isNone
        | none => r.copper.isNone && !r.copperTransmit)

theorem Circuit.lawful_of_check {r : Circuit} (h : r.lawfulCheck = true) : r.lawful := by
  unfold Circuit.lawfulCheck at h
  unfold Circuit.lawful
  cases hs : r.state <;> simp only [hs] at h ⊢ <;> cases hx : r.context <;>
    simp_all [Option.isNone_iff_eq_none]

/-- One record: the laws of its state, its conditioning, its build-out, delay and captured parameters. -/
def recordCheck (s : State) (r : Circuit) : Bool :=
  r.lawfulCheck && r.conditioning == conditioned s.spans s.lanes r && decide (r.holdSeconds ≤ 3600) && decide (r.buildOut ≤ 127) &&
    (decide (r.state = .aligned) || decide (r.state = .fibre) || r.buildOut == 0) &&
    (match r.delta with | some d => inDeltaRange d | none => true) &&
    (decide (r.state ≠ .aligned) || (match r.delta with | some d => r.buildOut == (-d).toNat | none => false)) &&
    (match r.context with
      | some x => decide (x.attempts ≤ x.retryLimit ∧ x.retryLimit ≤ 7 ∧ 8000 ≤ x.bridgeCaptured ∧ x.bridgeCaptured ≤ 960000)
      | none => true)

/-- One record's attachments, code, membership and place in the matchers, as the other blocks have them. -/
def placeCheck (s : State) (c : CircuitNo) (r : Circuit) : Bool :=
  (match r.copper with | some p => s.timeslotOwner p == some c | none => true) &&
  (match r.fibre with | some n => s.slotOwner n == some c | none => true) &&
  (match r.code with | some code => codeValid code && (s.directory.lookup code).map Prod.fst == some c | none => true) &&
  (match r.batch with
    | some id => (match s.batch id with | some b => decide (c ∈ b.members.map Member.circuit) | none => false)
    | none => true) &&
  (!(r.state == .measuring && r.sub == some .queued) || decide (c ∈ s.align.queue.map QueueEntry.circuit)) &&
  (!(r.state == .measuring && r.sub == some .matching) || (List.finRange 4).any fun u => (s.unit u).circuit == some c)

/-- The occupancy entries. -/
def occupancyCheck (s : State) : Bool :=
  (everyEntry s.timeslots fun n row => everyEntry row fun i o =>
    match o with | some c => decide ((s.circuit c).copper = some ⟨n, i⟩) && decide ((s.span n).state ≠ .retired) | none => true) &&
  everyEntry s.slotOwners fun n o => match o with | some c => decide ((s.circuit c).fibre = some n) | none => true

/-- The open batches. -/
def batchCheck (s : State) : Bool :=
  everyEntry s.batches fun id o =>
    match o with
    | some b => decide (1 ≤ b.members.length ∧ b.members.length ≤ 64 ∧ 1 ≤ b.limit ∧ b.limit ≤ 16) &&
        decide (b.members.map Member.circuit).Nodup && b.remaining == b.count .pending + b.count .active &&
        b.members.all fun m => (s.circuit m.circuit).batch == some id
    | none => true

/-- The matcher queue and the units. -/
def matcherCheck (s : State) : Bool :=
  decide (s.align.queue.map QueueEntry.circuit).Nodup &&
  s.align.queue.all (fun e => (s.circuit e.circuit).state == .measuring && (s.circuit e.circuit).sub == some .queued) &&
  everyEntry s.align.units fun u m =>
    (match m.circuit with
      | some c => decide (m.state ≠ .free) && (s.circuit c).state == .measuring && (s.circuit c).sub == some .matching &&
          (List.finRange 4).all fun v => decide (v = u) || decide ((s.unit v).circuit ≠ some c)
      | none => decide (m.state = .free)) &&
    decide (-127 ≤ m.wlo) && decide (m.whi ≤ 127) && m.candidates.all (fun k => decide (m.wlo ≤ k) && decide (k ≤ m.whi)) &&
    (match m.outcome with
      | some (.matched d) => decide (m.wlo ≤ d) && decide (d ≤ m.whi)
      | some (.confirmed d) => decide (m.wlo ≤ d) && decide (d ≤ m.whi)
      | _ => true)

def RangeEntry.lawfulCheck (e : RangeEntry) : Bool :=
  decide (e.route < 4096) && decide (e.size ∈ [1, 2, 4, 8, 16, 32, 64, 128, 256]) && decide (e.member % e.size = 0) &&
    decide (e.member + e.size ≤ 256) && decide (e.base + e.size ≤ 512)

theorem RangeEntry.lawful_of_check {e : RangeEntry} (h : e.lawfulCheck = true) : e.lawful := by
  simp only [RangeEntry.lawfulCheck, Bool.and_eq_true, decide_eq_true_eq] at h
  exact ⟨h.1.1.1.1, h.1.1.1.2, h.1.1.2, h.1.2, h.2⟩

/-- The entries of the directory. -/
def directoryCheck (s : State) : Bool :=
  (everyEntry s.directory.ranges fun i o =>
    match o with
    | some e => e.lawfulCheck &&
        (everyEntry s.directory.ranges fun j p => match p with | some x => decide (i = j) || !e.overlaps x | none => true) &&
        (List.range e.size).all fun k =>
          match circuitOf (e.base + k) with
          | some c => (s.circuit c).code == some ⟨e.route, e.member + k⟩
          | none => false
    | none => true) &&
  (everyEntry s.directory.trunks fun b row => everyEntry row fun w o =>
    match o with
    | some e => codeValid e.code && (decide (b = primaryBucket e.code) || decide (b = secondaryBucket e.code)) &&
        (s.directory.findRange e.code).isNone && (s.circuit e.circuit).code == some e.code &&
        decide (s.directory.findTrunk e.code = some (b, w, e))
    | none => true) &&
  match s.directory.walk with
  | .rangeCheck next _ _ _ e found => e.lawfulCheck && (s.directory.overlapping e).isNone &&
      (found.isSome || everyEntry s.directory.trunks fun b _ => decide (next ≤ b.val) || (s.directory.insideBucket e b).isNone)
  | .purge .. => true
  | .idle => true

/-- Spans, node parameters, lanes, and the depths of the queues. -/
def settingsCheck (s : State) : Bool :=
  (everyEntry s.spans fun _ u =>
    (match u.record with | .valid m => inDeltaRange m.delta | .stale m => inDeltaRange m.delta | .invalid => true) &&
    decide (-127 ≤ u.wlo ∧ u.wlo ≤ 0 ∧ 0 ≤ u.whi ∧ u.whi ≤ 127 ∧ u.tolerance ≤ 8)) &&
  decide (s.node.node ≤ 65535 ∧ 2 ≤ s.node.lead ∧ s.node.lead ≤ 64 ∧ 16 ≤ s.node.window ∧ s.node.window ≤ 255) &&
  decide (s.node.retryLimit ≤ 7 ∧ 400 ≤ s.node.backoff ∧ s.node.backoff ≤ 32000 ∧ 8000 ≤ s.node.bridgeLimit ∧
    s.node.bridgeLimit ≤ 960000 ∧ s.node.deferLimit ≤ 28800000) &&
  decide (s.lanes.holdOffSeconds ≤ 60) && decide (s.lanes.timing = s.lanes.source) &&
  decide (s.links.reports.length ≤ 32 ∧ s.lanes.queue.length ≤ 128) &&
  decide (s.links.primary.input.length ≤ 4 ∧ s.links.craft.input.length ≤ 4)

/-- The check of every law. -/
def lawfulCheck (s : State) : Bool :=
  everyEntry s.circuits (fun c r => recordCheck s r && placeCheck s c r) && occupancyCheck s && batchCheck s && matcherCheck s &&
    directoryCheck s && settingsCheck s

/-! ### What the checks show -/

variable {s : State}

theorem conditioned_iff (s : State) (r : Circuit) : conditioned s.spans s.lanes r = true ↔ s.callsForConditioning r := by
  unfold conditioned State.callsForConditioning
  cases r.state <;> cases hc : r.copper <;> simp [LaneInterface.anyUp, State.span]

theorem findRange_some {d : Directory} {code : TrunkCode} {i : Fin 8} {e : RangeEntry} (h : d.findRange code = some (i, e)) :
    d.ranges.get i = some e ∧ e.covers code = true := by
  obtain ⟨j, -, hj⟩ := List.exists_of_findSome?_eq_some h
  split at hj
  · split at hj
    · cases hj; exact ⟨by assumption, by assumption⟩
    · cases hj
  · cases hj

theorem findWay_some {d : Directory} {code : TrunkCode} {b : Fin 128} {w : Fin 4} {e : TrunkEntry}
    (h : d.findWay b code = some (w, e)) : (d.trunks.get b).get w = some e ∧ e.code = code := by
  obtain ⟨v, -, hv⟩ := List.exists_of_findSome?_eq_some h
  split at hv
  · split at hv
    · cases hv; exact ⟨by assumption, by assumption⟩
    · cases hv
  · cases hv

theorem findTrunk_some {d : Directory} {code : TrunkCode} {b : Fin 128} {w : Fin 4} {e : TrunkEntry}
    (h : d.findTrunk code = some (b, w, e)) : (d.trunks.get b).get w = some e ∧ e.code = code := by
  unfold Directory.findTrunk at h
  split at h
  · rename_i hw; cases h; exact findWay_some hw
  · split at h
    · rename_i hw; cases h; exact findWay_some hw
    · cases h

/-- A circuit that a lookup finds carries the code, when the entries are as `directoryCheck` says. -/
theorem code_of_lookup (h : directoryCheck s = true) {c : CircuitNo} {code : TrunkCode}
    (hl : (s.directory.lookup code).map Prod.fst = some c) : (s.circuit c).code = some code := by
  simp only [directoryCheck, Bool.and_eq_true] at h
  obtain ⟨⟨hr, ht⟩, -⟩ := h
  unfold Directory.lookup at hl
  split at hl
  · rename_i i e hf
    obtain ⟨hg, hc⟩ := findRange_some hf
    have hi := everyEntry_get hr i
    simp only [hg, Bool.and_eq_true, List.all_eq_true, List.mem_range] at hi
    simp only [RangeEntry.covers, Bool.and_eq_true, beq_iff_eq, decide_eq_true_eq] at hc
    have hk := hi.2 (code.member - e.member) (by omega)
    simp only [RangeEntry.circuitFor] at hl
    cases hcirc : circuitOf (e.base + (code.member - e.member)) with
    | none => simp [hcirc] at hl
    | some d =>
      simp [hcirc] at hl hk
      subst hl
      rw [hk]
      obtain ⟨route, member⟩ := code
      simp_all
  · split at hl
    · rename_i b w e hf
      obtain ⟨hg, hcode⟩ := findTrunk_some hf
      have := everyEntry_get (everyEntry_get ht b) w
      simp only [hg, Bool.and_eq_true, beq_iff_eq] at this
      simp at hl
      subst hl
      rw [this.1.2, hcode]
    · simp at hl

theorem occupancyLaw_of_check (h : occupancyCheck s = true) (hp : ∀ c, placeCheck s c (s.circuit c) = true) : OccupancyLaw s := by
  simp only [occupancyCheck, Bool.and_eq_true] at h
  obtain ⟨ht, hs⟩ := h
  refine ⟨fun p c => ⟨fun ho => ?_, fun hc => ?_⟩, fun n c => ⟨fun ho => ?_, fun hc => ?_⟩, fun n hn i => ?_⟩
  · have := everyEntry_get (everyEntry_get ht p.span) p.timeslot
    simp only [State.timeslotOwner] at ho
    simp only [ho, Bool.and_eq_true, decide_eq_true_eq] at this
    exact this.1
  · have := hp c
    simp only [placeCheck, hc, Bool.and_eq_true, beq_iff_eq] at this
    exact this.1.1.1.1.1
  · have := everyEntry_get hs n
    simp only [State.slotOwner] at ho
    simpa only [ho, decide_eq_true_eq] using this
  · have := hp c
    simp only [placeCheck, hc, Bool.and_eq_true, beq_iff_eq] at this
    exact this.1.1.1.1.2
  · have := everyEntry_get (everyEntry_get ht n) i
    cases ho : s.timeslotOwner ⟨n, i⟩ with
    | none => rfl
    | some c =>
      simp only [State.timeslotOwner] at ho
      simp only [ho, Bool.and_eq_true, decide_eq_true_eq] at this
      exact absurd hn this.2

theorem batchLaw_of_check (h : batchCheck s = true) (hp : ∀ c, placeCheck s c (s.circuit c) = true) : BatchLaw s := by
  refine ⟨fun id b hb => ?_, fun c id => ⟨fun hc => ?_, fun ⟨b, hb, hc⟩ => ?_⟩⟩
  · have := everyEntry_get h id
    simp only [State.batch] at hb
    simp only [hb, Bool.and_eq_true, decide_eq_true_eq, beq_iff_eq] at this
    obtain ⟨⟨⟨h1, h2⟩, h3⟩, -⟩ := this
    exact ⟨⟨h1.1, h1.2.1⟩, h1.2.2, h2, h3⟩
  · have := hp c
    simp only [placeCheck, hc, Bool.and_eq_true] at this
    have hb := this.1.1.2
    cases hb' : s.batch id with
    | none => simp [hb'] at hb
    | some b => exact ⟨b, rfl, by simpa [hb'] using hb⟩
  · have := everyEntry_get h id
    simp only [State.batch] at hb
    simp only [hb, Bool.and_eq_true, List.all_eq_true, beq_iff_eq] at this
    obtain ⟨m, hm, rfl⟩ := List.mem_map.mp hc
    exact this.2 m hm

theorem matcherLaw_of_check (h : matcherCheck s = true) (hp : ∀ c, placeCheck s c (s.circuit c) = true) : MatcherLaw s := by
  simp only [matcherCheck, Bool.and_eq_true, decide_eq_true_eq, List.all_eq_true, beq_iff_eq] at h
  obtain ⟨⟨h1, h2⟩, h3⟩ := h
  have hu : ∀ u c, (s.unit u).circuit = some c → (s.unit u).state ≠ .free ∧ (s.circuit c).state = .measuring ∧
      (s.circuit c).sub = some .matching ∧ ∀ v, v = u ∨ (s.unit v).circuit ≠ some c := by
    intro u c hc
    have := everyEntry_get h3 u
    simp only [State.unit] at hc
    simp only [hc, Bool.and_eq_true, decide_eq_true_eq, beq_iff_eq, List.all_eq_true, List.mem_finRange, forall_const,
      Bool.or_eq_true] at this
    exact ⟨this.1.1.1.1.1.1.1, this.1.1.1.1.1.1.2, this.1.1.1.1.1.2, this.1.1.1.1.2⟩
  refine ⟨h1, fun c => ⟨fun hc => ?_, fun hc => ?_⟩, fun c => ⟨fun ⟨u, hc⟩ => ?_, fun hc => ?_⟩, fun u v c hc hv => ?_, fun u => ?_⟩
  · obtain ⟨e, he, rfl⟩ := List.mem_map.mp hc
    exact h2 e he
  · have := hp c
    simp only [placeCheck, hc.1, hc.2, Bool.and_eq_true, Bool.or_eq_true] at this
    simpa using this.1.2
  · exact ⟨(hu u c hc).2.1, (hu u c hc).2.2.1⟩
  · have := hp c
    simp only [placeCheck, hc.1, hc.2, Bool.and_eq_true, Bool.or_eq_true] at this
    simpa using this.2
  · rcases (hu u c hc).2.2.2 v with hvu | hvu
    · exact hvu.symm
    · exact absurd hv hvu
  · constructor
    · intro hf
      cases hc : (s.unit u).circuit with
      | none => rfl
      | some c => exact absurd hf (hu u c hc).1
    · intro hc
      have := everyEntry_get h3 u
      simp only [State.unit] at hc ⊢
      simp only [hc, Bool.and_eq_true, decide_eq_true_eq] at this
      exact this.1.1.1.1

theorem directoryLaw_of_check (h : directoryCheck s = true) (hp : ∀ c, placeCheck s c (s.circuit c) = true) : DirectoryLaw s := by
  have h' := h
  simp only [directoryCheck, Bool.and_eq_true] at h'
  obtain ⟨⟨hr, ht⟩, hw⟩ := h'
  have hran : ∀ i e, s.directory.ranges.get i = some e → e.lawfulCheck = true ∧
      ∀ j x, s.directory.ranges.get j = some x → i = j ∨ e.overlaps x = false := by
    intro i e he
    have := everyEntry_get hr i
    simp only [he, Bool.and_eq_true] at this
    refine ⟨this.1.1, fun j x hx => ?_⟩
    have := everyEntry_get this.1.2 j
    simpa [hx] using this
  have htr : ∀ b w e, (s.directory.trunks.get b).get w = some e → codeValid e.code = true ∧
      (b = primaryBucket e.code ∨ b = secondaryBucket e.code) ∧ s.directory.findRange e.code = none ∧
      s.directory.findTrunk e.code = some (b, w, e) := by
    intro b w e he
    have := everyEntry_get (everyEntry_get ht b) w
    simp only [he, Bool.and_eq_true, Bool.or_eq_true, decide_eq_true_eq, Option.isNone_iff_eq_none] at this
    exact ⟨this.1.1.1.1, this.1.1.1.2, this.1.1.2, this.2⟩
  refine ⟨fun i e he => RangeEntry.lawful_of_check (hran i e he).1, fun i j e x he hx hij => ?_, fun b w e he => (htr b w e he).1,
    fun b w e he => (htr b w e he).2.1, fun b w e he => (htr b w e he).2.2.1, fun b w e b' w' e' he he' hc => ?_,
    fun c code hv => ⟨fun hc => ?_, fun hl => code_of_lookup h hl⟩, fun c code hc => ?_, ?_⟩
  · rcases (hran i e he).2 j x hx with h | h
    · exact absurd h hij
    · exact h
  · have h1 := (htr b w e he).2.2.2
    have h2 := (htr b' w' e' he').2.2.2
    rw [hc, h2] at h1
    simp only [Option.some.injEq, Prod.mk.injEq] at h1
    exact ⟨h1.1.symm, h1.2.1.symm⟩
  · have := hp c
    simp only [placeCheck, hc, Bool.and_eq_true, beq_iff_eq] at this
    exact this.1.1.1.2.2
  · have := hp c
    simp only [placeCheck, hc, Bool.and_eq_true, beq_iff_eq] at this
    exact this.1.1.1.2.1
  · cases hwalk : s.directory.walk with
    | idle => simp only [WalkLaw, hwalk]
    | purge => simp only [WalkLaw, hwalk]
    | rangeCheck next due port tag e found =>
      simp only [hwalk, Bool.and_eq_true, Option.isNone_iff_eq_none, Bool.or_eq_true] at hw
      simp only [WalkLaw, hwalk]
      refine ⟨RangeEntry.lawful_of_check hw.1.1, hw.1.2, fun hf b hb => ?_⟩
      rcases hw.2 with h | h
      · simp [hf] at h
      · have := everyEntry_get h b
        simp only [Bool.or_eq_true, decide_eq_true_eq, Option.isNone_iff_eq_none] at this
        rcases this with h | h
        · omega
        · exact h

/-- A state that passes the check keeps every law. -/
theorem lawful_of_check (h : lawfulCheck s = true) : Lawful s := by
  simp only [lawfulCheck, Bool.and_eq_true] at h
  obtain ⟨⟨⟨⟨⟨hc, ho⟩, hb⟩, hm⟩, hd⟩, hs⟩ := h
  have hrec : ∀ c, recordCheck s (s.circuit c) = true ∧ placeCheck s c (s.circuit c) = true := fun c => by
    have := everyEntry_get hc c
    simp only [Bool.and_eq_true] at this
    exact this
  have hr : ∀ c, (s.circuit c).lawfulCheck = true ∧ (s.circuit c).conditioning = conditioned s.spans s.lanes (s.circuit c) ∧
      (s.circuit c).holdSeconds ≤ 3600 ∧ (s.circuit c).buildOut ≤ 127 ∧
      ((s.circuit c).state ≠ .aligned → (s.circuit c).state ≠ .fibre → (s.circuit c).buildOut = 0) ∧
      (∀ d, (s.circuit c).delta = some d → -127 ≤ d ∧ d ≤ 127) ∧
      ((s.circuit c).state = .aligned → ∃ d, (s.circuit c).delta = some d ∧ (s.circuit c).buildOut = (-d).toNat) ∧
      ∀ x, (s.circuit c).context = some x →
        x.attempts ≤ x.retryLimit ∧ x.retryLimit ≤ 7 ∧ 8000 ≤ x.bridgeCaptured ∧ x.bridgeCaptured ≤ 960000 := by
    intro c
    have := (hrec c).1
    simp only [recordCheck, Bool.and_eq_true, Bool.or_eq_true, decide_eq_true_eq, beq_iff_eq] at this
    obtain ⟨⟨⟨⟨⟨⟨⟨h1, h2⟩, h3⟩, h4⟩, h5⟩, h6⟩, h7⟩, h8⟩ := this
    refine ⟨h1, h2, h3, h4, fun n1 n2 => ?_, fun d hd => ?_, fun ha => ?_, fun x hx => ?_⟩
    · rcases h5 with (h | h) | h
      · exact absurd h n1
      · exact absurd h n2
      · exact h
    · simpa [hd, inDeltaRange] using h6
    · rcases h7 with h | h
      · exact absurd ha h
      · cases hd : (s.circuit c).delta with
        | none => simp [hd] at h
        | some d => exact ⟨d, rfl, by simpa [hd] using h⟩
    · simpa [hx] using h8
  simp only [settingsCheck, Bool.and_eq_true, decide_eq_true_eq] at hs
  obtain ⟨⟨⟨⟨⟨⟨hsp, hn1⟩, hn2⟩, hh⟩, htm⟩, hq⟩, hin⟩ := hs
  have hspan : ∀ n, (match (s.span n).record with | .valid m => inDeltaRange m.delta | .stale m => inDeltaRange m.delta | .invalid => true) = true ∧
      (-127 ≤ (s.span n).wlo ∧ (s.span n).wlo ≤ 0 ∧ 0 ≤ (s.span n).whi ∧ (s.span n).whi ≤ 127 ∧ (s.span n).tolerance ≤ 8) := by
    intro n
    have := everyEntry_get hsp n
    simp only [Bool.and_eq_true, decide_eq_true_eq] at this
    exact this
  have hunits : ∀ u, -127 ≤ (s.unit u).wlo ∧ (s.unit u).whi ≤ 127 ∧
      (∀ k ∈ (s.unit u).candidates, (s.unit u).wlo ≤ k ∧ k ≤ (s.unit u).whi) ∧
      ∀ d, ((s.unit u).outcome = some (.matched d) ∨ (s.unit u).outcome = some (.confirmed d)) → (s.unit u).wlo ≤ d ∧ d ≤ (s.unit u).whi := by
    intro u
    have hm' := hm
    simp only [matcherCheck, Bool.and_eq_true] at hm'
    have := everyEntry_get hm'.2 u
    simp only [Bool.and_eq_true, decide_eq_true_eq, List.all_eq_true] at this
    refine ⟨this.1.1.1.2, this.1.1.2, this.1.2, fun d hd => ?_⟩
    have ho := this.2
    simp only [State.unit] at hd ⊢
    rcases hd with hd | hd <;> simpa [hd] using ho
  have hpl := fun c => (hrec c).2
  refine ⟨⟨hq.1, hq.2, fun p => ?_⟩, fun c => ?_, occupancyLaw_of_check ho hpl, fun c => Circuit.lawful_of_check (hr c).1,
    batchLaw_of_check hb hpl, matcherLaw_of_check hm hpl, directoryLaw_of_check hd hpl, ?_, ?_, htm⟩
  · cases p
    · exact hin.1
    · exact hin.2
  · rw [(hr c).2.1]; exact conditioned_iff s _
  · refine ⟨fun c => ⟨(hr c).2.2.2.1, (hr c).2.2.2.2.1⟩, fun c => (hr c).2.2.2.2.2.1, fun c => (hr c).2.2.2.2.2.2.1, fun n m hm => ?_,
      fun n => (hspan n).2, fun u => ⟨(hunits u).1, (hunits u).2.1⟩, fun u => (hunits u).2.2.1, fun u => (hunits u).2.2.2⟩
    have := (hspan n).1
    rcases hm with hm | hm <;> simpa [hm, inDeltaRange] using this
  · exact ⟨hn1, hn2, fun c => (hr c).2.2.2.2.2.2.2, fun c => (hr c).2.2.1, hh⟩

/-! ### Changes that no law rests on -/

/-- The laws rest neither on the ports' but their input queues' depths nor on the peer engine, the watches, the rings, the pause and
the model's own fields. -/
theorem Lawful.of_fields {t : State} (h : Lawful s) (hn : t.node = s.node) (hc : t.circuits = s.circuits)
    (hts : t.timeslots = s.timeslots) (hso : t.slotOwners = s.slotOwners) (hsp : t.spans = s.spans) (hl : t.lanes = s.lanes)
    (hq : t.align.queue = s.align.queue) (hu : t.align.units = s.align.units) (hd : t.directory = s.directory)
    (hb : t.batches = s.batches) (hr : t.links.reports = s.links.reports) (hi : ∀ p, (t.port p).input.length ≤ 4) : Lawful t := by
  obtain ⟨q, cd, ⟨o1, o2, o3⟩, r, ⟨b1, b2⟩, ⟨m1, m2, m3, m4, m5⟩, ⟨d1, d2, d3, d4, d5, d6, d7, d8, d9⟩,
    ⟨l1, l2, l3, l4, l5, l6, l7, l8⟩, ⟨p1, p2, p3, p4, p5⟩, tm⟩ := h
  refine ⟨⟨hr ▸ q.reports, hl ▸ q.overhead, hi⟩, ?_, ⟨?_, ?_, ?_⟩, ?_, ⟨?_, ?_⟩, ⟨?_, ?_, ?_, ?_, ?_⟩,
    ⟨hd ▸ d1, hd ▸ d2, hd ▸ d3, hd ▸ d4, hd ▸ d5, hd ▸ d6, ?_, ?_, hd ▸ d9⟩, ⟨?_, ?_, ?_, ?_, ?_, ?_, ?_, ?_⟩,
    ⟨hn ▸ p1, hn ▸ p2, ?_, ?_, hl ▸ p5⟩, ?_⟩ <;>
  simp only [Conditioned, State.callsForConditioning, RouteLaw, TimingLaw, State.circuit, State.span, State.unit, State.timeslotOwner,
    State.slotOwner, State.batch, hc, hts, hso, hsp, hl, hq, hu, hd, hb] <;>
  assumption

theorem Lawful.setPeer (h : Lawful s) (p : PeerEngine) : Lawful (s.setPeer p) :=
  h.of_fields rfl rfl rfl rfl rfl rfl rfl rfl rfl rfl rfl h.queues.inputs

/-- Of a port the laws rest on the depth of its input queue alone. -/
theorem Lawful.setPort (h : Lawful s) (port : Port) (p : PortRecord) (hp : p.input.length ≤ 4) : Lawful (s.setPort port p) := by
  refine h.of_fields rfl rfl rfl rfl rfl rfl rfl rfl rfl rfl (by cases port <;> rfl) fun i => ?_
  by_cases hi : port = i
  · subst hi; simpa using hp
  · rw [State.setPort_port_ne _ _ hi]; exact h.queues.inputs i

/-- Of the lanes the laws rest on whether one is UP, the timing source, the hold-off setting and the depth of the transmit queue. -/
theorem Lawful.setLanes (h : Lawful s) (l : LaneInterface) (hup : l.anyUp = s.lanes.anyUp) (ht : l.timing = l.source)
    (hh : l.holdOffSeconds ≤ 60) (hq : l.queue.length ≤ 128) : Lawful (s.setLanes l) := by
  obtain ⟨q, cd, ⟨o1, o2, o3⟩, r, ⟨b1, b2⟩, ⟨m1, m2, m3, m4, m5⟩, ⟨d1, d2, d3, d4, d5, d6, d7, d8, d9⟩,
    ⟨l1, l2, l3, l4, l5, l6, l7, l8⟩, ⟨p1, p2, p3, p4, p5⟩, tm⟩ := h
  refine ⟨⟨q.reports, hq, q.inputs⟩, fun c => ?_, ⟨o1, o2, o3⟩, r, ⟨b1, b2⟩, ⟨m1, m2, m3, m4, m5⟩, ⟨d1, d2, d3, d4, d5, d6, d7, d8, d9⟩,
    ⟨l1, l2, l3, l4, l5, l6, l7, l8⟩, ⟨p1, p2, p3, p4, hh⟩, ht⟩
  have e : Sys2Proof.Machine.conditioned s.spans l (s.circuit c) = Sys2Proof.Machine.conditioned s.spans s.lanes (s.circuit c) := by
    simp [Sys2Proof.Machine.conditioned, hup]
  refine (cd c).trans ((conditioned_iff s _).symm.trans ?_)
  rw [← e]
  exact conditioned_iff (s.setLanes l) _

/-- The laws hold in a purge when they hold without one. -/
theorem Lawful.purging (h : Lawful s) (next : Nat) (due : Bool) (port : Port) (tag : Byte) (removed : Nat) :
    Lawful (s.setDirectory { s.directory with walk := .purge next due port tag removed }) := by
  obtain ⟨q, cd, ⟨o1, o2, o3⟩, r, ⟨b1, b2⟩, ⟨m1, m2, m3, m4, m5⟩, ⟨d1, d2, d3, d4, d5, d6, d7, d8, d9⟩,
    ⟨l1, l2, l3, l4, l5, l6, l7, l8⟩, ⟨p1, p2, p3, p4, p5⟩, tm⟩ := h
  exact ⟨⟨q.reports, q.overhead, q.inputs⟩, cd, ⟨o1, o2, o3⟩, r, ⟨b1, b2⟩, ⟨m1, m2, m3, m4, m5⟩,
    ⟨d1, d2, d3, d4, d5, d6, d7, d8, trivial⟩, ⟨l1, l2, l3, l4, l5, l6, l7, l8⟩, ⟨p1, p2, p3, p4, p5⟩, tm⟩

end Sys2Proof.Machine
end

