-- ==== Sys2Proof/Tests/World.lean ====
section
/-! SUPPORT. The state that the tests start from: a running part with one circuit, span, unit, timer or entry for each case
that a statement distinguishes, and the ways a test puts a command or a message in front of it. -/

namespace Sys2Proof.Tests

open Sys2Proof.Machine

/-! ### A command at a port, a message in the inbox -/

/-- The command's own frame as the whole input queue of its port. -/
def ask (s : State) (c : Instr) : State :=
  match commandFrame c with
  | some (port, q) => s.setPort port { s.port port with input := [q] }
  | none => s

/-- Whether `ask` puts a command at the head of this port that the port may take. -/
def asks (s : State) (port : Port) (c : Instr) : Bool :=
  match commandFrame c with
  | some (p, q) => p == port && parseCommand port q == some c && s.running && (s.port port).slot.isNone
  | none => false

theorem heads_ask {s : State} {port : Port} {c : Instr} (h : asks s port c = true) :
    ∃ q rest, Heads (ask s c) port c q rest := by
  unfold asks at h
  split at h
  · rename_i p q hf
    simp only [Bool.and_eq_true, beq_iff_eq, Option.isNone_iff_eq_none] at h
    obtain ⟨⟨⟨rfl, hp⟩, hr⟩, hs⟩ := h
    have e : ask s c = s.setPort p { s.port p with input := [q] } := by simp [ask, hf]
    have hr' : ∀ x, (s.setPort p x).running = s.running := by intro x; cases p <;> rfl
    exact ⟨q, [], ⟨⟨by simp [e], by rw [e, hr']; exact hr, by simp [e, hs]⟩, hp⟩⟩
  · cases h

theorem takes_ask {s : State} {c : Instr} (h : asks s .primary c = true) : ∃ q rest, Takes (ask s c) .primary c q rest := by
  obtain ⟨q, rest, hh⟩ := heads_ask h
  exact ⟨q, rest, hh, rfl⟩

theorem lawful_ask {s : State} (h : Lawful s) (c : Instr) : Lawful (ask s c) := by
  unfold ask
  split
  · exact h.setPort _ _ (by simp)
  · exact h

/-- A message alone in the inbox. -/
def hear (s : State) (m : PeerMessage) : State := s.setPeer { s.peer with inbox := [m] }

/-- The same part with the peer link in another state. -/
def linked (s : State) (x : LinkState) : State := s.setPeer { s.peer with state := x }

/-! ### The parts of the state -/

def due : Countdown := ⟨1, true⟩

/-- The code of a circuit: route 100, its own number as member. -/
def codeOf (c : Nat) : TrunkCode := ⟨100, c⟩

/-- The context of a migration begun with every parameter at its default. -/
def begun : Context :=
  { role := .initiator, number := 7, attempts := 3, retryLimit := 3, bridgeLimit := ⟨240000, false⟩, bridgeCaptured := 240000,
    backoff := none, sub := none, delta := none, deferred := false, held := false, target := none, deferLimit := ⟨4800000, false⟩,
    peerSpliced := false, hold := none }

def onSpan (n : SpanNo) (i : TimeslotNo) : Circuit :=
  { Circuit.reset with state := .copper, copper := some ⟨n, i⟩, copperTransmit := true }

/-- A COPPER circuit of number `c` on a timeslot, with slot `c` and its code. -/
def ready (c : SlotNo) (n : SpanNo) (i : TimeslotNo) : Circuit :=
  { onSpan n i with fibre := some c, code := some (codeOf c.val) }

def inState (r : Circuit) (state : PathState) (x : Context) : Circuit := { r with state := state, context := some x }

def bridged (r : Circuit) (state : PathState) (x : Context) : Circuit := { inState r state x with fibreTransmit := .bridged }

/-- The circuits, by number; the comment of each says what it stands for. -/
def circuits : List (CircuitNo × Circuit) :=
  [ -- MIGRATE: startable; without a fibre attachment; without a code; inhibited
    (1, ready 1 0 0), (2, onSpan 0 1), (3, { ready 3 0 2 with code := none }), (4, { ready 4 0 3 with inhibit := true }),
    -- PROPOSING: no attempt left and three left, with the response timer due; in backoff
    (5, inState (ready 5 0 4) .proposing { begun with attempts := 0 }), (6, inState (ready 6 0 5) .proposing begun),
    (7, inState (ready 7 0 6) .proposing { begun with backoff := some due }),
    -- AWAITING; MEASURING in BRIDGE-WAIT, with the bridge limit due; QUEUED; and in the four units
    (8, bridged (ready 8 0 7) .awaiting { begun with role := .acceptor }),
    (9, bridged (ready 9 0 8) .measuring { begun with sub := some .bridgeWait, bridgeLimit := due }),
    (10, bridged (ready 10 0 9) .measuring { begun with sub := some .queued }),
    (11, bridged (ready 11 0 10) .measuring { begun with sub := some .matching }),
    (12, bridged (ready 12 0 11) .measuring { begun with sub := some .matching }),
    (13, bridged (ready 13 0 12) .measuring { begun with sub := some .matching }),
    (14, bridged (ready 14 0 13) .measuring { begun with sub := some .matching, attempts := 0 }),
    -- ALIGNED: at its target with the bridge flag; deferred, with the defer limit due; held; at its target without the flag
    (15, { bridged (ready 15 0 14) .aligned { begun with delta := some (-5), target := some 1000 } with buildOut := 5 }),
    (16, bridged (ready 16 0 15) .aligned { begun with delta := some 3, deferred := true, deferLimit := due }),
    (17, bridged (ready 17 0 16) .aligned { begun with delta := some 3, held := true, attempts := 0 }),
    (18, bridged (ready 18 0 17) .aligned { begun with delta := some 0, target := some 1001 }),
    -- FIBRE-KEPT: hold run out with auto-release off; hold due; on the span that is DOWN; last on a span that retires
    (19, { bridged (ready 19 0 18) .fibre { begun with delta := some 3, peerSpliced := true, hold := some ⟨0, false⟩ } with
      autoRelease := false }),
    (20, { bridged (ready 20 0 19) .fibre { begun with delta := some (-5), peerSpliced := true, hold := some due } with
      buildOut := 5 }),
    (21, bridged (ready 21 1 0) .fibre { begun with hold := some ⟨480000, false⟩ }),
    (22, bridged (ready 22 3 0) .fibre { begun with peerSpliced := true, hold := some ⟨480000, false⟩ }),
    -- FIBRE-RELEASED; VACANT and draining; VACANT with a slot; FIBRE-KEPT and not peer-spliced
    (23, { Circuit.reset with state := .fibre, fibre := some 23, code := some (codeOf 23), fibreTransmit := .bridged }),
    (24, { Circuit.reset with fibre := some 24, code := some (codeOf 24), fibreTransmit := .draining due }),
    (25, { Circuit.reset with fibre := some 25, code := some (codeOf 25) }),
    (26, bridged (ready 26 0 20) .fibre { begun with hold := some ⟨480000, false⟩ }),
    -- MEASURING on the span that is DOWN; in BRIDGE-WAIT with its backoff due; COPPER and draining
    (27, bridged (ready 27 1 1) .measuring { begun with sub := some .bridgeWait }),
    (28, bridged (ready 28 0 21) .measuring { begun with sub := some .bridgeWait, backoff := some due }),
    (29, { ready 29 0 22 with fibreTransmit := .draining ⟨8000, false⟩ }),
    -- members of batch 0: PENDING and ACTIVE
    (30, { ready 30 0 23 with batch := some 0 }), (31, { inState (ready 31 0 24) .proposing begun with batch := some 0 }),
    -- the circuits of range entry 0, and of a full pair of buckets
    (40, { Circuit.reset with code := some ⟨200, 0⟩ }), (41, { onSpan 0 25 with code := some ⟨200, 1⟩ }),
    (50, { Circuit.reset with code := some ⟨0, 0⟩ }), (51, { Circuit.reset with code := some ⟨128, 0⟩ }),
    (52, { Circuit.reset with code := some ⟨256, 0⟩ }), (53, { Circuit.reset with code := some ⟨384, 0⟩ }),
    (54, { Circuit.reset with code := some ⟨512, 0⟩ }), (55, { Circuit.reset with code := some ⟨640, 0⟩ }),
    (56, { Circuit.reset with code := some ⟨768, 0⟩ }), (57, { Circuit.reset with code := some ⟨896, 0⟩ }),
    -- further cases: DETACH of a slot whose circuit is VACANT; a pair for EXCHANGE
    (60, { Circuit.reset with fibre := some 60 }), (61, onSpan 0 26), (62, { onSpan 0 27 with fibre := some 62 }),
    -- COPPER and ready on an UP span, for a PROPOSE without a slot
    (63, { onSpan 0 28 with code := some (codeOf 63) }) ]

/-- The spans. -/
def spanUnits : List (SpanNo × Span) :=
  let up : Span := { Span.reset false with state := .up, phase := none }
  let frame (x : Byte) : SpanSamples := .fill x
  [ (0, { up with store := [frame 1, frame 2], record := .valid ⟨3, 12, 900⟩, multiframe := ⟨4, .first, none⟩,
                  conditions := (Table.fill .idle : Table 31 LineCondition).set 15 .seized |>.set 16 .seized |>.set 9 .seized
                    |>.set 27 .seized }),
    (3, { up with autoRetire := true, store := [frame 1] }),
    (2, (Span.reset false).retired),
    -- DOWN: alignment found; MULTIFRAME with a fourth bad word; about to go UP; MULTIFRAME before an even frame
    (5, { Span.reset false with search := ⟨[], 0, some ⟨0, 2, 512⟩, true⟩ }),
    (4, { Span.reset false with phase := some .multiframe, badWords := 3, badDue := true }),
    (6, { Span.reset false with phase := some .multiframe, upDue := true, recent := [frame 1, frame 2], marker := some ⟨.first, 0⟩ }),
    (11, { Span.reset false with phase := some .multiframe, badWords := 3 }),
    -- UP: a fourth bad word; a full store; the last frame of a multiframe that is taken, and of one that is not; empty
    (7, { up with badWords := 3, badDue := true }),
    (8, { up with store := [frame 1, frame 2, frame 3, frame 4], slipReports := true, multiframe := ⟨14, .first, none⟩ }),
    (9, { up with store := [frame 1], multiframe := ⟨15, .first, some (List.replicate 27 .idle)⟩ }),
    (10, { up with store := [frame 1], multiframe := ⟨15, .first, none⟩ }),
    (12, { up with last := some (frame 9), record := .stale ⟨-127, 1, 0⟩ }),
    -- without signal
    (13, { Span.reset true with record := .invalid }) ]

/-- The matcher units. -/
def matchers : List (UnitNo × Matcher) :=
  [ (0, { Matcher.reset with state := .priming, circuit := some 11, candidates := windowCandidates (-96) 8, count := 128 }),
    (1, { Matcher.reset with state := .window, circuit := some 12, candidates := [3], count := 64 }),
    (2, { Matcher.reset with state := .done, circuit := some 13, outcome := some (.matched 3), count := 64 }),
    (3, { Matcher.reset with state := .done, circuit := some 14, outcome := some .noMatch, count := 64 }) ]

/-- A lane that is UP, with its error interval about to end. -/
def laneUp : LaneRecord :=
  { LaneRecord.reset false with state := .up, interval := some due, errors := some 16 }

/-- The bridge flags that are present, and the flags and slots whose change is due. -/
def slotStates : Table 512 SlotRecognition :=
  let present (s : SlotRecognition) : SlotRecognition := { s with flag := ⟨true, 0, false⟩ }
  let t : Table 512 SlotRecognition := .fill ⟨.reset, .reset⟩
  let t := [9, 10, 11, 12, 13, 14, 15, 16, 17, 27].foldl (fun (t : Table 512 SlotRecognition) (n : SlotNo) => t.modify n present) t
  let t := t.set 28 ⟨.reset, ⟨false, 15, true⟩⟩
  t.set 20 ⟨⟨.seized, some .idle, 15, true⟩, ⟨true, 0, false⟩⟩

def spans : Table 16 Span := spanUnits.foldl (fun t x => t.set x.1 x.2) (.fill (.reset false))

/-- Both lanes UP, A working; the fourth bad frame of lane B is due. -/
def lanes : LaneInterface :=
  { LaneInterface.reset false false with
    a := laneUp, b := { laneUp with badFrames := 3, badDue := true }, timing := .laneA, fc := 1001, slots := slotStates
    slotsBefore := slotStates, holdOff := due, duplicate := due }

/-- The timeslots as the circuits' attachments occupy them. -/
def timeslots : Table 16 (Table 31 (Option CircuitNo)) :=
  circuits.foldl (fun t x =>
    match x.2.copper with
    | some p => t.modify p.span fun row => row.set p.timeslot (some x.1)
    | none => t) (.fill (.fill none))

/-- The slots as the circuits' attachments occupy them. -/
def slots : Table 512 (Option CircuitNo) :=
  circuits.foldl (fun t x =>
    match x.2.fibre with
    | some n => t.set n (some x.1)
    | none => t) (.fill none)

/-- The trunk entries: for each code of route 100 its own bucket's first way, and the four ways of each bucket of (0, 0). -/
def trunkEntries : Table 128 (Table 4 (Option TrunkEntry)) :=
  circuits.foldl (fun t x =>
    match x.2.code with
    | some code =>
      if code.route = 200 then t
      else if code.route = 100 then t.modify (primaryBucket code) fun row => row.set 0 (some ⟨code, x.1, x.1 = 1⟩)
      else
        let b := if x.1.val < 54 then primaryBucket code else secondaryBucket code
        t.modify b fun row => row.set ⟨(x.1.val - 50) % 4, Nat.mod_lt _ (by decide)⟩ (some ⟨code, x.1, false⟩)
    | none => t) (.fill (.fill none))

/-- The part. -/
def world : State :=
  { pending := []
    node := { NodeParams.reset with node := 5 }
    circuits := circuits.foldl (fun t x => t.set x.1 (evaluated spans lanes x.2)) (.fill .reset)
    timeslots := timeslots
    slotOwners := slots
    highway := { Highway.reset with channels := Highway.reset.channels.set 15 ⟨.idle, some .seized, 15, true⟩ }
    spans := spans
    lanes := lanes
    align := { AlignmentUnit.reset with
      queue := [⟨10, .full⟩], units := matchers.foldl (fun t x => t.set x.1 x.2) (.fill .reset), pause := due }
    peer := { PeerEngine.reset with
      state := .up, qualified := some 9, heard := some ⟨9, .twoWay, 990⟩, hello := some due, silence := some due, counter := 7
      response := [5, 6, 8].foldl (fun (t : Table 512 (Option Countdown)) c => t.set c (some due)) (.fill none) }
    directory := { Directory.reset with trunks := trunkEntries, ranges := (Table.fill none).set 0 (some ⟨200, 0, 2, 40⟩) }
    batches := (Table.fill none).set 0 (some
      { mode := .serial, limit := 1, members := [⟨31, .active, none⟩, ⟨30, .pending, none⟩], remaining := 2, port := .primary,
        tag := 0, opened := 500 })
    watches := ⟨.reset, .reset, false⟩
    links := { Links.reset .power .r57600 .r57600 with startUp := ⟨0, false⟩ }
    freeCount := 0 }

theorem world_lawful : Lawful world := lawful_of_check (by decide +kernel)

end Sys2Proof.Tests
end

