-- ==== Sys2Proof/Tests/Slice0.lean ====
section
/-! SUPPORT. Tests: ill-formed terms that `wellFormed` refuses, words and values worked out in the manual, and one step of each row
against what its rule or the manual's worked sequences say of it. The comment of a test names the source of its values. -/

namespace Sys2Proof.Tests

set_option Elab.async false

open Sys2Proof.Machine

/-- The state that a row answers. -/
def did (c : Instr) (s : State) : State :=
  match exec c s with
  | .next t => t
  | .fault _ => s
  | .refused _ => s

/-- The state after a command taken at its port. -/
def told (c : Instr) (s : State) : State := did c (ask s c)

/-- The result and the body of the newest reply of a port. -/
def replied (s : State) (port : Port) : Option (ResultCode × ReplyBody) :=
  match (s.port port).output.getLast? with
  | some (.reply _ _ result body) => some (result, body)
  | _ => none

/-- The contents of the queued reports. -/
def reported (s : State) : List ReportBody := s.links.reports.map Report.body

/-- An outcome's code, reason, Δ and build-out. -/
def Outcome (r : Circuit) : Option (OutcomeCode × Option Reason × Option Int × Nat) :=
  r.outcome.map fun o => (o.code, o.reason, o.delta, o.buildOut)

/-- Every circuit of span 0 idle on copper. -/
def quiet (s : State) : State := s.setSpan 0 { s.span 0 with conditions := .fill .idle }

/-- Every circuit seized by the switch. -/
def called (s : State) : State := s.setHighway { s.highway with channels := .fill ⟨.seized, none, 0, false⟩ }

/-! ### WellFormed -/

/-- One ill-formed term for each field that a host command carries, one over the field's range. -/
theorem test_wellFormed_refuses_commands :
    ([.attach .primary 0 65536 none none, .attach .primary 0 0 (some (256, 1)) none, .attach .primary 0 0 (some (0, 256)) none,
      .attach .primary 0 0 none (some 65536), .detach .primary 0 65536 true true, .activate .primary 0 65536,
      .setCircuit .primary 0 65536 none none none none, .setCircuit .primary 0 0 none none (some 65536) none,
      .queryCircuit .primary 0 65536 false, .migrate .primary 0 (.number 65536), .abandon .primary 0 (.code ⟨65536, 0⟩),
      .revert .primary 0 (.code ⟨0, 256⟩), .release .primary 0 (.number 65536), .resume .primary 0 (.number 65536),
      .queryAlignment .primary 0 (some 65536) none, .queryAlignment .primary 0 none (some 65536),
      .spanStatus .primary 0 256, .restartSpan .primary 0 256, .retireSpan .primary 0 256, .laneControlSelect .primary 0 256,
      .laneControlLockout .primary 0 256, .laneControlClear .primary 0 256, .laneControlShut .primary 0 256,
      .laneControlRestore .primary 0 256, .laneControlHoldOff .primary 0 256, .addTrunk .primary 0 ⟨65536, 0⟩ 0 none,
      .addTrunk .primary 0 ⟨0, 0⟩ 65536 none, .addRange .primary 0 65536 0 1 0, .addRange .primary 0 0 256 1 0,
      .addRange .primary 0 0 0 65536 0, .addRange .primary 0 0 0 1 65536, .removeTrunk .primary 0 ⟨0, 256⟩,
      .removeRange .primary 0 256, .pin .primary 0 ⟨65536, 0⟩, .unpin .primary 0 ⟨0, 256⟩, .lookup .primary 0 (.byCode ⟨65536, 0⟩),
      .lookup .primary 0 (.byBucket 256), .lookup .primary 0 (.byRange 256), .lookup .primary 0 (.unknownForm 2),
      .lookup .primary 0 (.unknownForm 256), .openBatch .primary 0 256 0 1 [], .openBatch .primary 0 0 256 1 [],
      .openBatch .primary 0 0 0 256 [], .openBatch .primary 0 0 0 1 (List.replicate 255 (.number 0)),
      .openBatch .primary 0 0 0 1 [.number 65536], .cancelBatch .primary 0 256, .batchStatus .primary 0 256,
      .watchStatus .primary 0 256, .exchange .primary 0 256 0 0 1 0, .exchange .primary 0 0 65536 0 1 0,
      .exchange .primary 0 0 0 256 1 0, .exchange .primary 0 0 0 0 65536 0, .exchange .primary 0 0 0 0 1 256] : List Instr).all
      (fun c => !c.wellFormed) = true := by decide +kernel

theorem test_wellFormed_refuses_settings :
    ([.setNode .primary 0 ⟨some 65536, none, none, none, none, none, none, none, none⟩,
      .setNode .primary 0 ⟨none, some 256, none, none, none, none, none, none, none⟩,
      .setNode .primary 0 ⟨none, none, some 256, none, none, none, none, none, none⟩,
      .setNode .primary 0 ⟨none, none, none, some 256, none, none, none, none, none⟩,
      .setNode .primary 0 ⟨none, none, none, none, some 256, none, none, none, none⟩,
      .setNode .primary 0 ⟨none, none, none, none, none, some 65536, none, none, none⟩,
      .setNode .primary 0 ⟨none, none, none, none, none, none, some 4294967296, none, none⟩,
      .setNode .primary 0 ⟨none, none, none, none, none, none, none, some 4294967296, none⟩,
      .setNode .primary 0 ⟨none, none, none, none, none, none, none, none, some 256⟩,
      .setSpan .primary 0 256 ⟨none, none, none, none, none⟩, .setSpan .primary 0 0 ⟨some (-129), none, none, none, none⟩,
      .setSpan .primary 0 0 ⟨none, some 128, none, none, none⟩, .setSpan .primary 0 0 ⟨none, none, some 256, none, none⟩,
      .setWatch .primary 0 256 ⟨none, none, none, none, none, none⟩, .setWatch .primary 0 0 ⟨none, some 65536, none, none, none, none⟩,
      .setWatch .primary 0 0 ⟨none, none, some 256, none, none, none⟩, .setWatch .primary 0 0 ⟨none, none, none, none, some 256, none⟩,
      .setWatch .primary 0 0 ⟨none, none, none, none, none, some 256⟩, .receivedHello 65536 .twoWay, .receivedPropose ⟨4096, 0⟩ 0 0,
      .receivedAccept ⟨0, 256⟩ 0 0, .receivedDecline ⟨4096, 0⟩ 0 .busy, .receivedConfirm ⟨4096, 0⟩ 0, .receivedSpliced ⟨4096, 0⟩,
      .receivedAbandon ⟨4096, 0⟩ .commanded, .receivedRevert ⟨4096, 0⟩, .receivedRevertDone ⟨4096, 0⟩,
      .receivedRelease ⟨4096, 0⟩] : List Instr).all (fun c => !c.wellFormed) = true := by decide +kernel

/-- Terms at the ends of their fields' ranges are well formed, also where their rules refuse them. -/
theorem test_wellFormed_accepts :
    ([.attach .craft 255 65535 (some (255, 255)) (some 65535), .migrate .primary 0 (.code ⟨65535, 255⟩),
      .setSpan .primary 0 255 ⟨some (-128), some 127, some 255, none, none⟩, .lookup .primary 0 (.unknownForm 3),
      .openBatch .primary 0 255 255 255 (List.replicate 254 (.number 65535)), .receivedHello 65535 .threeWay,
      .receivedRelease ⟨4095, 255⟩, .siteFrame (.fill ⟨0, .idle⟩)] : List Instr).all Instr.wellFormed = true := by decide +kernel

/-! ### Words and values of the manual -/

/-- No row of the table gives bits, so no word spells a command. -/
theorem test_decodeTableWord : decodeTableWord 32 0 = none ∧ decodeTableWord 8 255 = none := ⟨rfl, rfl⟩

/-- The check value of the CRC that section 10.3 names: the ASCII digits 1 to 9 give 29B1H. -/
theorem test_crc_check_value : crc16 (asciiBytes "123456789") = 0x29B1 := by decide +kernel

/-- Section 7.3 and R142: (301, 17) has buckets 76 and 51, (4095, 255) has 120 and 7. -/
theorem test_buckets :
    (primaryBucket ⟨301, 17⟩).val = 76 ∧ (secondaryBucket ⟨301, 17⟩).val = 51 ∧ (primaryBucket ⟨296, 52⟩).val = 76 ∧
      (primaryBucket ⟨4095, 255⟩).val = 120 ∧ (secondaryBucket ⟨4095, 255⟩).val = 7 := by decide

/-- Section 3.9: target 2 after a lead of 8 from FC 4 294 967 290; not reached at 4 294 967 295, 0 and 1, reached at 2. -/
theorem test_target_across_wrap :
    (4294967290 : FrameCount) + 8 = 2 ∧ reached 4294967295 2 = false ∧ reached 0 2 = false ∧ reached 1 2 = false ∧
      reached 2 2 = true := by decide

/-- Section 3.9: 105 candidates for the window −96..+8. -/
theorem test_window_candidates : (windowCandidates (-96) 8).length = 105 := by decide +kernel

/-- Sections 10.3 and 10.4 and R186: the frame of MIGRATE with tag 5 and the trunk code (301, 17), written out: type 20H, form 01H,
route 012DH, member 11H. -/
theorem test_migrate_word :
    parseCommand .primary ⟨5, 0x20, [0x01, 0x01, 0x2D, 0x11]⟩ = some (.migrate .primary 5 (.code ⟨301, 17⟩)) := by decide +kernel

/-- Section 10.5: a PROPOSE with number 14 for (301, 17) in slot 88, written out. -/
theorem test_propose_word :
    parseMessage [0x02, 0x01, 0x2D, 0x11, 0x00, 0x58, 0x0E] = some (.propose ⟨301, 17⟩ 88 14) ∧
      parseMessage [0x02, 0x01, 0x2D, 0x11, 0x00, 0x58] = none := by decide +kernel

/-! ### Reset, start-up and the links -/

/-- R173, R175: the rates that the straps select, and 160 frames of start-up. -/
theorem test_powerOnReset :
    let t := did (.powerOnReset ⟨false, true⟩ ⟨true, true⟩) world
    (t.port .primary).rate = .r115200 ∧ (t.port .craft).rate = .r921600 ∧ t.links.startUp.left = 160 ∧
      t.links.resetCause = .power ∧ (t.circuit 15).state = .vacant := by decide +kernel

/-- R175: the START report at the end of start-up. -/
theorem test_startUpEnd :
    let s := State.reset.setLinks { State.reset.links with startUp := due }
    reported (did .startUpEnd s) = [.start .power .r57600 .r57600] ∧ (did .startUpEnd s).links.startUp.left = 0 := by decide +kernel

/-- R175, R14: a frame of start-up lowers start-up remaining, and FC does not run; the frame in which start-up ends takes the codes. -/
theorem test_siteFrame_startUp :
    let t := did (.siteFrame (.fill ⟨0x55, .seized⟩)) State.reset
    let u := did (.siteFrame (.fill ⟨0x55, .seized⟩)) (State.reset.setLinks { State.reset.links with startUp := ⟨1, false⟩ })
    t.links.startUp.left = 159 ∧ t.fc = 0 ∧ (t.highway.channels.get 0).candidate = none ∧ u.links.startUp.due = true ∧
      (u.highway.channels.get 511).candidate = some .seized := by decide +kernel

/-- R14, its remark: the sixteenth frame that carries SEIZED is sent with it. -/
theorem test_conditionSent :
    let r : LineRecognition := ⟨.idle, some .seized, 15, false⟩
    (r.take .seized).shown = .seized ∧ (r.take .seized).recognised = .idle ∧ ({ r with run := 14 }.take .seized).shown = .idle := by
  decide +kernel

/-- R187: the QUEUE_FULL answer to a LANE STATUS with tag 3; its CRC, 561BH, from a calculation of its own. -/
theorem test_outFrameBytes :
    outFrameBytes (.queueFull 3 0x20) = [0xA5, 0x00, 0x01, 0x02, 0x03, 0x20, 0x04, 0x56, 0x1B] := by decide +kernel

/-- R187, R182: a SPAN report of kind RETIRED: kind 03H, tag 00H and type E4H; FC, the LOST mark, the span, and one kind byte after them. -/
theorem test_reportBodyBytes :
    (reportBodyBytes ⟨0x01020304, true, .span 5 .retired⟩).take 6 = [1, 2, 3, 4, 1, 5] ∧
      (outFrameBytes (.report ⟨0x01020304, true, .span 5 .retired⟩)).take 6 = [0xA5, 0, 7, 3, 0, 0xE4] := by decide +kernel

/-- R176, R177: a whole frame joins the input queue and is counted. -/
theorem test_managementFrameReceived :
    let t := did (.managementFrameReceived .craft ((managementFrame 1 40 0x43 [1]).map fun b => ⟨b, true⟩)) (State.reset.setLinks
      { State.reset.links with startUp := ⟨0, false⟩, craft := { State.reset.links.craft with slot := some ⟨.sending, 0, 0x43⟩ } })
    (t.port .craft).input = [⟨40, 0x43, [1]⟩] ∧ (t.port .craft).counts.framesTaken = 1 := by decide +kernel

/-- R173, R176: a frame whose CRC (9340H) checks, and one of whose bytes has no stop bit, is discarded and counted. -/
theorem test_managementFrameReceived_stopBit :
    let t := did (.managementFrameReceived .craft
      [⟨0xA5, true⟩, ⟨0, true⟩, ⟨0, true⟩, ⟨1, true⟩, ⟨40, false⟩, ⟨0x56, true⟩, ⟨0x93, true⟩, ⟨0x40, true⟩]) (State.reset.setLinks
      { State.reset.links with startUp := ⟨0, false⟩ })
    (t.port .craft).input = [] ∧ (t.port .craft).receiver = none ∧ (t.port .craft).counts.crcDiscards = 1 := by decide +kernel

/-- R176: the inter-byte timer. -/
theorem test_interByteTimeout :
    let p := { State.reset.links.primary with receiver := some [0], interByte := some due }
    let t := did (.interByteTimeout .primary) (State.reset.setPort .primary p)
    (t.port .primary).receiver = none ∧ (t.port .primary).counts.timeoutDiscards = 1 := by decide +kernel

/-- R180: replies before reports. -/
theorem test_frameTransmitStart :
    let s := (world.handReport (.span 0 .retired)).setPort .primary { world.links.primary with output := [.queueFull 3 0x20] }
    ((did (.frameTransmitStart .primary) s).port .primary).transmitter = some (.queueFull 3 0x20) := by decide +kernel

/-- R184: RESET answers OK, and its last byte resets the part with cause COMMAND. -/
theorem test_reset :
    (replied (told (.reset .primary 9) world) .primary).map Prod.fst = some .ok ∧
      (did (.frameTransmitEnd .primary) (world.setPort .primary
        { world.links.primary with slot := some ⟨.sending, 9, 0x9F⟩, transmitter := some (.reply 9 0x9F .ok .empty) })).links.resetCause =
        .command := by decide +kernel

/-- R178: after the last byte of a reply the slot is empty, and a head without a meaning is refused at once. -/
theorem test_frameTransmitEnd :
    let t := did (.frameTransmitEnd .primary) (world.setPort .primary { world.links.primary with
      slot := some ⟨.sending, 1, 0x42⟩, transmitter := some (.reply 1 0x42 .ok .empty), input := [⟨2, 0xFE, []⟩] })
    (t.port .primary).slot = some ⟨.sending, 2, 0xFE⟩ ∧ replied t .primary = some (.unknownType, .empty) := by decide +kernel

/-! ### Circuits: section 1.8 -/

/-- ATTACH of an occupied slot beside a free timeslot: neither side is written. -/
theorem test_attach_conflict :
    let t := told (.attach .primary 1 60 (some (0, 31)) (some 1)) (world.setCircuits (world.circuits.set 60 Circuit.reset))
    replied t .primary = some (.conflict, .occupant 1 false) ∧ t.timeslotOwner ⟨0, 30⟩ = none := by decide +kernel

/-- ATTACH of both sides: COPPER, copper transmit on, conditioning off, and both entries name the circuit. -/
theorem test_attach :
    let t := told (.attach .primary 1 200 (some (0, 31)) (some 200)) world
    (t.circuit 200).state = .copper ∧ (t.circuit 200).copperTransmit = true ∧ (t.circuit 200).conditioning = false ∧
      t.timeslotOwner ⟨0, 30⟩ = some 200 ∧ t.slotOwner 200 = some 200 := by decide +kernel

/-- ACTIVATE: FIBRE-RELEASED, bridged, conditioning off, outcome ACTIVATED. -/
theorem test_activate :
    let t := told (.activate .primary 1 25) world
    (t.circuit 25).released = true ∧ (t.circuit 25).fibreTransmit = .bridged ∧ (t.circuit 25).conditioning = false ∧
      Outcome (t.circuit 25) = some (.activated, none, none, 0) := by decide +kernel

/-- DETACH of a FIBRE-RELEASED circuit's slot: VACANT, fibre transmit off, the slot free. -/
theorem test_detach :
    let t := told (.detach .primary 1 23 false true) world
    (t.circuit 23).state = .vacant ∧ (t.circuit 23).fibreTransmit = .off ∧ t.slotOwner 23 = none := by decide +kernel

/-- R20: a hold of 3601 s is set to 3600; R21: QUERY CIRCUIT clears the changed flag after carrying it. -/
theorem test_setCircuit : replied (told (.setCircuit .primary 1 1 none none (some 3601) none) world) .primary =
    some (.ok, .options false true 3600 false) := by decide +kernel

theorem test_queryCircuit :
    let t := told (.queryCircuit .craft 1 1 true) (world.putCircuit 1 { world.circuit 1 with changed := true })
    (t.circuit 1).changed = false ∧ (replied t .craft).map Prod.fst = some .ok := by decide +kernel

/-- R172: an exchange of the copper attachments of two COPPER circuits. -/
theorem test_exchange :
    let t := told (.exchange .primary 1 1 61 1 62 1) (quiet world)
    (t.circuit 61).copper = some ⟨0, 27⟩ ∧ (t.circuit 62).copper = some ⟨0, 26⟩ ∧ t.timeslotOwner ⟨0, 26⟩ = some 62 := by
  decide +kernel

/-! ### Migration: sections 6.7 and 11 -/

/-- MIGRATE: PROPOSING, INITIATOR, number 7 of the counter, attempts 3, timer 2000, PROPOSE sent (section 6.7). -/
theorem test_migrate :
    let t := told (.migrate .primary 1 (.code (codeOf 1))) world
    (t.circuit 1).state = .proposing ∧ t.peer.counter = 8 ∧ t.peer.response.get 1 = some ⟨2000, false⟩ ∧
      t.lanes.queue = [.propose (codeOf 1) 1 7] ∧ replied t .primary = some (.ok, .migrated 1 7) := by decide +kernel

/-- R42: ABANDON of a bridged circuit drains for 8000 frames and sends ABANDON. -/
theorem test_abandon :
    let t := told (.abandon .primary 1 (.number 10)) world
    (t.circuit 10).state = .copper ∧ (t.circuit 10).fibreTransmit = .draining ⟨8000, false⟩ ∧ t.align.queue = [] ∧
      t.lanes.queue = [.abandon (codeOf 10) .commanded] := by decide +kernel

/-- Section 3.9: at Δ −24 with B 22 a revert records J = −2, two samples repeated. -/
theorem test_revert :
    let t := told (.revert .primary 1 (.number 26)) (world.putCircuit 26
      { world.circuit 26 with buildOut := 22, context := some { begun with delta := some (-24) } })
    (t.circuit 26).state = .copper ∧ replied t .primary = some (.ok, .reverted (some ⟨-2, false⟩)) ∧
      t.lanes.queue = [.revert (codeOf 26)] := by decide +kernel

/-- R46, R91: RELEASE frees the timeslot, and the span that it empties retires. -/
theorem test_release :
    let t := told (.release .primary 1 (.number 22)) world
    (t.circuit 22).released = true ∧ t.timeslotOwner ⟨3, 0⟩ = none ∧ (t.span 3).state = .retired ∧
      t.lanes.queue = [.release (codeOf 22)] := by decide +kernel

/-- Section 8.6: RESUME at FC 63 000 gives S = 63 008. -/
theorem test_resume :
    let s := (world.setLanes { world.lanes with fc := 63000 }).putCircuit 17
      { world.circuit 17 with context := some { begun with delta := some 2, held := true } }
    replied (told (.resume .primary 1 (.number 17)) s) .primary = some (.ok, .resumed (some 63008) false) := by decide +kernel

/-- Section 6.7: the response timer's expiry at FC 22 000: an attempt, number 7, counter 8, backoff 4000. -/
theorem test_responseTimerExpiry :
    let t := did (.responseTimerExpiry 6) world
    ((t.circuit 6).context.map fun x => (x.attempts, x.number, x.backoff)) = some (2, 7, some ⟨4000, false⟩) ∧ t.peer.counter = 8 ∧
      t.peer.response.get 6 = none := by decide +kernel

/-- Section 6.7: the backoff's expiry: the PROPOSE of the new number, timer 2000. -/
theorem test_retryBackoffExpiry :
    let t := did (.retryBackoffExpiry 7) world
    t.lanes.queue = [.propose (codeOf 7) 7 7] ∧ t.peer.response.get 7 = some ⟨2000, false⟩ := by decide +kernel

/-- R32: the bridge limit's expiry. -/
theorem test_bridgeLimitExpiry :
    Outcome ((did (.bridgeLimitExpiry 9) world).circuit 9) = some (.abandoned, some .bridgeLimit, none, 0) := by decide +kernel

/-- R36: the defer limit's expiry; the outcome carries Δ. -/
theorem test_deferLimitExpiry :
    Outcome ((did (.deferLimitExpiry 16) world).circuit 16) = some (.abandoned, some .deferLimit, some 3, 0) := by decide +kernel

/-- Section 11.1: the hold runs out with peer-spliced set: RELEASED, HOLD-EXPIRED, the timeslot freed, RELEASE sent. -/
theorem test_fallbackHoldExpiry :
    let t := did (.fallbackHoldExpiry 20) world
    Outcome (t.circuit 20) = some (.released, some .holdExpired, some (-5), 5) ∧ t.timeslotOwner ⟨0, 19⟩ = none ∧
      t.lanes.queue = [.release (codeOf 20)] := by decide +kernel

/-- R7: the end of a drain. -/
theorem test_drainEnd : ((did (.drainEnd 24) world).circuit 24).fibreTransmit = .off := by decide +kernel

/-- Section 3.9: the target is reached with the flag present: FIBRE-KEPT, SPLICED, B kept, hold 480 000, SPLICED sent. The circuit is
made busy, as in the section. -/
theorem test_targetReached :
    let t := did (.targetReached 15) (called world)
    (t.circuit 15).kept = true ∧ Outcome (t.circuit 15) = some (.spliced, none, some (-5), 5) ∧
      ((t.circuit 15).context.bind Context.hold) = some ⟨480000, false⟩ ∧ t.lanes.queue = [.spliced (codeOf 15)] := by decide +kernel

/-- Section 11.3: a circuit idle at its splice collapses in the same frame, with J the old build-out SKIPPED. -/
theorem test_targetReached_collapse :
    let t := did (.targetReached 15) (quiet world)
    Outcome (t.circuit 15) = some (.collapsed, none, some (-5), 0) ∧
      ((t.circuit 15).outcome.bind OutcomeRecord.offset) = some ⟨5, true⟩ := by decide +kernel

/-! ### The Path Alignment Unit -/

/-- R58, R59: the head of the queue starts on the lowest FREE unit with the window's 105 candidates. -/
theorem test_matcherStart :
    let s := world.setAlign { world.align with pause := ⟨0, false⟩, units := world.align.units.set 2 Matcher.reset }
    ((did .matcherStart s).unit 2).circuit = some 10 ∧ ((did .matcherStart s).unit 2).candidates.length = 105 ∧
      (did .matcherStart s).align.queue = [] := by decide +kernel

theorem test_primingComplete :
    ((did (.primingComplete 0) world).unit 0).state = .window ∧ ((did (.primingComplete 0) world).unit 0).count = 0 := by decide +kernel

/-- R63, R88: one survivor of a full search is a MATCH, and the span's record takes it. -/
theorem test_windowEnd :
    let t := did (.windowEnd 1) world
    (t.unit 1).outcome = some (.matched 3) ∧ (t.span 0).record = .valid ⟨3, 12, 1001⟩ := by decide +kernel

/-- Section 3.9, on a busy circuit: the match of Δ −23 at FC 4 294 967 290: ALIGNED, B 23, S = 2. -/
theorem test_matchOutcome :
    let s := (world.setLanes { world.lanes with fc := 4294967290 }).setUnit 2 { world.unit 2 with outcome := some (.matched (-23)) }
    let t := did (.matchOutcome 2) s
    (t.circuit 13).state = .aligned ∧ (t.circuit 13).buildOut = 23 ∧ ((t.circuit 13).context.bind Context.target) = some 2 ∧
      (t.unit 2).state = .free := by decide +kernel

theorem test_servicePauseEnd : (did .servicePauseEnd world).align.pause.left = 0 := by decide +kernel

/-- R57: the place of a queued circuit. -/
theorem test_queryAlignment :
    (match replied (told (.queryAlignment .craft 1 (some 10) none) world) .craft with
      | some (.ok, .alignment v) => v.place
      | _ => .nowhere) = .queue 0 .full := by decide +kernel

/-! ### Spans: sections 4.10 and 11.7 -/

/-- R86: a frame joins the store of an UP span; section 4.10: a write that finds four unread frames discards the oldest and slips, and
a deletion on a record VALID −10 leaves VALID −9. -/
theorem test_spanFrameReceived :
    ((did (.spanFrameReceived 12 (.fill 0x11)) world).span 12).store = [.fill 0x11] ∧
      ((world.span 8).write (.fill 0x11)).2 = true ∧ ((world.span 8).write (.fill 0x11)).1.store.length = 4 ∧
      (DelayRecord.valid ⟨-10, 130, 5000⟩).slip .deletion = .valid ⟨-9, 130, 5000⟩ := by decide +kernel

theorem test_frameAlignmentFound : ((did (.frameAlignmentFound 5) world).span 5).phase = some .multiframe := by decide +kernel

theorem test_multiframeHuntLoss :
    ((did (.multiframeHuntLoss 4) world).span 4).phase = some .search ∧ ((did (.multiframeHuntLoss 4) world).span 4).badWords = 0 := by
  decide +kernel

/-- Section 4.10: the span goes UP with two frames in its store. -/
theorem test_spanUp : reported (did (.spanUp 6) world) = [.span 6 (.up 2)] ∧ ((did (.spanUp 6) world).span 6).store.length = 2 := by
  decide +kernel

/-- Section 11.7, circuit by circuit: one without a Δ is rescued with the handed VALID record's, one with its own keeps it, and one
without the flag waits. -/
theorem test_spanLossOfSignal :
    let s := (called world).setSpan 0 (world.span 0).lowered
    let lost := State.spanLostFor (.valid ⟨-18, 1, 0⟩) s
    Outcome ((lost 10).circuit 10) = some (.rescued, none, some (-18), 18) ∧
      Outcome ((lost 15).circuit 15) = some (.rescued, none, some (-5), 5) ∧ lost 28 = s := by decide +kernel

/-- R82: what the unit of a span that goes DOWN holds; R81: nothing happens before the fourth bad word. -/
theorem test_spanBadAlignment :
    (world.span 0).lowered.store = [] ∧ (world.span 0).lowered.phase = some .search ∧
      ((did (.spanBadAlignment 0) world).span 0).state = .up := by decide +kernel

theorem test_spanSignalReturn : ((did (.spanSignalReturn 13) world).span 13).lossOfSignal = false := by decide +kernel

/-- R93: Wlo of −128 is set to −127; a pair whose Wlo exceeds its Whi changes neither. -/
theorem test_setSpan :
    replied (told (.setSpan .primary 1 0 ⟨some (-128), none, some 9, none, none⟩) world) .primary =
      some (.ok, .spanSettings 0 (-127) 8 8 false false) ∧
    replied (told (.setSpan .primary 1 0 ⟨some 9, none, none, none, none⟩) world) .primary =
      some (.ok, .spanSettings 0 (-96) 8 2 false false) := by decide +kernel

/-- R90: a span with occupied timeslots is not retired, one without is. -/
theorem test_retireSpan :
    replied (told (.retireSpan .primary 1 1) world) .primary = some (.state, .occupiedEntries 2) ∧
      ((told (.retireSpan .primary 1 12) world).span 12).state = .retired := by decide +kernel

/-- R92: a RETIRED span hunts. -/
theorem test_restartSpan : ((told (.restartSpan .craft 1 2) world).span 2).phase = some .search := by decide +kernel

theorem test_spanStatus :
    (match replied (told (.spanStatus .craft 1 1) world) .craft with
      | some (.ok, .spanStatus v) => (v.occupied, v.inFibre, v.fill)
      | _ => (0, 0, none)) = (2, 1, none) := by decide +kernel

/-! ### Lanes: section 5.9 -/

/-- R98: the lane that does not work goes DOWN with cause LIGHT. Section 5.9: loss of light on the working lane with the other UP, piece
by piece: B works, hold-off 80 000; Δ of a FIBRE circuit removed with its B kept; an ALIGNED circuit QUEUED for a full search. -/
theorem test_laneLossOfLight :
    reported (did (.laneLossOfLight .b) world) = [.lane .a .laneA (.state .b .up .down .light)] ∧
      world.lanes.switched.working = .b ∧ world.lanes.switched.holdOff.left = 80000 ∧ (world.circuit 20).laneChanged.delta = none ∧
      (world.circuit 20).laneChanged.buildOut = 5 ∧ ((world.requeueFor 15).circuit 15).sub = some .queued := by decide +kernel

/-- R101, R102, R103, R65: the working lane loses light with the other lane UP and locked out: its slots take IDLE and a clear flag
in that very frame, from where the frame found them, and a unit in WINDOW restarts. -/
theorem test_laneLossOfLight_idleFrame :
    let s := world.setLanes
      { world.lanes with
        b := { world.lanes.b with lockout := true }
        slotsBefore := world.lanes.slotsBefore.set 12 ⟨⟨.seized, some .idle, 14, false⟩, ⟨true, 15, false⟩⟩ }
    let t := did (.laneLossOfLight .a) s
    t.lanes.working = .a ∧ t.lanes.slots.get 12 = ⟨⟨.seized, some .idle, 15, false⟩, ⟨true, 15, true⟩⟩ ∧
      (t.unit 1).state = .priming ∧ (t.unit 1).count = 0 := by decide +kernel

/-- R8: in that frame the circuit whose route was fibre at B = 0 gives the switch the idle code, and circuit 26, in FIBRE too but
spliced since the frame selected its copper route, what that route gave. -/
theorem test_laneLossOfLight_routes :
    let s := (world.setLanes { world.lanes with b := { world.lanes.b with lockout := true } }).setHighway
      { world.highway with route := .fill ⟨0x55, .idle⟩, fibreRoute := (Table.fill none).set 19 (some ⟨19, 0⟩) }
    let t := did (.laneLossOfLight .a) s
    (t.highway.route.get 19).sample = 0x7F ∧ (t.highway.route.get 26).sample = 0x55 := by decide +kernel

/-- The fourth bad frame of lane B: B goes DOWN with cause ALIGNMENT, and A goes on working. -/
theorem test_laneAlignmentLoss :
    reported (did (.laneAlignmentLoss .b) world) = [.lane .a .laneA (.state .b .up .down .alignment)] := by decide +kernel

/-- R99: sixteen errors make a lane DEGRADED. Section 5.9 at FC 96 000, circuit by circuit: a migration is abandoned and a kept fallback
reverted, LANE-LOSS. -/
theorem test_laneDegraded :
    ((did (.laneDegraded .b) world).lane .b).state = .degraded ∧
      Outcome ((world.fibreLostFor 15).circuit 15) = some (.abandoned, some .laneLoss, some (-5), 0) ∧
      Outcome ((world.fibreLostFor 26).circuit 26) = some (.reverted, some .laneLoss, none, 0) ∧ world.fibreLostFor 23 = world := by
  decide +kernel

/-- R97: a lane goes UP beside one that is UP; R17: with no lane UP a fibre circuit is conditioned. -/
theorem test_laneUp :
    let s := world.setLane .b { LaneRecord.reset false with upDue := true }
    ((did (.laneUp .b) s).lane .b).state = .up ∧ (did (.laneUp .b) s).lanes.working = .a ∧
      (evaluated world.spans (.reset true true) (world.circuit 23)).conditioning = true := by decide +kernel

/-- R99: a DEGRADED lane without errors in its interval becomes UP. -/
theorem test_errorIntervalEnd :
    let s := world.setLanes { world.lanes with b := { laneUp with state := .degraded, errors := some 0 } }
    ((did (.errorIntervalEnd .b) s).lane .b).state = .up ∧ ((did (.errorIntervalEnd .a) s).lane .a).errors = some 0 := by decide +kernel

/-- R97: the seventh and the eighth frame of the word. -/
theorem test_laneFrameReceived :
    let f : LaneFrame := ⟨laneWord, .fill 0, .fill 0, .fill 0⟩
    let s := world.setLanes { world.lanes with b := { LaneRecord.reset false with candidate := some 6 } }
    ((did (.laneFrameReceived .b f) s).lane .b).candidate = some 7 ∧
      ((did (.laneFrameReceived .b f) (did (.laneFrameReceived .b f) s)).lane .b).upDue = true := by decide +kernel

theorem test_laneLightReturn :
    ((did (.laneLightReturn .b) (world.setLane .b (.reset true))).lane .b).lossOfLight = false := by decide +kernel

theorem test_holdOffExpiry : (did .holdOffExpiry world).lanes.holdOff.left = 0 := by decide +kernel

theorem test_duplicateWindowExpiry : (did .duplicateWindowExpiry world).lanes.duplicate.left = 0 := by decide +kernel

/-- Section 5.9: SELECT within the hold-off is refused with the frames remaining. -/
theorem test_laneControlSelect :
    replied (told (.laneControlSelect .primary 1 1) (world.setLanes { world.lanes with holdOff := ⟨50000, false⟩ })) .primary =
      some (.holdOff, .holdOffLeft 50000) := by decide +kernel

/-- R107: LOCKOUT of the lane that does not work; R104: what a lockout of the working lane moves to. -/
theorem test_laneControlLockout :
    replied (told (.laneControlLockout .primary 1 1) world) .primary = some (.ok, .laneSelection .a false true 1) ∧
      (world.setLane .a { world.lanes.a with lockout := true }).lanes.testTarget = some .b := by decide +kernel

theorem test_laneControlClear :
    (told (.laneControlClear .primary 1 1) (world.setLane .b { world.lanes.b with lockout := true })).lanes.b.lockout = false := by
  decide +kernel

/-- R109: one lane may be shut, and not both. -/
theorem test_laneControlShut :
    (told (.laneControlShut .primary 1 1) world).lanes.b.shutdown = true ∧
      replied (told (.laneControlShut .primary 1 0) (world.setLane .b { world.lanes.b with shutdown := true })) .primary =
        some (.state, .empty) := by decide +kernel

theorem test_laneControlRestore :
    (told (.laneControlRestore .primary 1 1) (world.setLane .b { world.lanes.b with shutdown := true })).lanes.b.shutdown = false := by
  decide +kernel

/-- R106: the setting is kept at most 60 s, and the hold-off that runs goes on. -/
theorem test_laneControlHoldOff :
    let t := told (.laneControlHoldOff .primary 1 61) world
    t.lanes.holdOffSeconds = 60 ∧ t.lanes.holdOff = due := by decide +kernel

theorem test_laneStatus :
    (match replied (told (.laneStatus .craft 1) world) .craft with
      | some (.ok, .laneStatus v) => (v.working, v.timing, v.fc, v.pause)
      | _ => (.b, .holdover, 0, 0)) = (.a, .laneA, 1001, 1) := by decide +kernel

/-- R114, R72: the target moves with the load, and keeps its distance. -/
theorem test_setFrameClock :
    let t := told (.setFrameClock .primary 1 5000) world
    t.fc = 5000 ∧ ((t.circuit 18).context.bind Context.target) = some 5000 ∧
      replied t .primary = some (.ok, .frameClock 1001 5000) := by decide +kernel

/-! ### Recognition -/

theorem test_switchLineConditionChange : (did (.switchLineConditionChange 15) world).switchCondition 15 = .seized := by decide +kernel

/-- R48: a FIBRE-KEPT circuit that becomes idle collapses its build-out. -/
theorem test_slotLineConditionChange :
    let t := did (.slotLineConditionChange 20) world
    t.slotCondition 20 = .idle ∧ Outcome (t.circuit 20) = some (.collapsed, none, some (-5), 0) := by decide +kernel

/-- Section 11.2: the far end's flag finds an idle circuit in BRIDGE-WAIT: SPLICED-IDLE, B 0, Δ absent. -/
theorem test_bridgeFlagRecognised :
    Outcome ((did (.bridgeFlagRecognised 28) (quiet world)).circuit 28) = some (.splicedIdle, none, none, 0) := by decide +kernel

/-! ### The peer protocol: section 6.7 -/

theorem test_helloTimerExpiry :
    (did .helloTimerExpiry world).lanes.queue = [.hello 5 .twoWay] ∧ (did .helloTimerExpiry world).peer.hello = some ⟨800, false⟩ := by
  decide +kernel

/-- R120: the link leaves UP, and every migration is abandoned with PEER-DOWN. -/
theorem test_silenceExpiry :
    (did .silenceExpiry world).peer.state = .down ∧
      Outcome ((did .silenceExpiry world).circuit 5) = some (.abandoned, some .peerDown, none, 0) := by decide +kernel

theorem test_receivedHello :
    reported (did (.receivedHello 9 .twoWay) (linked (hear world (.hello 9 .twoWay)) .down)) = [.peer 5 .twoWay (.up 9 .twoWay)] := by
  decide +kernel

/-- A PROPOSE accepted in TWO-WAY: MEASURING, ACCEPTOR, bridged, the slot attached, ACCEPT sent. -/
theorem test_receivedPropose :
    let t := did (.receivedPropose (codeOf 63) 63 14) (hear world (.propose (codeOf 63) 63 14))
    (t.circuit 63).state = .measuring ∧ (t.circuit 63).fibreTransmit = .bridged ∧ t.slotOwner 63 = some 63 ∧
      t.lanes.queue = [.accept (codeOf 63) 63 14] := by decide +kernel

/-- Section 11.6: a collision during a backoff; node 5 is the smaller and yields: ACCEPTOR, no backoff, ACCEPT sent. -/
theorem test_receivedPropose_collision :
    let t := did (.receivedPropose (codeOf 7) 7 118) (hear world (.propose (codeOf 7) 7 118))
    ((t.circuit 7).context.map fun x => (x.role, x.number, x.backoff, x.attempts)) = some (.acceptor, 118, none, 3) ∧
      (t.circuit 7).state = .measuring ∧ t.lanes.queue = [.accept (codeOf 7) 7 118] := by decide +kernel

/-- ACCEPT: MEASURING in BRIDGE-WAIT, bridged, the timer removed. -/
theorem test_receivedAccept :
    let t := did (.receivedAccept (codeOf 6) 6 7) (hear world (.accept (codeOf 6) 6 7))
    (t.circuit 6).sub = some .bridgeWait ∧ (t.circuit 6).fibreTransmit = .bridged ∧ t.peer.response.get 6 = none := by decide +kernel

/-- Section 11.9: DECLINE with SLOT-CONFLICT: ABANDONED, PEER-DECLINED, no ABANDON sent. -/
theorem test_receivedDecline :
    let t := did (.receivedDecline (codeOf 6) 7 .slotConflict) (hear world (.decline (codeOf 6) 7 .slotConflict))
    Outcome (t.circuit 6) = some (.abandoned, some .peerDeclined, none, 0) ∧ t.lanes.queue = [] := by decide +kernel

theorem test_receivedConfirm :
    let t := did (.receivedConfirm (codeOf 8) 7) (hear world (.confirm (codeOf 8) 7))
    (t.circuit 8).sub = some .bridgeWait ∧ t.peer.response.get 8 = none := by decide +kernel

/-- Section 11.1: the far end's SPLICED before the hold's end sets peer-spliced, and releases nothing. -/
theorem test_receivedSpliced :
    let t := did (.receivedSpliced (codeOf 26)) (hear world (.spliced (codeOf 26)))
    ((t.circuit 26).context.map Context.peerSpliced) = some true ∧ (t.circuit 26).kept = true := by decide +kernel

theorem test_receivedAbandon :
    Outcome ((did (.receivedAbandon (codeOf 6) .peerTimeout) (hear world (.abandon (codeOf 6) .peerTimeout))).circuit 6) =
      some (.abandoned, some .peerAbandoned, none, 0) := by decide +kernel

theorem test_receivedRevert :
    let t := did (.receivedRevert (codeOf 26)) (hear world (.revert (codeOf 26)))
    (t.circuit 26).state = .copper ∧ t.lanes.queue = [.revertDone (codeOf 26)] := by decide +kernel

theorem test_receivedRevertDone :
    ((did (.receivedRevertDone (codeOf 29)) (hear world (.revertDone (codeOf 29)))).circuit 29).fibreTransmit = .off := by decide +kernel

theorem test_receivedRelease :
    Outcome ((did (.receivedRelease (codeOf 26)) (hear world (.release (codeOf 26)))).circuit 26) =
      some (.released, some .peerReleased, none, 0) := by decide +kernel

/-- R23: 65 frames of splice lead are set to 64, 399 of backoff to 400. -/
theorem test_setNode :
    (told (.setNode .primary 1 ⟨none, none, some 65, none, none, some 399, none, none, none⟩) world).node.lead = 64 ∧
      (told (.setNode .primary 1 ⟨none, none, some 65, none, none, some 399, none, none, none⟩) world).node.backoff = 400 := by
  decide +kernel

theorem test_peerStatus :
    (match replied (told (.peerStatus .craft 1 false) world) .craft with
      | some (.ok, .peerStatus v) => (v.state, v.node, v.responses)
      | _ => (.down, 0, 0)) = (.up, 5, 3) := by decide +kernel

/-! ### The Trunk Directory: section 7.9 -/

/-- ADD TRUNK into a full primary bucket takes the secondary's first free way. -/
theorem test_addTrunk :
    let s := world.setDirectory (world.directory.setTrunk 127 2 none)
    replied (told (.addTrunk .primary 1 ⟨1024, 0⟩ 300 none) s) .primary = some (.ok, .trunkWritten 127 2) ∧
      ((told (.addTrunk .primary 1 ⟨1024, 0⟩ 300 none) s).circuit 300).code = some ⟨1024, 0⟩ := by decide +kernel

/-- R146, check 5, R187: the reply to a CONFLICT carries the code that the circuit already has, and nothing else. -/
theorem test_addTrunk_conflict :
    replied (told (.addTrunk .primary 1 ⟨4095, 255⟩ 24 none) world) .primary = some (.conflict, .heldCode ⟨100, 24⟩) ∧
    replyBodyBytes (.heldCode ⟨297, 45⟩) = [0x01, 0x29, 0x2D] := by decide +kernel

/-- Section 7.9: ADD RANGE of route 512, 32 members from 32, to circuits from 64, starts the check of the buckets. -/
theorem test_addRange :
    (told (.addRange .primary 1 512 32 32 64) world).directory.walk = .rangeCheck 0 false .primary 1 ⟨512, 32, 32, 64⟩ none := by
  decide +kernel

theorem test_rangeCheckBucket :
    let s := world.setDirectory { world.directory with walk := .rangeCheck 61 true .primary 1 ⟨100, 0, 2, 300⟩ none }
    (did .rangeCheckBucket s).directory.walk = .rangeCheck 62 false .primary 1 ⟨100, 0, 2, 300⟩ (some ⟨61, 0, ⟨100, 1⟩⟩) := by
  decide +kernel

/-- Section 7.9: at the completion circuit 64 + (40 − 32) = 72 carries (512, 40). -/
theorem test_rangeCheckComplete :
    let s := (world.setDirectory { world.directory with walk := .rangeCheck 128 false .primary 1 ⟨512, 32, 32, 64⟩ none }).setPort .primary
      { world.links.primary with slot := some ⟨.pending, 1, 0x71⟩ }
    ((did .rangeCheckComplete s).circuit 72).code = some ⟨512, 40⟩ ∧
      replied (did .rangeCheckComplete s) .primary = some (.ok, .rangeWritten 1) := by decide +kernel

/-- R149: the code of a migrating circuit stays; a COPPER circuit's is removed. -/
theorem test_removeTrunk :
    replied (told (.removeTrunk .primary 1 (codeOf 9)) world) .primary = some (.state, .circuitState 9 .measuring) ∧
      ((told (.removeTrunk .primary 1 (codeOf 1)) world).circuit 1).code = none := by decide +kernel

theorem test_removeRange :
    replied (told (.removeRange .primary 1 0) world) .primary = some (.ok, .rangeRemoved 2) ∧
      ((told (.removeRange .primary 1 0) world).circuit 41).code = none := by decide +kernel

theorem test_pin : replied (told (.pin .primary 1 (codeOf 4)) world) .primary = some (.ok, .pinned 4 64 0 true) := by decide +kernel

theorem test_unpin : replied (told (.unpin .primary 1 (codeOf 1)) world) .primary = some (.ok, .pinned 1 61 0 false) := by decide +kernel

theorem test_purge : (told (.purge .primary 11) world).directory.walk = .purge 0 false .primary 11 0 := by decide +kernel

/-- Section 7.9: the walk removes an unpinned entry of a COPPER circuit, and leaves a pinned one. -/
theorem test_purgeBucket :
    let walk (b : Nat) := world.setDirectory { world.directory with walk := .purge b true .primary 11 0 }
    (did .purgeBucket (walk 64)).directory.walk = .purge 65 false .primary 11 1 ∧
      (did .purgeBucket (walk 61)).directory.walk = .purge 62 false .primary 11 0 := by decide +kernel

theorem test_purgeComplete :
    let s := (world.setDirectory { world.directory with walk := .purge 128 false .primary 11 4 }).setPort .primary
      { world.links.primary with slot := some ⟨.pending, 11, 0x76⟩ }
    replied (did .purgeComplete s) .primary = some (.ok, .purged 4) := by decide +kernel

/-- Section 7.9: LOOKUP of (296, 52) misses with buckets 76 and 51, and the miss is recorded. -/
theorem test_lookup :
    let t := told (.lookup .craft 40 (.byCode ⟨296, 52⟩)) world
    (replied t .craft).map Prod.fst = some .notFound ∧ (t.directory.lastMiss.map fun m => (m.source, m.h1, m.h2)) = some (.craft, 76, 51) ∧
      t.directory.missCount = 1 := by decide +kernel

theorem test_queryMiss :
    (told (.queryMiss .craft 1 true) (world.recordMiss ⟨1, 1⟩ .peer 2)).directory.missCount = 0 ∧
      (told (.queryMiss .craft 1 true) (world.recordMiss ⟨1, 1⟩ .peer 2)).directory.lastMiss = none := by decide +kernel

/-! ### Batches and watches: sections 8.6 and 11.9 -/

/-- Section 11.9: SERIAL: the first member is ACTIVE and the second PENDING; one started and none failed. -/
theorem test_openBatch :
    let t := told (.openBatch .primary 1 5 0 1 [.number 1, .number 29]) world
    replied t .primary = some (.ok, .batchOpened 5 .serial 1 1 0) ∧
      (t.batch 5).map (fun b => b.members.map Member.status) = some [.active, .pending] ∧ (t.circuit 1).state = .proposing := by
  decide +kernel

/-- R163: the PENDING member is CANCELLED, the ACTIVE one goes on untracked, and both memberships go. -/
theorem test_cancelBatch :
    let t := told (.cancelBatch .primary 1 0) world
    reported t = [.batch 0 .serial .cancelled ⟨2, 0, 0, 1, 1⟩ []] ∧ (t.circuit 31).state = .proposing ∧ (t.circuit 31).batch = none := by
  decide +kernel

/-- R164: the record with remaining and the count of each status. -/
theorem test_batchStatus :
    (match replied (told (.batchStatus .craft 1 0) world) .craft with
      | some (.ok, .batchStatus b) => b.map fun x => (x.1.remaining, x.2)
      | _ => none) = some (2, ⟨1, 1, 0, 0, 0⟩) := by decide +kernel

/-- Section 8.6: watch 0 with value 121 and the classes ALIGNED and SPLICE, REPORT-AND-HOLD, and its hit and answer. -/
theorem test_setWatch :
    let t := told (.setWatch .primary 1 0 ⟨some true, some 121, some 0, some 0x60, some 1, some 0⟩) world
    t.watches.first.enable = true ∧ t.watchHolds 121 = true ∧ t.watchHolds 120 = false ∧
      reported (t.watchEvent 121 .aligned none) = [.watch (some 1) none 121 .aligned none] ∧
      (replied t .primary).map Prod.snd = some (.watchSettings ⟨true, 121, .equal, 0x60, .reportAndHold⟩ ⟨false, 0, .equal, 0, .report⟩ false) := by
  decide +kernel

theorem test_watchStatus :
    (told (.watchStatus .craft 1 1) (world.setWatches { world.watches with first := { world.watches.first with hits := 2 } })).watches.first.hits =
      0 := by decide +kernel

/-- R185: LINK STATUS, clearing, shows the counts from before. -/
theorem test_linkStatus :
    (match replied (told (.linkStatus .craft 1 true) (world.setLinks { world.links with reportsLost := 1 })) .craft with
      | some (.ok, .linkStatus _ _ _ _ lost _) => lost
      | _ => 0) = 1 := by decide +kernel

end Sys2Proof.Tests
end

