-- ==== Sys2Proof/Tests/Witnesses.lean ====
section
/-! SUPPORT. For each statement with hypotheses, a named theorem with concrete states and operands that meet them, one for each clause
at the ends of its range: the commands and events of a list each meet the condition that stands beside them, and the laws hold. -/

namespace Sys2Proof.Tests

open Sys2Proof.Machine

set_option Elab.async false

/-! ### How a list of witnesses is checked -/

/-- Each command, as its port's head in front of a state of its own, meets its condition. -/
abbrev Cases := List (State × Port × Instr × (State → Bool))

def casesCheck (l : Cases) : Bool := l.all fun x => asks x.1 x.2.1 x.2.2.1 && x.2.2.2 (ask x.1 x.2.2.1)

theorem heads_of_cases {l : Cases} (h : casesCheck l = true) :
    ∀ x ∈ l, (∃ q rest, Heads (ask x.1 x.2.2.1) x.2.1 x.2.2.1 q rest) ∧ x.2.2.2 (ask x.1 x.2.2.1) = true := by
  intro x hx
  have := List.all_eq_true.mp h x hx
  simp only [Bool.and_eq_true] at this
  exact ⟨heads_ask this.1, this.2⟩

/-- The same of PROVISION commands, which only the primary port takes; every law holds of the states. -/
abbrev Provisions := List (Instr × (State → Bool))

def provisionsCheck (l : Provisions) : Bool := l.all fun x => asks world .primary x.1 && x.2 (ask world x.1)

theorem takes_of_cases {l : Provisions} (h : provisionsCheck l = true) :
    ∀ x ∈ l, (∃ q rest, Takes (ask world x.1) .primary x.1 q rest) ∧ Lawful (ask world x.1) ∧ x.2 (ask world x.1) = true := by
  intro x hx
  have := List.all_eq_true.mp h x hx
  simp only [Bool.and_eq_true] at this
  exact ⟨takes_ask this.1, lawful_ask world_lawful _, this.2⟩

/-- A message at the head of the inbox of a state that keeps every law. -/
theorem lawful_hear {s : State} (h : Lawful s) (m : PeerMessage) : Lawful (hear s m) := h.setPeer _

theorem lawful_pending {s : State} (h : Lawful s) (l : List Instr) : Lawful (s.setPending l) :=
  h.of_fields rfl rfl rfl rfl rfl rfl rfl rfl rfl rfl rfl h.queues.inputs

def isNext {σ φ ρ : Type} : Host.Outcome σ φ ρ → Bool
  | .next _ => true
  | .fault _ => false
  | .refused _ => false

theorem exists_next {σ φ ρ : Type} {o : Host.Outcome σ φ ρ} (h : isNext o = true) : ∃ t, o = .next t := by
  cases o with
  | next t => exact ⟨t, rfl⟩
  | fault _ => cases h
  | refused _ => cases h

/-! ### Step, reset, encoding -/

theorem witness_StepRunsFront :
    (world.setPending [.holdOffExpiry, .startUpEnd]).pending = .holdOffExpiry :: [.startUpEnd] ∧ world.pending = [] := ⟨rfl, rfl⟩

/-- The states of `ResetCircuitTable`, `ResetWatches`, `ResetBlocks` and `ResetMeetsLaws`: after either reset. -/
theorem witness_Resets :
    (∃ t, AfterReset world t) ∧
    (∃ t, AfterReset (world.setPort .primary { world.links.primary with transmitter := some (.reply 9 0x9F .ok .empty) }) t) ∧
    ((world.setPort .primary { world.links.primary with transmitter := some (.reply 9 0x9F .ok .empty) }).port .primary).transmitter =
      some (.reply 9 0x9F .ok .empty) := by
  refine ⟨⟨_, .inl ⟨⟨false, false⟩, ⟨true, true⟩, rfl⟩⟩, ?_, by simp⟩
  obtain ⟨t, ht⟩ := exists_next (o := exec (.frameTransmitEnd .primary)
    (world.setPort .primary { world.links.primary with transmitter := some (.reply 9 0x9F .ok .empty) })) (by decide +kernel)
  exact ⟨t, .inr ⟨9, .empty, by simp, ht⟩⟩

theorem witness_CommandRoundTrip :
    let c : Instr := .openBatch .craft 255 255 255 255 (List.replicate 254 (.number 65535))
    c.wellFormed = true ∧ (commandFrame c).isSome = true := by decide +kernel

theorem witness_OverheadChannel :
    (65535 < 65536 ∧ (⟨4095, 255⟩ : TrunkCode).inRange = true) ∧
    ({ lanes with queue := [.hello 5 .twoWay] } : LaneInterface).sending = [] ∧
    ({ lanes with queue := [.hello 5 .twoWay] } : LaneInterface).queue = .hello 5 .twoWay :: [] ∧
    lanes.sending = [] ∧ lanes.queue = [] := by decide +kernel

/-- The states of `LimitsKept`, `CircuitLawsKept`, `BatchLawKept`, `MatcherLawKept` and `DirectoryLawKept`. -/
theorem witness_LawsKept :
    Lawful (world.setPending [.targetReached 18]) ∧ ∃ t, step (world.setPending [.targetReached 18]) = .next t :=
  ⟨lawful_pending world_lawful _, exists_next (by decide +kernel)⟩

/-! ### Management links -/

/-- A port that hunts, its execution slot taken, with `inputs` commands queued and `fulls` QUEUE_FULL answers to send. -/
def huntingPort (inputs fulls : Nat) : PortRecord :=
  { PortRecord.reset .r57600 with
    slot := some ⟨.pending, 1, 0x76⟩, input := List.replicate inputs ⟨2, 0x76, []⟩, output := List.replicate fulls (.queueFull 3 0x76) }

/-- The part with one port's record replaced. -/
def withPort (port : Port) (p : PortRecord) : State := world.setPort port p

theorem witness_ManagementReceiver :
    ((List.replicate 1020 0 : List Byte).length ≤ 1020 ∧
      ([State.reset, withPort .primary (huntingPort 3 0), withPort .craft (huntingPort 4 3), withPort .craft (huntingPort 4 4)].all fun s =>
        [Port.primary, .craft].all fun p => decide ((s.port p).receiver = none)) = true ∧
      State.reset.running = false ∧ ((withPort .primary (huntingPort 3 0)).port .primary).slot.isSome = true ∧
      ((withPort .primary (huntingPort 3 0)).port .primary).input.length < 4 ∧
      ¬ ((withPort .craft (huntingPort 4 3)).port .craft).input.length < 4 ∧
      fullAnswers ((withPort .craft (huntingPort 4 3)).port .craft).output < 4 ∧
      ¬ fullAnswers ((withPort .craft (huntingPort 4 4)).port .craft).output < 4) ∧
    (let p := { huntingPort 0 0 with receiver := some [3] }
     let q := { huntingPort 0 0 with receiver := some [0, 0, 1, 40, 0x56, 0] }
     let r := { huntingPort 0 0 with receiver := some [3, 252], interByte := some due }
     (withPort .craft p).running = true ∧ ((withPort .craft p).port .craft).slot.isSome = true ∧
       (p.receiver = some [3] ∧ 1020 < (3 : Byte).toNat * 256 + (253 : Byte).toNat) ∧
       (q.receiver = some [0, 0, 1, 40, 0x56, 0] ∧ (0 : Byte).toNat * 256 + (0 : Byte).toNat ≤ 1020 ∧ [1, 40, 0x56, 0].length + 3 = 0 + 7 ∧
         crcBytes [0, 0, 1, 40, 0x56] ≠ [0, 0]) ∧
       (r.receiver = some [3, 252] ∧ (3 : Byte).toNat * 256 + (252 : Byte).toNat ≤ 1020 ∧ ([] : List Byte).length + 3 < 1020 + 7) ∧
       r.interByte = some due ∧ due.due = true) := by decide +kernel

/-- The same of the frame in which start-up ends, of a byte without its stop bit, and of a free port with an empty queue. -/
theorem witness_ManagementReceiver_more :
    (let bytes : List LinkByte := (managementFrame 1 40 0x56 []).map fun b => ⟨b, false⟩
     bytes.map LinkByte.value = managementFrame 1 40 0x56 [] ∧ bytes.all LinkByte.stop = false) ∧
    (let s := State.reset.setLinks { State.reset.links with startUp := due }
     s.running = false ∧ s.links.startUp.due = true ∧ State.reset.links.startUp.due = false) ∧
    (world.running = true ∧ (world.port .craft).slot = none ∧ (world.port .craft).input = [] ∧ (world.port .craft).receiver = none ∧
      parseCommand .craft ⟨2, 0xFE, []⟩ = none) ∧
    (let p := { huntingPort 0 0 with slot := none, receiver := some [0, 0, 1, 40, 0x56, 0x93], broken := true }
     p.receiver = some (0 :: 0 :: [1, 40, 0x56, 0x93]) ∧ p.broken = true ∧ [1, 40, 0x56, 0x93].length + 3 = 0 + 7) ∧
    ∀ l1 l2 more, ([] : List Byte) ++ [(3 : Byte)] ≠ l1 :: l2 :: more := by
  refine ⟨by decide +kernel, by decide +kernel, by decide +kernel, by decide +kernel, by simp⟩

/-- A frame of which a row brings the last byte, and one of which it brings all but the first; and a row that completes a frame whose
earlier byte had no stop bit. -/
theorem witness_ManagementReceiver_parts :
    (let p := { huntingPort 0 0 with receiver := some [0, 0, 1, 40, 0x56, 0x93] }
     let f := managementFrame 1 40 0x56 []
     f.length = 8 ∧ f.take 7 = 0xA5 :: [0, 0, 1, 40, 0x56, 0x93] ∧ f.take 7 ++ f.drop 7 = f ∧ f.drop 7 ≠ [] ∧
       ((withPort .craft p).port .craft).receiver = some [0, 0, 1, 40, 0x56, 0x93] ∧ p.broken = false) ∧
    (let p := { huntingPort 0 0 with receiver := some [], broken := true }
     (managementFrame 2 40 0x56 [1]).take 1 = [0xA5] ∧ ((withPort .primary p).port .primary).receiver = some [] ∧
       ((withPort .primary p).port .primary).broken = true) := by decide +kernel

theorem witness_Transmitter :
    (let s := withPort .primary { huntingPort 0 1 with slot := none }
     s.running = true ∧ (s.port .primary).transmitter = none ∧ (s.port .primary).output = .queueFull 3 0x76 :: []) ∧
    (let s := (withPort .primary (huntingPort 0 0)).handReport (.span 0 .retired)
     s.running = true ∧ (s.port .primary).output = [] ∧ s.links.reports = ⟨1001, false, .span 0 .retired⟩ :: []) ∧
    (world.port .primary).output = [] ∧ world.links.reports = [] ∧
    (let f : OutFrame := .reply 1 0x42 .ok .empty
     let s := withPort .primary { huntingPort 0 0 with transmitter := some f, slot := some ⟨.sending, 1, 0x42⟩, input := [⟨2, 0x56, []⟩] }
     (s.port .primary).transmitter = some f ∧ (s.port .primary).input.head? = some ⟨2, 0x56, []⟩ ∧
       (parseCommand .primary ⟨2, 0x56, []⟩).isSome = true) ∧
    (let s := withPort .primary { huntingPort 0 0 with transmitter := some (.queueFull 3 0x76) }
     (s.port .primary).transmitter = some (.queueFull 3 0x76)) ∧
    asks world .primary (.reset .primary 9) = true := by decide +kernel

theorem witness_PortRefusals :
    (∃ q rest, Heads (ask world (.activate .craft 1 25)) .craft (.activate .craft 1 25) q rest) ∧
    commandClass 0x12 = some .provision ∧
    [(⟨2, 0xFE, []⟩ : QueuedCommand), ⟨2, 0x12, []⟩, ⟨2, 0x56, [0]⟩].all (fun q =>
      let s := withPort .craft { huntingPort 0 0 with
        transmitter := some (.reply 1 0x42 .ok .empty), slot := some ⟨.sending, 1, 0x42⟩, input := [q] }
      s.running && decide ((s.port .craft).transmitter = some (.reply 1 0x42 .ok .empty)) && decide ((s.port .craft).input = q :: []) &&
        decide (parseCommand .craft q = none)) = true ∧
    (world.running = true ∧ (List.replicate 1020 (0 : Byte)).length ≤ 1020 ∧
      ([Port.primary, .craft].all fun p => decide ((world.port p).receiver = none ∧ (world.port p).slot = none ∧ (world.port p).input = [])) = true ∧
      parseCommand .craft ⟨2, 0x12, []⟩ = none ∧ parseCommand .primary ⟨2, 0x12, List.replicate 1020 0⟩ = none) :=
  ⟨heads_ask (by decide +kernel), by decide +kernel, by decide +kernel, by decide +kernel⟩

/-- A refused command, and one that is not found. -/
theorem witness_RefusalsChangeNothing :
    (∃ q rest t, Heads (ask world (.spanStatus .craft 1 16)) .craft (.spanStatus .craft 1 16) q rest ∧
      exec (.spanStatus .craft 1 16) (ask world (.spanStatus .craft 1 16)) = .next t ∧
      Answered .craft q rest .range .empty (ask world (.spanStatus .craft 1 16)) t ∧ ResultCode.range ≠ .ok ∧ ResultCode.range ≠ .notFound) := by
  obtain ⟨q, rest, h⟩ := heads_ask (s := world) (port := .craft) (c := .spanStatus .craft 1 16) (by decide +kernel)
  have hr := refuses_of_rule (s := ask world (.spanStatus .craft 1 16)) (result := .range) (body := .empty)
    (rule := ruleSpanStatus 16) rfl h (h.authority (by decide +kernel)) rfl
  exact ⟨q, rest, _, h, hr, ⟨by simp [State.answerHead], by
    simp only [State.answerHead]; rw [State.setPort_port_ne _ _ (otherPort_ne .craft).symm]⟩, by decide, by decide⟩

/-- A walk that holds the directory. -/
def busyWorld : State := world.setDirectory { world.directory with walk := .purge 0 false .primary 1 0 }

theorem busyWorld_lawful : Lawful busyWorld := world_lawful.purging _ _ _ _ _

/-- Other lanes that keep the laws: those that `world` has but for records that no law reads. -/
theorem world_setLanes {l : LaneInterface} (h : (l.anyUp == world.lanes.anyUp && decide (l.timing = l.source) &&
    decide (l.holdOffSeconds ≤ 60) && decide (l.queue.length ≤ 128)) = true) : Lawful (world.setLanes l) := by
  simp only [Bool.and_eq_true, beq_iff_eq, decide_eq_true_eq] at h
  exact world_lawful.setLanes l h.1.1.1 h.1.1.2 h.1.2 h.2

theorem witness_SelectorRefusals :
    ∀ x ∈ ([(world, .craft, .migrate .craft 1 (.number 512), fun _ => true),
        (world, .craft, .abandon .craft 1 (.code ⟨4096, 0⟩), fun _ => true),
        (busyWorld, .craft, .revert .craft 1 (.code ⟨4095, 255⟩), fun s => s.directory.busy),
        (world, .craft, .release .craft 1 (.code ⟨4095, 255⟩), fun s => !s.directory.busy && decide (s.directory.lookup ⟨4095, 255⟩ = none)),
        (world, .primary, .resume .primary 1 (.code ⟨0, 1⟩), fun s => !s.directory.busy && decide (s.directory.lookup ⟨0, 1⟩ = none))] : Cases),
      (∃ q rest, Heads (ask x.1 x.2.2.1) x.2.1 x.2.2.1 q rest) ∧ x.2.2.2 (ask x.1 x.2.2.1) = true := heads_of_cases (by decide +kernel)

/-! ### Observing -/

theorem witness_Queries :
    ∀ x ∈ ([(world, .craft, .queryCircuit .craft 1 512 true, fun _ => true), (world, .craft, .queryCircuit .craft 1 511 true, fun _ => true),
        (world, .craft, .queryCircuit .craft 1 0 false, fun _ => true),
        (world, .craft, .queryAlignment .craft 1 none (some 512), fun _ => true), (world, .craft, .queryAlignment .craft 1 none none, fun _ => true),
        (world, .craft, .queryAlignment .craft 1 none (some 511), fun _ => true),
        (world, .craft, .queryAlignment .craft 1 (some 512) none, fun _ => true),
        (world, .craft, .queryAlignment .craft 1 (some 511) none, fun _ => true),
        (world, .craft, .spanStatus .craft 1 16, fun _ => true), (world, .craft, .spanStatus .craft 1 15, fun _ => true),
        (world, .craft, .laneStatus .craft 1, fun s => decide ((s.lane .a).state ≠ .down)),
        (world.setLane .b (.reset true), .craft, .laneStatus .craft 1, fun s => decide ((s.lane .b).state = .down)),
        (world, .craft, .batchStatus .craft 1 8, fun _ => true), (world, .craft, .batchStatus .craft 1 7, fun _ => true),
        (world, .craft, .watchStatus .craft 1 4, fun _ => true), (world, .craft, .watchStatus .craft 1 3, fun _ => true),
        (world, .craft, .peerStatus .craft 1 true, fun _ => true), (world, .craft, .peerStatus .craft 1 false, fun _ => true),
        (world, .craft, .queryMiss .craft 1 true, fun _ => true), (world, .craft, .queryMiss .craft 1 false, fun _ => true),
        (world, .craft, .linkStatus .craft 1 true, fun _ => true), (world, .primary, .linkStatus .primary 1 false, fun _ => true)] : Cases),
      (∃ q rest, Heads (ask x.1 x.2.2.1) x.2.1 x.2.2.1 q rest) ∧ x.2.2.2 (ask x.1 x.2.2.1) = true := heads_of_cases (by decide +kernel)

theorem witness_Lookup :
    ∀ x ∈ ([(world, .craft, .lookup .craft 1 (.unknownForm 3), fun _ => true),
        (busyWorld, .craft, .lookup .craft 1 (.byBucket 128), fun s => s.directory.busy),
        (world, .craft, .lookup .craft 1 (.byBucket 128), fun s => !s.directory.busy),
        (world, .craft, .lookup .craft 1 (.byBucket 127), fun s => !s.directory.busy),
        (world, .craft, .lookup .craft 1 (.byRange 8), fun s => !s.directory.busy),
        (world, .craft, .lookup .craft 1 (.byRange 7), fun s => !s.directory.busy),
        (world, .craft, .lookup .craft 1 (.byCode ⟨4096, 255⟩), fun s => !s.directory.busy),
        (world, .craft, .lookup .craft 1 (.byCode ⟨200, 1⟩), fun s => !s.directory.busy && (s.directory.lookup ⟨200, 1⟩).isSome),
        (world, .craft, .lookup .craft 1 (.byCode ⟨4095, 255⟩), fun s => !s.directory.busy && (s.directory.lookup ⟨4095, 255⟩).isNone)] : Cases),
      (∃ q rest, Heads (ask x.1 x.2.2.1) x.2.1 x.2.2.1 q rest) ∧ x.2.2.2 (ask x.1 x.2.2.1) = true := heads_of_cases (by decide +kernel)

theorem witness_Resolution :
    DirectoryLaw world ∧ world.directory.ranges.get 0 = some ⟨200, 0, 2, 40⟩ ∧ (0 ≤ 1 ∧ 1 < 0 + 2) ∧
      (world.directory.trunks.get 61).get 0 = some ⟨codeOf 1, 1, true⟩ ∧
      ((List.finRange 8).all fun i => (world.directory.ranges.get i).all fun e => !e.covers ⟨200, 2⟩) = true ∧
      ((List.finRange 128).all fun b => (List.finRange 4).all fun w =>
        ((world.directory.trunks.get b).get w).all fun e => decide (e.code ≠ ⟨200, 2⟩)) = true :=
  ⟨world_lawful.directory, by decide +kernel⟩

/-! ### Provisioning -/

theorem witness_Attach :
    ∀ x ∈ ([(.attach .primary 1 0 none none, fun _ => true), (.attach .primary 1 512 none (some 0), fun _ => true),
        (.attach .primary 1 0 (some (16, 1)) none, fun _ => true), (.attach .primary 1 0 (some (15, 0)) none, fun _ => true),
        (.attach .primary 1 0 (some (15, 32)) none, fun _ => true), (.attach .primary 1 0 none (some 512), fun _ => true),
        (.attach .primary 1 5 none (some 511), fun s => decide ((s.circuit 5).state = .proposing)),
        (.attach .primary 1 1 (some (0, 31)) none, fun s => decide ((s.circuit 1).state = .copper) && (s.circuit 1).copper.isSome),
        (.attach .primary 1 1 none (some 511), fun s => decide ((s.circuit 1).state = .copper) && (s.circuit 1).fibre.isSome),
        (.attach .primary 1 511 (some (2, 31)) none, fun s => decide ((s.circuit 511).state = .vacant ∧ (s.span 2).state = .retired)),
        (.attach .primary 1 511 (some (0, 1)) none, fun s => decide (s.timeslotOwner ⟨0, 0⟩ = some 1)),
        (.attach .primary 1 511 (some (0, 31)) (some 1), fun s => decide (s.timeslotOwner ⟨0, 30⟩ = none ∧ s.slotOwner 1 = some 1)),
        (.attach .primary 1 511 (some (15, 31)) (some 511), fun s =>
          decide ((s.circuit 511).state = .vacant ∧ (s.circuit 511).copper = none ∧ (s.circuit 511).fibre = none ∧
            s.timeslotOwner ⟨15, 30⟩ = none ∧ s.slotOwner 511 = none ∧ (s.span 15).state ≠ .retired)),
        (.attach .primary 1 2 none (some 0), fun s => decide ((s.circuit 2).state = .copper ∧ (s.circuit 2).fibre = none ∧ s.slotOwner 0 = none))] :
        Provisions), (∃ q rest, Takes (ask world x.1) .primary x.1 q rest) ∧ Lawful (ask world x.1) ∧ x.2 (ask world x.1) = true :=
  takes_of_cases (by decide +kernel)

theorem witness_Detach :
    ∀ x ∈ ([(.detach .primary 1 0 false false, fun _ => true), (.detach .primary 1 512 true false, fun _ => true),
        (.detach .primary 1 0 true false, fun s => decide ((s.circuit 0).state ≠ .copper)),
        (.detach .primary 1 24 false true, fun s => (s.circuit 24).draining),
        (.detach .primary 1 20 false true, fun s => decide ((s.circuit 20).state = .fibre) && (s.circuit 20).context.isSome),
        (.detach .primary 1 62 true true, fun s => decide ((s.circuit 62).state = .copper ∧ (s.circuit 62).fibre = some 62)),
        (.detach .primary 1 23 false true, fun s => decide ((s.circuit 23).state = .fibre ∧ (s.circuit 23).context = none)),
        (.detach .primary 1 60 false true, fun s => decide ((s.circuit 60).state = .vacant ∧ (s.circuit 60).fibre = some 60))] : Provisions),
      (∃ q rest, Takes (ask world x.1) .primary x.1 q rest) ∧ Lawful (ask world x.1) ∧ x.2 (ask world x.1) = true :=
  takes_of_cases (by decide +kernel)

theorem witness_Activate :
    (∀ x ∈ ([(world, .primary, .activate .primary 1 512, fun _ => true),
        (world, .primary, .activate .primary 1 511, fun s => decide ((s.circuit 511).fibre = none)),
        (linked world .down, .primary, .activate .primary 1 25, fun s =>
          decide ((s.circuit 25).state = .vacant ∧ (s.circuit 25).fibre = some 25 ∧ s.peer.state ≠ .up) && !(s.circuit 25).draining),
        (world, .primary, .activate .primary 1 25, fun s => decide (s.peer.state = .up ∧ (s.circuit 25).state = .vacant) &&
          !(s.circuit 25).draining)] : Cases),
      (∃ q rest, Heads (ask x.1 x.2.2.1) x.2.1 x.2.2.1 q rest) ∧ x.2.2.2 (ask x.1 x.2.2.1) = true) := heads_of_cases (by decide +kernel)

theorem witness_SetCircuit :
    ∀ x ∈ ([(.setCircuit .primary 1 0 none none none none, fun _ => true), (.setCircuit .primary 1 512 (some true) none none none, fun _ => true),
        (.setCircuit .primary 1 19 none (some true) none none, fun s =>
          decide ((s.circuit 19).state = .fibre) && ({ s.circuit 19 with autoRelease := true } : Circuit).mayRelease),
        (.setCircuit .primary 1 511 (some true) (some false) (some 3601) (some true), fun s => decide ((s.circuit 511).state = .vacant))] :
        Provisions), (∃ q rest, Takes (ask world x.1) .primary x.1 q rest) ∧ Lawful (ask world x.1) ∧ x.2 (ask world x.1) = true :=
  takes_of_cases (by decide +kernel)

theorem witness_Exchange :
    ∀ x ∈ ([(.exchange .primary 1 0 512 0 1 0, fun _ => true), (.exchange .primary 1 0 0 0 512 0, fun _ => true),
        (.exchange .primary 1 2 0 0 1 0, fun _ => true), (.exchange .primary 1 0 0 7 1 0, fun _ => true),
        (.exchange .primary 1 0 0 0 1 7, fun _ => true), (.exchange .primary 1 0 0 0 0 0, fun _ => true),
        (.exchange .primary 1 1 61 0 1 1, fun s => decide (stateCode (s.circuit 61).state ≠ 0)),
        (.exchange .primary 1 1 5 2 1 1, fun s => decide (stateCode (s.circuit 5).state = 2 ∧ stateCode (s.circuit 1).state = 1)),
        (.exchange .primary 1 1 62 1 61 1, fun s => s.busy 62 && decide (stateCode (s.circuit 62).state = 1 ∧ stateCode (s.circuit 61).state = 1)),
        (.exchange .primary 1 1 61 1 62 1, fun s => !s.busy 61 && s.busy 62),
        (.exchange .primary 1 1 61 1 511 0, fun s => !s.busy 61 && !s.busy 511 &&
          decide (stateCode (s.circuit 61).state = 1 ∧ stateCode (s.circuit 511).state = 0)),
        (.exchange .primary 1 0 24 0 511 0, fun s => (s.circuit 24).draining && decide (stateCode (s.circuit 24).state = 0)),
        (.exchange .primary 1 0 60 0 62 1, fun s => !(s.circuit 60).draining && !(s.circuit 62).draining &&
          decide (stateCode (s.circuit 60).state = 0 ∧ stateCode (s.circuit 62).state = 1))] : Provisions),
      (∃ q rest, Takes (ask world x.1) .primary x.1 q rest) ∧ Lawful (ask world x.1) ∧ x.2 (ask world x.1) = true :=
  takes_of_cases (by decide +kernel)

/-- The own node number is 5 and the link UP; then the link in its other states. -/
theorem witness_SetNode :
    (∀ x ∈ ([(.setNode .primary 1 ⟨none, none, none, none, none, none, none, none, none⟩, fun _ => true),
        (.setNode .primary 1 ⟨none, some 2, none, none, none, none, none, none, none⟩, fun _ => true),
        (.setNode .primary 1 ⟨none, none, some 0, some 255, some 8, some 0, some 0, some 4294967295, some 255⟩, fun s => decide (s.node.node = 5)),
        (.setNode .primary 1 ⟨some 65535, some 1, none, none, none, none, none, none, none⟩, fun s => decide (s.peer.state = .up)),
        (.setNode .primary 1 ⟨some 0, none, none, none, none, none, none, none, none⟩, fun s => decide (s.peer.state = .up))] : Provisions),
      (∃ q rest, Takes (ask world x.1) .primary x.1 q rest) ∧ Lawful (ask world x.1) ∧ x.2 (ask world x.1) = true) ∧
    ∀ l ∈ [LinkState.down, .mismatch], let i : Instr := .setNode .primary 1 ⟨some 6, none, none, none, none, none, none, none, none⟩
      (∃ q rest, Takes (ask (linked world l) i) .primary i q rest) ∧ Lawful (ask (linked world l) i) ∧
        (ask (linked world l) i).peer.state = l := by
  refine ⟨takes_of_cases (by decide +kernel), fun l hl => ⟨takes_ask ?_, lawful_ask (world_lawful.setPeer _) _, ?_⟩⟩
  · revert l; decide +kernel
  · revert l; decide +kernel

/-! ### Migrating, releasing, reverting -/

theorem witness_Migrate :
    (∀ x ∈ ([(world, .craft, .migrate .craft 1 (.number 2), fun s => decide ((s.circuit 2).fibre = none)),
        (world, .craft, .migrate .craft 1 (.number 5), fun s => decide ((s.circuit 5).state ≠ .copper)),
        (world, .craft, .migrate .craft 1 (.number 3), fun s => decide ((s.circuit 3).state = .copper ∧ (s.circuit 3).fibre = some 3 ∧ (s.circuit 3).code = none)),
        (world, .craft, .migrate .craft 1 (.number 4), fun s => (s.circuit 4).inhibit && (s.circuit 4).code.isSome),
        (linked world .mismatch, .craft, .migrate .craft 1 (.number 1), fun s => decide (s.peer.state ≠ .up ∧ (s.circuit 1).inhibit = false)),
        (world, .craft, .migrate .craft 1 (.number 1), fun s => decide (s.peer.state = .up ∧ (s.circuit 1).state = .copper ∧
          (s.circuit 1).fibre = some 1 ∧ (s.circuit 1).code = some (codeOf 1) ∧ (s.circuit 1).inhibit = false)),
        (world, .primary, .migrate .primary 1 (.code (codeOf 1)), fun s => codeValid (codeOf 1) && !s.directory.busy)] : Cases),
      (∃ q rest, Heads (ask x.1 x.2.2.1) x.2.1 x.2.2.1 q rest) ∧ x.2.2.2 (ask x.1 x.2.2.1) = true) ∧
    Names (ask world (.migrate .craft 1 (.number 1))) (.number 1) 1 ∧
    Names (ask world (.migrate .primary 1 (.code (codeOf 1)))) (.code (codeOf 1)) 1 :=
  ⟨heads_of_cases (by decide +kernel), rfl, by decide +kernel, by decide +kernel, .trunk 61 0 true, by decide +kernel⟩

/-- ABANDON in each migrating state and in another; REVERT, RELEASE and RESUME by their clauses. -/
theorem witness_CircuitCommands :
    (∀ x ∈ ([(world, .craft, .abandon .craft 1 (.number 5), fun s => decide ((s.circuit 5).state = .proposing)),
        (world, .craft, .abandon .craft 1 (.number 8), fun s => decide ((s.circuit 8).state = .awaiting)),
        (world, .craft, .abandon .craft 1 (.number 9), fun s => decide ((s.circuit 9).state = .measuring)),
        (world, .craft, .abandon .craft 1 (.number 15), fun s => decide ((s.circuit 15).state = .aligned)),
        (world, .craft, .abandon .craft 1 (.number 511), fun s => decide ((s.circuit 511).state = .vacant)),
        (world, .craft, .revert .craft 1 (.number 1), fun s => decide ((s.circuit 1).state ≠ .fibre)),
        (world, .craft, .revert .craft 1 (.number 23), fun s => decide ((s.circuit 23).state = .fibre ∧ (s.circuit 23).context = none)),
        (world, .craft, .revert .craft 1 (.number 21), fun s => decide ((s.circuit 21).state = .fibre) && (s.circuit 21).context.isSome &&
          s.spanDownOf (s.circuit 21)),
        (world, .craft, .revert .craft 1 (.number 20), fun s => decide ((s.circuit 20).state = .fibre) && (s.circuit 20).context.isSome &&
          !s.spanDownOf (s.circuit 20)),
        (world, .craft, .release .craft 1 (.number 22), fun s => decide ((s.circuit 22).state = .fibre) &&
          (s.circuit 22).context.any fun x => x.peerSpliced),
        (world, .craft, .release .craft 1 (.number 26), fun s => (s.circuit 26).context.any fun x => !x.peerSpliced),
        (world, .craft, .resume .craft 1 (.number 15), fun s => (s.circuit 15).context.any fun x => !x.held),
        (world, .craft, .resume .craft 1 (.number 1), fun s => decide ((s.circuit 1).state ≠ .aligned)),
        (world, .craft, .resume .craft 1 (.number 17), fun s => s.busy 17 && decide ((s.span 0).tolerance < 3 ∧ (s.circuit 17).state = .aligned ∧
          (s.circuit 17).delta = some 3 ∧ (s.circuit 17).copper = some ⟨0, 16⟩) && (s.circuit 17).context.any fun x => x.held),
        (world.setHighway world.highway |>.setSpan 0 { world.span 0 with tolerance := 3 }, .craft, .resume .craft 1 (.number 17), fun s =>
          decide ((s.span 0).tolerance = 3 ∧ (s.circuit 17).delta = some 3))] : Cases),
      (∃ q rest, Heads (ask x.1 x.2.2.1) x.2.1 x.2.2.1 q rest) ∧ x.2.2.2 (ask x.1 x.2.2.1) = true) ∧
    (∀ n : CircuitNo, ∀ c : Instr, Lawful (ask world c) ∧ Names (ask world c) (.number n.val) n) :=
  ⟨heads_of_cases (by decide +kernel), fun _ _ => ⟨lawful_ask world_lawful _, rfl⟩⟩

/-! ### The Path Alignment Unit -/

/-- The same part with a unit free and the service pause over. -/
def serving (e : QueueEntry) (record : DelayRecord) : State :=
  { world with
    align := { world.align with
      queue := [e], pause := ⟨0, false⟩, units := world.align.units.set 2 Matcher.reset |>.set 3 Matcher.reset }
    circuits := world.circuits.set 13 { world.circuit 13 with context := some { begun with sub := some .bridgeWait } } |>.set 14
      { world.circuit 14 with context := some { begun with sub := some .bridgeWait } }
    spans := world.spans.set 0 { world.span 0 with record := record } }

theorem witness_MatcherUnits :
    (∀ x ∈ [(QueueEntry.mk 10 .full, DelayRecord.invalid), (⟨10, .confirm⟩, .valid ⟨8, 1, 0⟩), (⟨10, .confirm⟩, .valid ⟨9, 1, 0⟩),
        (⟨10, .confirm⟩, .stale ⟨3, 1, 0⟩)],
      Lawful (serving x.1 x.2) ∧ (serving x.1 x.2).align.queue = x.1 :: [] ∧ (serving x.1 x.2).align.pause.left = 0 ∧
        ((serving x.1 x.2).unit 2).state = .free ∧ (∀ v : UnitNo, v < 2 → ((serving x.1 x.2).unit v).state ≠ .free) ∧
        ((serving x.1 x.2).circuit 10).copper = some ⟨0, 9⟩) ∧
    (world.align.pause.left ≠ 0 ∧ world.align.pause.due = true ∧ ∀ u : UnitNo, (world.unit u).state ≠ .free) ∧
    State.reset.align.queue = [] ∧
    ((world.unit 0).state = .priming ∧ (world.unit 0).count = 128) ∧
    ((world.unit 1).state = .window ∧ (world.unit 1).count = (world.unit 1).length ∧ (world.unit 1).circuit = some 12 ∧
      (world.circuit 12).copper = some ⟨0, 11⟩ ∧ (world.unit 1).kind = .full ∧ (world.unit 1).candidates = [3]) ∧
    ∀ kind candidates, ((world.setUnit 1 { world.unit 1 with kind := kind, candidates := candidates }).unit 1).candidates = candidates ∧
      ((world.setUnit 1 { world.unit 1 with kind := kind, candidates := candidates }).unit 1).kind = kind := by
  refine ⟨fun x hx => ⟨lawful_of_check ?_, ?_⟩, by decide +kernel, rfl, by decide +kernel, by decide +kernel, by simp⟩
  · revert x; decide +kernel
  · revert x; decide +kernel

/-- Every circuit seized by the switch. -/
def calledWorld : State := world.setHighway { world.highway with channels := .fill ⟨.seized, none, 0, false⟩ }

theorem calledWorld_lawful : Lawful calledWorld :=
  world_lawful.of_fields rfl rfl rfl rfl rfl rfl rfl rfl rfl rfl rfl world_lawful.queues.inputs

/-- Unit 2 with each outcome a unit can hold: on a circuit at its span's tolerance or over it, idle or busy, with attempts left or none. -/
theorem witness_MatchOutcome :
    (∀ r ∈ [MatchResult.matched 8, .confirmed (-96), .noMatch, .ambiguous, .confirmFailed],
      let s := world.setUnit 2 { world.unit 2 with outcome := some r }
      Lawful s ∧ (s.unit 2).state = .done ∧ (s.unit 2).circuit = some 13 ∧ (s.unit 2).outcome = some r) ∧
    (world.circuit 13).context.isSome = true ∧ (world.circuit 13).copper = some ⟨0, 12⟩ ∧ world.busy 13 = false ∧
    world.flagPresent 13 = true ∧
    (Lawful calledWorld ∧ calledWorld.busy 13 = true ∧ ((calledWorld.circuit 13).context.map Context.attempts) = some 3 ∧
      calledWorld.busy 14 = true ∧ ((calledWorld.circuit 14).context.map Context.attempts) = some 0 ∧
      (calledWorld.unit 3).circuit = some 14 ∧ (calledWorld.unit 3).state = .done ∧ (calledWorld.unit 3).outcome = some .noMatch) := by
  refine ⟨fun r hr => ⟨lawful_of_check ?_, ?_⟩, by decide +kernel, by decide +kernel, by decide +kernel, by decide +kernel,
    calledWorld_lawful, by decide +kernel⟩
  · revert r; decide +kernel
  · revert r; decide +kernel

/-- An outcome that finds its circuit COPPER, and one that finds it QUEUED. -/
theorem witness_MatchOutcome_elsewhere :
    ∀ c ∈ [(1 : CircuitNo), 10], let s := world.setUnit 2 { world.unit 2 with circuit := some c }
      (s.unit 2).state = .done ∧ (s.unit 2).circuit = some c ∧ (s.unit 2).outcome = some (.matched 3) ∧
        ((s.circuit c).state ≠ .measuring ∨ (s.circuit c).sub ≠ some .matching) := by decide +kernel

theorem witness_TargetReached :
    ((2 : Nat) ≤ 64 ∧ 64 ≤ 64) ∧ Lawful world ∧
    ((world.circuit 15).state = .aligned ∧ ((world.circuit 15).context.bind Context.target) = some 1000 ∧
      ((world.circuit 15).context.bind Context.delta) = some (-5) ∧ reached world.fc 1000 = true ∧ world.flagPresent 15 = true) ∧
    ((world.circuit 18).state = .aligned ∧ ((world.circuit 18).context.bind Context.target) = some 1001 ∧
      ((world.circuit 18).context.bind Context.delta) = some 0 ∧ reached world.fc 1001 = true ∧ world.flagPresent 18 = false) ∧
    (let s := world.setLanes { world.lanes with fc := 1000 }
     Lawful s ∧ reached s.fc 1001 = false ∧ (s.circuit 18).state = .aligned) :=
  ⟨by decide, world_lawful, by decide +kernel, by decide +kernel, world_setLanes (by decide +kernel), by decide +kernel⟩

/-! ### Spans -/

theorem witness_SpanCommands :
    ∀ x ∈ ([(.setSpan .primary 1 16 ⟨none, none, none, none, none⟩, fun _ => true), (.setSpan .primary 1 15 ⟨none, none, none, none, none⟩, fun _ => true),
        (.setSpan .primary 1 0 ⟨some (-128), some 127, some 255, some true, some true⟩, fun _ => true),
        (.setSpan .primary 1 0 ⟨some 9, none, none, none, none⟩, fun s => decide ((s.span 0).whi < 9)),
        (.retireSpan .primary 1 16, fun _ => true), (.retireSpan .primary 1 2, fun s => decide ((s.span 2).state = .retired)),
        (.retireSpan .primary 1 1, fun s => decide (s.timeslotOwner ⟨1, 0⟩ = some 21)),
        (.retireSpan .primary 1 15, fun s => decide ((s.span 15).state ≠ .retired ∧ s.occupiedEntries 15 = 0)),
        (.restartSpan .primary 1 16, fun _ => true), (.restartSpan .primary 1 0, fun s => decide ((s.span 0).state = .up)),
        (.restartSpan .primary 1 2, fun s => decide ((s.span 2).state = .retired)),
        (.restartSpan .primary 1 15, fun s => decide ((s.span 15).state = .down))] : Provisions),
      (∃ q rest, Takes (ask world x.1) .primary x.1 q rest) ∧ Lawful (ask world x.1) ∧ x.2 (ask world x.1) = true :=
  takes_of_cases (by decide +kernel)

theorem witness_SpanTransitions :
    Lawful world ∧ (world.span 0).state = .up ∧ (world.span 1).state = .down ∧ (world.span 2).state = .retired ∧
      ((world.span 7).state = .up ∧ (world.span 7).badDue = true) ∧
      ((world.span 5).state = .down ∧ (world.span 5).phase = some .search ∧ (world.span 5).search.found = true) ∧
      ((world.span 4).state = .down ∧ (world.span 4).phase = some .multiframe ∧ (world.span 4).badDue = true) ∧
      ((world.span 6).state = .down ∧ (world.span 6).upDue = true ∧ (world.span 6).recent = [.fill 1, .fill 2]) :=
  ⟨world_lawful, by decide +kernel⟩

/-- A span that retires by the loss, as its one circuit is rescued and released at once, and one that does not. -/
def lastOnSpan (hold : Nat) : State :=
  let aligned : Circuit := { bridged (ready 22 3 0) .aligned { begun with delta := some 3, peerSpliced := true, target := some 1005 } with
    holdSeconds := hold }
  let lanes : LaneInterface := { world.lanes with slots := world.lanes.slots.modify 22 fun s => { s with flag := ⟨true, 0, false⟩ } }
  (world.setLanes lanes).setCircuits (world.circuits.set 22 (evaluated world.spans lanes aligned))

theorem witness_SpanGoesDown :
    (∀ hold ∈ [0, 60], Lawful (lastOnSpan hold) ∧ ((lastOnSpan hold).span 3).state = .up ∧ ((lastOnSpan hold).span 3).autoRetire = true ∧
      (lastOnSpan hold).rescuedAt 3 22 = true) ∧
    ((lastOnSpan 0).circuit 22).splicesToRelease = true ∧
    RetiresAtLoss 3 (lastOnSpan 0) ((lastOnSpan 0).spanLowered 3 .signal) ∧
    ¬ RetiresAtLoss 3 (lastOnSpan 60) ((lastOnSpan 60).spanLowered 3 .signal) := by
  refine ⟨fun hold h => ⟨lawful_of_check ?_, ?_⟩, by decide +kernel, ⟨by decide +kernel, ⟨22, by decide +kernel⟩, by decide +kernel⟩,
    fun h => absurd (h.2.2 0) (by decide +kernel)⟩
  · revert hold; decide +kernel
  · revert hold; decide +kernel

/-- A circuit on a timeslot of each kind that a loss of the span finds: rescued with its Δ and without, one of them a member of a
batch; withdrawn from its queue place and from its unit; and left as it is. -/
theorem witness_SpanLost :
    (world.rescuedAt 0 15 = true ∧ (world.circuit 15).delta = some (-5)) ∧ (world.rescuedAt 0 11 = true ∧ (world.circuit 11).delta = none) ∧
    (let slots := (world.lanes.slots.set 10 ⟨.reset, .reset⟩).set 12 ⟨.reset, .reset⟩
     let s := world.setLanes { world.lanes with slots := slots }
     Lawful s ∧ s.withdrawnAt 0 10 = true ∧ s.withdrawnAt 0 12 = true) ∧
    (world.rescuedAt 0 18 = false ∧ world.withdrawnAt 0 18 = false ∧ (world.circuit 18).state = .aligned) ∧
    (let s := world.setCircuits (world.circuits.set 15 { world.circuit 15 with batch := some 0 })
     let b : Batch := { mode := .parallel, limit := 2, members := [⟨31, .active, none⟩, ⟨30, .pending, none⟩, ⟨15, .active, none⟩],
                        remaining := 3, port := .primary, tag := 0, opened := 500 }
     let s := s.setBatches (s.batches.set 0 (some b))
     Lawful s ∧ s.rescuedAt 0 15 = true ∧ (s.circuit 15).batch = some 0 ∧ s.peer.state = .up) :=
  ⟨by decide +kernel, by decide +kernel, ⟨lawful_of_check (by decide +kernel), by decide +kernel⟩, by decide +kernel,
    ⟨lawful_of_check (by decide +kernel), by decide +kernel⟩⟩

theorem witness_SpanFrames :
    Lawful world ∧ world.running = true ∧ State.reset.running = false ∧
      (∀ n ∈ [(0 : SpanNo), 8, 9, 10, 11], (world.span n).lossOfSignal = false) ∧ (world.span 13).lossOfSignal = true ∧
      ((world.span 0).state = .up ∧ (world.span 0).multiframe.next < 15 ∧ (world.span 0).store.length < 4 ∧
        (world.span 0).multiframe.next % 2 = 0 ∧ (world.span 0).badWords < 3) ∧
      ((world.span 8).state = .up ∧ (world.span 8).multiframe.next = 14 ∧ (world.span 8).store.length = 4) ∧
      ((world.span 9).state = .up ∧ (world.span 9).autoRetire = false ∧ (world.span 9).multiframe.next = 15 ∧
        (world.span 9).multiframe.codes = some (List.replicate 27 .idle) ∧ (List.replicate 27 LineCondition.idle).length = 27 ∧
        (world.span 9).store.length < 4 ∧
        (List.replicate 27 LineCondition.idle ++ signalCodes 0xFF)[(30 : TimeslotNo).val]? = some .blocked) ∧
      ((world.span 10).state = .up ∧ (world.span 10).multiframe.next = 15 ∧ (world.span 10).multiframe.codes = none ∧
        (world.span 10).store.length < 4) ∧
      ((world.span 11).state = .down ∧ (world.span 11).phase = some .multiframe ∧ (world.span 11).nextEven = true ∧
        (world.span 11).badWords = 3) ∧
      (world.span 2).state = .retired := ⟨world_lawful, by decide +kernel⟩

/-- The same of the hunts, and of the codes of the timeslots of a circuit in COPPER, of one in FIBRE, and of a free timeslot. -/
theorem witness_SpanFrames_more :
    ((world.span 14).state = .down ∧ (world.span 14).phase = some .search ∧ (world.span 14).lossOfSignal = false) ∧
    ((world.span 9).multiframe.next = 15 ∧ (world.span 9).multiframe.codes = some (List.replicate 27 .idle)) ∧
    (let w : WordSearch := ⟨[true, false, false, true, false, true, true, false], 7, none, false⟩
     (w.window ++ [true]).drop (w.window.length + 1 - 8) = [false, false, true, false, true, true, false, true] ∧ w.candidate = none ∧
       w.found = false ∧ (w.window ++ [false]).drop (w.window.length + 1 - 8) ≠ [false, false, true, false, true, true, false, true]) ∧
    (∀ x ∈ [(1, 2), (1, 1), (2, 1)], let w : WordSearch := ⟨[true, false, false, true, false, true, true, false], 7, some ⟨3, x.1, x.2⟩, false⟩
      w.candidate = some ⟨3, x.1, x.2⟩) ∧
    (let s := world.setSpan 11 { world.span 11 with nextEven := false, marker := some ⟨.first, 1⟩ }
     (s.span 11).state = .down ∧ (s.span 11).phase = some .multiframe ∧ (s.span 11).nextEven = false ∧ (s.span 11).upDue = false ∧
       (s.span 11).marker = some ⟨.first, 1⟩ ∧ (0x6D : Byte).getLsbD 7 = false ∧ (0x6D : Byte).getLsbD 6 = true) ∧
    ((world.span 6).upDue = true ∧ (world.span 6).phase = some .multiframe ∧ (world.span 6).nextEven = true) ∧
    ((world.span 2).state ≠ .up ∧ (world.span 0).state = .up) ∧
    (let s := world.setSpan 0 { world.span 0 with candidates := .fill (some .blocked) }
     Lawful s ∧ s.timeslotOwner ⟨0, 0⟩ = some 1 ∧ s.timeslotOwner ⟨0, 19⟩ = some 20 ∧ s.timeslotOwner ⟨0, 29⟩ = none ∧
       ([0, 19, 29] : List TimeslotNo).all (fun i => decide ((s.span 0).conditions.get i ≠ .blocked ∧
         (s.span 0).candidates.get i = some .blocked)) = true) ∧
    ((world.circuit 1).state ≠ .fibre ∧ (world.circuit 20).state = .fibre ∧ (world.span 0).candidates.get 0 = none) := by
  refine ⟨by decide +kernel, by decide +kernel, by decide +kernel, by decide +kernel, by decide +kernel, by decide +kernel, by decide +kernel,
    ⟨lawful_of_check (by decide +kernel), by decide +kernel⟩, by decide +kernel⟩

/-- Timeslot 0 of each kind of frame of an UP span: the fourth bad word, with room in the store and without; frame 1 with the marker
called for and without it; and the first and the last of the other odd frames. -/
theorem witness_SpanFrames_signal :
    (let s := world.setSpan 0 { world.span 0 with badWords := 3 }
     s.running = true ∧ (s.span 0).lossOfSignal = false ∧ (s.span 0).state = .up ∧ (s.span 0).multiframe.next = 4 ∧
       (s.span 0).store.length < 4 ∧ (s.span 0).badWords = 3 ∧ (0 : Byte) ≠ 0x2D) ∧
    (let s := world.setSpan 8 { world.span 8 with badWords := 3 }
     (s.span 8).lossOfSignal = false ∧ (s.span 8).state = .up ∧ (s.span 8).multiframe.next = 14 ∧ (s.span 8).store.length = 4 ∧
       (s.span 8).badWords = 3) ∧
    (let s := world.setSpan 0 { world.span 0 with multiframe := ⟨1, .first, none⟩ }
     (s.span 0).multiframe.next = 1 ∧ signalMarker 0xA4 = some (s.span 0).multiframe.expect ∧
       signalMarker 0x64 ≠ some (s.span 0).multiframe.expect ∧ signalMarker 0xE4 ≠ some (s.span 0).multiframe.expect) ∧
    ∀ next ∈ [3, 13], let s := world.setSpan 0 { world.span 0 with multiframe := ⟨next, .first, some [.idle, .idle, .idle]⟩ }
      (s.span 0).multiframe.next % 2 = 1 ∧ (s.span 0).multiframe.next ≠ 1 ∧ (s.span 0).multiframe.next < 15 := by decide +kernel

/-- Each kind of circuit of span 0, and the record at both ends of its range. -/
theorem witness_SlipStep :
    Lawful world ∧ (world.span 0).state = .up ∧ (world.span 8).slipReports = true ∧ (world.span 0).record = .valid ⟨3, 12, 900⟩ ∧
      ((world.span 12).record = .stale ⟨-127, 1, 0⟩ ∧ (world.span 12).state = .up) ∧ (world.span 8).record = .invalid ∧
      ((world.circuit 20).spanNo = some 0 ∧ (world.circuit 20).batch = none ∧ (world.circuit 20).delta = some (-5) ∧
        (world.circuit 20).state = .fibre) ∧
      ((world.circuit 15).spanNo = some 0 ∧ (world.circuit 15).batch = none ∧ (world.circuit 15).delta = some (-5) ∧
        (world.circuit 15).state = .aligned) ∧
      (let s := world.setCircuits (world.circuits.set 16 { world.circuit 16 with context := some { begun with delta := some 8 } })
       Lawful s ∧ (s.circuit 16).delta = some 8 ∧ (s.circuit 16).state = .aligned ∧ (s.span 0).whi = 8 ∧
         ((s.circuit 16).context.map Context.attempts) = some 3) ∧
      ((world.circuit 21).spanNo ≠ some 0 ∧ (world.circuit 1).delta = none ∧ (world.circuit 1).batch = none) ∧
      ((world.unit 0).circuit = some 11 ∧ (world.circuit 11).spanNo = some 0 ∧ (world.unit 0).state = .priming ∧ (world.unit 1).state = .window) ∧
      ((world.unit 2).circuit = some 13 ∧ (world.circuit 13).spanNo = some 0 ∧ (world.unit 2).state = .done ∧
        (world.unit 2).outcome = some (.matched 3)) :=
  ⟨world_lawful, by decide +kernel, by decide +kernel, by decide +kernel, by decide +kernel, by decide +kernel, by decide +kernel,
    by decide +kernel, ⟨lawful_of_check (by decide +kernel), by decide +kernel⟩, by decide +kernel, by decide +kernel, by decide +kernel⟩

/-- A circuit that leaves its window with no attempt left, and the outcomes that wait. -/
theorem witness_SlipStep_more :
    (let s := world.setCircuits (world.circuits.set 17 { world.circuit 17 with context := some { begun with delta := some 8, attempts := 0 } })
     Lawful s ∧ (s.circuit 17).state = .aligned ∧ (s.circuit 17).spanNo = some 0 ∧ (s.circuit 17).batch = none ∧ (s.circuit 17).delta = some 8 ∧
       ((s.circuit 17).context.map Context.attempts) = some 0 ∧ (s.span 0).whi = 8 ∧ (s.span 0).state = .up) ∧
    (∀ d ∈ [(8 : Int), -96, 3], let s := world.setUnit 2 { world.unit 2 with outcome := some (.confirmed d) }
      Lawful s ∧ (s.unit 2).circuit = some 13 ∧ (s.circuit 13).spanNo = some 0 ∧ (s.unit 2).state = .done ∧
        (s.unit 2).outcome = some (.confirmed d)) ∧
    ((world.unit 3).circuit = some 14 ∧ (world.circuit 14).spanNo = some 0 ∧ (world.unit 3).state = .done ∧
      (world.unit 3).outcome = some .noMatch) := by
  refine ⟨⟨lawful_of_check (by decide +kernel), by decide +kernel⟩, fun d hd => ⟨lawful_of_check ?_, ?_⟩, by decide +kernel⟩
  · revert d; decide +kernel
  · revert d; decide +kernel

/-- What a slip can make of an ALIGNED circuit: it stays with a target, deferred, or held; the defer limit has run out; it leaves the
window with attempts and without; and a unit for a confirm match with the record's Δ within its window, and outside it. -/
theorem witness_SlipStep_aligned :
    (∀ x ∈ ([(15, begun, -5, none, false), (16, begun, 3, none, false), (17, { begun with held := true }, 3, none, false),
        (16, { begun with deferLimit := ⟨0, false⟩ }, 2, some .deferLimit, false), (16, { begun with attempts := 0 }, 8, some .outOfWindow, false),
        (16, begun, 8, none, true)] : List (CircuitNo × Context × Int × Option Reason × Bool)),
      let s := world.setCircuits (world.circuits.set x.1 { world.circuit x.1 with
        buildOut := (-x.2.2.1).toNat, context := some { x.2.1 with delta := some x.2.2.1 } })
      Lawful s ∧ (s.circuit x.1).state = .aligned ∧ (s.circuit x.1).spanNo = some 0 ∧ (s.circuit x.1).delta = some x.2.2.1 ∧
        s.slipAbandons 0 1 x.1 = x.2.2.2.1 ∧ s.slipRequeues 0 1 x.1 = x.2.2.2.2) ∧
    ∀ wlo ∈ [(-96 : Int), 5], let s := world.setUnit 0 { world.unit 0 with kind := .confirm, wlo := wlo, candidates := [] }
      Lawful s ∧ (s.unit 0).circuit = some 11 ∧ (s.circuit 11).spanNo = some 0 ∧ (s.unit 0).state = .priming := by
  refine ⟨fun x hx => ⟨lawful_of_check ?_, ?_⟩, fun wlo h => ⟨lawful_of_check ?_, ?_⟩⟩
  · revert x; decide +kernel
  · revert x; decide +kernel
  · revert wlo; decide +kernel
  · revert wlo; decide +kernel

/-! ### Lanes -/

theorem witness_LaneSelection :
    ∀ x ∈ ([(world, .primary, .laneControlSelect .primary 1 2, fun _ => true), (world, .primary, .laneControlLockout .primary 1 2, fun _ => true),
        (world, .primary, .laneControlClear .primary 1 2, fun _ => true),
        (world, .primary, .laneControlSelect .primary 1 0, fun s => decide (s.lanes.working = .a)),
        (world.setLane .b (.reset true), .primary, .laneControlSelect .primary 1 1, fun s => decide ((s.lane .b).state ≠ .up)),
        (world, .primary, .laneControlSelect .primary 1 1, fun s => decide ((s.lane .b).state = .up ∧ 0 < s.lanes.holdOff.left)),
        (world.setLanes { world.lanes with holdOff := ⟨0, false⟩ }, .primary, .laneControlSelect .primary 1 1, fun s =>
          decide ((s.lane .b).state = .up ∧ s.lanes.holdOff.left = 0 ∧ (s.lane .b).lockout = false)),
        (world.setLane .b { world.lanes.b with lockout := true }, .primary, .laneControlLockout .primary 1 1, fun s => (s.lane .b).lockout),
        (world.setLane .b { world.lanes.b with lockout := true }, .primary, .laneControlLockout .primary 1 0, fun s => (s.lane .b).lockout),
        (world, .primary, .laneControlLockout .primary 1 0, fun s => !(s.lane .a).lockout && !(s.lane .b).lockout),
        (world, .primary, .laneControlClear .primary 1 1, fun s => !(s.lane .b).lockout),
        (world.setLane .b { world.lanes.b with lockout := true }, .primary, .laneControlClear .primary 1 1, fun s => (s.lane .b).lockout)] : Cases),
      (∃ q rest, Heads (ask x.1 x.2.2.1) x.2.1 x.2.2.1 q rest) ∧ x.2.2.2 (ask x.1 x.2.2.1) = true := heads_of_cases (by decide +kernel)

/-- The states of `witness_LaneSelection` keep the laws. -/
theorem witness_LaneSelection_lawful :
    ∀ c, Lawful (ask world c) ∧ Lawful (ask (world.setLane .b (.reset true)) c) ∧
      Lawful (ask (world.setLanes { world.lanes with holdOff := ⟨0, false⟩ }) c) ∧
      Lawful (ask (world.setLane .b { world.lanes.b with lockout := true }) c) := fun c =>
  ⟨lawful_ask world_lawful c, lawful_ask (world_setLanes (by decide +kernel)) c, lawful_ask (world_setLanes (by decide +kernel)) c,
    lawful_ask (world_setLanes (by decide +kernel)) c⟩

theorem witness_LaneSettings :
    ∀ x ∈ ([(.laneControlShut .primary 1 2, fun _ => true), (.laneControlRestore .primary 1 255, fun _ => true),
        (.laneControlShut .primary 1 1, fun s => !(s.lane .a).shutdown), (.laneControlRestore .primary 1 0, fun _ => true),
        (.laneControlHoldOff .primary 1 61, fun _ => true), (.laneControlHoldOff .primary 1 0, fun _ => true),
        (.setFrameClock .primary 1 0xFFFFFFFF, fun _ => true)] : Provisions),
      (∃ q rest, Takes (ask world x.1) .primary x.1 q rest) ∧ Lawful (ask world x.1) ∧ x.2 (ask world x.1) = true :=
  takes_of_cases (by decide +kernel)

theorem witness_LaneSettings_shut :
    let s := world.setLane .a { world.lanes.a with shutdown := true }
    (∃ q rest, Takes (ask s (.laneControlShut .primary 1 1)) .primary (.laneControlShut .primary 1 1) q rest) ∧
      (s.lane .b).shutdown = false ∧ (s.lane (otherLane .b)).shutdown = true := ⟨takes_ask (by decide +kernel), by decide +kernel⟩

theorem witness_LaneFrames :
    world.running = true ∧ State.reset.running = false ∧ (world.lane .a).lossOfLight = false ∧ (world.lane .a).state ≠ .down ∧
      (world.lane .a).badFrames < 3 ∧ (world.lane .b).badFrames = 3 ∧ world.lanes.working = .a ∧ world.lanes.a.state = .up ∧
      laneWord.data = [0xB1, 0x4E, 0x27, 0xD8] ∧ (Table.fill 0 : Table 4 Byte).data ≠ [0xB1, 0x4E, 0x27, 0xD8] ∧
      (let s := world.setLanes { world.lanes with lastSequence := some 200 }
       s.lanes.lastSequence = some 200 ∧ 0 < s.lanes.duplicate.left ∧ 128 ≤ ((72 : Byte) - 200).toNat ∧
         ¬ ((71 : Byte) = 200 ∨ 128 ≤ ((71 : Byte) - 200).toNat)) ∧
      parseMessage [0x06, 0, 0, 0] = some (.spliced ⟨0, 0⟩) ∧ parseMessage [0x0B] = none ∧
      (∀ k ∈ [some 6, some 7], let s := world.setLane .b { LaneRecord.reset false with candidate := k }
        (s.lane .b).lossOfLight = false ∧ (s.lane .b).state = .down ∧ (s.lane .b).candidate = k) ∧
      ((world.setLane .b (.reset true)).lane .b).lossOfLight = true := by decide +kernel

theorem witness_LaneTransitions :
    (let s := world.setLane .b { LaneRecord.reset false with upDue := true }
     Lawful s ∧ (s.lane .b).state = .down ∧ (s.lane .b).upDue = true) ∧
    (Lawful world ∧ (world.lane .b).state ≠ .down ∧ (world.lane .b).badDue = true ∧ (world.lane .a).state = .up ∧
      16 ≤ (world.lane .a).errors.getD 0 ∧ (world.lane .a).interval = some due ∧ due.due = true ∧
      ¬ ((world.lane .a).state = .degraded ∧ (world.lane .a).errors = some 0)) ∧
    (let s := world.setLane .b { laneUp with state := .degraded, errors := some 0 }
     Lawful s ∧ (s.lane .b).state = .degraded ∧ (s.lane .b).errors = some 0 ∧ (s.lane .b).interval = some due) ∧
    world.lanes.holdOff.due = true ∧ world.lanes.duplicate.due = true :=
  ⟨⟨world_setLanes (by decide +kernel), by decide +kernel⟩, ⟨world_lawful, by decide +kernel⟩,
    ⟨world_setLanes (by decide +kernel), by decide +kernel⟩, by decide +kernel⟩

/-- The last UP lane of the part, and the circuits that its loss finds: migrating, one of them a member of a batch; kept on a span that
is UP and on one that is DOWN; and in COPPER. -/
theorem witness_FibreLost :
    (let s := world.setLane .b (.reset false)
     Lawful s ∧ (s.lane .a).state = .up ∧ (s.lane .b).state = .down) ∧
    ((world.circuit 31).migrating = true ∧ (world.circuit 31).batch = some 0 ∧ (world.circuit 10).migrating = true ∧
      (world.circuit 10).sub = some .queued ∧ (world.circuit 11).sub = some .matching ∧ (world.peer.response.get 5).isSome = true) ∧
    (world.returnedAtLoss 20 = true ∧ (world.circuit 20).kept = true ∧ world.spanUpOf (world.circuit 20) = true) ∧
    (world.returnedAtLoss 21 = false ∧ (world.circuit 21).kept = true) ∧ world.returnedAtLoss 1 = false :=
  ⟨⟨world_setLanes (by decide +kernel), by decide +kernel⟩, by decide +kernel⟩

/-! ### Recognition and the site frame -/

theorem witness_Recognition :
    Lawful world ∧ ((world.highway.channels.get 15).due = true ∧ (world.highway.channels.get 15).candidate = some .seized) ∧
      ((world.lanes.slots.get 20).line.due = true ∧ (world.lanes.slots.get 20).line.candidate = some .idle ∧ world.slotOwner 20 = some 20 ∧
        (world.circuit 20).state = .fibre) ∧
      (let s := world.setLanes { world.lanes with slots := world.lanes.slots.set 1 ⟨⟨.idle, some .seized, 15, true⟩, .reset⟩ }
       Lawful s ∧ (s.lanes.slots.get 1).line.due = true ∧ (s.lanes.slots.get 1).line.candidate = some .seized ∧ s.slotOwner 1 = some 1 ∧
         (s.circuit 1).state ≠ .fibre) ∧
      ((world.lanes.slots.get 28).flag.due = true ∧ (world.lanes.slots.get 28).flag.present = false ∧ world.slotOwner 28 = some 28 ∧
        (world.circuit 28).state = .measuring ∧ world.spanDownOf (world.circuit 28) = false ∧ (world.circuit 28).sub = some .bridgeWait) ∧
      (let flag (n : SlotNo) (x : Bool) := world.setLanes { world.lanes with slots := world.lanes.slots.set n ⟨.reset, ⟨x, 15, true⟩⟩ }
       (Lawful (flag 27 false) ∧ (world.circuit 27).state = .measuring ∧ world.spanDownOf (world.circuit 27) = true) ∧
         (Lawful (flag 18 false) ∧ (world.circuit 18).state = .aligned ∧ world.spanDownOf (world.circuit 18) = false) ∧
         (Lawful (flag 1 true) ∧ ((flag 1 true).lanes.slots.get 1).flag.present = true ∧ ((flag 1 true).lanes.slots.get 1).flag.due = true)) ∧
      ((world.highway.channels.get 0).due = false ∧ (world.lanes.slots.get 0).line.due = false ∧ (world.lanes.slots.get 0).flag.due = false) :=
  ⟨world_lawful, by decide +kernel, by decide +kernel, ⟨world_setLanes (by decide +kernel), by decide +kernel⟩, by decide +kernel,
    ⟨⟨world_setLanes (by decide +kernel), by decide +kernel⟩, ⟨world_setLanes (by decide +kernel), by decide +kernel⟩,
      ⟨world_setLanes (by decide +kernel), by decide +kernel⟩⟩, by decide +kernel⟩

theorem witness_SiteFrame :
    world.running = true ∧ ((world.span 12).state = .up ∧ (world.span 12).store = []) ∧ State.reset.running = false ∧
      (State.reset.setLinks { State.reset.links with startUp := due }).links.startUp.due = true ∧ world.links.startUp.due = false ∧
      (State.reset.setLinks { State.reset.links with startUp := ⟨1, false⟩ }).running = false := by
  decide +kernel

/-! ### The peer protocol -/

/-- The link in its three states, with a HELLO that is good and one that fails each test; the timers that are due. -/
theorem witness_PeerLink :
    (∀ l ∈ [LinkState.down, .up, .mismatch], ∀ m ∈ [PeerMessage.hello 9 .twoWay, .hello 65535 .twoWay, .hello 0 .twoWay, .hello 5 .twoWay,
        .hello 9 .threeWay], Lawful (hear (linked world l) m) ∧ (hear (linked world l) m).peer.inbox = m :: [] ∧
          (hear (linked world l) m).peer.state = l) ∧
    (world.node.node = 5 ∧ world.peer.qualified = some 9) ∧
    (let s := hear (world.setNode { world.node with node := 0 }) (.hello 9 .twoWay)
     Lawful s ∧ s.node.node = 0) ∧
    world.peer.hello = some due ∧ due.due = true ∧
    ∀ l, Lawful (linked world l) ∧ (linked world l).peer.silence = some due ∧ (linked world l).peer.state = l :=
  ⟨fun _ _ _ _ => ⟨(world_lawful.setPeer _).setPeer _, rfl, rfl⟩, by decide +kernel,
    ⟨lawful_hear (lawful_of_check (by decide +kernel)) _, by decide +kernel⟩, rfl, rfl, fun _ => ⟨world_lawful.setPeer _, rfl, rfl⟩⟩

/-- A PROPOSE for the circuit with this state, in this slot, as each clause has it. -/
theorem witness_ReceivedPropose :
    (∀ s ∈ [world, linked world .down, busyWorld], ∀ code slot number, Lawful s → Lawful (hear s (.propose code slot number)) ∧
      (hear s (.propose code slot number)).peer.inbox = .propose code slot number :: []) ∧
    (Lawful world ∧ Lawful (linked world .down) ∧ Lawful busyWorld) ∧ (linked world .down).peer.state ≠ .up ∧
    (busyWorld.peer.state = .up ∧ busyWorld.directory.busy = true) ∧
    (world.peer.state = .up ∧ world.directory.busy = false ∧ world.directory.lookup ⟨4095, 255⟩ = none) ∧
    (∀ x ∈ [(25, PathState.vacant), (15, .aligned), (20, .fibre), (4, .copper), (1, .copper), (63, .copper), (5, .proposing), (8, .awaiting),
        (9, .measuring)], ((world.directory.lookup (codeOf x.1)).map fun y => y.1.val) = some x.1 ∧
          (world.circuits.data[x.1]?.map Circuit.state) = some x.2) ∧
    (world.circuit 4).inhibit = true ∧ ((world.circuit 1).fibre.isSome = true ∧ (world.circuit 1).fibre ≠ some 0) ∧
    ((world.circuit 63).fibre = none ∧ (world.slotOwner 1).isSome = true ∧ world.slotOwner 63 = none) ∧ (world.circuit 1).fibre = some 1 ∧
    ((world.circuit 5).fibre = some 5 ∧ ¬ (world.peer.qualified.getD 0 < world.node.node) ∧
      (world.setNode { world.node with node := 10 }).peer.qualified.getD 0 < (world.setNode { world.node with node := 10 }).node.node) ∧
    ((world.circuit 8).context.map Context.role) = some .acceptor ∧ (world.circuit 8).fibre = some 8 ∧
    ((world.circuit 9).context.map Context.role) = some .initiator ∧ (world.circuit 9).context.isSome = true := by
  refine ⟨fun s _ code slot number h => ⟨lawful_hear h _, rfl⟩, ⟨world_lawful, world_lawful.setPeer _, busyWorld_lawful⟩, ?_⟩
  decide +kernel

theorem witness_ReceivedAnswers :
    (∀ m l, Lawful (hear (linked world l) m) ∧ (hear (linked world l) m).peer.inbox = m :: []) ∧ (linked world .down).peer.state ≠ .up ∧
    (linked world .up).peer.state = .up ∧ world.directory.lookup ⟨4095, 255⟩ = none ∧
    (∀ x ∈ [(1, PathState.copper), (6, .proposing), (7, .proposing), (8, .awaiting), (9, .measuring)],
      ((world.directory.lookup (codeOf x.1)).map fun y => y.1.val) = some x.1 ∧ (world.circuits.data[x.1]?.map Circuit.state) = some x.2) ∧
    ((world.circuit 1).context = none ∧ (world.circuit 6).context = some begun ∧ begun.number ≠ 8 ∧ begun.backoff = none ∧
      (world.circuit 6).fibre = some 6 ∧ ((world.circuit 7).context.map fun x => (x.number, x.backoff)) = some (7, some due) ∧
      ((world.circuit 8).context.map Context.number) = some 7 ∧ ((world.circuit 9).context.map Context.number) = some 7) ∧
    DeclineReason.noFallback ≠ .busy :=
  ⟨fun _ _ => ⟨(world_lawful.setPeer _).setPeer _, rfl⟩, by decide, rfl, by decide +kernel, by decide +kernel, by decide +kernel, by decide⟩

theorem witness_ReceivedLater :
    (∀ m, Lawful (hear world m) ∧ (hear world m).peer.inbox = m :: [] ∧ (hear world m).peer.state = .up) ∧
    (∀ x ∈ [(1, PathState.copper), (6, .proposing), (20, .fibre), (21, .fibre), (23, .fibre), (24, .vacant), (25, .vacant), (26, .fibre)],
      ((world.directory.lookup (codeOf x.1)).map fun y => y.1.val) = some x.1 ∧ (world.circuits.data[x.1]?.map Circuit.state) = some x.2) ∧
    (let s := world.putCircuit 26 { world.circuit 26 with context := some { begun with hold := some ⟨0, false⟩ } }
     Lawful s ∧ (s.circuit 26).autoRelease = true ∧ ((s.circuit 26).context.bind Context.hold) = some ⟨0, false⟩) ∧
    ((world.circuit 26).context.isSome = true ∧ world.spanUpOf (world.circuit 26) = true ∧
      ((world.circuit 26).context.any fun x => x.peerSpliced) = false ∧ (world.circuit 6).migrating = true ∧ (world.circuit 1).context = none) ∧
    (world.spanUpOf (world.circuit 21) = false ∧ (world.circuit 24).draining = true ∧ (world.circuit 25).draining = false ∧
      (world.circuit 23).context = none) :=
  ⟨fun _ => ⟨lawful_hear world_lawful _, rfl, rfl⟩, by decide +kernel, ⟨lawful_of_check (by decide +kernel), by decide +kernel⟩,
    by decide +kernel, by decide +kernel⟩

theorem witness_CircuitTimers :
    Lawful world ∧ ((world.circuit 24).fibreTransmit = .draining due ∧ due.due = true) ∧
      (world.peer.response.get 8 = some due ∧ (world.circuit 8).state = .awaiting) ∧
      (world.peer.response.get 5 = some due ∧ (world.circuit 5).state = .proposing ∧ ((world.circuit 5).context.map Context.attempts) = some 0) ∧
      (world.peer.response.get 6 = some due ∧ (world.circuit 6).state = .proposing ∧ ((world.circuit 6).context.map Context.attempts) = some 3) ∧
      (((world.circuit 7).context.bind Context.backoff) = some due ∧ (world.circuit 7).state = .proposing ∧
        (world.circuit 7).code = some (codeOf 7) ∧ (world.circuit 7).fibre = some 7) ∧
      (((world.circuit 28).context.bind Context.backoff) = some due ∧ (world.circuit 28).state = .measuring) ∧
      ((world.circuit 9).state = .measuring ∧ ((world.circuit 9).context.map Context.bridgeLimit) = some due) ∧
      ((world.circuit 16).state = .aligned ∧ ((world.circuit 16).context.map fun x => (x.deferred, x.deferLimit)) = some (true, due)) ∧
      ((world.circuit 20).state = .fibre ∧ ((world.circuit 20).context.map fun x => (x.hold, x.peerSpliced)) = some (some due, true) ∧
        (world.circuit 20).autoRelease = true) := ⟨world_lawful, by decide +kernel⟩

/-! ### The Trunk Directory -/

theorem witness_TrunkEntries :
    (∀ x ∈ ([(.addTrunk .primary 1 ⟨0, 1⟩ 512 none, fun _ => true), (.addTrunk .primary 1 ⟨4096, 0⟩ 0 none, fun _ => true),
        (.addTrunk .primary 1 ⟨200, 1⟩ 511 none, fun s => (s.directory.findRange ⟨200, 1⟩).isSome),
        (.addTrunk .primary 1 (codeOf 1) 511 none, fun s => (s.directory.findTrunk (codeOf 1)).isSome),
        (.addTrunk .primary 1 ⟨4095, 255⟩ 1 none, fun s => (s.directory.lookup ⟨4095, 255⟩).isNone && (s.circuit 1).code.isSome),
        (.addTrunk .primary 1 ⟨4095, 255⟩ 511 (some true), fun s => (s.directory.lookup ⟨4095, 255⟩).isNone && (s.circuit 511).code.isNone &&
          ((s.directory.trunks.get (primaryBucket ⟨4095, 255⟩)).get 0).isNone),
        (.addTrunk .primary 1 ⟨228, 1⟩ 511 none, fun s => (s.directory.lookup ⟨228, 1⟩).isNone &&
          ((s.directory.trunks.get (primaryBucket ⟨228, 1⟩)).get 0).isSome && ((s.directory.trunks.get (primaryBucket ⟨228, 1⟩)).get 1).isNone),
        (.addTrunk .primary 1 ⟨1024, 0⟩ 511 none, fun s => decide (∀ w : Fin 4, ((s.directory.trunks.get 0).get w).isSome ∧
          ((s.directory.trunks.get 127).get w).isSome)),
        (.removeTrunk .primary 1 ⟨4096, 0⟩, fun _ => true), (.pin .primary 1 ⟨200, 0⟩, fun s => (s.directory.findRange ⟨200, 0⟩).isSome),
        (.unpin .primary 1 ⟨4095, 255⟩, fun s => (s.directory.lookup ⟨4095, 255⟩).isNone),
        (.removeTrunk .primary 1 (codeOf 5), fun s => (s.circuit 5).migrating && decide ((s.directory.trunks.get 65).get 0 = some ⟨codeOf 5, 5, false⟩)),
        (.removeTrunk .primary 1 (codeOf 20), fun s => (s.circuit 20).context.isSome),
        (.removeTrunk .primary 1 (codeOf 25), fun s => decide ((s.circuit 25).state = .vacant)),
        (.pin .primary 1 (codeOf 25), fun s => (s.directory.findTrunk (codeOf 25)).isSome),
        (.unpin .primary 1 (codeOf 1), fun s => decide ((s.directory.trunks.get 61).get 0 = some ⟨codeOf 1, 1, true⟩))] : Provisions),
      (∃ q rest, Takes (ask world x.1) .primary x.1 q rest) ∧ Lawful (ask world x.1) ∧ x.2 (ask world x.1) = true) ∧
    (∀ i ∈ [Instr.addTrunk .primary 1 ⟨4095, 255⟩ 511 none, .removeTrunk .primary 1 ⟨4095, 255⟩, .removeRange .primary 1 7, .purge .primary 1],
      (∃ q rest, Takes (ask busyWorld i) .primary i q rest) ∧ Lawful (ask busyWorld i) ∧ (ask busyWorld i).directory.busy = true) ∧
    (let s := world.setDirectory (world.directory.setTrunk 127 2 none |>.setTrunk 127 3 none)
     ∃ t, Lawful t ∧ t = (s.putCircuit 56 { s.circuit 56 with code := none }).putCircuit 57 { s.circuit 57 with code := none } ∧
       (∃ q rest, Takes (ask t (.addTrunk .primary 1 ⟨1024, 0⟩ 511 none)) .primary (.addTrunk .primary 1 ⟨1024, 0⟩ 511 none) q rest) ∧
       (∀ w : Fin 4, ((t.directory.trunks.get 0).get w).isSome = true) ∧ (t.directory.trunks.get 127).get 2 = none) := by
  refine ⟨takes_of_cases (by decide +kernel), fun i hi => ⟨takes_ask ?_, lawful_ask busyWorld_lawful _, ?_⟩,
    _, lawful_of_check (by decide +kernel), rfl, takes_ask (by decide +kernel), by decide +kernel⟩
  · revert i; decide +kernel
  · revert i; decide +kernel

/-- A check of a range that is running, at a bucket or complete. -/
def checking (next : Nat) (e : RangeEntry) (found : Option FoundTrunk) : State :=
  (world.setDirectory { world.directory with walk := .rangeCheck next true .primary 1 e found }).setPort .primary
    { world.links.primary with slot := some ⟨.pending, 1, 0x71⟩ }

theorem witness_RangeEntries :
    (∀ x ∈ ([(.addRange .primary 1 4096 0 1 0, fun _ => true), (.addRange .primary 1 0 0 1 512, fun _ => true),
        (.addRange .primary 1 0 0 256 257, fun _ => true), (.addRange .primary 1 0 0 3 0, fun _ => true),
        (.addRange .primary 1 0 32 64 0, fun _ => true), (.addRange .primary 1 200 0 256 256, fun s => (s.directory.ranges.get 0).isSome),
        (.addRange .primary 1 4095 0 256 256, fun _ => true), (.removeRange .primary 1 8, fun _ => true),
        (.removeRange .primary 1 7, fun s => (s.directory.ranges.get 7).isNone),
        (.removeRange .primary 1 0, fun s => (s.directory.ranges.get 0).isSome && !(s.circuit 40).migrating && !(s.circuit 41).migrating)] :
        Provisions), (∃ q rest, Takes (ask world x.1) .primary x.1 q rest) ∧ Lawful (ask world x.1) ∧ x.2 (ask world x.1) = true) ∧
    (let s := world.setDirectory { world.directory with ranges := .ofFn fun i => some ⟨300 + i.val, 0, 1, 300 + i.val⟩ }
     let i : Instr := .addRange .primary 1 4095 0 1 0
     (∃ q rest, Takes (ask s i) .primary i q rest) ∧ ∀ j, ((ask s i).directory.ranges.get j).isSome = true) ∧
    (let s := world.setCircuits (world.circuits.set 41 (evaluated world.spans world.lanes
       { inState { world.circuit 41 with fibre := some 41 } .proposing begun with code := some ⟨200, 1⟩ })) |>.setSlotOwner 41 (some 41)
     let i : Instr := .removeRange .primary 1 0
     (∃ q rest, Takes (ask s i) .primary i q rest) ∧ Lawful (ask s i) ∧ (s.circuit 41).migrating = true) ∧
    (∀ x ∈ [(0, (⟨100, 0, 64, 300⟩ : RangeEntry), (none : Option FoundTrunk)), (127, ⟨512, 0, 1, 300⟩, none), (62, ⟨100, 1, 1, 300⟩, some ⟨61, 0, codeOf 1⟩)],
      (checking x.1 x.2.1 x.2.2).directory.walk = .rangeCheck x.1 true .primary 1 x.2.1 x.2.2) ∧
    (∀ x ∈ [((⟨513, 0, 1, 1⟩ : RangeEntry), (none : Option FoundTrunk)), (⟨512, 32, 32, 64⟩, none), (⟨100, 1, 1, 300⟩, some ⟨61, 0, codeOf 1⟩)],
      Lawful (checking 128 x.1 x.2) ∧ (checking 128 x.1 x.2).directory.walk = .rangeCheck 128 true .primary 1 x.1 x.2 ∧
        ((checking 128 x.1 x.2).port .primary).slot = some ⟨.pending, 1, 0x71⟩) ∧
    ((world.circuit 1).code = some (codeOf 1) ∧ (world.circuit 64).code = none ∧ (world.circuit 95).code = none ∧
      world.directory.ranges.get 1 = none) := by
  refine ⟨takes_of_cases (by decide +kernel), ⟨takes_ask (by decide +kernel), by decide +kernel⟩,
    ⟨takes_ask (by decide +kernel), lawful_ask (lawful_of_check (by decide +kernel)) _, by decide +kernel⟩, fun _ _ => rfl,
    fun x hx => ⟨lawful_of_check ?_, rfl, rfl⟩, by decide +kernel⟩
  revert x; decide +kernel

theorem witness_Purge :
    (∃ q rest, Takes (ask world (.purge .primary 1)) .primary (.purge .primary 1) q rest) ∧ world.directory.busy = false ∧
    (∃ q rest, Takes (ask busyWorld (.purge .primary 1)) .primary (.purge .primary 1) q rest) ∧ busyWorld.directory.busy = true ∧
    (∀ b ∈ [(61 : Fin 128), 64, 65, 80, 127],
      Lawful (world.setDirectory { world.directory with walk := .purge b.val true .primary 1 0 }) ∧
      (world.setDirectory { world.directory with walk := .purge b.val true .primary 1 0 }).directory.walk = .purge b.val true .primary 1 0) ∧
    ((world.directory.trunks.get 64).get 0 = some ⟨codeOf 4, 4, false⟩ ∧ (world.circuit 4).migrating = false ∧ (world.circuit 4).state ≠ .fibre) ∧
    (let s := (world.setDirectory { world.directory with walk := .purge 128 false .primary 1 4 }).setPort .primary
       { world.links.primary with slot := some ⟨.pending, 1, 0x76⟩ }
     s.directory.walk = .purge 128 false .primary 1 4 ∧ (s.port .primary).slot = some ⟨.pending, 1, 0x76⟩) := by
  refine ⟨takes_ask (by decide +kernel), by decide +kernel, takes_ask (by decide +kernel), by decide +kernel,
    fun _ _ => ⟨world_lawful.purging _ _ _ _ _, rfl⟩, by decide +kernel⟩

/-! ### Batches and watches -/

theorem witness_OpenBatch :
    (∀ x ∈ ([(world, .craft, .openBatch .craft 1 8 0 1 [.number 1], fun _ => true),
        (world, .craft, .openBatch .craft 1 7 0 1 [.number 1, .number 512], fun _ => true),
        (world, .craft, .openBatch .craft 1 7 2 1 [.number 1], fun _ => true), (world, .craft, .openBatch .craft 1 7 0 1 [], fun _ => true),
        (world, .craft, .openBatch .craft 1 7 0 1 (List.replicate 65 (.number 1)), fun _ => true),
        (world, .craft, .openBatch .craft 1 0 0 1 [.number 1], fun s => (s.batch 0).isSome),
        (busyWorld, .craft, .openBatch .craft 1 7 0 1 [.number 1, .code (codeOf 1)], fun s => s.directory.busy),
        (world, .craft, .openBatch .craft 1 7 0 1 [.number 1, .code ⟨4095, 255⟩], fun s => (s.directory.lookup ⟨4095, 255⟩).isNone),
        (world, .craft, .openBatch .craft 1 7 0 1 [.number 1, .code (codeOf 1)], fun s => (s.directory.lookup (codeOf 1)).isSome),
        (world, .craft, .openBatch .craft 1 7 0 1 [.number 1, .number 5], fun s => decide ((s.circuit 5).state ≠ .copper)),
        (world, .craft, .openBatch .craft 1 7 0 1 [.number 1, .number 30], fun s => decide ((s.circuit 30).state = .copper ∧ (s.circuit 30).batch = some 0)),
        (world, .craft, .openBatch .craft 1 7 1 16 [.number 1, .number 29], fun s => decide ((s.circuit 29).state = .copper))] : Cases),
      (∃ q rest, Heads (ask x.1 x.2.2.1) x.2.1 x.2.2.1 q rest) ∧ x.2.2.2 (ask x.1 x.2.2.1) = true) ∧
    (∀ c, Lawful (ask world c)) ∧ (∀ c, Lawful (ask busyWorld c)) ∧ Examined world [.number 1] [1] ∧ Examined world [.number 1, .number 29] [1, 29] := by
  refine ⟨heads_of_cases (by decide +kernel), lawful_ask world_lawful, lawful_ask busyWorld_lawful, ⟨?_, by decide, ?_⟩,
    ⟨?_, by decide, ?_⟩⟩
  · exact .cons rfl .nil
  · decide +kernel
  · exact .cons rfl (.cons rfl .nil)
  · decide +kernel

theorem witness_BatchEnds :
    (∀ x ∈ ([(world, .craft, .cancelBatch .craft 1 8, fun _ => true), (world, .craft, .cancelBatch .craft 1 7, fun s => (s.batch 7).isNone),
        (world, .craft, .cancelBatch .craft 1 0, fun s => (s.batch 0).isSome)] : Cases),
      (∃ q rest, Heads (ask x.1 x.2.2.1) x.2.1 x.2.2.1 q rest) ∧ x.2.2.2 (ask x.1 x.2.2.1) = true) ∧
    BatchLaw world ∧ (world.circuit 31).batch = some 0 ∧ (world.circuit 30).batch = some 0 ∧
    ((world.batch 0).map Batch.members) = some [⟨31, .active, none⟩, ⟨30, .pending, none⟩] :=
  ⟨heads_of_cases (by decide +kernel), world_lawful.batches, by decide +kernel⟩

theorem witness_SetWatch :
    ∀ x ∈ ([(world, .craft, .setWatch .craft 1 2 ⟨none, none, none, none, none, none⟩, fun _ => true),
        (world, .craft, .setWatch .craft 1 1 ⟨none, some 512, none, none, none, none⟩, fun _ => true),
        (world, .craft, .setWatch .craft 1 1 ⟨none, none, none, none, none, none⟩, fun _ => true),
        (world, .craft, .setWatch .craft 1 0 ⟨none, none, some 3, none, none, none⟩, fun _ => true),
        (world, .craft, .setWatch .craft 1 0 ⟨none, none, none, none, some 2, none⟩, fun _ => true),
        (world, .craft, .setWatch .craft 1 0 ⟨none, none, none, none, none, some 2⟩, fun _ => true),
        (world, .craft, .setWatch .craft 1 1 ⟨none, none, none, none, none, some 0⟩, fun _ => true),
        (world, .craft, .setWatch .craft 1 0 ⟨some true, some 511, some 2, some 255, some 1, some 1⟩, fun _ => true),
        (world, .craft, .setWatch .craft 1 1 ⟨some true, some 0, some 0, none, none, none⟩, fun _ => true)] : Cases),
      (∃ q rest, Heads (ask x.1 x.2.2.1) x.2.1 x.2.2.1 q rest) ∧ x.2.2.2 (ask x.1 x.2.2.1) = true := heads_of_cases (by decide +kernel)

/-- A watch that an event hits, alone and jointly; queues with room and full. -/
theorem witness_EventsAndQueues :
    let w : Watch := { Watch.reset with enable := true, value := 121, classes := 0x60, action := .reportAndHold, hits := 255 }
    let s := world.setWatches ⟨w, w, true⟩
    s.watches.hits 121 .aligned = (true, true) ∧ (world.setWatches ⟨w, .reset, false⟩).watches.hits 121 .splice = (true, false) ∧
      (world.setWatches ⟨w, .reset, true⟩).watches.hits 121 .splice = (false, false) ∧ world.links.reports.length < 32 ∧
      ¬ (world.setLinks { world.links with reports := List.replicate 32 ⟨0, false, .span 0 .retired⟩ }).links.reports.length < 32 ∧
      world.lanes.queue.length < 128 ∧
      ¬ (world.setLanes { world.lanes with queue := List.replicate 128 (.hello 5 .twoWay) }).lanes.queue.length < 128 ∧
      BatchLaw world :=
  ⟨by decide +kernel, by decide +kernel, by decide +kernel, by decide +kernel, by decide +kernel, by decide +kernel, by decide +kernel,
    world_lawful.batches⟩

end Sys2Proof.Tests
end

section
/-! SUPPORT. The laws of the circuit table: its records, its occupancy entries and its conditioning. What they rest on, and the
relation `Keeps` between a state and a later one, which every command's proof is composed of (R5, R9, R17). -/

namespace Sys2Proof.Machine

variable {s t u : State}

/-! ### Entries and attachments that name each other (R9) -/

/-- An owner table and the holders' own fields name each other. -/
def Paired {P C : Type} (owner : P → Option C) (held : C → Option P) : Prop := ∀ p c, owner p = some c ↔ held c = some p

section
variable {P C : Type} [DecidableEq P] [DecidableEq C] {owner owner' : P → Option C} {held held' : C → Option P}

/-- A holder gives its position up. -/
theorem Paired.free (h : Paired owner held) (c : C) (ho : ∀ p, owner' p = if held c = some p then none else owner p)
    (hh : ∀ d, held' d = if d = c then none else held d) : Paired owner' held' := by
  intro p d
  rw [ho, hh]
  have hp := h p
  grind

/-- A holder without a position takes a free one. -/
theorem Paired.take (h : Paired owner held) {c : C} {q : P} (hc : held c = none) (hq : owner q = none)
    (ho : ∀ p, owner' p = if q = p then some c else owner p) (hh : ∀ d, held' d = if d = c then some q else held d) :
    Paired owner' held' := by
  intro p d
  rw [ho, hh]
  have hp := h p
  grind

/-- Two holders exchange their positions. -/
theorem Paired.swap (h : Paired owner held) {a b : C} (hab : a ≠ b)
    (ho : ∀ p, owner' p = if held b = some p then some a else if held a = some p then some b else owner p)
    (hh : ∀ d, held' d = if d = b then held a else if d = a then held b else held d) : Paired owner' held' := by
  intro p d
  rw [ho, hh]
  have hp := h p
  grind

end

theorem markCopper_owner (s : State) (p : Option CopperPosition) (c : Option CircuitNo) (q : CopperPosition) :
    (s.markCopper p c).timeslotOwner q = if p = some q then c else s.timeslotOwner q := by
  cases p with
  | none => simp [State.markCopper]
  | some p => simp [State.markCopper, setTimeslotOwner_owner]

theorem markFibre_owner (s : State) (m : Option SlotNo) (c : Option CircuitNo) (n : SlotNo) :
    (s.markFibre m c).slotOwner n = if m = some n then c else s.slotOwner n := by
  cases m with
  | none => simp [State.markFibre]
  | some m => simp [State.markFibre, State.setSlotOwner, State.slotOwner, Table.get_set]

/-- Marking one side of the occupancy leaves the other side and the records. -/
@[simp] theorem markCopper_slotOwner (s : State) (p : Option CopperPosition) (c : Option CircuitNo) (n : SlotNo) :
    (s.markCopper p c).slotOwner n = s.slotOwner n := by cases p <;> rfl
@[simp] theorem markCopper_circuit (s : State) (p : Option CopperPosition) (c : Option CircuitNo) (d : CircuitNo) :
    (s.markCopper p c).circuit d = s.circuit d := by cases p <;> rfl
@[simp] theorem markFibre_timeslotOwner (s : State) (m : Option SlotNo) (c : Option CircuitNo) (p : CopperPosition) :
    (s.markFibre m c).timeslotOwner p = s.timeslotOwner p := by cases m <;> rfl
@[simp] theorem markFibre_circuit (s : State) (m : Option SlotNo) (c : Option CircuitNo) (d : CircuitNo) :
    (s.markFibre m c).circuit d = s.circuit d := by cases m <;> rfl

/-! ### The laws, and what they rest on -/

/-- Every record keeps the laws of its state, and the records and the occupancy entries name each other: the laws of the circuit
table but for conditioning. -/
structure PlaceLaws (s : State) : Prop where
  routes : RouteLaw s
  occupancy : OccupancyLaw s

/-- The laws of the circuit table. -/
structure CircuitLaws (s : State) : Prop extends PlaceLaws s where
  conditioned : AllEvaluated s

theorem Lawful.circuitLaws (h : Lawful s) : CircuitLaws s := ⟨⟨h.routes, h.occupancy⟩, h.conditioned.allEvaluated⟩

/-- Conditioning that is evaluated is on exactly when something calls for it (R17). -/
theorem AllEvaluated.conditionedLaw (h : AllEvaluated s) : Conditioned s := fun c => by
  rw [← conditioned_iff, ← h c, evaluated_conditioning, conditioned_evaluated]

/-- Conditioning does not tell lawful records from others. -/
@[simp] theorem lawful_evaluated (spans : Table 16 Span) (lanes : LaneInterface) (r : Circuit) :
    (evaluated spans lanes r).lawful ↔ r.lawful := Iff.rfl

/-- R17: of the spans and the lanes conditioning rests on the spans' states and on whether a lane is UP alone. -/
theorem conditioned_congr {spans spans' : Table 16 Span} {lanes lanes' : LaneInterface}
    (hs : ∀ n, (spans'.get n).state = (spans.get n).state) (hl : lanes'.anyUp = lanes.anyUp) (r : Circuit) :
    conditioned spans' lanes' r = conditioned spans lanes r := by
  simp only [conditioned, hs, hl]

theorem AllEvaluated.congr (h : AllEvaluated s) (hc : t.circuits = s.circuits) (hs : ∀ n, (t.span n).state = (s.span n).state)
    (hl : t.lanes.anyUp = s.lanes.anyUp) : AllEvaluated t := fun c => by
  have hcc : t.circuit c = s.circuit c := by simp [State.circuit, hc]
  conv_rhs => rw [hcc, ← h c]
  rw [hcc, evaluated, evaluated, conditioned_congr hs hl]

/-- A change of records that keeps their attachments, of spans none of which retires. -/
theorem PlaceLaws.of_records (h : PlaceLaws s) (hr : RouteLaw t) (hc : ∀ c, (t.circuit c).copper = (s.circuit c).copper)
    (hf : ∀ c, (t.circuit c).fibre = (s.circuit c).fibre) (ht : t.timeslots = s.timeslots) (ho : t.slotOwners = s.slotOwners)
    (hs : ∀ n, (t.span n).state = .retired → (s.span n).state = .retired) : PlaceLaws t := by
  have htt : ∀ p, t.timeslotOwner p = s.timeslotOwner p := fun p => by simp [State.timeslotOwner, ht]
  have hoo : ∀ n, t.slotOwner n = s.slotOwner n := fun n => by simp [State.slotOwner, ho]
  exact ⟨hr, fun p c => by rw [htt, hc]; exact h.occupancy.timeslots p c, fun n c => by rw [hoo, hf]; exact h.occupancy.slots n c,
    fun n hn i => by rw [htt]; exact h.occupancy.retired n (hs n hn) i⟩

/-- The laws rest on the records, the occupancy entries, the states of the spans and whether a lane is UP. -/
theorem CircuitLaws.congr (h : CircuitLaws s) (hc : t.circuits = s.circuits) (ht : t.timeslots = s.timeslots)
    (ho : t.slotOwners = s.slotOwners) (hs : ∀ n, (t.span n).state = (s.span n).state) (hl : t.lanes.anyUp = s.lanes.anyUp) :
    CircuitLaws t := by
  have hcc : ∀ c, t.circuit c = s.circuit c := fun c => by simp [State.circuit, hc]
  exact ⟨h.toPlaceLaws.of_records (fun c => hcc c ▸ h.routes c) (fun c => by rw [hcc]) (fun c => by rw [hcc]) ht ho
    fun n hn => hs n ▸ hn, h.conditioned.congr hc hs hl⟩

/-- Evaluating every record's conditioning makes up for whatever it was (R17). -/
theorem PlaceLaws.evaluateAll (h : PlaceLaws s) : CircuitLaws s.evaluateAll :=
  ⟨h.of_records (fun c => by rw [State.evaluateAll_circuit]; exact h.routes c) (by simp) (by simp) rfl rfl fun _ => id, fun d => by
    rw [State.evaluateAll_circuit, evaluated_evaluated]
    rfl⟩

/-- Every span unit may change but for its state, and a span may retire that has no occupants. -/
theorem PlaceLaws.setSpan (h : PlaceLaws s) {n : SpanNo} {x : Span}
    (hx : x.state = .retired → (s.span n).state = .retired ∨ s.occupiedEntries n = 0) : PlaceLaws (s.setSpan n x) := by
  refine ⟨h.routes, h.occupancy.timeslots, h.occupancy.slots, fun m hm i => ?_⟩
  by_cases hn : n = m
  · subst hn
    rw [State.setSpan_span_eq] at hm
    rcases hx hm with hr | ho
    · exact h.occupancy.retired n hr i
    · exact (occupied_none s n).mp ho i
  · rw [State.setSpan_span_ne _ _ hn] at hm
    exact h.occupancy.retired m hm i

/-- One record written that keeps its attachments. -/
theorem PlaceLaws.putCircuit (h : PlaceLaws s) {c : CircuitNo} {r : Circuit} (hr : r.lawful) (hc : r.copper = (s.circuit c).copper)
    (hf : r.fibre = (s.circuit c).fibre) : PlaceLaws (s.putCircuit c r) := by
  refine h.of_records (fun d => ?_) (fun d => ?_) (fun d => ?_) rfl rfl fun _ => id
  all_goals rw [putCircuit_circuit]; split
  next e => subst e; exact hr
  · exact h.routes d
  next e => subst e; exact hc
  · rfl
  next e => subst e; exact hf
  · rfl

/-! ### A step that keeps the laws and the model's queue -/

/-- From `s` to `t` the model's queue stays, and the laws of the circuit table hold on. -/
structure Keeps (s t : State) : Prop where
  pending : t.pending = s.pending
  laws : CircuitLaws s → CircuitLaws t

theorem Keeps.refl (s : State) : Keeps s s := ⟨rfl, id⟩

theorem Keeps.trans (h : Keeps s t) (k : Keeps t u) : Keeps s u := ⟨k.pending.trans h.pending, k.laws ∘ h.laws⟩

/-- Any number of steps. -/
theorem Keeps.foldl {α : Type} {f : State → α → State} (h : ∀ s a, Keeps s (f s a)) :
    ∀ (xs : List α) (s : State), Keeps s (xs.foldl f s)
  | [], s => .refl s
  | x :: xs, s => (h s x).trans (Keeps.foldl h xs (f s x))

/-- The holdings that the laws of the circuit table rest on, and the model's queue. -/
def circuitLawBlocks : List Block := [.circuits, .occupancy, .spans, .laneRecords, .pending]

theorem SameBut.samePending {l : List Block} (h : SameBut l s t) (hp : Block.pending ∉ l) : t.pending = s.pending := h _ hp

theorem LaneInterface.anyUp_congr {l m : LaneInterface} (ha : m.a.state = l.a.state) (hb : m.b.state = l.b.state) : m.anyUp = l.anyUp := by
  simp [LaneInterface.anyUp, ha, hb]

/-- A step that changes none of the holdings that the laws rest on. -/
theorem Keeps.quiet {l : List Block} (h : SameBut l s t) (hl : ∀ b ∈ circuitLawBlocks, b ∉ l) : Keeps s t := by
  have hlanes : t.lanes.a = s.lanes.a ∧ t.lanes.b = s.lanes.b := h .laneRecords (hl _ (by decide))
  have hown := h.sameOwner (hl _ (by decide))
  exact ⟨h.samePending (hl _ (by decide)), fun k => k.congr (h.sameCircuits (hl _ (by decide))) hown.1 hown.2
    (fun n => by rw [h.sameSpan (hl _ (by decide))]) (LaneInterface.anyUp_congr (by rw [hlanes.1]) (by rw [hlanes.2]))⟩

/-- A step whose frame leaves the model's queue. -/
theorem Keeps.framed {l : List Block} (h : SameBut l s t) (hl : CircuitLaws s → CircuitLaws t)
    (hp : Block.pending ∉ l := by decide) : Keeps s t := ⟨h.samePending hp, hl⟩

theorem putCircuit_keeps {c : CircuitNo} {r : Circuit} (hr : CircuitLaws s → r.lawful) (hc : r.copper = (s.circuit c).copper)
    (hf : r.fibre = (s.circuit c).fibre) : Keeps s (s.putCircuit c r) :=
  .framed (putCircuit_frame s c r) fun h => ⟨h.toPlaceLaws.putCircuit (hr h) hc hf, putCircuit_evaluated c r h.conditioned⟩

/-- A span unit written that keeps its state. -/
theorem setSpan_keeps {n : SpanNo} {x : Span} (hx : x.state = (s.span n).state) : Keeps s (s.setSpan n x) :=
  .framed (setSpan_frame s n x) fun h => h.congr rfl rfl rfl (fun m => by
    by_cases hn : n = m
    · subst hn; rw [State.setSpan_span_eq, hx]
    · rw [State.setSpan_span_ne _ _ hn]) rfl

/-- A lane's record written that keeps its state. -/
theorem setLane_keeps {i : Lane} {x : LaneRecord} (hx : x.state = (s.lane i).state) : Keeps s (s.setLane i x) :=
  .framed (setLane_frame s i x) fun h => h.congr rfl rfl rfl (fun _ => rfl) (by
    cases i
    · exact LaneInterface.anyUp_congr hx rfl
    · exact LaneInterface.anyUp_congr rfl hx)

end Sys2Proof.Machine
end

section
/-! SUPPORT. Every turn of a circuit keeps the laws of the circuit table: the starts of migrations and batches, outcomes, releases,
splices, abandonments and reverts, and the tests and evaluations that lead to them. -/

namespace Sys2Proof.Machine

variable {s t u : State}

/-! ### What a lawful record holds, by its state -/

/-- In MEASURING and ALIGNED both attachments are held and both sides transmit. -/
theorem Circuit.lawful.bridged {r : Circuit} (h : r.lawful) (hb : r.bridgedState = true) :
    r.copper.isSome = true ∧ r.fibre.isSome = true ∧ r.copperTransmit = true ∧ r.fibreTransmit = .bridged := by
  unfold Circuit.bridgedState at hb
  unfold Circuit.lawful at h
  cases hs : r.state <;> simp_all

/-- In PROPOSING through ALIGNED both attachments are held and the copper side transmits. -/
theorem Circuit.lawful.migrating {r : Circuit} (h : r.lawful) (hm : r.migrating = true) :
    r.copper.isSome = true ∧ r.fibre.isSome = true ∧ r.copperTransmit = true := by
  unfold Circuit.migrating at hm
  unfold Circuit.lawful at h
  cases hs : r.state <;> simp_all

/-- In FIBRE the fibre side is attached and bridged. -/
theorem Circuit.lawful.inFibre {r : Circuit} (h : r.lawful) (hs : r.state = .fibre) :
    r.fibre.isSome = true ∧ r.fibreTransmit = .bridged := by
  simp only [Circuit.lawful, hs] at h
  exact ⟨h.1, h.2.1⟩

/-- A FIBRE circuit with a context keeps its copper side. -/
theorem Circuit.lawful.inKept {r : Circuit} (h : r.lawful) (hs : r.state = .fibre) {x : Context} (hx : r.context = some x) :
    r.copper.isSome = true ∧ r.copperTransmit = true := by
  simp only [Circuit.lawful, hs, hx] at h
  exact ⟨h.2.2.1, h.2.2.2.1⟩

/-- A record in COPPER has its copper side and transmits on it, and is neither bridged nor migrating. -/
theorem Circuit.lawful.inCopper {r : Circuit} (h : r.lawful) (hs : r.state = .copper) :
    r.copper.isSome = true ∧ r.copperTransmit = true ∧ r.fibreTransmit ≠ .bridged ∧ r.context = none ∧ r.buildOut = 0 := by
  simpa only [Circuit.lawful, hs] using h

/-- A VACANT record has no copper side and is not bridged. -/
theorem Circuit.lawful.inVacant {r : Circuit} (h : r.lawful) (hs : r.state = .vacant) :
    r.copper = none ∧ r.copperTransmit = false ∧ r.fibreTransmit ≠ .bridged ∧ r.context = none ∧ r.buildOut = 0 := by
  simpa only [Circuit.lawful, hs] using h

/-- Of a context the laws of a record name its role and its sub-status alone. -/
theorem Circuit.lawful.withContext {r : Circuit} (h : r.lawful) {x y : Context} (hx : r.context = some x) (hr : y.role = x.role)
    (hsub : y.sub = x.sub) : ({ r with context := some y } : Circuit).lawful := by
  unfold Circuit.lawful at h ⊢
  cases hs : r.state <;> simp_all

/-- In MEASURING any sub-status is lawful. -/
theorem Circuit.lawful.withSub {r : Circuit} (h : r.lawful) (hs : r.state = .measuring) {y : Context} (hy : y.sub.isSome = true) :
    ({ r with context := some y } : Circuit).lawful := by
  simp only [Circuit.lawful, hs] at h ⊢
  obtain ⟨hc, hf, hct, hft, -, hb⟩ := h
  exact ⟨hc, hf, hct, hft, ⟨y, rfl, hy⟩, hb⟩

/-- In FIBRE any build-out is lawful. -/
theorem Circuit.lawful.withBuildOut {r : Circuit} (h : r.lawful) (hs : r.state = .fibre) (b : Nat) :
    ({ r with buildOut := b } : Circuit).lawful := by
  simpa only [Circuit.lawful, hs] using h

/-- The record of an abandonment or a revert is lawful when the copper side is held and the drain has ended the bridge. -/
theorem Circuit.lawful_backToCopper {r : Circuit} {f : FibreTransmit} (hc : r.copper.isSome = true) (ht : r.copperTransmit = true)
    (hf : f ≠ .bridged) : (r.backToCopper f).lawful := ⟨hc, ht, hf, rfl, rfl⟩

theorem drainBridge_ne (f : FibreTransmit) : drainBridge f ≠ .bridged := by cases f <;> simp [drainBridge]

/-! ### Writes of a record that the laws do not rest on -/

/-- A context written with the role and the sub-status that it had. -/
theorem putContext_keeps {c : CircuitNo} {x y : Context} (hx : (s.circuit c).context = some x) (hr : y.role = x.role)
    (hsub : y.sub = x.sub) : Keeps s (s.putContext c y) :=
  putCircuit_keeps (fun h => (h.routes c).withContext hx hr hsub) rfl rfl

theorem putContext_state (s : State) (c : CircuitNo) (x : Context) : ((s.putContext c x).circuit c).state = (s.circuit c).state := by
  simp [State.putContext]

/-- A new sub-status of a circuit in MEASURING. -/
theorem putSub_keeps {c : CircuitNo} {y : Context} (hs : (s.circuit c).state = .measuring) (hy : y.sub.isSome = true) :
    Keeps s (s.putContext c y) :=
  putCircuit_keeps (fun h => (h.routes c).withSub hs hy) rfl rfl

theorem setCode_keeps (c : CircuitNo) (code : Option TrunkCode) : Keeps s (s.setCode c code) :=
  putCircuit_keeps (fun h => h.routes c) rfl rfl

/-! ### Quiet operations -/

theorem handReport_keeps (s : State) (b : ReportBody) : Keeps s (s.handReport b) := .quiet (handReport_frame s b) (by decide)
theorem queueMessage_keeps (s : State) (m : PeerMessage) : Keeps s (s.queueMessage m) := .quiet (queueMessage_frame s m) (by decide)
theorem sendFor_keeps (s : State) (c : CircuitNo) (m : TrunkCode → PeerMessage) : Keeps s (s.sendFor c m) :=
  .quiet (sendFor_frame s c m) (by decide)
theorem watchEvent_keeps (s : State) (c : CircuitNo) (cls : EventClass) (o : Option OutcomeCode) : Keeps s (s.watchEvent c cls o) :=
  .quiet (watchEvent_frame s c cls o) (by decide)
theorem stopResponse_keeps (s : State) (c : CircuitNo) : Keeps s (s.stopResponse c) := .quiet (stopResponse_frame s c) (by decide)
theorem startResponse_keeps (s : State) (c : CircuitNo) : Keeps s (s.startResponse c) := .quiet (startResponse_frame s c) (by decide)
theorem takeNumber_keeps (s : State) : Keeps s s.takeNumber := .quiet (takeNumber_frame s) (by decide)
theorem joinQueue_keeps (s : State) (c : CircuitNo) (k : SearchKind) : Keeps s (s.joinQueue c k) := .quiet (joinQueue_frame s c k) (by decide)
theorem releaseMatcher_keeps (s : State) (c : CircuitNo) : Keeps s (s.releaseMatcher c) := .quiet (releaseMatcher_frame s c) (by decide)
theorem setBatch_keeps (s : State) (i : Fin 8) (x : Option Batch) : Keeps s (s.setBatch i x) := .quiet (setBatch_frame s i x) (by decide)
theorem drawn_keeps (s : State) : Keeps s s.drawn := .quiet (drawn_frame s) (by decide)
theorem setUnit_keeps (s : State) (v : UnitNo) (x : Matcher) : Keeps s (s.setUnit v x) := .quiet (setUnit_frame s v x) (by decide)
theorem setPort_keeps (s : State) (p : Port) (x : PortRecord) : Keeps s (s.setPort p x) := .quiet (setPort_frame s p x) (by decide)
theorem spliceOffset_keeps (s : State) (d : Int) : Keeps s (s.spliceOffset d).1 := .quiet (spliceOffset_frame s d) (by decide)

/-! ### Starts and batches (R25, R159, R160, R162) -/

/-- R25: a migration starts from COPPER with a fibre attachment. -/
theorem startMigration_keeps {c : CircuitNo} (h : s.migrateRefusal c = none) : Keeps s (s.startMigration c) := by
  obtain ⟨⟨hst, hf⟩, -⟩ := startable_iff.mp (show s.startable c = true by rw [State.startable, h]; rfl)
  have hp : Keeps s.takeNumber (s.takeNumber.putCircuit c { s.circuit c with
      state := .proposing, buildOut := 0, context := some (newContext s.takeNumber.node .initiator s.peer.counter) }) := by
    refine putCircuit_keeps (fun k => ?_) rfl rfl
    obtain ⟨hc, hct, hft, -, -⟩ := (k.routes c).inCopper hst
    exact ⟨hc, Option.isSome_iff_ne_none.mpr hf, hct, hft, ⟨_, rfl, rfl, rfl⟩, rfl⟩
  exact (((takeNumber_keeps s).trans hp).trans (.quiet (sendPropose_frame _ c _) (by decide))).trans (watchEvent_keeps _ c _ _)

/-- A membership written or cleared. -/
theorem putBatch_keeps (s : State) (c : CircuitNo) (f : Option (Fin 8)) : Keeps s (s.putCircuit c { s.circuit c with batch := f }) :=
  putCircuit_keeps (fun h => h.routes c) rfl rfl

/-- The memberships of a list of members written or cleared. -/
theorem putBatches_keeps (l : List Member) (f : Option (Fin 8)) (s : State) :
    Keeps s (l.foldl (fun s m => s.putCircuit m.circuit { s.circuit m.circuit with batch := f }) s) :=
  .foldl (fun s m => putBatch_keeps s m.circuit f) l s

theorem closeBatch_keeps (s : State) (id : Fin 8) (cause : BatchCause) : Keeps s (s.closeBatch id cause) := by
  unfold State.closeBatch
  split
  · exact ((handReport_keeps s _).trans (putBatches_keeps _ none _)).trans (setBatch_keeps _ id none)
  · exact .refl s

theorem startMember_keeps (id : Fin 8) (p : StartProgress) (i : Nat) : Keeps p.state (startMember id p i).state := by
  unfold startMember
  split
  · split
    · split
      · split
        next h => exact (startMigration_keeps h).trans (setBatch_keeps _ id _)
        next => exact setBatch_keeps _ id _
      · exact .refl _
    · exact .refl _
  · exact .refl _

theorem startMembers_keeps (id : Fin 8) : ∀ (l : List Nat) (p : StartProgress), Keeps p.state (l.foldl (startMember id) p).state
  | [], _ => .refl _
  | i :: l, p => (startMember_keeps id p i).trans (startMembers_keeps id l (startMember id p i))

theorem startStep_keeps (s : State) (id : Fin 8) : Keeps s (s.startStep id).state := by
  unfold State.startStep
  split
  · simp only
    split
    · split
      · exact (startMembers_keeps id _ ⟨s, 0, 0⟩).trans (closeBatch_keeps _ id _)
      · exact startMembers_keeps id _ ⟨s, 0, 0⟩
    · exact startMembers_keeps id _ ⟨s, 0, 0⟩
  · exact .refl s

theorem openBatch_keeps (s : State) (id : Fin 8) (b : Batch) : Keeps s (s.openBatch id b).state :=
  ((setBatch_keeps s id _).trans (putBatches_keeps _ _ _)).trans (startStep_keeps _ id)

theorem batchOutcome_keeps (s : State) (c : CircuitNo) (o : OutcomeRecord) : Keeps s (s.batchOutcome c o) := by
  unfold State.batchOutcome
  repeat' split
  · exact (setBatch_keeps s _ _).trans (startStep_keeps _ _)
  all_goals exact .refl s

/-! ### Outcomes (R19) -/

theorem handOutcome_keeps (s : State) (c : CircuitNo) (o : OutcomeRecord) : Keeps s (s.handOutcome c o) := by
  have hb : ∀ s : State, Keeps s (s.batchOutcome c o) := fun s => batchOutcome_keeps s c o
  have hw : ∀ s : State, Keeps s (s.watchOutcome c o.code) := fun s => .quiet (watchOutcome_frame s c o.code) (by decide)
  have hr : ∀ s : State, Keeps s (s.reportOutcome c o) := fun s => .quiet (reportOutcome_frame s c o) (by decide)
  unfold State.handOutcome
  split
  · exact ((hb _).trans (hw _)).trans (hr _)
  · simp only
    refine (drawn_keeps s).trans ?_
    split
    · exact ((hb _).trans (hw _)).trans (hr _)
    · exact ((hb _).trans (hr _)).trans (hw _)
    · exact ((hw _).trans (hb _)).trans (hr _)
    · exact ((hw _).trans (hr _)).trans (hb _)
    · exact ((hr _).trans (hb _)).trans (hw _)
    · exact ((hr _).trans (hw _)).trans (hb _)

theorem writeOutcome_keeps (s : State) (c : CircuitNo) (o : OutcomeRecord) : Keeps s (s.writeOutcome c o) := by
  have hp : Keeps s (s.putCircuit c { s.circuit c with outcome := some o, changed := true }) :=
    putCircuit_keeps (fun h => h.routes c) rfl rfl
  exact hp.trans (handOutcome_keeps _ c o)

/-! ### Release and collapse (R46, R48, R91) -/

/-- R90: a span without occupants retires. -/
theorem retireSpan_keeps {n : SpanNo} (h : s.occupiedEntries n = 0) : Keeps s (s.retireSpan n) :=
  .framed (retireSpan_frame s n) fun k => (handReport_keeps _ _).laws (k.toPlaceLaws.setSpan fun _ => .inr h).evaluateAll

theorem autoRetire_keeps (s : State) (n : SpanNo) : Keeps s (s.autoRetire n) := by
  unfold State.autoRetire
  split
  next h => exact retireSpan_keeps h.2.1
  next => exact .refl s

/-! ### A record and its occupancy entries written in one step (R9) -/

section
variable (s : State) (c : CircuitNo) (r : Circuit) (p : Option CopperPosition) (n : Option SlotNo) (x y : Option CircuitNo)

theorem rewrite_frame : SameBut [.circuits, .occupancy] s (((s.markCopper p x).markFibre n y).putCircuit c r) :=
  (((markCopper_frame s p x).mono (by decide)).trans ((markFibre_frame _ n y).mono (by decide))).trans
    ((putCircuit_frame _ c r).mono (by decide))

theorem rewrite_becomes : Becomes c r s (((s.markCopper p x).markFibre n y).putCircuit c r) := by
  obtain ⟨hc, hd⟩ := putCircuit_becomes ((s.markCopper p x).markFibre n y) c r
  exact ⟨hc, fun d h => (hd d h).trans (by simp)⟩

theorem rewrite_timeslotOwner (q : CopperPosition) : (((s.markCopper p x).markFibre n y).putCircuit c r).timeslotOwner q =
    if p = some q then x else s.timeslotOwner q := by
  rw [← markCopper_owner]; exact markFibre_timeslotOwner _ n y q

theorem rewrite_slotOwner (m : SlotNo) : (((s.markCopper p x).markFibre n y).putCircuit c r).slotOwner m =
    if n = some m then y else s.slotOwner m := by
  rw [← markCopper_slotOwner s p x, ← markFibre_owner]; rfl

end

theorem rewrite_keeps {c : CircuitNo} {r : Circuit} {p : Option CopperPosition} {n : Option SlotNo} {x y : Option CircuitNo}
    (hr : CircuitLaws s → r.lawful)
    (hcop : CircuitLaws s → Paired (fun q => if p = some q then x else s.timeslotOwner q)
      fun d => if d = c then r.copper else (s.circuit d).copper)
    (hfib : CircuitLaws s → Paired (fun m => if n = some m then y else s.slotOwner m)
      fun d => if d = c then r.fibre else (s.circuit d).fibre)
    (hret : ∀ q, p = some q → x = none ∨ (s.span q.span).state ≠ .retired) :
    Keeps s (((s.markCopper p x).markFibre n y).putCircuit c r) := by
  have hto := rewrite_timeslotOwner s c r p n x y
  have hso := rewrite_slotOwner s c r p n x y
  have hframe := rewrite_frame s c r p n x y
  obtain ⟨hc, hd⟩ := rewrite_becomes s c r p n x y
  obtain ⟨t, ht⟩ : ∃ t, t = ((s.markCopper p x).markFibre n y).putCircuit c r := ⟨_, rfl⟩
  rw [← ht] at hto hso hframe hc hd ⊢
  have hcirc : ∀ d, t.circuit d = if d = c then evaluated s.spans s.lanes r else s.circuit d := fun d => by
    split
    next e => rw [e, hc, hframe.evaluated_eq (by decide) (by decide)]
    next e => exact hd d (by simpa using e)
  refine .framed hframe fun h => ⟨⟨fun d => ?_, fun q d => ?_, fun m d => ?_, fun m hm i => ?_⟩, fun d => ?_⟩
  · rw [hcirc]; split
    · exact hr h
    · exact h.routes d
  · have := hcop h q d
    rw [hto, hcirc]; grind [evaluated]
  · have := hfib h m d
    rw [hso, hcirc]; grind [evaluated]
  · rw [hframe.sameSpan (by decide)] at hm
    rw [hto]
    split
    next e => exact (hret _ e).resolve_right fun hx => hx hm
    next => exact h.occupancy.retired m hm i
  · have := h.conditioned d
    rw [hframe.evaluated_eq (by decide) (by decide), hcirc]; split <;> simp_all

/-- R9: a circuit gives its copper side up: the attachment and the occupancy entry go in one step. -/
theorem freeCopper_keeps {c : CircuitNo} {r : Circuit} (hr : CircuitLaws s → r.lawful) (hc : r.copper = none)
    (hf : r.fibre = (s.circuit c).fibre) : Keeps s ((s.markCopper (s.circuit c).copper none).putCircuit c r) :=
  rewrite_keeps (n := none) (y := none) hr
    (fun h => Paired.free h.occupancy.timeslots c (fun _ => rfl) fun d => by rw [hc])
    (fun h m d => by have := h.occupancy.slots m d; grind)
    fun _ _ => .inl rfl

/-- R46: the release of a fallback. -/
theorem releaseFallback_keeps {c : CircuitNo} (hst : (s.circuit c).state = .fibre) (reason : Reason) :
    Keeps s (s.releaseFallback c reason) := by
  have hfree : Keeps s ((s.markCopper (s.circuit c).copper none).putCircuit c
      { s.circuit c with copper := none, copperTransmit := false, context := none }) := by
    refine freeCopper_keeps (fun h => ?_) rfl rfl
    obtain ⟨hf, hft⟩ := (h.routes c).inFibre hst
    simp only [Circuit.lawful, hst]
    exact ⟨hf, hft, trivial, trivial⟩
  have hsend : ∀ t : State, Keeps t (if reason = .peerReleased then t else t.sendFor c .release) := fun t => by
    split
    · exact .refl t
    · exact sendFor_keeps t c _
  unfold State.releaseFallback
  simp only
  split
  · exact ((hfree.trans (writeOutcome_keeps _ c _)).trans (hsend _)).trans (autoRetire_keeps _ _)
  · exact (hfree.trans (writeOutcome_keeps _ c _)).trans (hsend _)

/-- R45: a circuit that passes the release test is in FIBRE. -/
theorem releaseDue_fibre {r : Circuit} (h : r.releaseDue = true) : r.state = .fibre := by
  unfold Circuit.releaseDue at h
  split at h
  next hs _ => exact hs
  next => cases h

theorem releaseTest_keeps (s : State) (c : CircuitNo) : Keeps s (s.releaseTest c) := by
  unfold State.releaseTest
  split
  next h => exact releaseFallback_keeps (releaseDue_fibre h) _
  next => exact .refl s

theorem collapseTest_keeps (s : State) (c : CircuitNo) : Keeps s (s.collapseTest c) := by
  unfold State.collapseTest
  simp only
  split
  next h =>
    have hp : Keeps s (s.putCircuit c { s.circuit c with buildOut := 0 }) :=
      putCircuit_keeps (fun k => (k.routes c).withBuildOut h.1 0) rfl rfl
    exact hp.trans (writeOutcome_keeps _ c _)
  next => exact .refl s

/-! ### Splices (R40) -/

/-- R40: the splice of a bridged circuit. -/
theorem splice_keeps {c : CircuitNo} (hb : (s.circuit c).bridgedState = true) (code : OutcomeCode) (b : Nat) (d : Option Int)
    (j : Option SampleOffset) : Keeps s (s.splice c code b d j) := by
  unfold State.splice
  simp only
  split
  next x hx =>
    have hp : Keeps (s.releaseMatcher c) ((s.releaseMatcher c).putCircuit c
        { s.circuit c with state := .fibre, buildOut := b, context := some (x.spliced (s.circuit c).holdSeconds) }) := by
      refine putCircuit_keeps (fun k => ?_) rfl rfl
      obtain ⟨hc, hf, hct, hft⟩ := (k.routes c).bridged hb
      exact ⟨hf, hft, hc, hct, rfl⟩
    exact (((((releaseMatcher_keeps s c).trans hp).trans (sendFor_keeps _ c _)).trans (writeOutcome_keeps _ c _)).trans
      (releaseTest_keeps _ c)).trans (collapseTest_keeps _ c)
  next => exact .refl s

theorem spliceAligned_keeps {c : CircuitNo} (hb : (s.circuit c).bridgedState = true) (code : OutcomeCode) :
    Keeps s (s.spliceAligned c code) := by
  unfold State.spliceAligned
  split
  next d _ =>
    have hc := (spliceOffset_frame s d).sameCircuit (by decide) c
    exact (spliceOffset_keeps s d).trans (splice_keeps (hc ▸ hb) _ _ _ _)
  next => exact splice_keeps hb _ _ _ _

/-! ### Abandonment and revert (R42, R49) -/

/-- R42: the abandonment of a migration. -/
theorem abandon_keeps {c : CircuitNo} (hm : (s.circuit c).migrating = true) (reason : Reason) (decline : Option DeclineReason) :
    Keeps s (s.abandon c reason decline) := by
  have hp : Keeps ((s.stopResponse c).releaseMatcher c) (((s.stopResponse c).releaseMatcher c).putCircuit c
      ((s.circuit c).backToCopper (drainBridge (s.circuit c).fibreTransmit))) := by
    refine putCircuit_keeps (fun k => ?_) rfl rfl
    obtain ⟨hc, -, hct⟩ := (k.routes c).migrating hm
    exact Circuit.lawful_backToCopper hc hct (drainBridge_ne _)
  have hw := fun o => (((stopResponse_keeps s c).trans (releaseMatcher_keeps _ c)).trans hp).trans (writeOutcome_keeps _ c o)
  unfold State.abandon
  simp only
  split
  · exact (hw _).trans (sendFor_keeps _ c _)
  · exact hw _

theorem consumeAttempt_keeps {c : CircuitNo} (hm : (s.circuit c).migrating = true) (reason : Reason) {goOn : State → State}
    (hg : ∀ x, (s.circuit c).context = some x → Keeps (s.putContext c { x with attempts := x.attempts - 1 })
      (goOn (s.putContext c { x with attempts := x.attempts - 1 }))) : Keeps s (s.consumeAttempt c reason goOn) := by
  unfold State.consumeAttempt
  split
  next x hx =>
    split
    · exact abandon_keeps hm _ _
    · refine .trans (putContext_keeps hx ?_ ?_) (hg x hx) <;> rfl
  next => exact .refl s

/-- A FIBRE-KEPT circuit is in FIBRE with a context. -/
theorem Circuit.kept_iff {r : Circuit} : r.kept = true ↔ r.state = .fibre ∧ ∃ x, r.context = some x := by
  simp [Circuit.kept, Option.isSome_iff_exists]

theorem revertCircuit_keeps {c : CircuitNo} (hk : (s.circuit c).kept = true) (reason : Reason) : Keeps s (s.revertCircuit c reason) := by
  obtain ⟨hst, x, hx⟩ := Circuit.kept_iff.mp hk
  have hf := revertOffset_frame s (s.circuit c)
  have hc := hf.sameCircuit (by decide) c
  have hp : Keeps (s.revertOffset (s.circuit c)).1 ((s.revertOffset (s.circuit c)).1.putCircuit c
      ((s.circuit c).backToCopper (.draining (.load Config.drainFrames)))) := by
    refine putCircuit_keeps (fun k => ?_) (by rw [hc]; rfl) (by rw [hc]; rfl)
    obtain ⟨hcop, hct⟩ := (hc ▸ k.routes c : (s.circuit c).lawful).inKept hst hx
    exact Circuit.lawful_backToCopper hcop hct (by simp)
  have hw := fun o => ((Keeps.quiet hf (by decide)).trans hp).trans (writeOutcome_keeps _ c o)
  unfold State.revertCircuit
  simp only
  split
  · exact (hw _).trans (sendFor_keeps _ c _)
  · exact hw _

/-! ### Measuring (R32, R33) -/

/-- R32: an entry to MEASURING of a circuit that is bridged with both attachments. -/
theorem enterMeasuring_keeps {c : CircuitNo} (sub : SubStatus)
    (h : CircuitLaws s → (s.circuit c).copper.isSome = true ∧ (s.circuit c).fibre.isSome = true ∧
      (s.circuit c).copperTransmit = true ∧ (s.circuit c).fibreTransmit = .bridged) : Keeps s (s.enterMeasuring c sub) := by
  unfold State.enterMeasuring
  split
  next x hx =>
    refine putCircuit_keeps (fun k => ?_) rfl rfl
    obtain ⟨hc, hf, hct, hft⟩ := h k
    exact ⟨hc, hf, hct, hft, ⟨_, rfl, rfl⟩, rfl⟩
  next => exact .refl s

theorem bridgedState_measuring {r : Circuit} (h : r.state = .measuring) : r.bridgedState = true := by simp [Circuit.bridgedState, h]
theorem bridgedState_aligned {r : Circuit} (h : r.state = .aligned) : r.bridgedState = true := by simp [Circuit.bridgedState, h]
theorem migrating_of_bridgedState {r : Circuit} (h : r.bridgedState = true) : r.migrating = true := by
  unfold Circuit.bridgedState at h
  unfold Circuit.migrating
  cases hs : r.state <;> simp_all

theorem queueForMatch_keeps {c : CircuitNo} (hs : (s.circuit c).state = .measuring) (x : Context) : Keeps s (s.queueForMatch c x) :=
  (putSub_keeps hs rfl).trans (joinQueue_keeps _ c _)

theorem bridgeWaitTest_keeps (s : State) (c : CircuitNo) : Keeps s (s.bridgeWaitTest c) := by
  unfold State.bridgeWaitTest
  split
  next x hs hx =>
    have hb := bridgedState_measuring hs
    repeat' split
    · exact splice_keeps hb _ _ _ _
    · exact splice_keeps hb _ _ _ _
    · exact queueForMatch_keeps hs x
    all_goals exact .refl s
  next => exact .refl s

theorem enterBridgeWait_keeps {c : CircuitNo}
    (h : CircuitLaws s → (s.circuit c).copper.isSome = true ∧ (s.circuit c).fibre.isSome = true ∧
      (s.circuit c).copperTransmit = true ∧ (s.circuit c).fibreTransmit = .bridged) : Keeps s (s.enterBridgeWait c) :=
  (enterMeasuring_keeps _ h).trans (bridgeWaitTest_keeps _ c)

theorem requeueFull_keeps {c : CircuitNo} (hs : (s.circuit c).state = .aligned) : Keeps s (s.requeueFull c) := by
  unfold State.requeueFull
  split
  next x hx =>
    have hp : Keeps s (s.putContext c { x with delta := none }) := putContext_keeps hx rfl rfl
    refine (hp.trans (enterMeasuring_keeps _ fun k => ?_)).trans (joinQueue_keeps _ c _)
    exact (k.routes c).bridged (bridgedState_aligned (by rw [putContext_state, hs]))
  next => exact .refl s

/-! ### Aligned (R35 to R37) -/

theorem alignedEvaluation_keeps {c : CircuitNo} (hs : (s.circuit c).state = .aligned) : Keeps s (s.alignedEvaluation c) := by
  unfold State.alignedEvaluation
  split
  next x hx =>
    split
    · exact putContext_keeps hx rfl rfl
    · split
      · have hp : Keeps s (s.putContext c { x with deferred := true, target := none }) := putContext_keeps hx rfl rfl
        have ha : ((s.putContext c { x with deferred := true, target := none }).circuit c).state = .aligned := by
          rw [putContext_state, hs]
        simp only
        split
        · exact hp.trans (abandon_keeps (migrating_of_bridgedState (bridgedState_aligned ha)) _ _)
        · exact hp
      · exact putContext_keeps hx rfl rfl
  next => exact .refl s

/-- R35: an entry to ALIGNED from MEASURING. -/
theorem enterAligned_keeps {c : CircuitNo} (hs : (s.circuit c).state = .measuring) (d : Int) : Keeps s (s.enterAligned c d) := by
  unfold State.enterAligned
  split
  next x hx =>
    have hp : ∀ y : Context, y.sub = none → Keeps s (s.putCircuit c
        { s.circuit c with state := .aligned, buildOut := buildOutOf d, context := some y }) := fun y hy =>
      putCircuit_keeps (fun k => by
        obtain ⟨hc, hf, hct, hft⟩ := (k.routes c).bridged (bridgedState_measuring hs)
        exact ⟨hc, hf, hct, hft, ⟨y, rfl, hy⟩⟩) rfl rfl
    refine ((hp _ ?_).trans (watchEvent_keeps _ c _ _)).trans (alignedEvaluation_keeps ?_)
    · rfl
    · rw [(watchEvent_frame _ c _ _).sameCircuit (by decide), State.putCircuit_circuit_eq]
      rfl
  next => exact .refl s

theorem takeSlippedDelta_keeps {c : CircuitNo} (hs : (s.circuit c).state = .aligned) (d : Int) : Keeps s (s.takeSlippedDelta c d) := by
  unfold State.takeSlippedDelta
  split
  next x _ hx _ =>
    split
    · have hp : Keeps s (s.putCircuit c
          { s.circuit c with buildOut := buildOutOf d, context := some { x with delta := some d } }) :=
        putCircuit_keeps (fun k => by
          have hl := (k.routes c).withContext hx (y := { x with delta := some d }) rfl rfl
          simpa only [Circuit.lawful, hs] using hl) rfl rfl
      exact hp.trans (alignedEvaluation_keeps (by rw [State.putCircuit_circuit_eq]; exact hs))
    · have hp : Keeps s (s.putContext c { x with delta := keepDelta d }) := putContext_keeps hx rfl rfl
      have ha : ((s.putContext c { x with delta := keepDelta d }).circuit c).state = .aligned := by rw [putContext_state, hs]
      exact hp.trans (consumeAttempt_keeps (migrating_of_bridgedState (bridgedState_aligned ha)) _ fun y _ =>
        requeueFull_keeps (by rw [putContext_state, ha]))
  next => exact .refl s

/-! ### The idle and busy result (R16) -/

theorem becameIdle_keeps (s : State) (c : CircuitNo) : Keeps s (s.becameIdle c) := by
  unfold State.becameIdle
  split
  · exact bridgeWaitTest_keeps s c
  next x hs hx =>
    have hb := bridgedState_aligned hs
    split
    · split
      · exact spliceAligned_keeps hb _
      · exact enterBridgeWait_keeps fun k => (k.routes c).bridged hb
    · exact .refl s
  · exact collapseTest_keeps s c
  · exact .refl s

theorem becameBusy_keeps (s : State) (c : CircuitNo) : Keeps s (s.becameBusy c) := by
  unfold State.becameBusy
  split
  next h => exact alignedEvaluation_keeps h
  next => exact .refl s

theorem inputChanged_keeps (s : State) (c : CircuitNo) (wasBusy : Bool) : Keeps s (s.inputChanged c wasBusy) := by
  have line : Keeps s (if lineWatched (s.circuit c).state then s.watchEvent c .line none else s) := by
    split
    · exact watchEvent_keeps s c _ _
    · exact .refl s
  have result : ∀ t, Keeps t (if wasBusy ∧ t.busy c = false then t.becameIdle c
      else if wasBusy = false ∧ t.busy c = true then t.becameBusy c else t) := fun t => by
    split
    · exact becameIdle_keeps t c
    · split
      · exact becameBusy_keeps t c
      · exact .refl t
  exact line.trans (result _)

/-! ### Mass events (R44, R52, R53) -/

theorem spanLostFor_keeps (handed : DelayRecord) (s : State) (c : CircuitNo) : Keeps s (State.spanLostFor handed s c) := by
  unfold State.spanLostFor
  split
  next x hx =>
    split
    · exact .refl s
    next hb =>
      have hb : (s.circuit c).bridgedState = true := by simpa using hb
      split
      · exact splice_keeps hb _ _ _ _
      · split
        next hsub =>
          refine (releaseMatcher_keeps s c).trans (putCircuit_keeps (fun k => ?_) rfl rfl)
          have hl : (s.circuit c).lawful := k.routes c
          cases hs : (s.circuit c).state <;> simp_all [Circuit.bridgedState]
          · exact hl.withSub hs rfl
          · simp [Circuit.lawful, hs, hx] at hl
            simp [hl] at hsub
        next => exact .refl s
  next => exact .refl s

theorem fibreLostFor_keeps (s : State) (c : CircuitNo) : Keeps s (s.fibreLostFor c) := by
  unfold State.fibreLostFor
  split
  next h => exact abandon_keeps h _ _
  next =>
    split
    next h => exact revertCircuit_keeps h.1 _
    next => exact .refl s

theorem abandonAll_keeps (s : State) : Keeps s s.abandonAll := by
  refine .foldl (fun t c => ?_) _ _
  unfold State.linkLostFor
  split
  next h => exact abandon_keeps h _ _
  next => exact .refl t

end Sys2Proof.Machine
end

section
/-! SUPPORT. Every event row of the part keeps the laws of the circuit table and the model's queue. -/

namespace Sys2Proof.Machine

variable {s t u : State}

/-! ### Rows -/

/-- A meaning answers a next state of which `P` holds. -/
def Answers (P : State → Prop) (a : Answer) : Prop := ∃ t, a = .next t ∧ P t

theorem answers_next {P : State → Prop} (h : P t) : Answers P (.next t) := ⟨t, rfl, h⟩

theorem answers_of_eq {P : State → Prop} {a : Answer} (h : Answers P a) (e : a = .next t) : P t := by
  obtain ⟨u, hu, hp⟩ := h
  rw [hu] at e
  cases e
  exact hp

/-- A step that leaves the records, the occupancy entries, the spans' states and whether a lane is UP. -/
theorem Keeps.congr (hp : t.pending = s.pending) (hc : t.circuits = s.circuits) (ht : t.timeslots = s.timeslots)
    (ho : t.slotOwners = s.slotOwners) (hs : ∀ n, (t.span n).state = (s.span n).state) (hl : t.lanes.anyUp = s.lanes.anyUp) :
    Keeps s t := ⟨hp, fun h => h.congr hc ht ho hs hl⟩

/-- A change of records that no law rests on but for their contexts and drains: each stays lawful, with its attachments and its
conditioning. -/
theorem Keeps.ofRecords (hp : t.pending = s.pending) (hr : ∀ c, (s.circuit c).lawful → (t.circuit c).lawful)
    (hcop : ∀ c, (t.circuit c).copper = (s.circuit c).copper) (hfib : ∀ c, (t.circuit c).fibre = (s.circuit c).fibre)
    (hst : ∀ c, (t.circuit c).state = (s.circuit c).state) (hcond : ∀ c, (t.circuit c).conditioning = (s.circuit c).conditioning)
    (ht : t.timeslots = s.timeslots) (ho : t.slotOwners = s.slotOwners) (hs : ∀ n, (t.span n).state = (s.span n).state)
    (hl : t.lanes.anyUp = s.lanes.anyUp) : Keeps s t := by
  refine ⟨hp, fun h => ⟨h.toPlaceLaws.of_records (fun c => hr c (h.routes c)) hcop hfib ht ho fun n hn => hs n ▸ hn, fun c => ?_⟩⟩
  have e : Sys2Proof.Machine.conditioned t.spans t.lanes (t.circuit c) =
      Sys2Proof.Machine.conditioned s.spans s.lanes (s.circuit c) := by
    rw [conditioned_congr hs hl]
    simp only [Sys2Proof.Machine.conditioned, hst, hcop]
  have hk : Sys2Proof.Machine.conditioned s.spans s.lanes (s.circuit c) = (s.circuit c).conditioning :=
    congrArg Circuit.conditioning (h.conditioned c)
  unfold evaluated
  rw [e, hk, ← hcond c]

theorem PlaceLaws.of_frame {l : List Block} (h : PlaceLaws s) (hf : SameBut l s t) (hc : Block.circuits ∉ l) (ho : Block.occupancy ∉ l)
    (hs : Block.spans ∉ l) : PlaceLaws t := by
  have hcc := hf.sameCircuit hc
  exact h.of_records (fun c => hcc c ▸ h.routes c) (fun c => by rw [hcc]) (fun c => by rw [hcc]) (hf.sameOwner ho).1 (hf.sameOwner ho).2
    fun n hn => hf.sameSpan hs n ▸ hn

/-! ### Reset and start-up (R174, R175) -/

/-- Every block stands at its reset values. -/
def IsReset (t : State) : Prop :=
  ∃ cause primary craft signal lightA lightB pending freeCount,
    t = .resetWith cause primary craft signal lightA lightB pending freeCount

section
variable (h : IsReset t)
include h

theorem IsReset.circuit (c : CircuitNo) : t.circuit c = .reset := by
  obtain ⟨_, _, _, _, _, _, _, _, rfl⟩ := h; exact Table.get_fill _ c

theorem IsReset.timeslotOwner (p : CopperPosition) : t.timeslotOwner p = none := by
  obtain ⟨_, _, _, _, _, _, _, _, rfl⟩ := h; simp [State.timeslotOwner, State.resetWith]

theorem IsReset.slotOwner (n : SlotNo) : t.slotOwner n = none := by
  obtain ⟨_, _, _, _, _, _, _, _, rfl⟩ := h; exact Table.get_fill _ n

/-- The laws of the circuit table hold after a reset. -/
theorem IsReset.circuitLaws : CircuitLaws t := by
  refine ⟨⟨fun c => ?_, fun p c => ?_, fun n c => ?_, fun n _ i => h.timeslotOwner _⟩, fun c => ?_⟩
  · rw [h.circuit]; simp [Circuit.reset, Circuit.lawful]
  · rw [h.circuit, h.timeslotOwner]; simp [Circuit.reset]
  · rw [h.circuit, h.slotOwner]; simp [Circuit.reset]
  · rw [h.circuit]; rfl

end

theorem isReset_resetWith (cause : ResetCause) (primary craft : LineRate) (signal : SpanNo → Bool) (lightA lightB : Bool)
    (pending : List Instr) (freeCount : Nat) : IsReset (.resetWith cause primary craft signal lightA lightB pending freeCount) :=
  ⟨_, _, _, _, _, _, _, _, rfl⟩

theorem powerOnReset_keeps (primary craft : Straps) (s : State) : Answers (Keeps s) (execPowerOnReset primary craft s) :=
  answers_next ⟨rfl, fun _ => (isReset_resetWith ..).circuitLaws⟩

/-- R111: sending overhead bytes leaves both lanes' records. -/
theorem nextBytes_lanes : ∀ (n : Nat) (l : LaneInterface), (l.nextBytes n).2.a = l.a ∧ (l.nextBytes n).2.b = l.b
  | 0, _ => ⟨rfl, rfl⟩
  | n + 1, l => by
    have h : l.nextByte.2.a = l.a ∧ l.nextByte.2.b = l.b := by
      unfold LaneInterface.nextByte
      split <;> exact ⟨rfl, rfl⟩
    obtain ⟨ha, hb⟩ := nextBytes_lanes n l.nextByte.2
    exact ⟨ha.trans h.1, hb.trans h.2⟩

theorem transmitFrame_keeps (s : State) (switch : Table 512 ChannelInput) : Keeps s (s.transmitFrame switch) := by
  obtain ⟨ha, hb⟩ := nextBytes_lanes 16 s.lanes
  refine .congr rfl rfl rfl rfl (fun n => ?_) (LaneInterface.anyUp_congr ?_ ?_)
  · simp [State.transmitFrame, State.setSpans, State.span]
  · show (LaneInterface.nextBytes 16 s.lanes).2.a.state = _
    rw [ha]
  · show (LaneInterface.nextBytes 16 s.lanes).2.b.state = _
    rw [hb]

theorem reply_keeps (s : State) (port : Port) (result : ResultCode) (body : ReplyBody) : Keeps s (s.reply port result body) := by
  unfold State.reply
  split
  · exact setPort_keeps s port _
  · exact .refl s

theorem takeRefused_keeps (s : State) (port : Port) : Keeps s (s.takeRefused port) := by
  unfold State.takeRefused
  repeat' split
  · exact (setPort_keeps s port _).trans (reply_keeps _ port _ _)
  all_goals exact .refl s

/-- What touches the management links alone. -/
theorem setLinks_keeps (s : State) (x : Links) : Keeps s (s.setLinks x) := .congr rfl rfl rfl rfl (fun _ => rfl) rfl

theorem setPeer_keeps (s : State) (x : PeerEngine) : Keeps s (s.setPeer x) := .congr rfl rfl rfl rfl (fun _ => rfl) rfl
theorem setAlign_keeps (s : State) (x : AlignmentUnit) : Keeps s (s.setAlign x) := .congr rfl rfl rfl rfl (fun _ => rfl) rfl
theorem setHighway_keeps (s : State) (x : Highway) : Keeps s (s.setHighway x) := .congr rfl rfl rfl rfl (fun _ => rfl) rfl
theorem setDirectory_keeps (s : State) (x : Directory) : Keeps s (s.setDirectory x) := .congr rfl rfl rfl rfl (fun _ => rfl) rfl
theorem setNode_keeps (s : State) (x : NodeParams) : Keeps s (s.setNode x) := .congr rfl rfl rfl rfl (fun _ => rfl) rfl

/-- A change of the lanes that leaves both lanes' states. -/
theorem setLanes_keeps (s : State) (x : LaneInterface) (ha : x.a.state = s.lanes.a.state) (hb : x.b.state = s.lanes.b.state) :
    Keeps s (s.setLanes x) := .congr rfl rfl rfl rfl (fun _ => rfl) (LaneInterface.anyUp_congr ha hb)

theorem startUpEnd_keeps (s : State) : Answers (Keeps s) (execStartUpEnd s) := by
  unfold execStartUpEnd
  split
  · exact answers_next (((((setLinks_keeps s _).trans (transmitFrame_keeps _ _)).trans (handReport_keeps _ _)).trans
      (takeRefused_keeps _ _)).trans (takeRefused_keeps _ _))
  · exact answers_next (.refl s)

/-! ### The site frame (R113) -/

/-- One frame of a context's counts leaves its role and its sub-status. -/
theorem Context.tick_kept (x : Context) (st : PathState) : (x.tick st).role = x.role ∧ (x.tick st).sub = x.sub := by
  unfold Context.tick
  repeat' split
  all_goals exact ⟨rfl, rfl⟩

/-- One frame of a circuit's counts leaves all that the laws rest on. -/
theorem Circuit.lawful.tick {r : Circuit} (h : r.lawful) : r.tick.lawful := by
  have hf : r.fibreTransmit.tick = .bridged ↔ r.fibreTransmit = .bridged := by cases r.fibreTransmit <;> simp [FibreTransmit.tick]
  cases hs : r.state <;> cases hc : r.context <;> simp_all [Circuit.lawful, Circuit.tick, Context.tick_kept]

theorem tickAll_keeps (s : State) : Keeps s s.tickAll := by
  have hc : ∀ c, s.tickAll.circuit c = (s.circuit c).tick := fun c => Table.get_map ..
  refine .ofRecords rfl (fun c h => ?_) (fun c => ?_) (fun c => ?_) (fun c => ?_) (fun c => ?_) rfl rfl (fun _ => rfl) rfl
  · rw [hc]; exact h.tick
  all_goals rw [hc]; rfl

theorem readStores_keeps (s : State) : Keeps s s.readStores := by
  refine .congr rfl rfl rfl rfl (fun n => ?_) rfl
  simp only [State.readStores, State.setSpans_span, Table.get_map]
  split
  · unfold Span.read; split <;> rfl
  · rfl

theorem writeRings_keeps (s : State) : Keeps s s.writeRings := by
  unfold State.writeRings
  split
  · exact setAlign_keeps s _
  · exact .refl s

theorem frameWork_keeps (s : State) (switch : Table 512 ChannelInput) : Keeps s (s.frameWork switch) := by
  have hclock : Keeps s s.advanceClock := setLanes_keeps s _ rfl rfl
  have hslots : ∀ s : State, Keeps s s.takeSlots := fun s => setLanes_keeps s _ rfl rfl
  exact ((((((((hclock.trans (tickAll_keeps _)).trans (setHighway_keeps _ _)).trans (transmitFrame_keeps _ _)).trans
    (readStores_keeps _)).trans (hslots _)).trans (writeRings_keeps _)).trans (setAlign_keeps _ _)).trans (setAlign_keeps _ _)).trans
    (setHighway_keeps _ _)

theorem slipCircuit_keeps (kind : SlipKind) (s : State) (c : CircuitNo) : Keeps s (State.slipCircuit kind s c) := by
  unfold State.slipCircuit
  split
  next x hx =>
    split
    next hs => exact takeSlippedDelta_keeps hs _
    · exact putContext_keeps hx rfl rfl
    · exact putContext_keeps hx rfl rfl
    · exact .refl s
  next => exact .refl s

theorem slipReport_keeps (s : State) (n : SpanNo) (kind : SlipKind) (fill : Nat) (record : DelayRecord) :
    Keeps s (s.slipReport n kind fill record) := by
  unfold State.slipReport
  split
  · exact handReport_keeps s _
  · exact .refl s

theorem slipStep_keeps (s : State) (n : SpanNo) (kind : SlipKind) (fill : Nat) : Keeps s (s.slipStep n kind fill) := by
  have hif : ∀ (b : Bool) (s u : State), Keeps s u → Keeps s (if b then u else s) := fun b s u h => by
    split
    · exact h
    · exact .refl s
  have hspan : ∀ s : State, Keeps s (s.setSpan n ((s.span n).slipped kind)) := fun s => setSpan_keeps (by cases kind <;> rfl)
  have halign : ∀ s : State, Keeps s (s.slipAlign n kind) := fun s => (setAlign_keeps s _).trans (.foldl (slipCircuit_keeps kind) _ _)
  have hwatch : ∀ (s : State) (l : List CircuitNo), Keeps s (l.foldl (fun s c => s.watchEvent c .slip none) s) := fun s l =>
    .foldl (fun s c => watchEvent_keeps s c _ _) l s
  have hend : ∀ (b : Bool) (u : State) (record : DelayRecord), Keeps s u → Keeps s (if b then u else u.slipReport n kind fill record) :=
    fun b u record h => by
      split
      · exact h
      · exact h.trans (slipReport_keeps u n kind fill record)
  exact hend _ _ _ (((((hif _ s _ (drawn_keeps s)).trans (hspan _)).trans (hif _ _ _ (slipReport_keeps _ _ _ _ _))).trans
    (halign _)).trans (hwatch _ _))

theorem siteFrame_keeps (switch : Table 512 ChannelInput) (s : State) : Answers (Keeps s) (execSiteFrame switch s) := by
  unfold execSiteFrame
  have hstart : Keeps s s.startUpFrame := setLinks_keeps s _
  split
  · exact answers_next ((frameWork_keeps s switch).trans (.foldl (fun t n => slipStep_keeps t n _ _) _ _))
  · split
    · exact answers_next (hstart.trans (setHighway_keeps _ _))
    · exact answers_next hstart

/-! ### A circuit's inputs and timers -/

theorem switchLineConditionChange_keeps (c : CircuitNo) (s : State) : Answers (Keeps s) (execSwitchLineConditionChange c s) := by
  unfold execSwitchLineConditionChange
  split
  · exact answers_next ((setHighway_keeps s _).trans (inputChanged_keeps _ c _))
  · exact answers_next (.refl s)

theorem targetReached_keeps (c : CircuitNo) (s : State) : Answers (Keeps s) (execTargetReached c s) := by
  unfold execTargetReached
  split
  next hs _ =>
    have hb := bridgedState_aligned hs
    unfold State.atTarget
    split
    · split
      · exact answers_next (spliceAligned_keeps hb _)
      · exact answers_next (enterBridgeWait_keeps fun k => (k.routes c).bridged hb)
    · exact answers_next (.refl s)
  next => exact answers_next (.refl s)

theorem backOff_keeps (s : State) (c : CircuitNo) : Keeps s (s.backOff c) := by
  unfold State.backOff
  split
  next x hx =>
    have hp : Keeps s.takeNumber (s.takeNumber.putContext c { x with number := s.peer.counter, backoff := some (.load s.node.backoff) }) :=
      putContext_keeps hx rfl rfl
    exact (takeNumber_keeps s).trans hp
  next => exact .refl s

theorem responseTimerExpiry_keeps (c : CircuitNo) (s : State) : Answers (Keeps s) (execResponseTimerExpiry c s) := by
  have ht := stopResponse_keeps s c
  unfold execResponseTimerExpiry
  split
  · simp only
    split
    next hs =>
      have hm : ((s.stopResponse c).circuit c).migrating = true := by
        rw [(stopResponse_frame s c).sameCircuit (by decide), Circuit.migrating, hs]
      exact answers_next (ht.trans (consumeAttempt_keeps hm _ fun x _ => backOff_keeps _ c))
    next hs =>
      have hm : ((s.stopResponse c).circuit c).migrating = true := by
        rw [(stopResponse_frame s c).sameCircuit (by decide), Circuit.migrating, hs]
      exact answers_next (ht.trans (abandon_keeps hm _ _))
    all_goals exact answers_next ht
  · exact answers_next (.refl s)

theorem sendPropose_keeps (s : State) (c : CircuitNo) (number : Byte) : Keeps s (s.sendPropose c number) :=
  .quiet (sendPropose_frame s c number) (by decide)

theorem retryBackoffExpiry_keeps (c : CircuitNo) (s : State) : Answers (Keeps s) (execRetryBackoffExpiry c s) := by
  unfold execRetryBackoffExpiry
  split
  next x hx =>
    have hp : Keeps s (s.putContext c { x with backoff := none }) := putContext_keeps hx rfl rfl
    split
    · simp only
      split
      · exact answers_next (hp.trans (sendPropose_keeps _ c _))
      · exact answers_next (hp.trans (bridgeWaitTest_keeps _ c))
      all_goals exact answers_next hp
    · exact answers_next (.refl s)
  next => exact answers_next (.refl s)

theorem bridgeLimitExpiry_keeps (c : CircuitNo) (s : State) : Answers (Keeps s) (execBridgeLimitExpiry c s) := by
  unfold execBridgeLimitExpiry
  split
  next h => exact answers_next (abandon_keeps (migrating_of_bridgedState (bridgedState_measuring h.1)) _ _)
  next => exact answers_next (.refl s)

theorem deferLimitExpiry_keeps (c : CircuitNo) (s : State) : Answers (Keeps s) (execDeferLimitExpiry c s) := by
  unfold execDeferLimitExpiry
  split
  next h => exact answers_next (abandon_keeps (migrating_of_bridgedState (bridgedState_aligned h.1)) _ _)
  next => exact answers_next (.refl s)

theorem fallbackHoldExpiry_keeps (c : CircuitNo) (s : State) : Answers (Keeps s) (execFallbackHoldExpiry c s) := by
  unfold execFallbackHoldExpiry
  split
  next x _ hx =>
    split
    · have hp : Keeps s (s.putContext c { x with hold := some (.load 0) }) := putContext_keeps hx rfl rfl
      exact answers_next (hp.trans (releaseTest_keeps _ c))
    · exact answers_next (.refl s)
  next => exact answers_next (.refl s)

/-- A draining circuit is in none of the states that call for a bridge, so that its drain may end in any. -/
theorem Circuit.lawful.undrained {r : Circuit} (h : r.lawful) (hd : r.draining = true) :
    ({ r with fibreTransmit := .off } : Circuit).lawful := by
  have hft : r.fibreTransmit ≠ .bridged := by
    intro e
    simp [Circuit.draining, e] at hd
  unfold Circuit.lawful at h ⊢
  cases hs : r.state <;> simp_all

theorem endDrain_keeps {c : CircuitNo} (h : (s.circuit c).draining = true) :
    Keeps s (s.putCircuit c { s.circuit c with fibreTransmit := .off }) :=
  putCircuit_keeps (fun k => (k.routes c).undrained h) rfl rfl

theorem drainEnd_keeps (c : CircuitNo) (s : State) : Answers (Keeps s) (execDrainEnd c s) := by
  unfold execDrainEnd
  split
  next left h =>
    split
    · exact answers_next (endDrain_keeps (by rw [Circuit.draining, h]))
    · exact answers_next (.refl s)
  all_goals exact answers_next (.refl s)

/-! ### The Path Alignment Unit (chapter 3) -/

theorem setMatching_keeps (s : State) (c : CircuitNo) : Keeps s (s.setMatching c) := by
  unfold State.setMatching
  split
  next x hs hx =>
    split
    · exact putSub_keeps hs rfl
    · exact .refl s
  next => exact .refl s

theorem matcherStart_keeps (s : State) : Answers (Keeps s) (execMatcherStart s) := by
  unfold execMatcherStart
  split
  · split
    · exact answers_next (((setAlign_keeps s _).trans (setUnit_keeps _ _ _)).trans (setMatching_keeps _ _))
    · exact answers_next (.refl s)
  · exact answers_next (.refl s)

theorem primingComplete_keeps (v : UnitNo) (s : State) : Answers (Keeps s) (execPrimingComplete v s) := by
  unfold execPrimingComplete
  split
  · exact answers_next (setUnit_keeps s v _)
  · exact answers_next (.refl s)

theorem writeMatch_keeps (s : State) (c : CircuitNo) (d : Int) : Keeps s (s.writeMatch c d) := by
  unfold State.writeMatch
  split
  · exact setSpan_keeps (by unfold Span.matched; split <;> rfl)
  · exact .refl s

theorem windowEnd_keeps (v : UnitNo) (s : State) : Answers (Keeps s) (execWindowEnd v s) := by
  unfold execWindowEnd
  simp only
  split
  · split
    · exact answers_next ((setUnit_keeps s v _).trans (writeMatch_keeps _ _ _))
    · exact answers_next (setUnit_keeps s v _)
  · exact answers_next (.refl s)

theorem staleRecord_keeps (s : State) (c : CircuitNo) : Keeps s (s.staleRecord c) := by
  unfold State.staleRecord
  split
  · exact setSpan_keeps rfl
  · exact .refl s

theorem staleRecord_circuit (s : State) (c d : CircuitNo) : (s.staleRecord c).circuit d = s.circuit d := by
  unfold State.staleRecord
  split <;> rfl

theorem matchFailed_keeps {c : CircuitNo} (hs : (s.circuit c).state = .measuring) (reason : Reason) : Keeps s (s.matchFailed c reason) := by
  have hb := bridgedState_measuring hs
  unfold State.matchFailed
  split
  · exact splice_keeps hb _ _ _ _
  · refine consumeAttempt_keeps (migrating_of_bridgedState hb) _ fun x _ => ?_
    split
    · exact putSub_keeps (by rw [putContext_state, hs]) rfl
    · exact .refl _

theorem takeMatch_keeps {c : CircuitNo} (hs : (s.circuit c).state = .measuring) (x : Context) (result : MatchResult) :
    Keeps s (s.takeMatch c x result) := by
  cases result with
  | matched d => exact enterAligned_keeps hs d
  | confirmed d => exact enterAligned_keeps hs d
  | confirmFailed =>
    exact ((staleRecord_keeps s c).trans (putSub_keeps (by rw [staleRecord_circuit, hs]) rfl)).trans (joinQueue_keeps _ c _)
  | noMatch => exact matchFailed_keeps hs _
  | ambiguous => exact matchFailed_keeps hs _

theorem matchOutcome_keeps (v : UnitNo) (s : State) : Answers (Keeps s) (execMatchOutcome v s) := by
  unfold execMatchOutcome
  have hfree := setUnit_keeps s v (s.unit v).freed
  split
  next result c _ _ _ =>
    split
    next x hs _ =>
      split
      · exact answers_next (hfree.trans (takeMatch_keeps (by rw [(setUnit_frame s v _).sameCircuit (by decide), hs]) x result))
      · exact answers_next hfree
    next => exact answers_next hfree
  next => exact answers_next (.refl s)

theorem servicePauseEnd_keeps (s : State) : Answers (Keeps s) (execServicePauseEnd s) := by
  unfold execServicePauseEnd
  split
  · exact answers_next (setAlign_keeps s _)
  · exact answers_next (.refl s)

/-! ### Spans (chapter 4) -/

@[simp] theorem checkWord_state (x : Span) (f : SpanFrame) : (x.checkWord f).state = x.state := by
  unfold Span.checkWord; repeat' split
  all_goals rfl

@[simp] theorem checkMarker_state (x : Span) (f : SpanFrame) : (x.checkMarker f).state = x.state := by
  unfold Span.checkMarker; repeat' split
  all_goals rfl

@[simp] theorem waitMarker_state (x : Span) : x.waitMarker.state = x.state := by
  unfold Span.waitMarker; split <;> rfl

@[simp] theorem huntFrame_state (x : Span) (f : SpanFrame) : (x.huntFrame f).state = x.state := by
  have checked : ∀ v : Span, (if v.nextEven then v.checkWord f else v.checkMarker f).state = v.state := fun v => by
    split <;> simp
  exact (checked _).trans (waitMarker_state _)

@[simp] theorem signalFrame_state (x : Span) (f : SpanFrame) : (x.signalFrame f).state = x.state := by
  unfold Span.signalFrame
  simp only
  split <;> simp

@[simp] theorem write_state (x : Span) (f : SpanSamples) : (x.write f).1.state = x.state := by
  unfold Span.write; split <;> rfl

theorem takeCopperCode_keeps (n : SpanNo) (s : State) (x : TimeslotNo × LineCondition) : Keeps s (State.takeCopperCode n s x) := by
  unfold State.takeCopperCode
  split
  · have hspan : Keeps s (s.setSpan n ((s.span n).setCondition x.1 ((s.span n).afterCode x))) := setSpan_keeps rfl
    simp only
    split
    · split
      · exact hspan.trans (inputChanged_keeps _ _ _)
      · exact hspan
    · exact hspan
  · exact .refl s

theorem upFrame_keeps (s : State) (n : SpanNo) (f : SpanFrame) : Keeps s (s.upFrame n f) := by
  have hsig : Keeps s (s.signalFrame n f) := by
    have hspan : Keeps s (s.setSpan n ((s.span n).signalFrame f)) := setSpan_keeps (signalFrame_state _ f)
    unfold State.signalFrame State.endMultiframe
    simp only
    split
    · split
      · exact hspan.trans (.foldl (takeCopperCode_keeps n) _ _)
      · exact hspan.trans (setSpan_keeps rfl)
    · exact hspan
  have hstore : ∀ s : State, Keeps s (s.storeFrame n f) := fun s => by
    unfold State.storeFrame
    split
    · have hspan : Keeps s (s.setSpan n ((s.span n).write (spanSamples f)).1) := setSpan_keeps (write_state _ _)
      simp only
      split
      · exact hspan.trans (slipStep_keeps _ n _ _)
      · exact hspan
    · exact .refl s
  exact hsig.trans (hstore _)

theorem spanFrameReceived_keeps (n : SpanNo) (f : SpanFrame) (s : State) : Answers (Keeps s) (execSpanFrameReceived n f s) := by
  unfold execSpanFrameReceived
  split
  · split
    · exact answers_next (upFrame_keeps s n f)
    · exact answers_next (setSpan_keeps rfl)
    · exact answers_next (setSpan_keeps (huntFrame_state _ f))
    · exact answers_next (.refl s)
    · exact answers_next (.refl s)
  · exact answers_next (.refl s)

theorem frameAlignmentFound_keeps (n : SpanNo) (s : State) : Answers (Keeps s) (execFrameAlignmentFound n s) := by
  unfold execFrameAlignmentFound
  split
  next h => exact answers_next (setSpan_keeps h.1.symm)
  next => exact answers_next (.refl s)

theorem multiframeHuntLoss_keeps (n : SpanNo) (s : State) : Answers (Keeps s) (execMultiframeHuntLoss n s) := by
  unfold execMultiframeHuntLoss
  split
  next h => exact answers_next (setSpan_keeps h.1.symm)
  next => exact answers_next (.refl s)

/-- A span goes UP, or DOWN: the laws but for conditioning stay. -/
theorem PlaceLaws.setSpanState (h : PlaceLaws s) {n : SpanNo} {x : Span} (hx : x.state ≠ .retired) : PlaceLaws (s.setSpan n x) :=
  h.setSpan fun e => absurd e hx

/-- R80. -/
theorem spanRaised_keeps (s : State) (n : SpanNo) : Keeps s (s.spanRaised n) := by
  have hf : SameBut [.spans, .circuits, .reports] s (s.spanRaised n) :=
    (((setSpan_frame s n _).mono (by decide)).trans ((evaluateAll_frame _).mono (by decide))).trans ((handReport_frame _ _).mono (by decide))
  exact .framed hf fun h => (handReport_keeps _ _).laws (h.toPlaceLaws.setSpanState (n := n) (x := (s.span n).raised) nofun).evaluateAll

theorem spanUp_keeps (n : SpanNo) (s : State) : Answers (Keeps s) (execSpanUp n s) := by
  unfold execSpanUp
  split
  · exact answers_next (spanRaised_keeps s n)
  · exact answers_next (.refl s)

/-- R82, R52: a span goes DOWN; the loss begins with the evaluation of every circuit's conditioning. -/
theorem spanLowered_keeps (s : State) (n : SpanNo) (cause : SpanDownCause) : Keeps s (s.spanLowered n cause) := by
  obtain ⟨w, hw⟩ : ∃ w, w = (s.setSpan n (s.span n).lowered).spanLost n (s.span n).record := ⟨_, rfl⟩
  have hlost : Keeps (s.setSpan n (s.span n).lowered).evaluateAll w := by
    rw [hw]; exact .foldl (spanLostFor_keeps _) _ _
  have hspan : Keeps w (w.setSpan n { w.span n with record := .invalid }) := setSpan_keeps rfl
  have hrest := (hlost.trans hspan).trans (handReport_keeps _ (.span n (.down cause (s.span n).record)))
  have hfin : s.spanLowered n cause =
      (w.setSpan n { w.span n with record := .invalid }).handReport (.span n (.down cause (s.span n).record)) := by rw [hw]; rfl
  rw [hfin]
  refine ⟨hrest.pending, fun h => hrest.laws (h.toPlaceLaws.setSpanState ?_).evaluateAll⟩
  simp [Span.lowered, Span.hunt]

/-- A RETIRED span that is restarted concerns no circuit, as it has no occupants (R90, R92). -/
theorem restartRetired_keeps {n : SpanNo} (hr : (s.span n).state = .retired) : Keeps s (s.setSpan n (s.span n).hunt) := by
  refine .framed (setSpan_frame s n _) fun h => ⟨h.toPlaceLaws.setSpanState (by simp [Span.hunt]), fun c => ?_⟩
  have hno : ∀ i, (s.circuit c).copper ≠ some ⟨n, i⟩ := fun i e => by
    have := (h.occupancy.timeslots ⟨n, i⟩ c).mpr e
    rw [h.occupancy.retired n hr i] at this
    cases this
  exact (evaluated_setSpan _ hno).trans (h.conditioned c)

theorem signalLost_keeps (s : State) (n : SpanNo) : Keeps s (s.signalLost n) := by
  unfold State.signalLost
  split
  · exact spanLowered_keeps s n _
  next h => exact setSpan_keeps h.symm
  · exact .refl s

theorem spanLossOfSignal_keeps (n : SpanNo) (s : State) : Answers (Keeps s) (execSpanLossOfSignal n s) :=
  answers_next (Keeps.trans (t := s.setSpan n { s.span n with lossOfSignal := true }) (setSpan_keeps rfl) (signalLost_keeps _ n))

theorem spanBadAlignment_keeps (n : SpanNo) (s : State) : Answers (Keeps s) (execSpanBadAlignment n s) := by
  unfold execSpanBadAlignment
  split
  · exact answers_next (spanLowered_keeps s n _)
  · exact answers_next (.refl s)

theorem spanSignalReturn_keeps (n : SpanNo) (s : State) : Answers (Keeps s) (execSpanSignalReturn n s) :=
  answers_next (setSpan_keeps rfl)

theorem restart_keeps (s : State) (n : SpanNo) : Keeps s (s.restart n) := by
  unfold State.restart
  split
  · exact spanLowered_keeps s n _
  next h => exact setSpan_keeps h.symm
  next h => exact restartRetired_keeps h

end Sys2Proof.Machine
end

section
/-! SUPPORT. Every row of the lanes, the peer engine, the directory and the management links, and every command, keeps the laws of the
circuit table and the model's queue. -/

namespace Sys2Proof.Machine

variable {s t u : State}

/-! ### The working lane (R104, R105) -/

/-- R105: what a change of the working lane leaves of a record: it stays lawful, with its attachments, and its conditioning is
evaluated or as it was. -/
theorem WorkingChanged.record {cause : WorkingCause} (h : WorkingChanged cause s t) (hr : RouteLaw s) (c : CircuitNo) :
    (t.circuit c).lawful ∧ (t.circuit c).copper = (s.circuit c).copper ∧ (t.circuit c).fibre = (s.circuit c).fibre ∧
      (t.circuit c = evaluated t.spans t.lanes (t.circuit c) ∨
        ((t.circuit c).state = (s.circuit c).state ∧ (t.circuit c).conditioning = (s.circuit c).conditioning)) := by
  have hl := hr c
  cases hs : (s.circuit c).state
  case aligned =>
    obtain ⟨hc, hf, hct, hft⟩ := hl.bridged (bridgedState_aligned hs)
    have hx : ∃ x, (s.circuit c).context = some x := by
      simp only [Circuit.lawful, hs] at hl
      obtain ⟨-, -, -, -, x, hx, -⟩ := hl
      exact ⟨x, hx⟩
    obtain ⟨x, hx⟩ := hx
    rw [h.aligned c x hs hx]
    exact ⟨⟨hc, hf, hct, hft, ⟨_, rfl, rfl⟩, rfl⟩, rfl, rfl, .inl rfl⟩
  case measuring | fibre =>
    rw [h.removed c (by simp [hs])]
    refine ⟨?_, rfl, rfl, .inr ⟨hs, rfl⟩⟩
    cases hx : (s.circuit c).context with
    | none => simp_all [Circuit.lawful]
    | some x => exact hl.withContext hx rfl rfl
  all_goals
    rw [h.others c (by simp [hs]) (by simp [hs]) (by simp [hs])]
    exact ⟨hl, rfl, rfl, .inr ⟨hs, rfl⟩⟩

theorem WorkingChanged.spanState {cause : WorkingCause} (h : WorkingChanged cause s t) (n : SpanNo) : (t.span n).state = (s.span n).state := by
  rw [h.records n]

theorem WorkingChanged.anyUp {cause : WorkingCause} (h : WorkingChanged cause s t) : t.lanes.anyUp = s.lanes.anyUp := by
  obtain ⟨ha, hb⟩ : t.lanes.a = s.lanes.a ∧ t.lanes.b = s.lanes.b := h.frame .laneRecords (by decide)
  exact LaneInterface.anyUp_congr (by rw [ha]) (by rw [hb])

theorem WorkingChanged.place {cause : WorkingCause} (h : WorkingChanged cause s t) (hp : PlaceLaws s) : PlaceLaws t :=
  hp.of_records (fun c => (h.record hp.routes c).1) (fun c => (h.record hp.routes c).2.1) (fun c => (h.record hp.routes c).2.2.1)
    (h.frame .occupancy (by decide)).1 (h.frame .occupancy (by decide)).2 fun n hn => h.spanState n ▸ hn

theorem WorkingChanged.keeps {cause : WorkingCause} (h : WorkingChanged cause s t) : Keeps s t := by
  refine .framed h.frame fun k => ⟨h.place k.toPlaceLaws, fun c => ?_⟩
  obtain ⟨-, hcop, -, he | ⟨hst, hcond⟩⟩ := h.record k.routes c
  · exact he.symm
  · have e : Sys2Proof.Machine.conditioned t.spans t.lanes (t.circuit c) = (t.circuit c).conditioning := by
      rw [conditioned_congr h.spanState h.anyUp, hcond, ← congrArg Circuit.conditioning (k.conditioned c), evaluated_conditioning]
      simp only [Sys2Proof.Machine.conditioned, hst, hcop]
    unfold evaluated
    rw [e]

theorem changeWorking_keeps (s : State) (cause : WorkingCause) : Keeps s (s.changeWorking cause) := (changeWorking_spec cause s).keeps

theorem workingTest_keeps (s : State) (cause : WorkingCause) : Keeps s (s.workingTest cause) := by
  unfold State.workingTest
  split
  · exact changeWorking_keeps s cause
  · exact .refl s

theorem workingTest_place (h : PlaceLaws s) (cause : WorkingCause) : PlaceLaws (s.workingTest cause) := by
  unfold State.workingTest
  split
  · exact (changeWorking_spec cause s).place h
  · exact h

theorem workingTest_anyUp (s : State) (cause : WorkingCause) : (s.workingTest cause).lanes.anyUp = s.lanes.anyUp := by
  unfold State.workingTest
  split
  · exact (changeWorking_spec cause s).anyUp
  · rfl

/-! ### A lane's change of state, and the availability of fibre (R97 to R100) -/

theorem laneState_place (h : PlaceLaws s) (i : Lane) (after : LaneRecord) (cause : LaneCause) : PlaceLaws (s.laneState i after cause) :=
  h.of_frame (laneState_spec i after cause s).frame (by decide) (by decide) (by decide)

/-- A change of a lane's state that leaves whether a lane is UP leaves conditioning. -/
theorem laneState_laws (h : CircuitLaws s) {i : Lane} {after : LaneRecord} {cause : LaneCause}
    (hup : (s.laneState i after cause).lanes.anyUp = s.lanes.anyUp) : CircuitLaws (s.laneState i after cause) := by
  have hf := (laneState_spec i after cause s).frame
  exact h.congr (hf.sameCircuits (by decide)) (hf.sameOwner (by decide)).1 (hf.sameOwner (by decide)).2
    (fun n => by rw [hf.sameSpan (by decide)]) hup

/-- R100: conditioning holds after the step taken for a change of the count of UP lanes, when it held before any such change. -/
theorem availability_laws (h : PlaceLaws s) {wasUp : Bool} (hsame : s.lanes.anyUp = wasUp → CircuitLaws s) :
    CircuitLaws (s.availability wasUp) := by
  unfold State.availability
  split
  · have hplace : PlaceLaws (s.setLanes { s.lanes with
        slots := s.lanes.slots.map SlotRecognition.unavailable
        slotsBefore := s.lanes.slotsBefore.map SlotRecognition.unavailable }) :=
      h.of_records h.routes (fun _ => rfl) (fun _ => rfl) rfl rfl fun _ => id
    exact (Keeps.foldl fibreLostFor_keeps _ _).laws hplace.evaluateAll
  · split
    · exact h.evaluateAll
    next h1 h2 =>
      refine hsame ?_
      cases hw : wasUp <;> cases hu : s.lanes.anyUp <;> simp_all

theorem availability_pending (s : State) (wasUp : Bool) : (s.availability wasUp).pending = s.pending := by
  unfold State.availability
  split
  · exact ((fibreLost_frame _).samePending (by decide)).trans rfl
  · split <;> rfl

theorem laneState_pending (s : State) (i : Lane) (after : LaneRecord) (cause : LaneCause) :
    (s.laneState i after cause).pending = s.pending := (laneState_spec i after cause s).frame.samePending (by decide)

theorem laneRaised_keeps (s : State) (i : Lane) : Keeps s (s.laneRaised i) := by
  refine ⟨(availability_pending _ _).trans (((workingTest_keeps _ _).pending).trans (laneState_pending s i _ _)), fun h => ?_⟩
  refine availability_laws (workingTest_place (laneState_place h.toPlaceLaws i _ _) _) fun hup => ?_
  rw [workingTest_anyUp] at hup
  exact (workingTest_keeps _ _).laws (laneState_laws h hup)

theorem laneLowered_keeps (s : State) (i : Lane) (cause : LaneCause) : Keeps s (s.laneLowered i cause) := by
  obtain ⟨m, hm⟩ : ∃ m, m = s.laneState i (s.lane i).lowered cause := ⟨_, rfl⟩
  obtain ⟨k, hk⟩ : ∃ k, k = if s.lanes.working = i ∧ m.lanes.anyUp = true then m.idleFrame else m := ⟨_, rfl⟩
  have hf : SameBut [.slots, .rings, .matchers, .routes] m k := by
    rw [hk]; split
    · exact (idleFrame_spec m).frame
    · exact .refl _ m
  have hup : k.lanes.anyUp = m.lanes.anyUp := by
    obtain ⟨ha, hb⟩ : k.lanes.a = m.lanes.a ∧ k.lanes.b = m.lanes.b := hf .laneRecords (by decide)
    exact LaneInterface.anyUp_congr (by rw [ha]) (by rw [hb])
  have hfin : s.laneLowered i cause = (k.availability s.lanes.anyUp).workingTest .automatic := by rw [hk, hm]; rfl
  rw [hfin]
  refine Keeps.trans ⟨?_, fun h => ?_⟩ (workingTest_keeps _ _)
  · rw [availability_pending, hf.samePending (by decide), hm, laneState_pending]
  · have hp : PlaceLaws m := hm ▸ laneState_place h.toPlaceLaws i _ _
    refine availability_laws (hp.of_frame hf (by decide) (by decide) (by decide)) fun e => ?_
    exact (Keeps.quiet hf (by decide)).laws (hm ▸ laneState_laws h (by rw [← hm, ← hup, e]))

theorem laneGraded_keeps (s : State) (i : Lane) (after : LaneRecord) (cause : LaneCause) : Keeps s (s.laneGraded i after cause) := by
  refine Keeps.trans ⟨(availability_pending _ _).trans (laneState_pending s i _ _), fun h => ?_⟩ (workingTest_keeps _ _)
  exact availability_laws (laneState_place h.toPlaceLaws i _ _) fun e => laneState_laws h e

/-! ### Rows of the lanes (chapter 5) -/

theorem deliver_keeps (s : State) (m : Byte × List Byte) : Keeps s (s.deliver m.1 m.2) := by
  unfold State.deliver
  split
  · exact .refl s
  · have hl : Keeps s (s.setLanes { s.lanes with lastSequence := some m.1 }) := setLanes_keeps s _ rfl rfl
    simp only
    split
    · exact hl.trans (setPeer_keeps _ _)
    · exact hl.trans (setPeer_keeps _ _)

theorem receiveOverhead_keeps (s : State) (i : Lane) (bytes : List Byte) : Keeps s (s.receiveOverhead i bytes) := by
  have hmessages : ∀ (l : List (Byte × List Byte)) (s : State), Keeps s (l.foldl (fun s m => s.deliver m.1 m.2) s) :=
    .foldl deliver_keeps
  have hlane : ∀ n rest, Keeps s (s.setLane i { (s.lane i).countErrors n with receiver := rest }) := fun _ _ => setLane_keeps rfl
  unfold State.receiveOverhead
  simp only
  split
  · exact (hlane _ _).trans (hmessages _ _)
  · exact hlane _ _

@[simp] theorem LaneRecord.checkFrame_state (l : LaneRecord) (good : Bool) : (l.checkFrame good).state = l.state := by
  unfold LaneRecord.checkFrame; repeat' split
  all_goals rfl

@[simp] theorem LaneRecord.huntFrame_state (l : LaneRecord) (good : Bool) : (l.huntFrame good).state = l.state := by
  unfold LaneRecord.huntFrame; repeat' split
  all_goals rfl

theorem laneFrameReceived_keeps (i : Lane) (f : LaneFrame) (s : State) : Answers (Keeps s) (execLaneFrameReceived i f s) := by
  have hlane : ∀ x : LaneRecord, x.state = (s.lane i).state →
      Keeps s (s.setLane i { x with content := frameContent f }) := fun x hx => setLane_keeps hx
  unfold execLaneFrameReceived
  split
  · split
    · exact answers_next ((hlane _ (LaneRecord.checkFrame_state _ _)).trans (receiveOverhead_keeps _ i _))
    · exact answers_next (hlane _ (LaneRecord.huntFrame_state _ _))
  · exact answers_next (.refl s)

theorem updateSlot_keeps (s : State) (n : SlotNo) (f : SlotRecognition → SlotRecognition) : Keeps s (s.updateSlot n f) :=
  .quiet (updateSlot_frame s n f) (by decide)

theorem slotLineConditionChange_keeps (n : SlotNo) (s : State) : Answers (Keeps s) (execSlotLineConditionChange n s) := by
  unfold execSlotLineConditionChange
  simp only
  repeat' split
  · exact answers_next ((updateSlot_keeps s n _).trans (inputChanged_keeps _ _ _))
  · exact answers_next (updateSlot_keeps s n _)
  · exact answers_next (updateSlot_keeps s n _)
  · exact answers_next (.refl s)

theorem flagRecognised_keeps (s : State) (c : CircuitNo) : Keeps s (s.flagRecognised c) := by
  unfold State.flagRecognised
  split
  next h => exact splice_keeps h.1 _ _ _ _
  next => exact bridgeWaitTest_keeps s c

theorem bridgeFlagRecognised_keeps (n : SlotNo) (s : State) : Answers (Keeps s) (execBridgeFlagRecognised n s) := by
  unfold execBridgeFlagRecognised
  simp only
  repeat' split
  · exact answers_next ((updateSlot_keeps s n _).trans (flagRecognised_keeps _ _))
  · exact answers_next (updateSlot_keeps s n _)
  · exact answers_next (updateSlot_keeps s n _)
  · exact answers_next (.refl s)

theorem laneUp_keeps (i : Lane) (s : State) : Answers (Keeps s) (execLaneUp i s) := by
  unfold execLaneUp
  split
  · exact answers_next (laneRaised_keeps s i)
  · exact answers_next (.refl s)

theorem laneLossOfLight_keeps (i : Lane) (s : State) : Answers (Keeps s) (execLaneLossOfLight i s) := by
  have hlight : Keeps s (s.setLane i { s.lane i with lossOfLight := true }) := setLane_keeps rfl
  unfold execLaneLossOfLight
  simp only
  split
  · exact answers_next (hlight.trans (laneLowered_keeps _ i _))
  · exact answers_next (hlight.trans (setLane_keeps rfl))

theorem laneAlignmentLoss_keeps (i : Lane) (s : State) : Answers (Keeps s) (execLaneAlignmentLoss i s) := by
  unfold execLaneAlignmentLoss
  split
  · exact answers_next (laneLowered_keeps s i _)
  · exact answers_next (.refl s)

theorem laneDegraded_keeps (i : Lane) (s : State) : Answers (Keeps s) (execLaneDegraded i s) := by
  unfold execLaneDegraded
  split
  · exact answers_next (laneGraded_keeps s i _ _)
  · exact answers_next (.refl s)

theorem errorIntervalEnd_keeps (i : Lane) (s : State) : Answers (Keeps s) (execErrorIntervalEnd i s) := by
  unfold execErrorIntervalEnd
  split
  · split
    next h => exact answers_next (setLane_keeps h)
    next => exact answers_next (laneGraded_keeps s i _ _)
  · exact answers_next (.refl s)

theorem laneLightReturn_keeps (i : Lane) (s : State) : Answers (Keeps s) (execLaneLightReturn i s) := answers_next (setLane_keeps rfl)

theorem holdOffExpiry_keeps (s : State) : Answers (Keeps s) (execHoldOffExpiry s) := by
  unfold execHoldOffExpiry
  split
  · exact answers_next (setLanes_keeps s _ rfl rfl)
  · exact answers_next (.refl s)

theorem duplicateWindowExpiry_keeps (s : State) : Answers (Keeps s) (execDuplicateWindowExpiry s) := by
  unfold execDuplicateWindowExpiry
  split
  · exact answers_next (setLanes_keeps s _ rfl rfl)
  · exact answers_next (.refl s)

/-! ### Rows of the peer engine (chapter 6) -/

theorem sendHello_keeps (s : State) : Keeps s s.sendHello := (setPeer_keeps s _).trans (queueMessage_keeps _ _)

theorem leaveUp_keeps (s : State) (after : LinkState) (kind : Nat → PeerReportKind) : Keeps s (s.leaveUp after kind) :=
  ((setPeer_keeps s _).trans (handReport_keeps _ _)).trans (abandonAll_keeps _)

theorem enterUp_keeps (s : State) (node : Nat) (mode : HandshakeMode) : Keeps s (s.enterUp node mode) :=
  (setPeer_keeps s _).trans (handReport_keeps _ _)

theorem linkDown_keeps (s : State) (cause : PeerDownCause) : Keeps s (s.linkDown cause) := by
  unfold State.linkDown
  split
  · exact leaveUp_keeps s _ _
  · exact (setPeer_keeps s _).trans (handReport_keeps _ _)
  · exact .refl s

theorem judgeHello_keeps (s : State) (node : Nat) (mode : HandshakeMode) : Keeps s (s.judgeHello node mode) := by
  unfold State.judgeHello
  split
  · exact enterUp_keeps s node mode
  · exact enterUp_keeps s node mode
  · split
    · exact .refl s
    · exact (leaveUp_keeps s _ _).trans (enterUp_keeps _ node mode)
  · exact (setPeer_keeps s _).trans (handReport_keeps _ _)
  · exact .refl s
  · exact leaveUp_keeps s _ _

theorem takeHello_keeps (s : State) (node : Nat) (mode : HandshakeMode) : Keeps s (s.takeHello node mode) := by
  unfold State.takeHello
  simp only
  split
  · exact setPeer_keeps s _
  · exact (setPeer_keeps s _).trans (judgeHello_keeps _ node mode)

theorem helloTimerExpiry_keeps (s : State) : Answers (Keeps s) (execHelloTimerExpiry s) := by
  unfold execHelloTimerExpiry
  split
  · exact answers_next (sendHello_keeps s)
  · exact answers_next (.refl s)

theorem silenceExpiry_keeps (s : State) : Answers (Keeps s) (execSilenceExpiry s) := by
  unfold execSilenceExpiry
  split
  · exact answers_next ((setPeer_keeps s _).trans (linkDown_keeps _ _))
  · exact answers_next (.refl s)

theorem takeMessage_keeps (m : PeerMessage) {rule : State → State} (hr : ∀ s, Keeps s (rule s)) (s : State) :
    Answers (Keeps s) (takeMessage m rule s) := by
  unfold takeMessage
  split
  · split
    · exact answers_next ((setPeer_keeps s _).trans (hr _))
    · exact answers_next (.refl s)
  · exact answers_next (.refl s)

theorem countIgnored_keeps (s : State) : Keeps s s.countIgnored := setPeer_keeps s _
theorem countUnresolved_keeps (s : State) : Keeps s s.countUnresolved := setPeer_keeps s _
theorem countStale_keeps (s : State) : Keeps s s.countStale := setPeer_keeps s _
theorem countInapplicable_keeps (s : State) : Keeps s s.countInapplicable := setPeer_keeps s _
theorem recordMiss_keeps (s : State) (code : TrunkCode) (source : MissSource) (asked : Byte) : Keeps s (s.recordMiss code source asked) :=
  setDirectory_keeps s _
theorem sendDecline_keeps (s : State) (code : TrunkCode) (number : Byte) (reason : DeclineReason) :
    Keeps s (s.sendDecline code number reason) := .quiet (sendDecline_frame s code number reason) (by decide)

theorem dispatch_keeps (m : PeerMessage) (code : TrunkCode) {miss : State → State} {rule : CircuitNo → State → State}
    (hm : ∀ s, Keeps s (miss s)) (hr : ∀ c s, Keeps s (rule c s)) (s : State) : Keeps s (dispatch m code miss rule s) := by
  unfold dispatch
  split
  · exact countIgnored_keeps s
  · split
    · exact hr _ s
    · exact (recordMiss_keeps s _ _ _).trans (hm _)

theorem receivedHello_keeps (node : Nat) (mode : HandshakeMode) (s : State) : Answers (Keeps s) (execReceivedHello node mode s) :=
  takeMessage_keeps _ (fun s => takeHello_keeps s node mode) s

/-! ### Proposals and acceptances (R26, R29, R30, R128 to R134) -/

/-- R9, R10, R29: a circuit takes free positions on the sides it has no attachment on. -/
theorem takePositions_keeps {c : CircuitNo} {r : Circuit} {copper : Option CopperPosition} {fibre : Option SlotNo}
    (hr : CircuitLaws s → r.lawful) (hc : r.copper = copper.or (s.circuit c).copper) (hf : r.fibre = fibre.or (s.circuit c).fibre)
    (hcop : ∀ q, copper = some q → (s.circuit c).copper = none ∧ (CircuitLaws s → s.timeslotOwner q = none) ∧
      (s.span q.span).state ≠ .retired)
    (hfib : ∀ m, fibre = some m → (s.circuit c).fibre = none ∧ (CircuitLaws s → s.slotOwner m = none)) :
    Keeps s (((s.markCopper copper (some c)).markFibre fibre (some c)).putCircuit c r) := by
  refine rewrite_keeps hr (fun h => ?_) (fun h => ?_) fun q hq => .inr (hcop q hq).2.2
  · cases copper with
    | none => intro q d; have := h.occupancy.timeslots q d; grind
    | some q =>
      obtain ⟨hnone, hfree, -⟩ := hcop q rfl
      exact Paired.take h.occupancy.timeslots hnone (hfree h) (fun p => by simp) fun d => by rw [hc]; rfl
  · cases fibre with
    | none => intro q d; have := h.occupancy.slots q d; grind
    | some m =>
      obtain ⟨hnone, hfree⟩ := hfib m rfl
      exact Paired.take h.occupancy.slots hnone (hfree h) (fun p => by simp) fun d => by rw [hf]; rfl

/-- R29: the slot of a proposal, attached to a circuit in COPPER that has none. -/
theorem attachProposed_keeps {c : CircuitNo} {slot : SlotNo} (hs : (s.circuit c).state = .copper)
    (hfree : (s.circuit c).fibre = none → s.slotTaken slot c = false) : Keeps s (s.attachProposed c slot) := by
  unfold State.attachProposed
  split
  · exact .refl s
  next hn =>
    have hnone : (s.circuit c).fibre = none := by simpa using hn
    have hput : Keeps s ((s.setSlotOwner slot (some c)).putCircuit c { s.circuit c with fibre := some slot }) := by
      refine takePositions_keeps (copper := none) (fibre := some slot) (fun h => ?_) rfl rfl (by simp) fun m hm =>
        ⟨hnone, fun h => ?_⟩
      · simpa only [Circuit.lawful, hs] using h.routes c
      cases hm
      cases ho : s.slotOwner slot with
      | none => rfl
      | some d =>
        have hd := (h.occupancy.slots slot d).mp ho
        have ht := hfree hnone
        simp only [State.slotTaken, ho, bne_eq_false_iff_eq] at ht
        rw [ht, hnone] at hd
        cases hd
    exact hput.trans (.quiet (fillRing_frame _ c) (by decide))

/-- The record of a circuit in COPPER after an attachment of a proposal's slot. -/
theorem attachProposed_circuit (s : State) (c : CircuitNo) (slot : SlotNo) :
    ((s.attachProposed c slot).circuit c).state = (s.circuit c).state ∧ ((s.attachProposed c slot).circuit c).fibre.isSome = true := by
  unfold State.attachProposed
  split
  next h => exact ⟨rfl, h⟩
  next => 
    have hc : ∀ t : State, (t.fillRing c).circuit c = t.circuit c := fun t => rfl
    rw [hc, State.putCircuit_circuit_eq]
    exact ⟨rfl, rfl⟩

/-- From `s` to `t` the record of one circuit is being rewritten, with its attachments as they are; the rest keeps. -/
structure Rewriting (c : CircuitNo) (s t : State) : Prop where
  pending : t.pending = s.pending
  others : ∀ d, d ≠ c → t.circuit d = s.circuit d
  copper : (t.circuit c).copper = (s.circuit c).copper
  fibre : (t.circuit c).fibre = (s.circuit c).fibre
  timeslots : t.timeslots = s.timeslots
  slotOwners : t.slotOwners = s.slotOwners
  spans : ∀ n, (t.span n).state = (s.span n).state
  anyUp : t.lanes.anyUp = s.lanes.anyUp

theorem Rewriting.of_putCircuit {c : CircuitNo} {r : Circuit} (hc : r.copper = (s.circuit c).copper) (hf : r.fibre = (s.circuit c).fibre) :
    Rewriting c s (s.putCircuit c r) :=
  ⟨rfl, fun d hd => by rw [putCircuit_circuit, if_neg (Ne.symm hd)], by simpa using hc, by simpa using hf, rfl, rfl, fun _ => rfl, rfl⟩

theorem Rewriting.quiet {c : CircuitNo} {l : List Block} (h : Rewriting c s t) (hf : SameBut l t u) (hl : ∀ b ∈ circuitLawBlocks, b ∉ l) :
    Rewriting c s u := by
  have hcirc := hf.sameCircuit (hl _ (by decide))
  have hown := hf.sameOwner (hl _ (by decide))
  have hlanes : u.lanes.a = t.lanes.a ∧ u.lanes.b = t.lanes.b := hf .laneRecords (hl _ (by decide))
  exact ⟨(hf.samePending (hl _ (by decide))).trans h.pending, fun d hd => (hcirc d).trans (h.others d hd), (congrArg _ (hcirc c)).trans h.copper,
    (congrArg _ (hcirc c)).trans h.fibre, hown.1.trans h.timeslots, hown.2.trans h.slotOwners,
    fun n => (congrArg _ (hf.sameSpan (hl _ (by decide)) n)).trans (h.spans n),
    (LaneInterface.anyUp_congr (by rw [hlanes.1]) (by rw [hlanes.2])).trans h.anyUp⟩

/-- A rewriting ends with a lawful record. -/
theorem Rewriting.keeps {c : CircuitNo} {r : Circuit} (h : Rewriting c s t) (hr : CircuitLaws s → r.lawful)
    (hc : r.copper = (t.circuit c).copper) (hf : r.fibre = (t.circuit c).fibre) : Keeps s (t.putCircuit c r) := by
  have hcirc : ∀ d, (t.putCircuit c r).circuit d = if d = c then evaluated t.spans t.lanes r else s.circuit d := fun d => by
    rw [putCircuit_circuit]
    by_cases hd : d = c
    · simp [hd]
    · simp [hd, Ne.symm hd, h.others d hd]
  refine ⟨h.pending, fun k => ⟨k.toPlaceLaws.of_records (fun d => ?_) (fun d => ?_) (fun d => ?_) h.timeslots h.slotOwners
    fun n hn => h.spans n ▸ hn, fun d => ?_⟩⟩
  all_goals rw [hcirc]; split
  · exact hr k
  · exact k.routes d
  next e => subst e; exact hc.trans h.copper
  · rfl
  next e => subst e; exact hf.trans h.fibre
  · rfl
  · exact evaluated_evaluated ..
  · have := k.conditioned d
    conv_rhs => rw [← this]
    simp only [evaluated]
    congr 1
    exact conditioned_congr h.spans h.anyUp _

/-- R29, R30: a circuit with both attachments takes the bridge and the context of an acceptor, answers, and goes on by the handshake
mode. -/
theorem goOnAsAcceptor_keeps {c : CircuitNo} {r : Circuit} {x : Context} (m : PeerMessage) (hc : r.copper = (s.circuit c).copper)
    (hf : r.fibre = (s.circuit c).fibre) (hx : r.context = some x) (hrole : x.role = .acceptor)
    (hft : r.fibreTransmit = .bridged)
    (hgo : CircuitLaws s → r.copper.isSome = true ∧ r.fibre.isSome = true ∧ r.copperTransmit = true ∧ x.sub = none) :
    Keeps s (((s.putCircuit c r).queueMessage m).acceptorGoesOn c) := by
  have hq := queueMessage_frame (s.putCircuit c r) m
  have hrw : Rewriting c s ((s.putCircuit c r).queueMessage m) := (Rewriting.of_putCircuit hc hf).quiet hq (by decide)
  have hcirc : ((s.putCircuit c r).queueMessage m).circuit c = evaluated s.spans s.lanes r :=
    (hq.sameCircuit (by decide) c).trans (State.putCircuit_circuit_eq ..)
  unfold State.acceptorGoesOn
  split
  · have hput : Keeps s (((s.putCircuit c r).queueMessage m).putCircuit c
        { ((s.putCircuit c r).queueMessage m).circuit c with state := .awaiting, buildOut := 0 }) := by
      refine hrw.keeps (fun k => ?_) rfl rfl
      rw [hcirc]
      obtain ⟨hcop, hfib, hct, hsub⟩ := hgo k
      exact ⟨hcop, hfib, hct, hft, ⟨x, hx, hrole, hsub⟩, rfl⟩
    exact hput.trans (startResponse_keeps _ c)
  · have hx' : (((s.putCircuit c r).queueMessage m).circuit c).context = some x := by rw [hcirc]; exact hx
    unfold State.enterMeasuring
    rw [hx']
    refine hrw.keeps (fun k => ?_) rfl rfl
    rw [hcirc]
    obtain ⟨hcop, hfib, hct, -⟩ := hgo k
    exact ⟨hcop, hfib, hct, hft, ⟨_, rfl, rfl⟩, rfl⟩

/-- R29: acceptance. -/
theorem acceptProposal_keeps {c : CircuitNo} {slot : SlotNo} (hs : (s.circuit c).state = .copper)
    (hfree : (s.circuit c).fibre = none → s.slotTaken slot c = false) (code : TrunkCode) (number : Byte) :
    Keeps s (s.acceptProposal c code slot number) := by
  obtain ⟨hst, hfib⟩ := attachProposed_circuit s c slot
  have hgo : ∀ t : State, (t.circuit c).state = .copper → (t.circuit c).fibre.isSome = true →
      Keeps t (((t.putCircuit c { t.circuit c with fibreTransmit := .bridged, context := some (newContext t.node .acceptor number) }).queueMessage
        (.accept code slot number)).acceptorGoesOn c) := fun t ht hf =>
    by
    refine goOnAsAcceptor_keeps _ rfl rfl rfl rfl rfl fun k => ?_
    obtain ⟨hcop, hct, -⟩ := (k.routes c).inCopper ht
    exact ⟨hcop, hf, hct, rfl⟩
  exact ((attachProposed_keeps hs hfree).trans (hgo _ (hst.trans hs) hfib)).trans
    ((watchEvent_keeps _ c _ _).trans (bridgeWaitTest_keeps _ c))

/-- A PROPOSING record's context has no sub-status. -/
theorem Circuit.lawful.proposingSub {r : Circuit} (h : r.lawful) (hs : r.state = .proposing) {x : Context} (hx : r.context = some x) :
    x.sub = none := by
  simp_all [Circuit.lawful]

/-- R30: a circuit in PROPOSING yields. -/
theorem yieldTo_keeps {c : CircuitNo} (hs : (s.circuit c).state = .proposing) (code : TrunkCode) (slot : SlotNo) (number : Byte) :
    Keeps s (s.yieldTo c code slot number) := by
  unfold State.yieldTo
  split
  next x hx =>
    have hgo : ∀ t : State, t.circuit c = s.circuit c → Keeps t (((t.putCircuit c { t.circuit c with
        fibreTransmit := .bridged, context := some { x with role := .acceptor, number := number, backoff := none } }).queueMessage
        (.accept code slot number)).acceptorGoesOn c) := fun t ht => by
      refine goOnAsAcceptor_keeps _ rfl rfl rfl rfl rfl fun k => ?_
      obtain ⟨hcop, hfib, hct⟩ := (k.routes c).migrating (by simp [Circuit.migrating, ht, hs])
      exact ⟨hcop, hfib, hct, (k.routes c).proposingSub (x := x) (by rw [ht, hs]) (by rw [ht, hx])⟩
    exact ((stopResponse_keeps s c).trans (hgo _ ((stopResponse_frame s c).sameCircuit (by decide) c))).trans
      (bridgeWaitTest_keeps _ c)
  next => exact .refl s

end Sys2Proof.Machine
end

section
/-! SUPPORT. The received messages, the directory's walk and the management links keep the laws of the circuit table and the model's
queue. -/

namespace Sys2Proof.Machine

variable {s t u : State}

/-! ### Received messages (R128 to R138) -/

theorem proposeToCopper_keeps {c : CircuitNo} (hs : (s.circuit c).state = .copper) (code : TrunkCode) (slot : SlotNo) (number : Byte) :
    Keeps s (s.proposeToCopper c code slot number) := by
  unfold State.proposeToCopper
  split
  · exact sendDecline_keeps s _ _ _
  · split
    next n hn =>
      split
      · exact acceptProposal_keeps hs (fun h => by simp [hn] at h) code number
      · exact sendDecline_keeps s _ _ _
    next =>
      split
      · exact sendDecline_keeps s _ _ _
      next ht => exact acceptProposal_keeps hs (fun _ => by simpa using ht) code number

theorem proposeAgain_keeps {c : CircuitNo} {x : Context} (hx : (s.circuit c).context = some x) (code : TrunkCode) (slot : SlotNo)
    (number : Byte) : Keeps s (s.proposeAgain c x code slot number) := by
  have hput : Keeps s (s.putContext c { x with number := number }) := putContext_keeps hx rfl rfl
  unfold State.proposeAgain State.repeatProposal
  split
  · exact sendDecline_keeps s _ _ _
  · split
    · simp only
      split
      · exact (hput.trans (queueMessage_keeps _ _)).trans (startResponse_keeps _ c)
      · exact hput.trans (queueMessage_keeps _ _)
    · exact sendDecline_keeps s _ _ _

theorem takePropose_keeps (c : CircuitNo) (code : TrunkCode) (slot : SlotNo) (number : Byte) (s : State) :
    Keeps s (s.takePropose c code slot number) := by
  unfold State.takePropose
  split
  next h => exact proposeToCopper_keeps h code slot number
  next h =>
    split
    · unfold State.collide
      split
      · exact countInapplicable_keeps s
      · exact yieldTo_keeps h code slot number
    · exact sendDecline_keeps s _ _ _
  next h => exact proposeAgain_keeps h code slot number
  next h => exact proposeAgain_keeps h code slot number
  all_goals exact sendDecline_keeps s _ _ _

theorem receivedPropose_keeps (code : TrunkCode) (slot : SlotNo) (number : Byte) (s : State) :
    Answers (Keeps s) (execReceivedPropose code slot number s) := by
  refine takeMessage_keeps _ (fun s => ?_) s
  unfold State.judgePropose
  split
  · exact sendDecline_keeps s _ _ _
  · exact dispatch_keeps _ _ (fun s => sendDecline_keeps s _ _ _) (fun c s => takePropose_keeps c code slot number s) s

/-- R26: the bridge is made, the CONFIRM sent and MEASURING entered in one step. -/
theorem Rewriting.enterBridgeWait {c : CircuitNo} (h : Rewriting c s t)
    (hgo : CircuitLaws s → (t.circuit c).copper.isSome = true ∧ (t.circuit c).fibre.isSome = true ∧
      (t.circuit c).copperTransmit = true ∧ (t.circuit c).fibreTransmit = .bridged) (hx : (t.circuit c).context.isSome = true) :
    Keeps s (t.enterBridgeWait c) := by
  obtain ⟨x, hx⟩ := Option.isSome_iff_exists.mp hx
  refine .trans ?_ (bridgeWaitTest_keeps _ c)
  unfold State.enterMeasuring
  rw [hx]
  refine h.keeps (fun k => ?_) rfl rfl
  obtain ⟨hc, hf, hct, hft⟩ := hgo k
  exact ⟨hc, hf, hct, hft, ⟨_, rfl, rfl⟩, rfl⟩

theorem accepted_keeps {c : CircuitNo} (hs : (s.circuit c).state = .proposing) (hx : (s.circuit c).context.isSome = true) (number : Byte) :
    Keeps s (s.accepted c number) := by
  have hgo : ∀ t : State, t.circuit c = s.circuit c → Keeps t
      ((if t.node.mode = .threeWay then
          (t.putCircuit c { t.circuit c with fibreTransmit := .bridged }).sendFor c fun code => .confirm code number
        else t.putCircuit c { t.circuit c with fibreTransmit := .bridged }).enterBridgeWait c) := fun t ht => by
    have hput : Rewriting c t (t.putCircuit c { t.circuit c with fibreTransmit := .bridged }) := .of_putCircuit rfl rfl
    have hlaw : CircuitLaws t → (t.circuit c).copper.isSome = true ∧ (t.circuit c).fibre.isSome = true ∧
        (t.circuit c).copperTransmit = true := fun k => (k.routes c).migrating (by simp [Circuit.migrating, ht, hs])
    have hfin : ∀ u : State, Rewriting c t u →
        u.circuit c = (t.putCircuit c { t.circuit c with fibreTransmit := .bridged }).circuit c → Keeps t (u.enterBridgeWait c) :=
      fun u hu hc => by
        rw [State.putCircuit_circuit_eq] at hc
        refine hu.enterBridgeWait (fun k => ?_) (by rw [hc]; exact ht ▸ hx)
        obtain ⟨hcop, hfib, hct⟩ := hlaw k
        rw [hc]
        exact ⟨hcop, hfib, hct, rfl⟩
    split
    · exact hfin _ (hput.quiet (sendFor_frame _ c _) (by decide)) ((sendFor_frame _ c _).sameCircuit (by decide) c)
    · exact hfin _ hput rfl
  exact (stopResponse_keeps s c).trans (hgo _ ((stopResponse_frame s c).sameCircuit (by decide) c))

theorem takeAccept_keeps (c : CircuitNo) (slot : SlotNo) (number : Byte) (s : State) : Keeps s (s.takeAccept c slot number) := by
  unfold State.takeAccept
  split
  next x hx =>
    split
    · exact countStale_keeps s
    · split
      · exact countInapplicable_keeps s
      next hs =>
        split
        · exact countStale_keeps s
        · split
          · exact accepted_keeps (not_not.mp hs) (by rw [hx]; rfl) number
          · exact countInapplicable_keeps s
  next => exact countInapplicable_keeps s

theorem receivedAccept_keeps (code : TrunkCode) (slot : SlotNo) (number : Byte) (s : State) :
    Answers (Keeps s) (execReceivedAccept code slot number s) :=
  takeMessage_keeps _ (dispatch_keeps _ _ countUnresolved_keeps fun c s => takeAccept_keeps c slot number s) s

theorem takeDecline_keeps (c : CircuitNo) (code : TrunkCode) (number : Byte) (reason : DeclineReason) (s : State) :
    Keeps s (s.takeDecline c code number reason) := by
  unfold State.takeDecline
  split
  · exact (setPeer_keeps s _).trans (countInapplicable_keeps _)
  · split
    · split
      · exact countStale_keeps s
      · split
        · exact countInapplicable_keeps s
        next hs =>
          split
          · exact countStale_keeps s
          · exact abandon_keeps (by simp [Circuit.migrating, not_not.mp hs]) _ _
    · exact countInapplicable_keeps s

theorem receivedDecline_keeps (code : TrunkCode) (number : Byte) (reason : DeclineReason) (s : State) :
    Answers (Keeps s) (execReceivedDecline code number reason s) :=
  takeMessage_keeps _ (dispatch_keeps _ _ countUnresolved_keeps fun c s => takeDecline_keeps c code number reason s) s

theorem takeConfirm_keeps (c : CircuitNo) (number : Byte) (s : State) : Keeps s (s.takeConfirm c number) := by
  unfold State.takeConfirm
  split
  · split
    · exact countStale_keeps s
    · split
      next hs =>
        have hc := (stopResponse_frame s c).sameCircuit (by decide) c
        refine (stopResponse_keeps s c).trans (enterBridgeWait_keeps fun k => ?_)
        obtain ⟨hcop, hfib, hct, hft, -⟩ : ((s.stopResponse c).circuit c).copper.isSome = true ∧ _ := by
          simpa only [Circuit.lawful, hc, hs] using k.routes c
        exact ⟨hcop, hc ▸ hfib, hc ▸ hct, hc ▸ hft⟩
      · exact countInapplicable_keeps s
  · exact countInapplicable_keeps s

theorem receivedConfirm_keeps (code : TrunkCode) (number : Byte) (s : State) : Answers (Keeps s) (execReceivedConfirm code number s) :=
  takeMessage_keeps _ (dispatch_keeps _ _ countUnresolved_keeps fun c s => takeConfirm_keeps c number s) s

theorem takeSpliced_keeps (c : CircuitNo) (s : State) : Keeps s (s.takeSpliced c) := by
  unfold State.takeSpliced
  split
  next x hx =>
    have hput : Keeps s (s.putContext c { x with peerSpliced := true }) := putContext_keeps hx rfl rfl
    exact hput.trans (releaseTest_keeps _ c)
  next => exact countInapplicable_keeps s

theorem receivedSpliced_keeps (code : TrunkCode) (s : State) : Answers (Keeps s) (execReceivedSpliced code s) :=
  takeMessage_keeps _ (dispatch_keeps _ _ countUnresolved_keeps takeSpliced_keeps) s

/-- R51: what a received ABANDON reverts keeps its fallback. -/
theorem abandonReverts_kept {r : Circuit} (h : s.abandonReverts r = true) : r.kept = true := by
  simp only [State.abandonReverts, Bool.and_eq_true] at h
  exact h.1.1

theorem takeAbandon_keeps (c : CircuitNo) (code : TrunkCode) (reason : Reason) (s : State) : Keeps s (s.takeAbandon c code reason) := by
  have hpeer := setPeer_keeps s { s.peer with lastAbandon := some ⟨code, reason, s.fc⟩ }
  unfold State.takeAbandon
  simp only
  split
  next h => exact hpeer.trans (abandon_keeps h _ _)
  next =>
    split
    next h => exact hpeer.trans (revertCircuit_keeps (abandonReverts_kept h) _)
    next => exact hpeer.trans (countInapplicable_keeps _)

theorem receivedAbandon_keeps (code : TrunkCode) (reason : Reason) (s : State) : Answers (Keeps s) (execReceivedAbandon code reason s) :=
  takeMessage_keeps _ (dispatch_keeps _ _ countUnresolved_keeps fun c s => takeAbandon_keeps c code reason s) s

theorem takeRevert_keeps (c : CircuitNo) (code : TrunkCode) (s : State) : Keeps s (s.takeRevert c code) := by
  have hback : (s.circuit c).migrating = true → Keeps s ((s.abandon c .peerAbandoned none).queueMessage (.revertDone code)) := fun h =>
    (abandon_keeps h _ _).trans (queueMessage_keeps _ _)
  unfold State.takeRevert
  split
  · split
    next h => exact revertCircuit_keeps h.1 _
    next => exact sendDecline_keeps s _ _ _
  next h => exact hback (by simp [Circuit.migrating, h])
  next h => exact hback (by simp [Circuit.migrating, h])
  next h => exact hback (by simp [Circuit.migrating, h])
  next h => exact hback (by simp [Circuit.migrating, h])
  · exact queueMessage_keeps s _
  · exact sendDecline_keeps s _ _ _

theorem receivedRevert_keeps (code : TrunkCode) (s : State) : Answers (Keeps s) (execReceivedRevert code s) :=
  takeMessage_keeps _ (dispatch_keeps _ _ (fun s => sendDecline_keeps s _ _ _) fun c s => takeRevert_keeps c code s) s

theorem takeRevertDone_keeps (c : CircuitNo) (s : State) : Keeps s (s.takeRevertDone c) := by
  unfold State.takeRevertDone
  split
  next h => exact endDrain_keeps h
  next => exact countInapplicable_keeps s

theorem receivedRevertDone_keeps (code : TrunkCode) (s : State) : Answers (Keeps s) (execReceivedRevertDone code s) :=
  takeMessage_keeps _ (dispatch_keeps _ _ countUnresolved_keeps takeRevertDone_keeps) s

theorem takeRelease_keeps (c : CircuitNo) (s : State) : Keeps s (s.takeRelease c) := by
  unfold State.takeRelease
  split
  next h => exact releaseFallback_keeps (Circuit.kept_iff.mp h).1 _
  next => exact countInapplicable_keeps s

theorem receivedRelease_keeps (code : TrunkCode) (s : State) : Answers (Keeps s) (execReceivedRelease code s) :=
  takeMessage_keeps _ (dispatch_keeps _ _ countUnresolved_keeps takeRelease_keeps) s

/-! ### The directory's walk (R148, R153) -/

theorem setCodes_keeps (l : List (CircuitNo × TrunkCode)) (f : CircuitNo × TrunkCode → Option TrunkCode) (s : State) :
    Keeps s (l.foldl (fun s m => s.setCode m.1 (f m)) s) :=
  .foldl (fun _ m => setCode_keeps m.1 (f m)) l s

theorem removeTrunkAt_keeps (s : State) (b : Fin 128) (w : Fin 4) (e : TrunkEntry) : Keeps s (s.removeTrunkAt b w e) :=
  (setDirectory_keeps s _).trans (setCode_keeps e.circuit none)

theorem pend_keeps (s : State) (port : Port) : Keeps s (s.pend port) := by
  unfold State.pend
  split
  · exact setPort_keeps s port _
  · exact .refl s

/-- R178: a handled command's state is what its rule made of it, but for the ports. -/
theorem finish_keeps {h : Handled} (hk : Keeps s h.1) (port : Port) : Keeps s (h.finish port) := by
  unfold Handled.finish
  split
  · exact hk.trans (reply_keeps _ port _ _)
  · exact hk.trans (pend_keeps _ port)

theorem rangeCheckBucket_keeps (s : State) : Answers (Keeps s) (execRangeCheckBucket s) := by
  have hwalk : ∀ w, Answers (Keeps s) (.next (s.setWalk w)) := fun w => answers_next (setDirectory_keeps s _)
  unfold execRangeCheckBucket
  repeat' split
  · exact hwalk _
  · exact hwalk _
  all_goals exact answers_next (.refl s)

theorem completeRange_keeps (s : State) (e : RangeEntry) (found : Option FoundTrunk) : Keeps s (s.completeRange e found).1 := by
  unfold State.completeRange
  repeat' split
  · exact .refl s
  · exact .refl s
  · exact (setDirectory_keeps s _).trans (setCodes_keeps _ (fun m => some m.2) _)
  · exact .refl s

theorem rangeCheckComplete_keeps (s : State) : Answers (Keeps s) (execRangeCheckComplete s) := by
  unfold execRangeCheckComplete
  repeat' split
  · exact answers_next (finish_keeps ((setDirectory_keeps s _).trans (completeRange_keeps _ _ _)) _)
  all_goals exact answers_next (.refl s)

theorem purgeWay_keeps (b : Fin 128) (p : State × Nat) (w : Fin 4) : Keeps p.1 (purgeWay b p w).1 := by
  unfold purgeWay
  repeat' split
  · exact removeTrunkAt_keeps p.1 b w _
  all_goals exact .refl _

theorem purgeBucket_keeps (s : State) (b : Fin 128) (removed : Nat) : Keeps s (s.purgeBucket b removed).1 := by
  have h : ∀ (l : List (Fin 4)) (p : State × Nat), Keeps p.1 (l.foldl (purgeWay b) p).1 := by
    intro l
    induction l with
    | nil => exact fun p => .refl _
    | cons w l ih => exact fun p => (purgeWay_keeps b p w).trans (ih _)
  exact h _ (s, removed)

theorem purgeBucketRow_keeps (s : State) : Answers (Keeps s) (execPurgeBucket s) := by
  unfold execPurgeBucket
  repeat' split
  · exact answers_next ((purgeBucket_keeps s _ _).trans (setDirectory_keeps _ _))
  all_goals exact answers_next (.refl s)

theorem purgeComplete_keeps (s : State) : Answers (Keeps s) (execPurgeComplete s) := by
  unfold execPurgeComplete
  repeat' split
  · exact answers_next (finish_keeps (setDirectory_keeps s _) _)
  all_goals exact answers_next (.refl s)

/-! ### The management links (R175 to R184) -/

theorem receiveByte_keeps (port : Port) (s : State) (b : LinkByte) : Keeps s (State.receiveByte port s b) :=
  (setPort_keeps s port _).trans (takeRefused_keeps _ port)

theorem managementFrameReceived_keeps (port : Port) (bytes : List LinkByte) (s : State) :
    Answers (Keeps s) (execManagementFrameReceived port bytes s) :=
  answers_next (.foldl (receiveByte_keeps port) bytes s)

theorem interByteTimeout_keeps (port : Port) (s : State) : Answers (Keeps s) (execInterByteTimeout port s) := by
  unfold execInterByteTimeout
  split
  · exact answers_next (setPort_keeps s port _)
  · exact answers_next (.refl s)

theorem startReport_keeps (s : State) (port : Port) : Keeps s (s.startReport port) := by
  unfold State.startReport
  split
  · exact (setLinks_keeps s _).trans (setPort_keeps _ _ _)
  all_goals exact .refl s

theorem frameTransmitStart_keeps (port : Port) (s : State) : Answers (Keeps s) (execFrameTransmitStart port s) := by
  unfold execFrameTransmitStart
  repeat' split
  · exact answers_next (setPort_keeps s port _)
  · exact answers_next (startReport_keeps s port)
  · exact answers_next (.refl s)

theorem frameTransmitEnd_keeps (port : Port) (s : State) : Answers (Keeps s) (execFrameTransmitEnd port s) := by
  unfold execFrameTransmitEnd
  repeat' split
  · exact answers_next ⟨rfl, fun _ => (isReset_resetWith ..).circuitLaws⟩
  · exact answers_next ((setPort_keeps s port _).trans (takeRefused_keeps _ port))
  · exact answers_next (setPort_keeps s port _)
  · exact answers_next (setPort_keeps s port _)
  · exact answers_next (.refl s)

end Sys2Proof.Machine
end

section
/-! SUPPORT. Every host command keeps the laws of the circuit table and the model's queue. -/

namespace Sys2Proof.Machine

variable {s t u : State}

/-! ### How a command runs (R178, R25, R149) -/

theorem takeHead_keeps (s : State) (port : Port) (q : QueuedCommand) (rest : List QueuedCommand) : Keeps s (s.takeHead port q rest) :=
  setPort_keeps s port _

theorem runCommand_keeps {rule : State → Handled} (hr : ∀ s, Keeps s (rule s).1) (c : Instr) (port : Port) (s : State) :
    Answers (Keeps s) (runCommand c port rule s) := by
  unfold runCommand
  split
  next q rest _ =>
    have hq := takeHead_keeps s port q rest
    split
    · split
      · exact answers_next (hq.trans (reply_keeps _ port _ _))
      · exact answers_next (finish_keeps (hq.trans (hr _)) port)
    · exact answers_next (.refl s)
  · exact answers_next (.refl s)

@[simp] theorem answered_fst (s : State) (result : ResultCode) (body : ReplyBody) : (answered s result body).1 = s := rfl

theorem withSelector_keeps {rule : CircuitNo → Handled} (hr : ∀ c, Keeps s (rule c).1) (port : Port) (type : Byte) (sel : Selector) :
    Keeps s (s.withSelector port type sel rule).1 := by
  unfold State.withSelector
  split
  · exact hr _
  · exact .refl s
  · exact recordMiss_keeps s _ _ _

theorem withTrunk_keeps {rule : Fin 128 → Fin 4 → TrunkEntry → Handled} (hr : ∀ b w e, Keeps s (rule b w e).1) (port : Port) (type : Byte)
    (code : TrunkCode) (range : Fin 8 → ReplyBody) : Keeps s (s.withTrunk port type code range rule).1 := by
  unfold State.withTrunk
  repeat' split
  · exact .refl s
  · exact .refl s
  · exact .refl s
  · exact hr _ _ _
  · exact recordMiss_keeps s _ _ _

theorem withLane_keeps {rule : Lane → Handled} (hr : ∀ i, Keeps s (rule i).1) (lane : Nat) : Keeps s (withLane s lane rule).1 := by
  unfold withLane
  split
  · exact hr _
  · exact .refl s

/-! ### ATTACH, DETACH and ACTIVATE (R10 to R13) -/

theorem Circuit.lawful.attached {r : Circuit} (h : r.lawful) (hs : r.state = .vacant ∨ r.state = .copper) (copper : Option CopperPosition)
    (fibre : Option SlotNo) : (r.attached copper fibre).lawful := by
  cases copper <;> rcases hs with hs | hs <;> simp_all [Circuit.lawful, Circuit.attached]

theorem Circuit.attached_copper (r : Circuit) (copper : Option CopperPosition) (fibre : Option SlotNo) :
    (r.attached copper fibre).copper = copper.or r.copper := by cases copper <;> rfl
theorem Circuit.attached_fibre (r : Circuit) (copper : Option CopperPosition) (fibre : Option SlotNo) :
    (r.attached copper fibre).fibre = fibre.or r.fibre := by cases copper <;> rfl

/-- An entry that names no other circuit than one without the attachment is empty. -/
theorem unowned_of_otherOwner {owner : Option CircuitNo} {c : CircuitNo} (h : otherOwner owner c = none) (hc : owner ≠ some c) :
    owner = none := by
  unfold otherOwner at h
  grind

/-- R10, check 5: no named position is another circuit's. -/
theorem occupantOf_none {c : CircuitNo} {copper : Option CopperPosition} {fibre : Option SlotNo} (h : s.occupantOf c copper fibre = none) :
    (∀ p, copper = some p → otherOwner (s.timeslotOwner p) c = none) ∧ ∀ n, fibre = some n → otherOwner (s.slotOwner n) c = none := by
  unfold State.occupantOf at h
  split at h
  · cases h
  next hcop =>
    refine ⟨fun p hp => by simpa [hp] using hcop, fun n hn => ?_⟩
    simpa [hn, -Option.map_eq_none_iff] using Option.map_eq_none_iff.mp h

theorem attach_keeps {c : CircuitNo} {copper : Option CopperPosition} {fibre : Option SlotNo}
    (hs : (s.circuit c).state = .vacant ∨ (s.circuit c).state = .copper)
    (hheld : ¬ ((copper.isSome ∧ (s.circuit c).copper.isSome) ∨ (fibre.isSome ∧ (s.circuit c).fibre.isSome)))
    (hret : s.spanRetired copper = false) (hocc : s.occupantOf c copper fibre = none) : Keeps s (s.attach c copper fibre) := by
  obtain ⟨hcop, hfib⟩ := occupantOf_none hocc
  have hput : Keeps s (((s.markCopper copper (some c)).markFibre fibre (some c)).putCircuit c ((s.circuit c).attached copper fibre)) := by
    refine takePositions_keeps (fun k => (k.routes c).attached hs copper fibre) (Circuit.attached_copper ..) (Circuit.attached_fibre ..)
      (fun p hp => ?_) fun n hn => ?_
    · have hnone : (s.circuit c).copper = none := by simp_all
      refine ⟨hnone, fun k => unowned_of_otherOwner (hcop p hp) fun ho => ?_, by simp_all [State.spanRetired]⟩
      simp [(k.occupancy.timeslots p c).mp ho] at hnone
    · have hnone : (s.circuit c).fibre = none := by simp_all
      refine ⟨hnone, fun k => unowned_of_otherOwner (hfib n hn) fun ho => ?_⟩
      simp [(k.occupancy.slots n c).mp ho] at hnone
  unfold State.attach
  simp only
  split
  · exact hput.trans (.quiet (fillRing_frame _ c) (by decide))
  · exact hput

theorem ruleAttach_keeps (circuit : Nat) (copper : Option (Nat × Nat)) (fibre : Option Nat) (s : State) :
    Keeps s (ruleAttach circuit copper fibre s).1 := by
  unfold ruleAttach
  split
  · exact .refl s
  · split
    next c p n _ _ _ =>
      unfold State.attachChecked
      simp only
      split
      · exact .refl s
      next hs =>
        split
        · exact .refl s
        next hheld =>
          split
          · exact .refl s
          next hret =>
            split
            · exact .refl s
            next hocc => exact attach_keeps (by tauto) hheld (by simpa using hret) hocc
    · exact .refl s

theorem Circuit.lawful.withoutFibre {r : Circuit} (h : r.lawful) (hd : r.fibreDetachable = true) : r.withoutFibre.lawful := by
  cases hs : r.state <;> cases hx : r.context <;>
    simp_all [Circuit.lawful, Circuit.fibreDetachable, Circuit.withoutFibre, Circuit.released]

theorem Circuit.lawful.withoutCopper {r : Circuit} (h : r.lawful) (hs : r.state = .copper) : r.withoutCopper.lawful := by
  obtain ⟨-, -, hft, hx, -⟩ := h.inCopper hs
  exact ⟨rfl, rfl, hft, hx, rfl⟩

/-- R11, R12: the record that a DETACH leaves. -/
def Circuit.detached (r : Circuit) (copper fibre : Bool) : Circuit :=
  let r := if fibre then r.withoutFibre else r
  if copper then r.withoutCopper else r

theorem Circuit.withoutFibre_of_copper {r : Circuit} (hs : r.state = .copper) : r.withoutFibre = { r with fibre := none } := by
  simp [Circuit.withoutFibre, hs]

theorem Circuit.lawful.detached {r : Circuit} (h : r.lawful) {copper fibre : Bool} (hd : r.detachable copper fibre = true) :
    (r.detached copper fibre).lawful := by
  simp only [Circuit.detachable, Bool.and_eq_true, Bool.or_eq_true, Bool.not_eq_true', beq_iff_eq] at hd
  obtain ⟨hcop, hfib⟩ := hd
  cases copper <;> cases fibre
  · exact h
  · exact h.withoutFibre (by simpa using hfib)
  · exact h.withoutCopper (by simpa using hcop)
  · refine (h.withoutFibre (by simpa using hfib)).withoutCopper ?_
    have hs : r.state = .copper := by simpa using hcop
    rw [Circuit.withoutFibre_of_copper hs, ← hs]

theorem Circuit.detached_copper (r : Circuit) (copper fibre : Bool) :
    (r.detached copper fibre).copper = if copper then none else r.copper := by
  unfold Circuit.detached Circuit.withoutFibre Circuit.withoutCopper
  cases copper <;> cases fibre
  all_goals simp
  all_goals split <;> rfl

theorem Circuit.detached_fibre (r : Circuit) (copper fibre : Bool) :
    (r.detached copper fibre).fibre = if fibre then none else r.fibre := by
  unfold Circuit.detached Circuit.withoutFibre Circuit.withoutCopper
  cases copper <;> cases fibre
  all_goals simp
  all_goals split <;> rfl

theorem detach_eq (s : State) (c : CircuitNo) (copper fibre : Bool) : s.detach c copper fibre =
    ((s.markCopper (if copper then (s.circuit c).copper else none) none).markFibre (if fibre then (s.circuit c).fibre else none)
      none).putCircuit c ((s.circuit c).detached copper fibre) := by
  cases copper <;> cases fibre <;> rfl

theorem detach_keeps {c : CircuitNo} {copper fibre : Bool} (hd : (s.circuit c).detachable copper fibre = true) :
    Keeps s (s.detach c copper fibre) := by
  rw [detach_eq]
  refine rewrite_keeps (fun k => (k.routes c).detached hd) (fun k => ?_) (fun k => ?_) fun _ _ => .inl rfl
  · cases copper
    · intro q d
      have := k.occupancy.timeslots q d
      grind [Circuit.detached_copper]
    · exact Paired.free k.occupancy.timeslots c (fun _ => rfl) fun d => by rw [Circuit.detached_copper]; rfl
  · cases fibre
    · intro m d
      have := k.occupancy.slots m d
      grind [Circuit.detached_fibre]
    · exact Paired.free k.occupancy.slots c (fun _ => rfl) fun d => by rw [Circuit.detached_fibre]; rfl

theorem ruleDetach_keeps (circuit : Nat) (copper fibre : Bool) (s : State) : Keeps s (ruleDetach circuit copper fibre s).1 := by
  unfold ruleDetach
  split
  · exact .refl s
  · split
    · split
      next h => exact detach_keeps h
      next => exact .refl s
    · exact .refl s

theorem activate_keeps {c : CircuitNo} (hs : (s.circuit c).state = .vacant) (hf : (s.circuit c).fibre ≠ none) :
    Keeps s (s.activate c) := by
  have hput : Keeps s (s.putCircuit c { s.circuit c with state := .fibre, context := none, fibreTransmit := .bridged }) := by
    refine putCircuit_keeps (fun k => ?_) rfl rfl
    obtain ⟨hcop, hct, -⟩ := (k.routes c).inVacant hs
    exact ⟨Option.isSome_iff_ne_none.mpr hf, rfl, hcop, hct⟩
  exact hput.trans (writeOutcome_keeps _ c _)

theorem ruleActivate_keeps (circuit : Nat) (s : State) : Keeps s (ruleActivate circuit s).1 := by
  unfold ruleActivate
  split
  · split
    · exact .refl s
    next h =>
      simp only [ne_eq, not_or, not_not] at h
      split
      · exact .refl s
      · exact activate_keeps h.1 h.2.1
  · exact .refl s

/-! ### SET CIRCUIT and QUERY CIRCUIT (R20, R21) -/

theorem setOptions_keeps (s : State) (c : CircuitNo) (notify autoRelease : Option Bool) (hold : Option Nat) (inhibit : Option Bool) :
    Keeps s (s.setOptions c notify autoRelease hold inhibit) := by
  have hput : Keeps s (s.putCircuit c ((s.circuit c).withOptions notify autoRelease hold inhibit)) :=
    putCircuit_keeps (fun k => k.routes c) rfl rfl
  unfold State.setOptions
  simp only
  split
  · exact hput.trans (releaseTest_keeps _ c)
  · exact hput

theorem ruleSetCircuit_keeps (circuit : Nat) (notify autoRelease : Option Bool) (hold : Option Nat) (inhibit : Option Bool) (s : State) :
    Keeps s (ruleSetCircuit circuit notify autoRelease hold inhibit s).1 := by
  unfold ruleSetCircuit
  repeat' split
  · exact .refl s
  · exact setOptions_keeps s _ _ _ _ _
  · exact .refl s

theorem clearChanged_keeps (s : State) (c : CircuitNo) : Keeps s (s.clearChanged c) := putCircuit_keeps (fun k => k.routes c) rfl rfl

theorem ruleQueryCircuit_keeps (circuit : Nat) (clear : Bool) (s : State) : Keeps s (ruleQueryCircuit circuit clear s).1 := by
  unfold ruleQueryCircuit
  split
  next c _ =>
    cases clear
    · exact .refl s
    · exact clearChanged_keeps s c
  next => exact .refl s

/-! ### The commands on a migration and its fallback (R25, R39, R43, R47, R50) -/

theorem ruleMigrate_keeps (port : Port) (sel : Selector) (s : State) : Keeps s (ruleMigrate port sel s).1 := by
  refine withSelector_keeps (fun c => ?_) _ _ _
  unfold State.migrate
  split
  · exact .refl s
  next h => exact startMigration_keeps h

theorem ruleAbandon_keeps (port : Port) (sel : Selector) (s : State) : Keeps s (ruleAbandon port sel s).1 := by
  refine withSelector_keeps (fun c => ?_) _ _ _
  split
  next h => exact abandon_keeps h .commanded none
  next => exact .refl s

theorem ruleRevert_keeps (port : Port) (sel : Selector) (s : State) : Keeps s (ruleRevert port sel s).1 := by
  refine withSelector_keeps (fun c => ?_) _ _ _
  unfold State.revert
  split
  · exact .refl s
  next hs =>
    split
    · exact .refl s
    next hr =>
      split
      · exact .refl s
      · refine revertCircuit_keeps (Circuit.kept_iff.mpr ⟨not_not.mp hs, ?_⟩) .commanded
        cases hx : (s.circuit c).context with
        | none => simp [Circuit.released, not_not.mp hs, hx] at hr
        | some x => exact ⟨x, rfl⟩

theorem ruleRelease_keeps (port : Port) (sel : Selector) (s : State) : Keeps s (ruleRelease port sel s).1 := by
  refine withSelector_keeps (fun c => ?_) _ _ _
  split
  next h =>
    simp only [Circuit.releasable, Bool.and_eq_true] at h
    exact releaseFallback_keeps (Circuit.kept_iff.mp h.1).1 _
  next => exact .refl s

theorem ruleResume_keeps (port : Port) (sel : Selector) (s : State) : Keeps s (ruleResume port sel s).1 := by
  refine withSelector_keeps (fun c => ?_) _ _ _
  split
  next x hs hx =>
    split
    · have hput : Keeps s (s.putContext c { x with held := false }) := putContext_keeps hx rfl rfl
      exact hput.trans (alignedEvaluation_keeps (by rw [putContext_state, hs]))
    · exact .refl s
  next => exact .refl s

/-! ### EXCHANGE (R171, R172) -/

theorem Circuit.lawful.withCopper {r : Circuit} (h : r.lawful) (hs : r.settled = true) (copper : Option CopperPosition) :
    (r.withCopper copper).lawful := by
  cases hst : r.state <;> cases copper <;> simp_all [Circuit.lawful, Circuit.withCopper, Circuit.settled]

theorem Circuit.lawful.withFibre {r : Circuit} (h : r.lawful) (hs : r.settled = true) (fibre : Option SlotNo) :
    ({ r with fibre := fibre } : Circuit).lawful := by
  cases hst : r.state <;> simp_all [Circuit.lawful, Circuit.settled]

/-- Two records written one after the other. -/
theorem putTwo_circuit {a b : CircuitNo} (hab : a ≠ b) (x y : Circuit) (d : CircuitNo) :
    ((s.putCircuit a x).putCircuit b y).circuit d =
      if d = b then evaluated s.spans s.lanes y else if d = a then evaluated s.spans s.lanes x else s.circuit d := by
  rw [putCircuit_circuit, putCircuit_circuit]
  by_cases hb : d = b <;> by_cases ha : d = a <;> simp_all [eq_comm, State.putCircuit]

/-- R9, R172: two records and the occupancy entries of a side written in one step, whose entries and attachments go on naming each
other. -/
theorem putTwo_keeps {a b : CircuitNo} (hab : a ≠ b) {x y : Circuit} (hf : SameBut [.occupancy] s t)
    (hx : CircuitLaws s → x.lawful) (hy : CircuitLaws s → y.lawful)
    (hcop : CircuitLaws s → Paired t.timeslotOwner
      fun d => if d = b then y.copper else if d = a then x.copper else (s.circuit d).copper)
    (hfib : CircuitLaws s → Paired t.slotOwner fun d => if d = b then y.fibre else if d = a then x.fibre else (s.circuit d).fibre)
    (hret : CircuitLaws s → ∀ n, (s.span n).state = .retired → ∀ i : TimeslotNo, t.timeslotOwner ⟨n, i⟩ = none) :
    Keeps s ((t.putCircuit a x).putCircuit b y) := by
  obtain ⟨w, hw⟩ : ∃ w, w = (t.putCircuit a x).putCircuit b y := ⟨_, rfl⟩
  have hframe : SameBut [.circuits] t w := hw ▸ (putCircuit_frame t a x).trans (putCircuit_frame _ b y)
  have hcirc : ∀ d, w.circuit d = if d = b then evaluated t.spans t.lanes y else if d = a then evaluated t.spans t.lanes x else s.circuit d :=
    fun d => by rw [hw, putTwo_circuit hab, hf.sameCircuit (by decide)]
  have hsp : w.spans = t.spans := by rw [hw]; rfl
  have hln : w.lanes = t.lanes := by rw [hw]; rfl
  rw [← hw]
  refine .framed (l := [.circuits, .occupancy]) ((hf.mono (by decide)).trans (hframe.mono (by decide))) fun h =>
    ⟨⟨fun d => ?_, fun q d => ?_, fun m d => ?_, fun m hm i => ?_⟩, fun d => ?_⟩
  · rw [hcirc]; split
    · exact hy h
    · split
      · exact hx h
      · exact h.routes d
  · have := hcop h q d
    have ho : w.timeslotOwner q = t.timeslotOwner q := by simp [State.timeslotOwner, (hframe.sameOwner (by decide)).1]
    rw [ho, hcirc]; grind [evaluated]
  · have := hfib h m d
    have ho : w.slotOwner m = t.slotOwner m := by simp [State.slotOwner, (hframe.sameOwner (by decide)).2]
    rw [ho, hcirc]; grind [evaluated]
  · have ho : w.timeslotOwner ⟨m, i⟩ = t.timeslotOwner ⟨m, i⟩ := by simp [State.timeslotOwner, (hframe.sameOwner (by decide)).1]
    rw [ho]
    exact hret h m (by rw [← hf.sameSpan (by decide), ← hframe.sameSpan (by decide)]; exact hm) i
  · have he : AllEvaluated t := h.conditioned.congr (hf.sameCircuits (by decide)) (fun n => by rw [hf.sameSpan (by decide)])
      (LaneInterface.anyUp_congr (by rw [(hf .laneRecords (by decide) : t.lanes.a = _ ∧ _).1])
        (by rw [(hf .laneRecords (by decide) : _ ∧ t.lanes.b = _).2]))
    have := he d
    rw [hf.sameCircuit (by decide)] at this
    rw [hcirc, hsp, hln]
    grind [evaluated_evaluated]

theorem markCopper_keepsFrame (s : State) (p q : Option CopperPosition) (c d : Option CircuitNo) :
    SameBut [.occupancy] s ((s.markCopper p c).markCopper q d) := (markCopper_frame s p c).trans (markCopper_frame _ q d)

theorem exchangeCopper_keeps {a b : CircuitNo} (hab : a ≠ b) (ha : (s.circuit a).settled = true) (hb : (s.circuit b).settled = true) :
    Keeps s (s.exchangeCopper a b) := by
  have howner : ∀ q, ((s.markCopper (s.circuit a).copper (some b)).markCopper (s.circuit b).copper (some a)).timeslotOwner q =
      if (s.circuit b).copper = some q then some a else if (s.circuit a).copper = some q then some b else s.timeslotOwner q :=
    fun q => by rw [markCopper_owner, markCopper_owner]
  refine putTwo_keeps hab (markCopper_keepsFrame s _ _ _ _) (fun k => (k.routes a).withCopper ha _) (fun k => (k.routes b).withCopper hb _)
    (fun k => Paired.swap k.occupancy.timeslots hab howner fun d => rfl) (fun k m d => ?_) fun k n hn i => ?_
  · have := k.occupancy.slots m d
    simp only [markCopper_slotOwner, Circuit.withCopper]
    grind
  · have hfree := k.occupancy.retired n hn i
    have hne : ∀ c, (s.circuit c).copper ≠ some ⟨n, i⟩ := fun c hc => by simp [(k.occupancy.timeslots ⟨n, i⟩ c).mpr hc] at hfree
    rw [howner, if_neg (hne b), if_neg (hne a), hfree]

theorem fillAttachedRing_keeps (s : State) (c : CircuitNo) : Keeps s (s.fillAttachedRing c) := by
  unfold State.fillAttachedRing
  split
  · exact .quiet (fillRing_frame s c) (by decide)
  · exact .refl s

theorem exchangeFibre_keeps {a b : CircuitNo} (hab : a ≠ b) (ha : (s.circuit a).settled = true) (hb : (s.circuit b).settled = true) :
    Keeps s (s.exchangeFibre a b) := by
  have howner : ∀ m, ((s.markFibre (s.circuit a).fibre (some b)).markFibre (s.circuit b).fibre (some a)).slotOwner m =
      if (s.circuit b).fibre = some m then some a else if (s.circuit a).fibre = some m then some b else s.slotOwner m :=
    fun m => by rw [markFibre_owner, markFibre_owner]
  have htwo := putTwo_keeps (s := s) hab ((markFibre_frame s (s.circuit a).fibre (some b)).trans (markFibre_frame _ (s.circuit b).fibre (some a)))
    (x := { s.circuit a with fibre := (s.circuit b).fibre }) (y := { s.circuit b with fibre := (s.circuit a).fibre })
    (fun k => (k.routes a).withFibre ha _) (fun k => (k.routes b).withFibre hb _) (fun k q d => by
      have := k.occupancy.timeslots q d
      simp only [markFibre_timeslotOwner]
      grind) (fun k => Paired.swap k.occupancy.slots hab howner fun d => rfl) fun k n hn i => by
      simpa using k.occupancy.retired n hn i
  exact (htwo.trans (fillAttachedRing_keeps _ a)).trans (fillAttachedRing_keeps _ b)

theorem ruleExchange_keeps (kind a stateA b stateB : Nat) (s : State) : Keeps s (ruleExchange kind a stateA b stateB s).1 := by
  unfold ruleExchange
  repeat' split
  case isFalse =>
    rename_i hab _ hset
    simp only [not_or, Bool.not_eq_false] at hset
    unfold State.exchange
    repeat' split
    · exact .refl s
    · exact .refl s
    · exact exchangeCopper_keeps hab hset.1 hset.2
    · exact .refl s
    · exact exchangeFibre_keeps hab hset.1 hset.2
  all_goals exact .refl s

end Sys2Proof.Machine
end

section
/-! SUPPORT. The commands of the other blocks keep the laws of the circuit table and the model's queue; then so does every row. -/

namespace Sys2Proof.Machine

variable {s t u : State}

/-! ### Batches and watches (chapter 8) -/

theorem examineEntries_keeps {port : Port} {h : Handled} : ∀ (entries : List Selector) (done : List CircuitNo),
    s.examineEntries port done entries = .error h → Keeps s h.1
  | [], _, e => by cases e
  | entry :: rest, done, e => by
    unfold State.examineEntries at e
    repeat' split at e
    · cases e
      cases entry
      · exact .refl s
      · exact recordMiss_keeps s _ _ _
    · cases e; exact .refl s
    · cases e; exact .refl s
    · cases e; exact .refl s
    · exact examineEntries_keeps rest _ e

theorem ruleOpenBatch_keeps (port : Port) (tag : Byte) (batch mode limit : Nat) (entries : List Selector) (s : State) :
    Keeps s (ruleOpenBatch port tag batch mode limit entries s).1 := by
  unfold ruleOpenBatch
  split
  · exact .refl s
  · split
    · exact .refl s
    · split
      · exact .refl s
      · split
        · exact .refl s
        · split
          · exact .refl s
          · split
            · exact .refl s
            · split
              next e => exact examineEntries_keeps _ _ e
              next => exact openBatch_keeps s _ _

theorem ruleCancelBatch_keeps (batch : Nat) (s : State) : Keeps s (ruleCancelBatch batch s).1 := by
  unfold ruleCancelBatch
  split
  · exact .refl s
  · split
    next id _ _ b _ => exact (setBatch_keeps s id (some b.cancelled)).trans (closeBatch_keeps _ id .cancelled)
    next => exact .refl s

theorem ruleBatchStatus_keeps (batch : Nat) (s : State) : Keeps s (ruleBatchStatus batch s).1 := by
  unfold ruleBatchStatus
  split <;> exact .refl s

theorem setWatches_keeps (s : State) (w : WatchUnit) : Keeps s (s.setWatches w) := .congr rfl rfl rfl rfl (fun _ => rfl) rfl

theorem ruleSetWatch_keeps (watch : Nat) (p : WatchSettings) (s : State) : Keeps s (ruleSetWatch watch p s).1 := by
  unfold ruleSetWatch
  repeat' split
  · exact .refl s
  · exact .refl s
  · exact setWatches_keeps s _

theorem ruleWatchStatus_keeps (clear : Nat) (s : State) : Keeps s (ruleWatchStatus clear s).1 := by
  unfold ruleWatchStatus
  split
  · exact .refl s
  · exact setWatches_keeps s _

/-! ### The node, the peer link and alignment (chapters 2, 3 and 6) -/

theorem rehello_keeps (s : State) : Keeps s s.rehello := by
  unfold State.rehello
  split
  · exact setPeer_keeps s _
  · exact sendHello_keeps s

theorem writeNode_keeps (s : State) (p : NodeSettings) : Keeps s (s.writeNode p) := by
  have hchange : ∀ s : State, Keeps s s.localChange := fun s =>
    ((rehello_keeps s).trans (setPeer_keeps _ _)).trans (linkDown_keeps _ .localChange)
  unfold State.writeNode
  simp only
  split
  · exact (setNode_keeps s _).trans (hchange _)
  · exact setNode_keeps s _

theorem ruleSetNode_keeps (p : NodeSettings) (s : State) : Keeps s (ruleSetNode p s).1 := by
  unfold ruleSetNode
  repeat' split
  · exact .refl s
  · exact .refl s
  · exact writeNode_keeps s p

theorem rulePeerStatus_keeps (clear : Bool) (s : State) : Keeps s (rulePeerStatus clear s).1 := by
  cases clear
  · exact .refl s
  · exact setPeer_keeps s _

theorem ruleQueryAlignment_keeps (circuit first : Option Nat) (s : State) : Keeps s (ruleQueryAlignment circuit first s).1 := by
  unfold ruleQueryAlignment
  repeat' split
  all_goals exact .refl s

/-! ### Spans (chapter 4) -/

theorem ruleSetSpan_keeps (span : Nat) (p : SpanSettings) (s : State) : Keeps s (ruleSetSpan span p s).1 := by
  unfold ruleSetSpan
  repeat' split
  · exact .refl s
  next n _ _ =>
    have h : Keeps s (s.setSpan n ((s.span n).applySettings p)) := setSpan_keeps rfl
    exact h
  · exact .refl s

theorem ruleSpanStatus_keeps (span : Nat) (s : State) : Keeps s (ruleSpanStatus span s).1 := by
  unfold ruleSpanStatus
  split <;> exact .refl s

theorem ruleRestartSpan_keeps (span : Nat) (s : State) : Keeps s (ruleRestartSpan span s).1 := by
  unfold ruleRestartSpan
  split
  next n _ => exact restart_keeps s n
  next => exact .refl s

theorem ruleRetireSpan_keeps (span : Nat) (s : State) : Keeps s (ruleRetireSpan span s).1 := by
  unfold ruleRetireSpan
  split
  next n _ =>
    split
    · exact .refl s
    · split
      · exact .refl s
      next h => exact retireSpan_keeps (not_not.mp h)
  next => exact .refl s

/-! ### Lanes (chapter 5) -/

theorem ruleSelect_keeps (lane : Nat) (s : State) : Keeps s (ruleSelect lane s).1 := by
  refine withLane_keeps (fun i => ?_) lane
  repeat' split
  · exact .refl s
  · exact .refl s
  · exact .refl s
  · exact .refl s
  · rw [answered_fst]
    exact changeWorking_keeps s .select

theorem setLockout_keeps (s : State) (i : Lane) (flag : Bool) (cause : WorkingCause) : Keeps s (s.setLockout i flag cause) := by
  have h : Keeps s (s.setLane i { s.lane i with lockout := flag }) := setLane_keeps rfl
  exact h.trans (workingTest_keeps _ cause)

theorem setShutdown_keeps (s : State) (i : Lane) (flag : Bool) : Keeps s (s.setShutdown i flag) := setLane_keeps rfl

theorem ruleLockout_keeps (lane : Nat) (s : State) : Keeps s (ruleLockout lane s).1 := by
  refine withLane_keeps (fun i => ?_) lane
  repeat' split
  · exact .refl s
  · exact .refl s
  · exact setLockout_keeps s i true .lockout

theorem ruleClear_keeps (lane : Nat) (s : State) : Keeps s (ruleClear lane s).1 := by
  refine withLane_keeps (fun i => ?_) lane
  split
  · exact setLockout_keeps s i false .automatic
  · exact .refl s

theorem ruleShut_keeps (lane : Nat) (s : State) : Keeps s (ruleShut lane s).1 := by
  refine withLane_keeps (fun i => ?_) lane
  repeat' split
  · exact .refl s
  · exact .refl s
  · exact setShutdown_keeps s i true

theorem ruleRestore_keeps (lane : Nat) (s : State) : Keeps s (ruleRestore lane s).1 :=
  withLane_keeps (fun i => setShutdown_keeps s i false) lane

theorem ruleHoldOff_keeps (seconds : Nat) (s : State) : Keeps s (ruleHoldOff seconds s).1 :=
  setLanes_keeps s { s.lanes with holdOffSeconds := min seconds 60 } rfl rfl

/-- R72: of a context a load of FC moves the target alone. -/
theorem Circuit.lawful.shifted {r : Circuit} (h : r.lawful) (shift : FrameCount) :
    ({ r with context := r.context.map fun x => { x with target := x.target.map (· + shift) } } : Circuit).lawful := by
  cases hx : r.context with
  | none => cases r; cases hx; exact h
  | some x => exact h.withContext hx rfl rfl

theorem shiftFrameClock_keeps (s : State) (shift : FrameCount) : Keeps s (s.shiftFrameClock shift) := by
  have hcirc : ∀ c, (s.shiftFrameClock shift).circuit c =
      { s.circuit c with context := (s.circuit c).context.map fun x => { x with target := x.target.map (· + shift) } } := fun c =>
    Table.get_map ..
  refine .ofRecords rfl (fun c h => ?_) (fun c => ?_) (fun c => ?_) (fun c => ?_) (fun c => ?_) rfl rfl (fun _ => rfl) rfl
  · rw [hcirc]; exact h.shifted shift
  all_goals rw [hcirc]

theorem ruleSetFrameClock_keeps (value : FrameCount) (s : State) : Keeps s (ruleSetFrameClock value s).1 :=
  (shiftFrameClock_keeps s (value - s.fc)).trans (setLanes_keeps _ _ rfl rfl)

/-! ### The directory (chapter 7) -/

theorem ruleAddTrunk_keeps (code : TrunkCode) (circuit : Nat) (pinned : Option Bool) (s : State) :
    Keeps s (ruleAddTrunk code circuit pinned s).1 := by
  unfold ruleAddTrunk
  repeat' split
  · exact .refl s
  · exact .refl s
  · unfold State.addTrunk
    repeat' split
    · exact .refl s
    · exact .refl s
    · exact .refl s
    · exact (setDirectory_keeps s _).trans (setCode_keeps _ _)
    · exact .refl s
  · exact .refl s

theorem ruleAddRange_keeps (port : Port) (tag : Byte) (e : RangeEntry) (s : State) : Keeps s (ruleAddRange port tag e s).1 := by
  unfold ruleAddRange
  repeat' split
  case h_2 => exact setDirectory_keeps s _
  all_goals exact .refl s

theorem ruleRemoveTrunk_keeps (port : Port) (code : TrunkCode) (s : State) : Keeps s (ruleRemoveTrunk port code s).1 := by
  refine withTrunk_keeps (fun b w e => ?_) _ _ _ _
  split
  · exact .refl s
  · exact removeTrunkAt_keeps s b w e

theorem ruleRemoveRange_keeps (index : Nat) (s : State) : Keeps s (ruleRemoveRange index s).1 := by
  unfold ruleRemoveRange
  split
  · split
    · exact .refl s
    · split
      · split
        · exact .refl s
        · exact (setDirectory_keeps s _).trans (setCodes_keeps _ (fun _ => none) _)
      · exact .refl s
  · exact .refl s

theorem rulePin_keeps (port : Port) (type : Byte) (code : TrunkCode) (flag : Bool) (s : State) :
    Keeps s (rulePin port type code flag s).1 :=
  withTrunk_keeps (fun _ _ _ => setDirectory_keeps s _) _ _ _ _

theorem rulePurge_keeps (port : Port) (tag : Byte) (s : State) : Keeps s (rulePurge port tag s).1 := by
  unfold rulePurge
  split
  · exact .refl s
  · exact setDirectory_keeps s _

theorem lookupCode_keeps (s : State) (port : Port) (code : TrunkCode) : Keeps s (s.lookupCode port code).1 := by
  unfold State.lookupCode
  simp only
  repeat' split
  · exact .refl s
  · exact .refl s
  · exact recordMiss_keeps s _ _ _

theorem ruleLookup_keeps (port : Port) (operand : LookupOperand) (s : State) : Keeps s (ruleLookup port operand s).1 := by
  unfold ruleLookup
  split
  · exact .refl s
  · split
    · exact .refl s
    · exact lookupCode_keeps s port _
  all_goals
    repeat' split
    all_goals exact .refl s

theorem ruleQueryMiss_keeps (clear : Bool) (s : State) : Keeps s (ruleQueryMiss clear s).1 := by
  cases clear
  · exact .refl s
  · exact setDirectory_keeps s _

theorem ruleLinkStatus_keeps (clear : Bool) (s : State) : Keeps s (ruleLinkStatus clear s).1 := by
  cases clear
  · exact .refl s
  · exact setLinks_keeps s _

/-! ### Every row -/

/-- R5, R9, R17, with the model's queue: what every command and every event does. -/
theorem exec_keeps (i : Instr) (s : State) : Answers (Keeps s) (exec i s) := by
  cases i with
  | powerOnReset primary craft => exact powerOnReset_keeps primary craft s
  | startUpEnd => exact startUpEnd_keeps s
  | siteFrame switch => exact siteFrame_keeps switch s
  | targetReached c => exact targetReached_keeps c s
  | switchLineConditionChange c => exact switchLineConditionChange_keeps c s
  | spanFrameReceived n f => exact spanFrameReceived_keeps n f s
  | frameAlignmentFound n => exact frameAlignmentFound_keeps n s
  | multiframeHuntLoss n => exact multiframeHuntLoss_keeps n s
  | spanUp n => exact spanUp_keeps n s
  | spanLossOfSignal n => exact spanLossOfSignal_keeps n s
  | spanBadAlignment n => exact spanBadAlignment_keeps n s
  | laneFrameReceived i f => exact laneFrameReceived_keeps i f s
  | slotLineConditionChange n => exact slotLineConditionChange_keeps n s
  | bridgeFlagRecognised n => exact bridgeFlagRecognised_keeps n s
  | laneUp i => exact laneUp_keeps i s
  | laneLossOfLight i => exact laneLossOfLight_keeps i s
  | laneAlignmentLoss i => exact laneAlignmentLoss_keeps i s
  | laneDegraded i => exact laneDegraded_keeps i s
  | errorIntervalEnd i => exact errorIntervalEnd_keeps i s
  | holdOffExpiry => exact holdOffExpiry_keeps s
  | duplicateWindowExpiry => exact duplicateWindowExpiry_keeps s
  | matcherStart => exact matcherStart_keeps s
  | primingComplete v => exact primingComplete_keeps v s
  | windowEnd v => exact windowEnd_keeps v s
  | matchOutcome v => exact matchOutcome_keeps v s
  | servicePauseEnd => exact servicePauseEnd_keeps s
  | responseTimerExpiry c => exact responseTimerExpiry_keeps c s
  | retryBackoffExpiry c => exact retryBackoffExpiry_keeps c s
  | bridgeLimitExpiry c => exact bridgeLimitExpiry_keeps c s
  | deferLimitExpiry c => exact deferLimitExpiry_keeps c s
  | fallbackHoldExpiry c => exact fallbackHoldExpiry_keeps c s
  | drainEnd c => exact drainEnd_keeps c s
  | helloTimerExpiry => exact helloTimerExpiry_keeps s
  | silenceExpiry => exact silenceExpiry_keeps s
  | receivedHello node mode => exact receivedHello_keeps node mode s
  | receivedPropose code slot number => exact receivedPropose_keeps code slot number s
  | receivedAccept code slot number => exact receivedAccept_keeps code slot number s
  | receivedDecline code number reason => exact receivedDecline_keeps code number reason s
  | receivedConfirm code number => exact receivedConfirm_keeps code number s
  | receivedSpliced code => exact receivedSpliced_keeps code s
  | receivedAbandon code reason => exact receivedAbandon_keeps code reason s
  | receivedRevert code => exact receivedRevert_keeps code s
  | receivedRevertDone code => exact receivedRevertDone_keeps code s
  | receivedRelease code => exact receivedRelease_keeps code s
  | attach port tag circuit copper fibre => exact runCommand_keeps (ruleAttach_keeps circuit copper fibre) _ port s
  | detach port tag circuit copper fibre => exact runCommand_keeps (ruleDetach_keeps circuit copper fibre) _ port s
  | activate port tag circuit => exact runCommand_keeps (ruleActivate_keeps circuit) _ port s
  | setCircuit port tag circuit notify autoRelease hold inhibit =>
    exact runCommand_keeps (ruleSetCircuit_keeps circuit notify autoRelease hold inhibit) _ port s
  | queryCircuit port tag circuit clear => exact runCommand_keeps (ruleQueryCircuit_keeps circuit clear) _ port s
  | migrate port tag circuit => exact runCommand_keeps (ruleMigrate_keeps port circuit) _ port s
  | abandon port tag circuit => exact runCommand_keeps (ruleAbandon_keeps port circuit) _ port s
  | revert port tag circuit => exact runCommand_keeps (ruleRevert_keeps port circuit) _ port s
  | release port tag circuit => exact runCommand_keeps (ruleRelease_keeps port circuit) _ port s
  | resume port tag circuit => exact runCommand_keeps (ruleResume_keeps port circuit) _ port s
  | setNode port tag settings => exact runCommand_keeps (ruleSetNode_keeps settings) _ port s
  | queryAlignment port tag circuit first => exact runCommand_keeps (ruleQueryAlignment_keeps circuit first) _ port s
  | setSpan port tag span settings => exact runCommand_keeps (ruleSetSpan_keeps span settings) _ port s
  | spanStatus port tag span => exact runCommand_keeps (ruleSpanStatus_keeps span) _ port s
  | restartSpan port tag span => exact runCommand_keeps (ruleRestartSpan_keeps span) _ port s
  | retireSpan port tag span => exact runCommand_keeps (ruleRetireSpan_keeps span) _ port s
  | laneControlSelect port tag lane => exact runCommand_keeps (ruleSelect_keeps lane) _ port s
  | laneControlLockout port tag lane => exact runCommand_keeps (ruleLockout_keeps lane) _ port s
  | laneControlClear port tag lane => exact runCommand_keeps (ruleClear_keeps lane) _ port s
  | laneControlShut port tag lane => exact runCommand_keeps (ruleShut_keeps lane) _ port s
  | laneControlRestore port tag lane => exact runCommand_keeps (ruleRestore_keeps lane) _ port s
  | laneControlHoldOff port tag seconds => exact runCommand_keeps (ruleHoldOff_keeps seconds) _ port s
  | laneStatus port tag => exact runCommand_keeps (fun s => .refl s) _ port s
  | setFrameClock port tag value => exact runCommand_keeps (ruleSetFrameClock_keeps value) _ port s
  | peerStatus port tag clear => exact runCommand_keeps (rulePeerStatus_keeps clear) _ port s
  | addTrunk port tag code circuit pinned => exact runCommand_keeps (ruleAddTrunk_keeps code circuit pinned) _ port s
  | addRange port tag route member size base => exact runCommand_keeps (ruleAddRange_keeps port tag ⟨route, member, size, base⟩) _ port s
  | rangeCheckBucket => exact rangeCheckBucket_keeps s
  | rangeCheckComplete => exact rangeCheckComplete_keeps s
  | removeTrunk port tag code => exact runCommand_keeps (ruleRemoveTrunk_keeps port code) _ port s
  | removeRange port tag index => exact runCommand_keeps (ruleRemoveRange_keeps index) _ port s
  | pin port tag code => exact runCommand_keeps (rulePin_keeps port _ code true) _ port s
  | unpin port tag code => exact runCommand_keeps (rulePin_keeps port _ code false) _ port s
  | purge port tag => exact runCommand_keeps (rulePurge_keeps port tag) _ port s
  | purgeBucket => exact purgeBucketRow_keeps s
  | purgeComplete => exact purgeComplete_keeps s
  | lookup port tag operand => exact runCommand_keeps (ruleLookup_keeps port operand) _ port s
  | queryMiss port tag clear => exact runCommand_keeps (ruleQueryMiss_keeps clear) _ port s
  | openBatch port tag batch mode limit entries =>
    exact runCommand_keeps (ruleOpenBatch_keeps port tag batch mode limit entries) _ port s
  | cancelBatch port tag batch => exact runCommand_keeps (ruleCancelBatch_keeps batch) _ port s
  | batchStatus port tag batch => exact runCommand_keeps (ruleBatchStatus_keeps batch) _ port s
  | setWatch port tag watch settings => exact runCommand_keeps (ruleSetWatch_keeps watch settings) _ port s
  | watchStatus port tag clear => exact runCommand_keeps (ruleWatchStatus_keeps clear) _ port s
  | exchange port tag kind a stateA b stateB => exact runCommand_keeps (ruleExchange_keeps kind a stateA b stateB) _ port s
  | linkStatus port tag clear => exact runCommand_keeps (ruleLinkStatus_keeps clear) _ port s
  | reset port tag => exact runCommand_keeps (fun s => .refl s) _ port s
  | managementFrameReceived port bytes => exact managementFrameReceived_keeps port bytes s
  | interByteTimeout port => exact interByteTimeout_keeps port s
  | frameTransmitStart port => exact frameTransmitStart_keeps port s
  | frameTransmitEnd port => exact frameTransmitEnd_keeps port s
  | laneLightReturn i => exact laneLightReturn_keeps i s
  | spanSignalReturn n => exact spanSignalReturn_keeps n s

/-- Settles O2: every row answers a next state with the model's queue as it was, by cases on the row. -/
theorem everyCommandCompletes : Obligations.EveryCommandCompletes := by
  intro c s
  obtain ⟨t, ht, hk⟩ := exec_keeps c s
  exact ⟨t, ht, hk.pending⟩

/-- Settles O10: the laws of the circuit table hold on in every row, from a state of which they hold. -/
theorem circuitLawsKept : Obligations.CircuitLawsKept := by
  intro s t hs hstep
  suffices h : CircuitLaws t from ⟨h.routes, h.occupancy, h.conditioned.conditionedLaw⟩
  unfold step at hstep
  split at hstep
  next c rest _ =>
    have hrest : CircuitLaws (s.setPending rest) := hs.circuitLaws.congr rfl rfl rfl (fun _ => rfl) rfl
    exact (answers_of_eq (exec_keeps c _) hstep).laws hrest
  next =>
    cases hstep
    exact hs.circuitLaws

end Sys2Proof.Machine
end

section
/-! SUPPORT. Reset: what every block holds, and that every law of the part holds (R2, R174, R184). -/

namespace Sys2Proof.Machine

variable {s t : State}

/-- R174, R184: both resets bring every block to its reset values. -/
theorem isReset_of_afterReset (h : t = State.reset ∨ AfterReset s t) : IsReset t := by
  rcases h with rfl | ⟨primary, craft, h⟩ | ⟨tag, body, hsend, h⟩
  · exact isReset_resetWith ..
  · change execPowerOnReset primary craft s = _ at h
    cases h
    exact isReset_resetWith ..
  · change execFrameTransmitEnd .primary s = _ at h
    simp only [execFrameTransmitEnd, hsend, and_self, if_true] at h
    cases h
    exact isReset_resetWith ..

section
variable (h : IsReset t)
include h

theorem IsReset.node : t.node = .reset := by obtain ⟨_, _, _, _, _, _, _, _, rfl⟩ := h; rfl
theorem IsReset.highway : t.highway = .reset := by obtain ⟨_, _, _, _, _, _, _, _, rfl⟩ := h; rfl
theorem IsReset.align : t.align = .reset := by obtain ⟨_, _, _, _, _, _, _, _, rfl⟩ := h; rfl
theorem IsReset.directory : t.directory = .reset := by obtain ⟨_, _, _, _, _, _, _, _, rfl⟩ := h; rfl

theorem IsReset.unit (v : UnitNo) : t.unit v = .reset := by
  rw [State.unit, h.align]; exact Table.get_fill _ v

theorem IsReset.batch (id : Fin 8) : t.batch id = none := by
  obtain ⟨_, _, _, _, _, _, _, _, rfl⟩ := h; exact Table.get_fill _ id

theorem IsReset.span (n : SpanNo) : ∃ signal, t.span n = .reset signal := by
  obtain ⟨_, _, _, signal, _, _, _, _, rfl⟩ := h; exact ⟨signal n, Table.get_ofFn _ n⟩

theorem IsReset.lanes : ∃ lightA lightB, t.lanes = .reset lightA lightB := by
  obtain ⟨_, _, _, _, lightA, lightB, _, _, rfl⟩ := h; exact ⟨lightA, lightB, rfl⟩

theorem IsReset.links : ∃ cause primary craft, t.links = .reset cause primary craft := by
  obtain ⟨cause, primary, craft, _, _, _, _, _, rfl⟩ := h; exact ⟨cause, primary, craft, rfl⟩

/-! ### Directory entries -/

theorem IsReset.range (i : Fin 8) : t.directory.ranges.get i = none := by
  rw [h.directory]; exact Table.get_fill _ i

theorem IsReset.trunk (b : Fin 128) (w : Fin 4) : (t.directory.trunks.get b).get w = none := by
  rw [h.directory]; simp [Directory.reset]

/-- R140: no code resolves. -/
theorem IsReset.lookup (code : TrunkCode) : t.directory.lookup code = none := by
  have hr : t.directory.findRange code = none := by
    cases hf : t.directory.findRange code with
    | none => rfl
    | some x => exact absurd (findRange_some (e := x.2) (i := x.1) hf).1 (by simp [h.range])
  have ht : t.directory.findTrunk code = none := by
    cases hf : t.directory.findTrunk code with
    | none => rfl
    | some x => exact absurd (findTrunk_some (b := x.1) (w := x.2.1) (e := x.2.2) hf).1 (by simp [h.trunk])
  simp [Directory.lookup, hr, ht]

/-! ### The laws -/

theorem IsReset.queueBounds : QueueBounds t := by
  obtain ⟨cause, primary, craft, hlinks⟩ := h.links
  obtain ⟨lightA, lightB, hlanes⟩ := h.lanes
  refine ⟨by simp [hlinks, Links.reset], by simp [hlanes, LaneInterface.reset], fun port => ?_⟩
  cases port <;> simp [State.port, Links.port, hlinks, Links.reset, PortRecord.reset]

theorem IsReset.batchLaw : BatchLaw t where
  records id b hb := by simp [h.batch] at hb
  members c id := by simp [h.batch, h.circuit, Circuit.reset]

theorem IsReset.matcherLaw : MatcherLaw t where
  once := by simp [h.align, AlignmentUnit.reset]
  queued c := by simp [h.align, h.circuit, AlignmentUnit.reset, Circuit.reset]
  matching c := by simp [h.unit, h.circuit, Matcher.reset, Circuit.reset]
  oneUnit v w c hv := by simp [h.unit, Matcher.reset] at hv
  free v := by simp [h.unit, Matcher.reset]

theorem IsReset.directoryLaw : DirectoryLaw t where
  ranges i e he := by simp [h.range] at he
  apart i j e x he := by simp [h.range] at he
  codes b w e he := by simp [h.trunk] at he
  placed b w e he := by simp [h.trunk] at he
  unshadowed b w e he := by simp [h.trunk] at he
  single b w e b' w' e' he := by simp [h.trunk] at he
  carried c code _ := by simp [h.lookup, h.circuit, Circuit.reset]
  valid c code hc := by simp [h.circuit, Circuit.reset] at hc
  walk := by rw [h.directory]; trivial

theorem IsReset.delayLaw : DelayLaw t where
  buildOut c := by simp [h.circuit, Circuit.reset]
  measured c d hd := by simp [h.circuit, Circuit.reset, Circuit.delta] at hd
  aligned c hc := by simp [h.circuit, Circuit.reset] at hc
  records n m hm := by
    obtain ⟨signal, hn⟩ := h.span n
    simp [hn, Span.reset] at hm
  windows n := by
    obtain ⟨signal, hn⟩ := h.span n
    simp [hn, Span.reset]
  captured v := by simp [h.unit, Matcher.reset]
  candidates v := by simp [h.unit, Matcher.reset]
  outcomes v d hd := by simp [h.unit, Matcher.reset] at hd

theorem IsReset.parameterLaw : ParameterLaw t where
  node := by simp [h.node, NodeParams.reset]
  migration := by simp [h.node, NodeParams.reset]
  captured c x hx := by simp [h.circuit, Circuit.reset] at hx
  hold c := by simp [h.circuit, Circuit.reset]
  holdOff := by
    obtain ⟨lightA, lightB, hlanes⟩ := h.lanes
    simp [hlanes, LaneInterface.reset]

theorem IsReset.timingLaw : TimingLaw t := by
  obtain ⟨lightA, lightB, hlanes⟩ := h.lanes
  rw [TimingLaw, hlanes]
  rfl

end

/-- Settles O3: every table and every channel at its reset value, and what is sent with these values. -/
theorem resetCircuitTable : Obligations.ResetCircuitTable := by
  intro s t ht
  have h := isReset_of_afterReset ht
  have hchannel : ∀ c, t.highway.channels.get c = .reset := fun c => by rw [h.highway]; exact Table.get_fill _ c
  refine ⟨h.circuit, h.timeslotOwner, h.slotOwner, fun c => ?_, fun switch p => ?_, fun switch n => ?_, fun c => ?_, ?_⟩
  · rw [State.switchCondition, hchannel]; exact ⟨rfl, rfl⟩
  · rw [State.timeslotOut, h.timeslotOwner, h.node]; rfl
  · rw [State.slotOut, h.slotOwner, h.node]; rfl
  · rw [State.highwayOut, h.circuit, h.highway]; rfl
  · rw [h.node]; rfl

/-- Settles O6: each law of the part, on the reset values. -/
theorem resetMeetsLaws : Obligations.ResetMeetsLaws := by
  intro s t ht
  have h := isReset_of_afterReset ht
  exact ⟨h.queueBounds, h.circuitLaws.conditioned.conditionedLaw, h.circuitLaws.occupancy, h.circuitLaws.routes, h.batchLaw,
    h.matcherLaw, h.directoryLaw, h.delayLaw, h.parameterLaw, h.timingLaw⟩

end Sys2Proof.Machine
end

section
/-! SUPPORT. The commands on circuits that change no migration: QUERY CIRCUIT, ATTACH, DETACH, ACTIVATE and SET CIRCUIT (R10 to R13,
R20, R21). -/

namespace Sys2Proof.Machine

variable {s t u : State} {port : Port} {q : QueuedCommand} {rest : List QueuedCommand}

/-! ### Operands in and out of their ranges -/

theorem circuitOf_none {n : Nat} (h : 512 ≤ n) : circuitOf n = none := by simp [circuitOf, h]

@[simp] theorem circuitOf_val (c : CircuitNo) : circuitOf c.val = some c := by simp [circuitOf]

/-! ### QUERY CIRCUIT (R21) -/

/-- Settles O19: the reply shows the record as the request found it, and the clear writes the changed flag alone. -/
theorem queryCircuit : Obligations.QueryCircuit := by
  intro s port tag n clear q rest h
  have hauth := h.authority (by nofun)
  refine ⟨fun hn => refuses_of_rule rfl h hauth (by rw [ruleQueryCircuit, circuitOf_none hn]), fun c hc => ?_⟩
  subst hc
  cases clear with
  | false =>
    refine completes_of_rule (t := s.takeHead port q rest) rfl h hauth ?_ (.refl _ _) (by decide) fun u hu =>
      hu.sameCircuits (by decide)
    rw [ruleQueryCircuit, circuitOf_val]
    rfl
  | true =>
    refine completes_of_rule (t := (s.takeHead port q rest).clearChanged c) rfl h hauth ?_ (putCircuit_frame _ c _) (by decide)
      fun u hu => (putCircuit_becomes (s.takeHead port q rest) c _).of_frame hu (by decide) (by decide) (by decide)
    rw [ruleQueryCircuit, circuitOf_val]
    rfl

/-! ### Occupancy entries through a frame (R9) -/

theorem SameBut.sameTimeslotOwner {l : List Block} (h : SameBut l s t) (hb : Block.occupancy ∉ l) (p : CopperPosition) :
    t.timeslotOwner p = s.timeslotOwner p := by simp [State.timeslotOwner, (h.sameOwner hb).1]

theorem SameBut.sameSlotOwner {l : List Block} (h : SameBut l s t) (hb : Block.occupancy ∉ l) (n : SlotNo) :
    t.slotOwner n = s.slotOwner n := by simp [State.slotOwner, (h.sameOwner hb).2]

theorem Becomes.attachments {c : CircuitNo} {r : Circuit} (h : Becomes c r s t) : t.attachments c = ⟨r.copper, r.fibre, r.state⟩ := by
  rw [State.attachments, h.1]; rfl

/-! ### DETACH (R11, R12) -/

theorem detach_frame (s : State) (c : CircuitNo) (copper fibre : Bool) : SameBut [.circuits, .occupancy] s (s.detach c copper fibre) :=
  by rw [detach_eq]; exact rewrite_frame s c _ _ _ _ _

theorem detach_becomes (s : State) (c : CircuitNo) (copper fibre : Bool) :
    Becomes c ((s.circuit c).detached copper fibre) s (s.detach c copper fibre) :=
  by rw [detach_eq]; exact rewrite_becomes ..

theorem detach_timeslotOwner (s : State) (c : CircuitNo) (copper fibre : Bool) (x : CopperPosition) :
    (s.detach c copper fibre).timeslotOwner x =
      if copper = true ∧ (s.circuit c).copper = some x then none else s.timeslotOwner x := by
  rw [detach_eq, rewrite_timeslotOwner]
  cases copper <;> simp

theorem detach_slotOwner (s : State) (c : CircuitNo) (copper fibre : Bool) (m : SlotNo) :
    (s.detach c copper fibre).slotOwner m = if fibre = true ∧ (s.circuit c).fibre = some m then none else s.slotOwner m := by
  rw [detach_eq, rewrite_slotOwner]
  cases fibre <;> simp

/-- R12: the fibre side may be taken in VACANT, COPPER and FIBRE-RELEASED, and not while it drains. -/
theorem Circuit.fibreDetachable_iff {r : Circuit} : r.fibreDetachable = true ↔
    (r.state = .vacant ∨ r.state = .copper ∨ (r.state = .fibre ∧ r.context = none)) ∧ r.fibre ≠ none ∧ r.draining = false := by
  cases hs : r.state <;> cases hx : r.context <;>
    simp [Circuit.fibreDetachable, Circuit.released, hs, hx, Option.isSome_iff_ne_none]

theorem Circuit.detachable_iff {r : Circuit} {copper fibre : Bool} : r.detachable copper fibre = true ↔
    (copper = true → r.state = .copper) ∧ (fibre = true → r.fibreDetachable = true) := by
  cases copper <;> cases fibre <;> simp [Circuit.detachable]

/-- R11, R12: what each field of a record is after a DETACH. -/
theorem Circuit.detached_eq {r : Circuit} {copper fibre : Bool} (hcop : copper = true → r.state = .copper)
    (hside : ¬ (copper = false ∧ fibre = false)) : r.detached copper fibre = { r with
      copper := if copper then none else r.copper
      copperTransmit := if copper then false else r.copperTransmit
      fibre := if fibre then none else r.fibre
      fibreTransmit := if r.state = .fibre then .off else r.fibreTransmit
      buildOut := if copper = true ∨ r.state = .fibre then 0 else r.buildOut
      state := if copper = true ∨ r.state = .fibre then .vacant else r.state } := by
  cases copper <;> cases fibre
  · exact absurd ⟨rfl, rfl⟩ hside
  · by_cases hf : r.state = .fibre <;> simp [Circuit.detached, Circuit.withoutFibre, hf]
  · simp [Circuit.detached, Circuit.withoutCopper, hcop rfl]
  · simp [Circuit.detached, Circuit.withoutCopper, Circuit.withoutFibre_of_copper (hcop rfl), hcop rfl]

/-- Settles O26: the refusals in the order of the checks, and both sides given up in one step. -/
theorem detach : Obligations.Detach := by
  intro s port tag circuit copper fibre q rest h
  have hauth := h.authority
  refine ite_prop_iff_and.mpr ⟨fun hside => refuses_of_rule rfl h.toHeads hauth (by rw [ruleDetach, if_pos hside]), fun hside => ?_⟩
  refine ite_prop_iff_and.mpr ⟨fun hn => refuses_of_rule rfl h.toHeads hauth
    (by rw [ruleDetach, if_neg hside, circuitOf_none hn]), fun _ c hc => ?_⟩
  subst hc
  refine ite_prop_iff_and.mpr ⟨fun hbad => ?_, fun hgood => ?_⟩
  · have hd : ¬ (s.circuit c).detachable copper fibre = true := by
      rw [Circuit.detachable_iff, Circuit.fibreDetachable_iff]
      grind
    refine refuses_of_rule rfl h.toHeads hauth ?_
    rw [ruleDetach, if_neg hside, circuitOf_val]
    exact if_neg hd
  · have hd : (s.circuit c).detachable copper fibre = true := by
      rw [Circuit.detachable_iff, Circuit.fibreDetachable_iff]
      grind
    have hrec := Circuit.detached_eq (Circuit.detachable_iff.mp hd).1 hside
    refine completes_of_rule (t := (s.takeHead port q rest).detach c copper fibre) rfl h.toHeads hauth ?_
      (detach_frame _ c copper fibre) (by decide) fun u hu => ⟨?_, fun x => ?_, fun m => ?_⟩
    · rw [ruleDetach, if_neg hside, circuitOf_val, ← hrec]
      exact (if_pos hd).trans (by rw [(detach_becomes _ c copper fibre).attachments]; rfl)
    · rw [← hrec]
      exact (detach_becomes (s.takeHead port q rest) c copper fibre).of_frame hu (by decide) (by decide) (by decide)
    · rw [hu.sameTimeslotOwner (by decide)]
      exact detach_timeslotOwner (s.takeHead port q rest) c copper fibre x
    · rw [hu.sameSlotOwner (by decide)]
      exact detach_slotOwner (s.takeHead port q rest) c copper fibre m

/-! ### ATTACH (R10) -/

theorem optionalOperand_map {α β : Type} {read : α → Option β} {write : β → α} (h : ∀ b, read (write b) = some b) (x : Option β) :
    optionalOperand read (x.map write) = some x := by
  cases x <;> simp [optionalOperand, h]

theorem optionalOperand_none {α β : Type} {read : α → Option β} {a : α} (h : read a = none) : optionalOperand read (some a) = none := by
  simp [optionalOperand, h]

theorem positionOf_none {x : Nat × Nat} (h : 16 ≤ x.1 ∨ x.2 = 0 ∨ 32 ≤ x.2) : positionOf x = none := by
  unfold positionOf
  split
  next hn ht =>
    simp only [spanOf, timeslotOf, Option.dite_none_right_eq_some] at hn ht
    obtain ⟨hn, -⟩ := hn
    obtain ⟨ht, -⟩ := ht
    omega
  next => rfl

theorem positionOf_val (x : CopperPosition) : positionOf (x.span.val, x.timeslot.val + 1) = some x := by
  simp [positionOf, spanOf, timeslotOf]

theorem slotOf_none {n : Nat} (h : 512 ≤ n) : slotOf n = none := by simp [slotOf, h]

theorem slotOf_val (n : SlotNo) : slotOf n.val = some n := by simp [slotOf]

/-- R10, check 1: an operand outside its ranges. -/
theorem ruleAttach_range {circuit : Nat} {copper : Option (Nat × Nat)} {fibre : Option Nat} (hside : ¬ (copper = none ∧ fibre = none))
    (h : 512 ≤ circuit ∨ (copper.any fun x => decide (16 ≤ x.1 ∨ x.2 = 0 ∨ 32 ≤ x.2)) = true ∨
      (fibre.any fun n => decide (512 ≤ n)) = true) (s : State) : ruleAttach circuit copper fibre s = answered s .range .empty := by
  rw [ruleAttach, if_neg (by simpa using hside)]
  rcases h with hc | hp | hn
  · rw [circuitOf_none hc]
  · obtain ⟨x, rfl, hx⟩ := Option.any_eq_true _ _ |>.mp hp
    rw [optionalOperand_none (positionOf_none (of_decide_eq_true hx))]
    cases circuitOf circuit <;> rfl
  · obtain ⟨n, rfl, hn⟩ := Option.any_eq_true _ _ |>.mp hn
    rw [optionalOperand_none (slotOf_none (of_decide_eq_true hn))]
    cases circuitOf circuit <;> cases optionalOperand positionOf copper <;> rfl

/-- R10, checks 2 to 5, on operands in their ranges. -/
theorem ruleAttach_checked {c : CircuitNo} {p : Option CopperPosition} {n : Option SlotNo} (hside : ¬ (p = none ∧ n = none)) (s : State) :
    ruleAttach c.val (p.map fun x => (x.span.val, x.timeslot.val + 1)) (n.map Fin.val) s = s.attachChecked c p n := by
  rw [ruleAttach, if_neg (by simpa using hside), circuitOf_val, optionalOperand_map positionOf_val, optionalOperand_map slotOf_val]

theorem otherOwner_some {owner : Option CircuitNo} {c d : CircuitNo} (h : owner = some d) (hd : d ≠ c) : otherOwner owner c = some d := by
  simp [otherOwner, h, hd]

theorem otherOwner_none {owner : Option CircuitNo} {c : CircuitNo} (h : ∀ e, owner = some e → e = c) : otherOwner owner c = none := by
  cases owner with
  | none => rfl
  | some d => simp [otherOwner, h d rfl]

section
variable {c : CircuitNo} {p : Option CopperPosition} {n : Option SlotNo}

/-- R10, check 5, the copper side. -/
theorem occupantOf_copper {x : CopperPosition} {d : CircuitNo} (hp : p = some x) (ho : s.timeslotOwner x = some d) (hd : d ≠ c) :
    s.occupantOf c p n = some (d, true) := by
  simp [State.occupantOf, hp, otherOwner_some ho hd]

/-- R10, check 5: no other circuit on the copper side. -/
theorem noOccupant_copper (h : ∀ x e, p = some x → s.timeslotOwner x = some e → e = c) :
    (p.bind fun x => otherOwner (s.timeslotOwner x) c) = none := by
  cases p with
  | none => rfl
  | some x => exact otherOwner_none fun e => h x e rfl

/-- R10, check 5, the fibre side. -/
theorem occupantOf_fibre {m : SlotNo} {d : CircuitNo} (hp : ∀ x e, p = some x → s.timeslotOwner x = some e → e = c) (hn : n = some m)
    (ho : s.slotOwner m = some d) (hd : d ≠ c) : s.occupantOf c p n = some (d, false) := by
  simp [State.occupantOf, noOccupant_copper hp, hn, otherOwner_some ho hd]

theorem occupantOf_free (hp : ∀ x e, p = some x → s.timeslotOwner x = some e → e = c)
    (hn : ∀ m e, n = some m → s.slotOwner m = some e → e = c) : s.occupantOf c p n = none := by
  rw [State.occupantOf, noOccupant_copper hp]
  cases n with
  | none => rfl
  | some m => simp [otherOwner_none fun e => hn m e rfl]

theorem spanRetired_eq (s : State) (p : Option CopperPosition) :
    s.spanRetired p = p.any fun x => decide ((s.span x.span).state = .retired) := by cases p <;> rfl

section
variable (hs : ¬ ((s.circuit c).state ≠ .vacant ∧ (s.circuit c).state ≠ .copper))
  (hheld : ¬ ((p.isSome ∧ (s.circuit c).copper.isSome) ∨ (n.isSome ∧ (s.circuit c).fibre.isSome)))
  (hret : ¬ (p.any fun x => decide ((s.span x.span).state = .retired)) = true)
include hs hheld hret

/-- R10, check 5: a named position is another circuit's. -/
theorem attachChecked_occupied {d : CircuitNo} {side : Bool} (h : s.occupantOf c p n = some (d, side)) :
    s.attachChecked c p n = answered s .conflict (.occupant d side) := by
  simp only [State.attachChecked]
  rw [if_neg hs, if_neg hheld, spanRetired_eq, if_neg hret, h]

/-- R10: every check passes. -/
theorem attachChecked_free (h : s.occupantOf c p n = none) :
    s.attachChecked c p n = answered (s.attach c p n) .ok (.attachments ((s.attach c p n).attachments c)) := by
  simp only [State.attachChecked]
  rw [if_neg hs, if_neg hheld, spanRetired_eq, if_neg hret, h]

end

theorem attach_frame (s : State) (c : CircuitNo) (p : Option CopperPosition) (n : Option SlotNo) :
    SameBut [.circuits, .occupancy, .rings] s (s.attach c p n) := by
  have hrw := (rewrite_frame s c ((s.circuit c).attached p n) p n (some c) (some c)).mono
    (m := [.circuits, .occupancy, .rings]) (by decide)
  cases n with
  | none => exact hrw
  | some m => exact hrw.trans ((fillRing_frame _ c).mono (by decide))

theorem attach_becomes (s : State) (c : CircuitNo) (p : Option CopperPosition) (n : Option SlotNo) :
    Becomes c ((s.circuit c).attached p n) s (s.attach c p n) := by
  have hrw := rewrite_becomes s c ((s.circuit c).attached p n) p n (some c) (some c)
  cases n with
  | none => exact hrw
  | some m => exact hrw.of_frame (fillRing_frame _ c) (by decide) (by decide) (by decide)

theorem attach_timeslotOwner (s : State) (c : CircuitNo) (p : Option CopperPosition) (n : Option SlotNo) (x : CopperPosition) :
    (s.attach c p n).timeslotOwner x = if p = some x then some c else s.timeslotOwner x := by
  have hrw := rewrite_timeslotOwner s c ((s.circuit c).attached p n) p n (some c) (some c) x
  cases n <;> exact hrw

theorem attach_slotOwner (s : State) (c : CircuitNo) (p : Option CopperPosition) (n : Option SlotNo) (m : SlotNo) :
    (s.attach c p n).slotOwner m = if n = some m then some c else s.slotOwner m := by
  have hrw := rewrite_slotOwner s c ((s.circuit c).attached p n) p n (some c) (some c) m
  cases n <;> exact hrw

theorem SameBut.sameRing {l : List Block} (h : SameBut l s t) (hb : Block.rings ∉ l) (d : CircuitNo) : t.ring d = s.ring d := by
  have : t.align.rings = s.align.rings := h _ hb
  simp [State.ring, this]

theorem fillRing_ring (s : State) (c d : CircuitNo) : (s.fillRing c).ring d = if c = d then .fill s.node.idleCode else s.ring d := by
  simp [State.ring, State.fillRing, Table.get_set]

/-- R55: an ATTACH of the fibre side fills the circuit's ring. -/
theorem attach_ring (s : State) (c : CircuitNo) (p : Option CopperPosition) (n : Option SlotNo) (d : CircuitNo) :
    (s.attach c p n).ring d = if n.isSome ∧ d = c then .fill s.node.idleCode else s.ring d := by
  have hrw := rewrite_frame s c ((s.circuit c).attached p n) p n (some c) (some c)
  have hring := hrw.sameRing (by decide) d
  have hnode := hrw.sameNode (by decide)
  cases n with
  | none => exact hring.trans (by simp)
  | some m =>
    refine (fillRing_ring _ c d).trans ?_
    rw [hring, hnode]
    simp [eq_comm]

end

/-- Settles O25: the refusals in the order of the checks, and the attachments made in one step. -/
theorem attach : Obligations.Attach := by
  intro s port tag circuit copper fibre q rest h
  have hauth := h.authority
  refine ite_prop_iff_and.mpr ⟨fun hside => refuses_of_rule rfl h.toHeads hauth (by rw [ruleAttach, if_pos (by simpa using hside)]),
    fun hside => ?_⟩
  refine ite_prop_iff_and.mpr ⟨fun hrange => refuses_of_rule rfl h.toHeads hauth (ruleAttach_range hside hrange _),
    fun _ c p n hc hp hn => ?_⟩
  subst hc hp hn
  have hrule := fun u => ruleAttach_checked (c := c) (p := p) (n := n) (by simpa using hside) u
  refine ite_prop_iff_and.mpr ⟨fun hs => refuses_of_rule rfl h.toHeads hauth ((hrule _).trans (if_pos hs)), fun hs => ?_⟩
  refine ite_prop_iff_and.mpr ⟨fun hheld => refuses_of_rule rfl h.toHeads hauth
    ((hrule _).trans ((if_neg hs).trans (if_pos hheld))), fun hheld => ?_⟩
  refine ite_prop_iff_and.mpr ⟨fun hret => refuses_of_rule rfl h.toHeads hauth
    ((hrule _).trans ((if_neg hs).trans ((if_neg hheld).trans (if_pos ((spanRetired_eq s p).trans hret))))), fun hret => ?_⟩
  have hoccupied := fun d side => attachChecked_occupied (s := s.takeHead port q rest) (d := d) (side := side) hs hheld hret
  refine ⟨fun x d hp ho hd => refuses_of_rule rfl h.toHeads hauth ((hrule _).trans (hoccupied d true (occupantOf_copper hp ho hd))),
    fun m d hn hp ho hd => refuses_of_rule rfl h.toHeads hauth
      ((hrule _).trans (hoccupied d false (occupantOf_fibre (s := s.takeHead port q rest) hp hn ho hd))), fun hp hn => ?_⟩
  have hbecomes := attach_becomes (s.takeHead port q rest) c p n
  have hfree := attachChecked_free (s := s.takeHead port q rest) hs hheld hret (occupantOf_free (s := s.takeHead port q rest) hp hn)
  refine completes_of_rule (t := (s.takeHead port q rest).attach c p n) rfl h.toHeads hauth (((hrule _).trans hfree).trans ?_)
    (attach_frame (s.takeHead port q rest) c p n) (by decide) fun u hu => ?_
  · rw [hbecomes.attachments, Circuit.attached_copper, Circuit.attached_fibre]
    cases p <;> rfl
  have hfinal := hbecomes.of_frame hu (by decide) (by decide) (by decide)
  have hring := attach_ring (s.takeHead port q rest) c p n
  refine ⟨fun e => by subst e; exact hfinal, fun x e => by subst e; exact hfinal, fun x => ?_, fun m => ?_, fun d hd => ?_,
    fun e => ?_, fun e k => ?_⟩
  · rw [hu.sameTimeslotOwner (by decide)]
    exact attach_timeslotOwner (s.takeHead port q rest) c p n x
  · rw [hu.sameSlotOwner (by decide)]
    exact attach_slotOwner (s.takeHead port q rest) c p n m
  · rw [hu.sameRing (by decide), hring, if_neg fun h => hd h.2]
    rfl
  · rw [hu.sameRing (by decide), hring, if_neg (by simp [e])]
    rfl
  · rw [hu.sameRing (by decide), hring, if_pos ⟨e, rfl⟩]
    exact Table.get_fill _ k

/-! ### Reports through a frame (R181) -/

theorem Reported.of_frame {l : List Block} {bodies : List ReportBody} (h : Reported bodies s t) (hf : SameBut l t u) (hb : Block.reports ∉ l) :
    Reported bodies s u := Block.same_trans h (hf _ hb)

/-- The reports handed from a state that shows the same queue and the same clock. -/
theorem Reported.after_frame {l : List Block} {bodies : List ReportBody} (h : Reported bodies t u) (hf : SameBut l s t) (hb : Block.reports ∉ l)
    (hc : Block.clock ∉ l) : Reported bodies s u := (hf.reported hb).trans h (hf.sameClock hc)

/-! ### ACTIVATE (R13) -/

theorem reportOutcome_reported (s : State) (c : CircuitNo) (o : OutcomeRecord) :
    Reported (if (s.circuit c).notify then [.circuit c (s.circuit c).code o] else []) s (s.reportOutcome c o) := by
  unfold State.reportOutcome
  split
  · exact handReport_reported s _
  · exact .refl s

/-- R19, section 8.4: an outcome that no batch takes notice of and that belongs to no event class is handed to the report queue alone. -/
theorem handOutcome_reported (c : CircuitNo) {o : OutcomeRecord} (hm : ∀ m, memberAfter m o = none) (hc : outcomeClass o.code = none)
    (s : State) : SameBut [.reports, .freeValues] s (s.handOutcome c o) ∧
      Reported (if (s.circuit c).notify then [.circuit c (s.circuit c).code o] else []) s (s.handOutcome c o) := by
  have hw : ∀ t : State, t.watchOutcome c o.code = t := fun t => by simp [State.watchOutcome, hc]
  have hr : ∀ t : State, SameBut [.freeValues] s t → SameBut [.reports, .freeValues] s (t.reportOutcome c o) ∧
      Reported (if (s.circuit c).notify then [.circuit c (s.circuit c).code o] else []) s (t.reportOutcome c o) := fun t ht => by
    have hrep := reportOutcome_reported t c o
    rw [ht.sameCircuit (by decide)] at hrep
    exact ⟨(ht.mono (by decide)).trans ((reportOutcome_frame t c o).mono (by decide)), hrep.after_frame ht (by decide) (by decide)⟩
  unfold State.handOutcome
  simp only [batchOutcome_untouched c hm, hw]
  split
  · exact hr s (.refl _ s)
  · split <;> exact hr _ (drawn_frame s)

theorem writeOutcome_becomes (c : CircuitNo) {o : OutcomeRecord} (hm : ∀ m, memberAfter m o = none) (hc : outcomeClass o.code = none)
    (s : State) : SameBut [.circuits, .reports, .freeValues] s (s.writeOutcome c o) ∧
      Becomes c ((s.circuit c).withOutcome o) s (s.writeOutcome c o) ∧
      Reported (if (s.circuit c).notify then [.circuit c (s.circuit c).code o] else []) s (s.writeOutcome c o) := by
  have hput := putCircuit_frame s c ((s.circuit c).withOutcome o)
  obtain ⟨hf, hrep⟩ := handOutcome_reported c hm hc (s.putCircuit c ((s.circuit c).withOutcome o))
  rw [State.putCircuit_circuit_eq] at hrep
  exact ⟨(hput.mono (by decide)).trans (hf.mono (by decide)),
    (putCircuit_becomes s c _).of_frame hf (by decide) (by decide) (by decide), hrep.after_frame hput (by decide) (by decide)⟩

/-- A record written over a record. -/
theorem Becomes.trans {c : CircuitNo} {r r' : Circuit} (h : Becomes c r s t) (k : Becomes c r' t u) : Becomes c r' s u :=
  ⟨k.1, fun d hd => (k.2 d hd).trans (h.2 d hd)⟩

/-- Conditioning is evaluated anew, whatever it was. -/
theorem Becomes.congr {c : CircuitNo} {r r' : Circuit} (h : Becomes c r s t) (e : ∀ spans lanes, evaluated spans lanes r = evaluated spans lanes r') :
    Becomes c r' s t := ⟨h.1.trans (e _ _), h.2⟩

/-- R13: the outcome of an ACTIVATE. -/
def State.activatedOutcome (s : State) (c : CircuitNo) : OutcomeRecord :=
  { code := .activated, reason := none, decline := none, delta := none, buildOut := (s.circuit c).buildOut, offset := none,
    attemptsUsed := 0, stamp := s.fc }

theorem memberAfter_activated (s : State) (c : CircuitNo) (m : Member) : memberAfter m (s.activatedOutcome c) = none := by
  unfold memberAfter State.activatedOutcome
  cases m.status <;> rfl

theorem activate_spec (s : State) (c : CircuitNo) : SameBut [.circuits, .reports, .freeValues] s (s.activate c) ∧
    Becomes c { s.circuit c with
      state := .fibre, context := none, fibreTransmit := .bridged, changed := true, outcome := some (s.activatedOutcome c) } s (s.activate c) ∧
    Reported (if (s.circuit c).notify then [.circuit c (s.circuit c).code (s.activatedOutcome c)] else []) s (s.activate c) := by
  have hput := putCircuit_frame s c { s.circuit c with state := .fibre, context := none, fibreTransmit := .bridged }
  have hbec := putCircuit_becomes s c { s.circuit c with state := .fibre, context := none, fibreTransmit := .bridged }
  have hact : s.activate c = (s.putCircuit c { s.circuit c with state := .fibre, context := none, fibreTransmit := .bridged }).writeOutcome c
      (s.activatedOutcome c) := by
    unfold State.activate State.activatedOutcome
    simp only [State.putCircuit_circuit_eq]
    rfl
  obtain ⟨hf, hw, hrep⟩ := writeOutcome_becomes c (memberAfter_activated s c) rfl
    (s.putCircuit c { s.circuit c with state := .fibre, context := none, fibreTransmit := .bridged })
  rw [State.putCircuit_circuit_eq] at hw hrep
  rw [hact]
  exact ⟨(hput.mono (by decide)).trans hf, (hbec.trans hw).congr fun _ _ => rfl, hrep.after_frame hput (by decide) (by decide)⟩

/-- Settles O27: the refusals in the order of the checks, the record in FIBRE, and the CIRCUIT report of ACTIVATED. -/
theorem activate : Obligations.Activate := by
  intro s port tag circuit q rest h
  have hauth := h.authority
  refine ⟨fun hn => refuses_of_rule rfl h.toHeads hauth (by rw [ruleActivate, circuitOf_none hn]), fun c hc => ?_⟩
  subst hc
  have hrule : ∀ u, ruleActivate c.val u =
      if (u.circuit c).state ≠ .vacant ∨ (u.circuit c).fibre = none ∨ (u.circuit c).draining = true then answered u .state .empty
      else if u.peer.state ≠ .up then answered u .peerDown .empty
      else answered (u.activate c) .ok .empty := fun u => by rw [ruleActivate, circuitOf_val]
  refine ite_prop_iff_and.mpr ⟨fun hbad => refuses_of_rule rfl h.toHeads hauth ((hrule _).trans (if_pos hbad)), fun hbad => ?_⟩
  refine ite_prop_iff_and.mpr ⟨fun hdown => refuses_of_rule rfl h.toHeads hauth
    ((hrule _).trans ((if_neg hbad).trans (if_pos hdown))), fun hup => ?_⟩
  obtain ⟨hf, hbec, hrep⟩ := activate_spec (s.takeHead port q rest) c
  exact completes_of_rule rfl h.toHeads hauth ((hrule _).trans ((if_neg hbad).trans (if_neg hup))) hf (by decide) fun u hu =>
    ⟨hbec.of_frame hu (by decide) (by decide) (by decide),
      (hrep.of_frame hu (by decide)).after_frame (takeHead_frame s port q rest) (by decide) (by decide)⟩

/-! ### A release seen past the ports (R46) -/

section
variable {s' t' : State} (hs : SameBut [.ports] s' s) (ht : SameBut [.ports] t t')
include hs ht

/-- A turn of a circuit rests on no port. -/
theorem Turn.past_ports {c : CircuitNo} {cl : List EventClass} {r : Circuit} {before after : List PeerMessage}
    (h : Turn c cl r before after s t) : Turn c cl r before after s' t' := by
  have hcirc := fun d => hs.sameCircuit (by decide) d
  have hbatch : s'.batchCircuits c = s.batchCircuits c :=
    (State.batchCircuits_congr (congrArg Circuit.batch (hcirc c)) (hs .batches (by decide))).symm
  have hlink : s.peer.state = s'.peer.state := hs.sameLink (by decide)
  have hclock : s.fc = s'.fc := hs.sameClock (by decide)
  obtain ⟨bodies, hreported, hnote⟩ := h.reports
  obtain ⟨proposals, hall, hnone, hsent⟩ := h.sent
  obtain ⟨events, hwit, hclasses, hstarts⟩ := h.watches
  refine ⟨?_, fun d hd => ?_, fun d hd => ?_, ⟨bodies, ?_, hnote⟩, ⟨proposals, hall, ?_, ?_⟩, events, ?_, hclasses, fun e he hm => ?_⟩
  · simp only [ht.sameCircuit (by decide), ht.evaluated_eq (by decide) (by decide)]; exact h.record
  · rw [ht.sameCircuit (by decide), ← hcirc]; exact h.others d (hbatch ▸ hd)
  · rw [ht.sameResponse (by decide), ← hs.sameResponse (by decide)]; exact h.timers d (hbatch ▸ hd)
  · exact (hreported.of_frame ht (by decide)).after_frame hs (by decide) (by decide)
  · rw [← hcirc, ← hlink]; exact hnone
  · simpa using ((hs.sentNone (by decide)).trans hsent).trans (ht.sentNone (by decide))
  · rw [Witnessed, ht.sameWatches (by decide), ← hclock, ← hs.sameWatches (by decide)]; exact hwit
  · have := hstarts e he hm
    rwa [State.startedCircuits, hlink, ← hbatch, ← State.startedCircuits] at this

theorem Retires.past_ports {c : CircuitNo} {n : SpanNo} : Retires c s' t' n ↔ Retires c s t n := by
  simp only [Retires, hs.sameCircuit (by decide), hs.sameSpan (by decide), ht.sameTimeslotOwner (by decide)]

/-- A release rests on no port. -/
theorem Released.past_ports {c : CircuitNo} {reason : Reason} (h : Released c reason s t) : Released c reason s' t' := by
  have hc : s'.circuit c = s.circuit c := (hs.sameCircuit (by decide) c).symm
  have hclock : s'.fc = s.fc := (hs.sameClock (by decide)).symm
  refine ⟨?_, ⟨fun p => ?_, ?_⟩, fun n => ?_, fun n hn => ?_⟩
  · rw [hc, hclock]; exact h.turn.past_ports hs ht
  · rw [hc, ht.sameTimeslotOwner (by decide), ← hs.sameTimeslotOwner (by decide)]; exact h.freed.1 p
  · rw [(ht.sameOwner (by decide)).2, ← (hs.sameOwner (by decide)).2]; exact h.freed.2
  · rw [Retires.past_ports hs ht, ht.sameSpan (by decide), ← hs.sameSpan (by decide)]; exact h.spans n
  · obtain ⟨bodies, hrep, hret, hnote⟩ := h.retirement n ((Retires.past_ports hs ht).mp hn)
    rw [hc, hclock]
    exact ⟨bodies, (hrep.of_frame ht (by decide)).after_frame hs (by decide) (by decide), hret, hnote⟩

end

/-! ### SET CIRCUIT (R20, R45) -/

theorem Circuit.withOptions_eq (r : Circuit) (notify auto : Option Bool) (hold : Option Nat) (inhibit : Option Bool) :
    r.withOptions notify auto hold inhibit = { r with
      notify := notify.getD r.notify, autoRelease := auto.getD r.autoRelease
      holdSeconds := (hold.map fun h => min h 3600).getD r.holdSeconds, inhibit := inhibit.getD r.inhibit } := by
  cases hold <;> rfl

/-- R45: the release test finds a circuit in FIBRE that may release. -/
theorem Circuit.releaseDue_iff {r : Circuit} : r.releaseDue = true ↔ r.state = .fibre ∧ r.mayRelease = true := by
  cases hs : r.state <;> cases hx : r.context <;> simp [Circuit.releaseDue, Circuit.mayRelease, hs, hx]

/-- A release leaves a circuit's options. -/
theorem Released.optionsReply {c : CircuitNo} {reason : Reason} (h : Released c reason s t) :
    (t.circuit c).optionsReply = (s.circuit c).optionsReply := by
  rcases h.turn.record with hr | ⟨-, hr⟩
  all_goals rw [hr]; rfl

/-- R20, R45: the options written, and the release where turning auto-release on calls for it. -/
theorem setOptions_spec (hs : Sound s) {c : CircuitNo} (notify auto : Option Bool) (hold : Option Nat) (inhibit : Option Bool) {r : Circuit}
    (hr : (s.circuit c).withOptions notify auto hold inhibit = r) :
    SameBut releaseBlocks s (s.setOptions c notify auto hold inhibit) ∧
      ((s.setOptions c notify auto hold inhibit).circuit c).optionsReply = r.optionsReply ∧
      if auto = some true ∧ r.state = .fibre ∧ r.mayRelease = true then
        Released c .holdExpired (s.putCircuit c r) (s.setOptions c notify auto hold inhibit)
      else s.setOptions c notify auto hold inhibit = s.putCircuit c r := by
  have hput := putCircuit_frame s c r
  have hsound : Sound (s.putCircuit c r) := hs.putCircuit (by rw [← hr]; rfl) (by rw [← hr]; rfl)
  have hcirc : (s.putCircuit c r).circuit c = evaluated s.spans s.lanes r := State.putCircuit_circuit_eq ..
  have hset : s.setOptions c notify auto hold inhibit =
      if auto = some true ∧ r.state = .fibre ∧ r.mayRelease = true then (s.putCircuit c r).releaseFallback c .holdExpired
      else s.putCircuit c r := by
    have hdue : ((s.putCircuit c r).circuit c).releaseDue = true ↔ r.state = .fibre ∧ r.mayRelease = true := by
      rw [hcirc]; exact Circuit.releaseDue_iff (r := evaluated s.spans s.lanes r)
    unfold State.setOptions State.releaseTest
    simp only [hr, hdue]
    split_ifs <;> simp_all
  rw [hset]
  split
  · have hrel := releaseFallback_spec c .holdExpired hsound.conditioned hsound.copper
    exact ⟨(hput.mono (by decide)).trans (releaseFallback_frame _ c _), by rw [hrel.optionsReply, hcirc]; rfl, hrel⟩
  · exact ⟨hput.mono (by decide), by rw [hcirc]; rfl, rfl⟩

/-- Settles O28: the options written, and the release of a fallback that turning auto-release on calls for. -/
theorem setCircuit : Obligations.SetCircuit := by
  intro s port tag circuit notify auto hold inhibit q rest hlaw h
  have hauth := h.authority
  refine ite_prop_iff_and.mpr ⟨fun hnone => refuses_of_rule rfl h.toHeads hauth
    (by rw [ruleSetCircuit, if_pos (by simpa using hnone)]), fun hnone => ?_⟩
  refine ite_prop_iff_and.mpr ⟨fun hn => refuses_of_rule rfl h.toHeads hauth
    (by rw [ruleSetCircuit, if_neg (by simpa using hnone), circuitOf_none hn]), fun _ c hc => ?_⟩
  subst hc
  intro r
  have htake := takeHead_frame s port q rest
  have hsound : Sound (s.takeHead port q rest) := hlaw.sound.of_frame htake (by decide) (by decide) (by decide) (by decide) (by decide)
  obtain ⟨hf, hreply, heff⟩ := setOptions_spec hsound notify auto hold inhibit
    (Circuit.withOptions_eq (s.circuit c) notify auto hold inhibit : _ = r)
  refine completes_of_rule (t := (s.takeHead port q rest).setOptions c notify auto hold inhibit) rfl h.toHeads hauth ?_ hf (by decide)
    fun u hu => ?_
  · rw [ruleSetCircuit, if_neg (by simpa using hnone), circuitOf_val]
    exact congrArg (answered _ .ok) hreply
  split
  next hrel =>
    rw [if_pos hrel] at heff
    have hports : SameBut [.ports] (s.putCircuit c r) ((s.takeHead port q rest).putCircuit c r) :=
      takeHead_frame (s.putCircuit c r) port q rest
    exact ⟨_, putCircuit_becomes s c r, putCircuit_frame s c r, heff.past_ports hports hu⟩
  next hrel =>
    rw [if_neg hrel] at heff
    rw [heff] at hu
    refine ⟨(putCircuit_becomes (s.takeHead port q rest) c r).of_frame hu (by decide) (by decide) (by decide), ?_⟩
    exact ((htake.mono (by decide)).trans ((putCircuit_frame _ c r).mono (by decide))).trans (hu.mono (by decide))

end Sys2Proof.Machine
end

section
/-! SUPPORT. The recognition of a line condition and of a bridge flag, and what a circuit does by it (R14, R16, R33, R52, R102,
R103). -/

namespace Sys2Proof.Machine

variable {s t : State}

/-! ### Recognition -/

theorem LineRecognition.recognise_of {r : LineRecognition} {code : LineCondition} (h : r.candidate = some code) :
    r.recognise = ⟨code, none, 0, false⟩ := by
  simp [LineRecognition.recognise, h]

/-- R14: a channel's recognition, taken. -/
def State.recogniseChannel (s : State) (c : CircuitNo) : State :=
  s.setHighway { s.highway with channels := s.highway.channels.modify c LineRecognition.recognise }

theorem recogniseChannel_frame (s : State) (c : CircuitNo) : SameBut [.channels] s (s.recogniseChannel c) :=
  .of_forall fun b => by cases b <;> simp [Block.same, State.recogniseChannel]

theorem recogniseChannel_get (s : State) (c d : CircuitNo) : (s.recogniseChannel c).highway.channels.get d =
    if c = d then (s.highway.channels.get c).recognise else s.highway.channels.get d :=
  Table.get_modify ..

theorem updateSlot_get (s : State) (n j : SlotNo) (f : SlotRecognition → SlotRecognition) :
    (s.updateSlot n f).lanes.slots.get j = (if n = j then f (s.lanes.slots.get n) else s.lanes.slots.get j) ∧
      (s.updateSlot n f).lanes.slotsBefore.get j = if n = j then f (s.lanes.slotsBefore.get n) else s.lanes.slotsBefore.get j :=
  ⟨Table.get_modify .., Table.get_modify ..⟩

/-- R102, R103: the other slots' recognition stays. -/
theorem updateSlot_get_ne (s : State) {n j : SlotNo} (h : j ≠ n) (f : SlotRecognition → SlotRecognition) :
    (s.updateSlot n f).lanes.slots.get j = s.lanes.slots.get j ∧
      (s.updateSlot n f).lanes.slotsBefore.get j = s.lanes.slotsBefore.get j := by
  obtain ⟨hnow, hbefore⟩ := updateSlot_get s n j f
  rw [hnow, hbefore, if_neg (Ne.symm h), if_neg (Ne.symm h)]
  exact ⟨rfl, rfl⟩

theorem updateSlot_get_eq (s : State) (n : SlotNo) (f : SlotRecognition → SlotRecognition) :
    (s.updateSlot n f).lanes.slots.get n = f (s.lanes.slots.get n) ∧
      (s.updateSlot n f).lanes.slotsBefore.get n = f (s.lanes.slotsBefore.get n) := by
  obtain ⟨hnow, hbefore⟩ := updateSlot_get s n n f
  rw [hnow, hbefore, if_pos rfl, if_pos rfl]
  exact ⟨rfl, rfl⟩

theorem Sound.recogniseChannel (h : Sound s) (c : CircuitNo) : Sound (s.recogniseChannel c) :=
  h.of_frame (recogniseChannel_frame s c) (by decide) (by decide) (by decide) (by decide) (by decide)

theorem Sound.updateSlot (h : Sound s) (n : SlotNo) (f : SlotRecognition → SlotRecognition) : Sound (s.updateSlot n f) :=
  h.of_frame (updateSlot_frame s n f) (by decide) (by decide) (by decide) (by decide) (by decide)

/-! ### The rows, by what is due -/

theorem switchLineConditionChange_due {c : CircuitNo} (h : (s.highway.channels.get c).due = true) :
    exec (.switchLineConditionChange c) s = .next ((s.recogniseChannel c).inputChanged c (s.busy c)) := if_pos h

theorem slotLineConditionChange_owned {n : SlotNo} {c : CircuitNo} (h : (s.lanes.slots.get n).line.due = true)
    (ho : s.slotOwner n = some c) : exec (.slotLineConditionChange n) s =
      .next (if (s.circuit c).state = .fibre then
        (s.updateSlot n fun x => { x with line := (s.lanes.slots.get n).line.recognise }).inputChanged c (s.busy c)
      else s.updateSlot n fun x => { x with line := (s.lanes.slots.get n).line.recognise }) := by
  show execSlotLineConditionChange n s = _
  simp only [execSlotLineConditionChange, h, ho, if_true]
  split <;> rfl

theorem slotLineConditionChange_unowned {n : SlotNo} (h : (s.lanes.slots.get n).line.due = true) (ho : s.slotOwner n = none) :
    exec (.slotLineConditionChange n) s =
      .next (s.updateSlot n fun x => { x with line := (s.lanes.slots.get n).line.recognise }) := by
  show execSlotLineConditionChange n s = _
  simp only [execSlotLineConditionChange, h, ho, if_true]

theorem bridgeFlagRecognised_owned {n : SlotNo} {c : CircuitNo} (h : (s.lanes.slots.get n).flag.due = true)
    (ho : s.slotOwner n = some c) : exec (.bridgeFlagRecognised n) s =
      .next (if (s.lanes.slots.get n).flag.present = false then
        (s.updateSlot n fun x => { x with flag := (s.lanes.slots.get n).flag.recognise }).flagRecognised c
      else s.updateSlot n fun x => { x with flag := (s.lanes.slots.get n).flag.recognise }) := by
  show execBridgeFlagRecognised n s = _
  simp only [execBridgeFlagRecognised, h, ho, if_true]
  cases hp : (s.lanes.slots.get n).flag.present <;> simp [FlagRecognition.recognise, hp]

theorem bridgeFlagRecognised_unowned {n : SlotNo} (h : (s.lanes.slots.get n).flag.due = true) (ho : s.slotOwner n = none) :
    exec (.bridgeFlagRecognised n) s =
      .next (s.updateSlot n fun x => { x with flag := (s.lanes.slots.get n).flag.recognise }) := by
  show execBridgeFlagRecognised n s = _
  simp only [execBridgeFlagRecognised, h, ho, if_true]

/-! ### A bridge flag recognised as present (R33, R52) -/

theorem Circuit.bridgedState_iff {r : Circuit} : r.bridgedState = true ↔ r.state = .measuring ∨ r.state = .aligned := by
  cases hs : r.state <;> simp [Circuit.bridgedState, hs]

/-- R52: without a record handed on, a rescue takes the Δ of the context. -/
theorem Circuit.rescueAt_invalid {r : Circuit} {x : Context} (hx : r.context = some x) : r.rescueAt .invalid = x.delta := by
  simp only [Circuit.rescueAt, Circuit.delta, hx, Option.bind_some]
  cases x.delta <;> rfl

/-- R52: on a DOWN span a bridged circuit is rescued. -/
theorem flagRecognised_down (h : Sound s) {c : CircuitNo} {x : Context} (hst : (s.circuit c).state = .measuring ∨ (s.circuit c).state = .aligned)
    (hdown : s.spanDownOf (s.circuit c) = true) (hx : (s.circuit c).context = some x) :
    Spliced c .rescued (rescueBuildOut x.delta) x.delta none x s (s.flagRecognised c) := by
  rw [State.flagRecognised, if_pos ⟨Circuit.bridgedState_iff.mpr hst, hdown⟩, ← Circuit.rescueAt_invalid hx]
  exact rescue_spec h hx .invalid

/-- R33: otherwise the test of BRIDGE-WAIT is made. -/
theorem flagRecognised_test {c : CircuitNo}
    (h : ¬ (((s.circuit c).state = .measuring ∨ (s.circuit c).state = .aligned) ∧ s.spanDownOf (s.circuit c) = true)) :
    s.flagRecognised c = s.bridgeWaitTest c := by
  rw [State.flagRecognised, if_neg (by rwa [Circuit.bridgedState_iff])]

theorem flagRecognised_measuring (h : Sound s) {c : CircuitNo} {x : Context} (hst : (s.circuit c).state = .measuring)
    (hup : s.spanDownOf (s.circuit c) = false) (hx : (s.circuit c).context = some x) :
    if x.sub = some .bridgeWait then BridgeWaitJudged c x s (s.flagRecognised c) else s.flagRecognised c = s := by
  rw [flagRecognised_test (by simp [hup])]
  split
  next hsub => exact bridgeWaitTest_spec h hst hx hsub
  next hsub => exact bridgeWaitTest_other (.inr fun y hy => by simp_all)

theorem flagRecognised_other {c : CircuitNo} (h : (s.circuit c).state = .aligned ∧ s.spanDownOf (s.circuit c) = false ∨
    ((s.circuit c).state ≠ .measuring ∧ (s.circuit c).state ≠ .aligned)) : s.flagRecognised c = s := by
  rw [flagRecognised_test (by grind)]
  exact bridgeWaitTest_other (.inl (by grind))

/-! ### The rows (R14, R102, R103) -/

theorem switchLineConditionChange_spec (s : State) (c : CircuitNo) (code : LineCondition) (hlaw : Lawful s)
    (hdue : (s.highway.channels.get c).due = true) (hcand : (s.highway.channels.get c).candidate = some code) :
    ∃ m t, exec (.switchLineConditionChange c) s = .next t ∧ SameBut [.channels] s m ∧
      m.highway.channels.get c = ⟨code, none, 0, false⟩ ∧
      (∀ d, d ≠ c → m.highway.channels.get d = s.highway.channels.get d) ∧ InputJudged c (s.busy c) m t := by
  refine ⟨_, _, switchLineConditionChange_due hdue, recogniseChannel_frame s c, ?_, fun d hd => ?_,
    inputChanged_spec (hlaw.sound.recogniseChannel c) c _⟩
  · rw [recogniseChannel_get, if_pos rfl, LineRecognition.recognise_of hcand]
  · rw [recogniseChannel_get, if_neg (Ne.symm hd)]

theorem slotLineConditionChange_spec (s : State) (n : SlotNo) (code : LineCondition) (hlaw : Lawful s)
    (hdue : (s.lanes.slots.get n).line.due = true) (hcand : (s.lanes.slots.get n).line.candidate = some code) :
    ∃ m t, exec (.slotLineConditionChange n) s = .next t ∧ SameBut [.slots] s m ∧
      m.lanes.slots.get n = ⟨⟨code, none, 0, false⟩, (s.lanes.slots.get n).flag⟩ ∧
      m.lanes.slotsBefore.get n = ⟨⟨code, none, 0, false⟩, (s.lanes.slotsBefore.get n).flag⟩ ∧
      (∀ j, j ≠ n → m.lanes.slots.get j = s.lanes.slots.get j ∧ m.lanes.slotsBefore.get j = s.lanes.slotsBefore.get j) ∧
      (∀ c, s.slotOwner n = some c → (s.circuit c).state = .fibre → InputJudged c (s.busy c) m t) ∧
      ((∀ c, s.slotOwner n = some c → (s.circuit c).state ≠ .fibre) → t = m) := by
  obtain ⟨hnow, hbefore⟩ := updateSlot_get_eq s n fun x => { x with line := (s.lanes.slots.get n).line.recognise }
  rw [LineRecognition.recognise_of hcand] at hnow hbefore
  have hframe := updateSlot_frame s n fun x => { x with line := (⟨code, none, 0, false⟩ : LineRecognition) }
  have hsound := hlaw.sound.updateSlot n fun x => { x with line := (⟨code, none, 0, false⟩ : LineRecognition) }
  have hothers : ∀ j, j ≠ n → _ := fun j hj =>
    updateSlot_get_ne s hj fun x => { x with line := (⟨code, none, 0, false⟩ : LineRecognition) }
  cases ho : s.slotOwner n with
  | none =>
    have hexec := slotLineConditionChange_unowned hdue ho
    rw [LineRecognition.recognise_of hcand] at hexec
    exact ⟨_, _, hexec, hframe, hnow, hbefore, hothers, fun c hc => by simp at hc, fun _ => rfl⟩
  | some c =>
    have hexec := slotLineConditionChange_owned hdue ho
    rw [LineRecognition.recognise_of hcand] at hexec
    refine ⟨_, _, hexec, hframe, hnow, hbefore, hothers, fun d hd hst => ?_, fun hst => if_neg (hst c rfl)⟩
    cases hd
    rw [if_pos hst]
    exact inputChanged_spec hsound c _

theorem bridgeFlagRecognised_spec (s : State) (n : SlotNo) (hlaw : Lawful s) (hdue : (s.lanes.slots.get n).flag.due = true) :
    ∃ m t, exec (.bridgeFlagRecognised n) s = .next t ∧ SameBut [.slots] s m ∧
      m.lanes.slots.get n = ⟨(s.lanes.slots.get n).line, ⟨!(s.lanes.slots.get n).flag.present, 0, false⟩⟩ ∧
      m.lanes.slotsBefore.get n = ⟨(s.lanes.slotsBefore.get n).line, ⟨!(s.lanes.slots.get n).flag.present, 0, false⟩⟩ ∧
      (∀ j, j ≠ n → m.lanes.slots.get j = s.lanes.slots.get j ∧ m.lanes.slotsBefore.get j = s.lanes.slotsBefore.get j) ∧
      ((s.lanes.slots.get n).flag.present = true ∨ s.slotOwner n = none → t = m) ∧
      ∀ c, (s.lanes.slots.get n).flag.present = false → s.slotOwner n = some c →
        (∀ x, ((s.circuit c).state = .measuring ∨ (s.circuit c).state = .aligned) → s.spanDownOf (s.circuit c) = true →
          (s.circuit c).context = some x → Spliced c .rescued (rescueBuildOut x.delta) x.delta none x m t) ∧
        (∀ x, (s.circuit c).state = .measuring → s.spanDownOf (s.circuit c) = false → (s.circuit c).context = some x →
          if x.sub = some .bridgeWait then BridgeWaitJudged c x m t else t = m) ∧
        ((s.circuit c).state = .aligned ∧ s.spanDownOf (s.circuit c) = false ∨
          ((s.circuit c).state ≠ .measuring ∧ (s.circuit c).state ≠ .aligned) → t = m) := by
  obtain ⟨hnow, hbefore⟩ := updateSlot_get_eq s n fun x => { x with flag := (s.lanes.slots.get n).flag.recognise }
  have hframe := updateSlot_frame s n fun x => { x with flag := (s.lanes.slots.get n).flag.recognise }
  have hsound := hlaw.sound.updateSlot n fun x => { x with flag := (s.lanes.slots.get n).flag.recognise }
  have hothers : ∀ j, j ≠ n → _ := fun j hj =>
    updateSlot_get_ne s hj fun x => { x with flag := (s.lanes.slots.get n).flag.recognise }
  cases ho : s.slotOwner n with
  | none =>
    exact ⟨_, _, bridgeFlagRecognised_unowned hdue ho, hframe, hnow, hbefore, hothers, fun _ => rfl, fun c _ hc => by simp at hc⟩
  | some c =>
    refine ⟨_, _, bridgeFlagRecognised_owned hdue ho, hframe, hnow, hbefore, hothers, fun hp => if_neg (by simpa using hp),
      fun d habsent hd => ?_⟩
    cases hd
    rw [if_pos habsent]
    exact ⟨fun x hst hdown hx => flagRecognised_down hsound hst hdown hx, fun x hst hup hx => flagRecognised_measuring hsound hst hup hx,
      fun h => flagRecognised_other h⟩

/-- Settles O47: each row by what is due, what the channel or the slot then holds, and what its circuit does. -/
theorem recognition : Obligations.Recognition :=
  ⟨switchLineConditionChange_spec, slotLineConditionChange_spec, bridgeFlagRecognised_spec, fun _ _ _ =>
    ⟨fun h => if_neg (by simp [h]), fun h => if_neg (by simp [h]), fun h => if_neg (by simp [h])⟩⟩

end Sys2Proof.Machine
end

section
/-! SUPPORT. What a step comes to when it is seen past the ports: a command takes its head before its rule and answers after it, and no
turn of a circuit rests on either (R178). -/

namespace Sys2Proof.Machine

variable {s t u : State}

/-! ### Records, messages and inputs through a frame -/

theorem Sent.of_frame {l : List Block} {messages : List PeerMessage} (h : Sent messages s t) (hf : SameBut l t u) (hb : Block.overhead ∉ l) :
    Sent messages s u := Block.same_trans h (hf _ hb)

theorem Sent.after_frame {l : List Block} {messages : List PeerMessage} (h : Sent messages t u) (hf : SameBut l s t)
    (hb : Block.overhead ∉ l) : Sent messages s u := (hf.sentNone hb).trans h

/-- A record written, from a state with the same records. -/
theorem Becomes.after_frame {c : CircuitNo} {r : Circuit} {l : List Block} (h : Becomes c r t u) (hf : SameBut l s t)
    (hc : Block.circuits ∉ l) : Becomes c r s u := ⟨h.1, fun d hd => (h.2 d hd).trans (hf.sameCircuit hc d)⟩

theorem TakesContext.after_frame {c : CircuitNo} {x : Context} {l : List Block} (h : TakesContext c x t u) (hf : SameBut l s t)
    (hc : Block.circuits ∉ l) : TakesContext c x s u := by
  rw [TakesContext, hf.sameCircuit hc] at h
  exact Becomes.after_frame h hf hc

/-- R16: whether a circuit is busy rests on its route and on the recognised conditions alone. -/
theorem SameBut.sameBusy {l : List Block} (h : SameBut l s t) (hc : Block.channels ∉ l) (hn : Block.slots ∉ l) (hp : Block.spans ∉ l)
    {c : CircuitNo} (hstate : (t.circuit c).state = (s.circuit c).state) (hfibre : (t.circuit c).fibre = (s.circuit c).fibre)
    (hcopper : (t.circuit c).copper = (s.circuit c).copper) : t.busy c = s.busy c := by
  have hchannels : t.highway.channels = s.highway.channels := h _ hc
  have hslots : t.lanes.slots = s.lanes.slots := (h _ hn).1
  have hspans : t.spans = s.spans := h _ hp
  simp [State.busy, State.switchCondition, State.farCondition, State.farBy, State.copperCondition, State.span, State.slotCondition,
    hchannels, hslots, hspans, hstate, hfibre, hcopper]

theorem SameBut.sameMigrating {l : List Block} (h : SameBut l s t) (hc : Block.circuits ∉ l) : t.migratingCircuits = s.migratingCircuits := by
  simp only [State.migratingCircuits, h.sameCircuit hc]

/-! ### Ports put back -/

theorem SameBut.symm {l : List Block} (h : SameBut l s t) : SameBut l t s := fun b hb => Block.same_symm (h b hb)

/-- A state with the ports of another. -/
def State.withPortsOf (t s : State) : State := t.setLinks { t.links with primary := s.links.primary, craft := s.links.craft }

theorem withPortsOf_frame (t s : State) : SameBut [.ports] t (t.withPortsOf s) :=
  .of_forall fun b => by cases b <;> simp [Block.same, State.withPortsOf]

/-- A frame that names the ports says as much without them once they are put back. -/
theorem SameBut.withPortsOf {l : List Block} (h : SameBut (.ports :: l) s t) : SameBut l s (t.withPortsOf s) := fun b hb => by
  by_cases hp : b = .ports
  · subst hp; exact ⟨rfl, rfl⟩
  · exact Block.same_trans (h b (by simp [hp, hb])) (withPortsOf_frame t s b (by simpa using hp))

theorem handReport_withPortsOf (s u : State) (b : ReportBody) : (s.handReport b).withPortsOf u = (s.withPortsOf u).handReport b := by
  unfold State.handReport
  split
  next h => exact (if_pos h).symm
  next h => exact (if_neg h).symm

/-! ### Two states that differ in their ports alone -/

section
variable (h : SameBut [.ports] s t)
include h

theorem SameBut.sameHighway : t.highway = s.highway := by
  have hchannels : t.highway.channels = s.highway.channels := h .channels (by decide)
  have hroutes := h .routes (by decide)
  simp only [Block.same] at hroutes
  cases hs : s.highway; cases ht : t.highway; simp_all

theorem SameBut.sameLanes : t.lanes = s.lanes := by
  have hclock : t.lanes.fc = s.lanes.fc := h .clock (by decide)
  have hrecords := h .laneRecords (by decide)
  have hselection := h .selection (by decide)
  have hslots := h .slots (by decide)
  have hoverhead := h .overhead (by decide)
  have hsending := h .sending (by decide)
  have hreception := h .reception (by decide)
  simp only [Block.same] at hrecords hselection hslots hoverhead hsending hreception
  cases hs : s.lanes; cases ht : t.lanes; simp_all

theorem SameBut.samePeer : t.peer = s.peer := by
  have hlink := h .link (by decide)
  have hcounts := h .peerCounts (by decide)
  have hcounter : t.peer.counter = s.peer.counter := h .proposals (by decide)
  have hresponse : t.peer.response = s.peer.response := h .responses (by decide)
  have hinbox : t.peer.inbox = s.peer.inbox := h .inbox (by decide)
  simp only [Block.same] at hlink hcounts
  cases hs : s.peer; cases ht : t.peer; simp_all

theorem SameBut.sameDirectory : t.directory = s.directory := by
  have hentries := h .entries (by decide)
  have hmisses := h .misses (by decide)
  have hwalk : t.directory.walk = s.directory.walk := h .walk (by decide)
  simp only [Block.same] at hentries hmisses
  cases hs : s.directory; cases ht : t.directory; simp_all

theorem SameBut.sameLinks : t.links = { s.links with primary := t.links.primary, craft := t.links.craft } := by
  have hreports := h .reports (by decide)
  have hstart := h .startUp (by decide)
  simp only [Block.same] at hreports hstart
  cases hs : s.links; cases ht : t.links; simp_all

/-- The blocks name every holding of the part, so that states that agree on all but the ports differ in nothing else. -/
theorem SameBut.eq_withPortsOf : t = s.withPortsOf t := by
  obtain ⟨htimeslots, hslotOwners⟩ := h.sameOwner (by decide)
  have hpending : t.pending = s.pending := h .pending (by decide)
  have hbatches : t.batches = s.batches := h .batches (by decide)
  have hfree : t.freeCount = s.freeCount := h .freeValues (by decide)
  have halign : t.align = s.align := h.sameAlign (by decide) (by decide) (by decide) (by decide)
  rw [State.withPortsOf, State.setLinks, ← h.sameLinks, ← hpending, ← h.sameNode (by decide), ← h.sameCircuits (by decide),
    ← htimeslots, ← hslotOwners, ← h.sameHighway, ← h.sameSpans (by decide), ← h.sameLanes, ← halign, ← h.samePeer,
    ← h.sameDirectory, ← hbatches, ← h.sameWatches (by decide), ← hfree]

end

/-! ### Turns of a circuit -/

section
variable {s' t' : State} (hs : SameBut [.ports] s' s) (ht : SameBut [.ports] t t')
include hs ht

/-- A record written rests on no port. -/
theorem Becomes.past_ports {c : CircuitNo} {r : Circuit} (h : Becomes c r s t) : Becomes c r s' t' :=
  (h.of_frame ht (by decide) (by decide) (by decide)).after_frame hs (by decide)

theorem TakesContext.past_ports {c : CircuitNo} {x : Context} (h : TakesContext c x s t) : TakesContext c x s' t' :=
  TakesContext.after_frame (h.of_frame ht (by decide) (by decide) (by decide)) hs (by decide)

/-- The start of a migration rests on no port. -/
theorem MigrationStarted.past_ports {c : CircuitNo} {code : TrunkCode} {slot : SlotNo} (h : MigrationStarted c code slot s t) :
    MigrationStarted c code slot s' t' := by
  have hnode : s.node = s'.node := hs.sameNode (by decide)
  have hcounter : s.peer.counter = s'.peer.counter := hs.sameCounter (by decide)
  have hresponse : s.peer.response = s'.peer.response := hs.sameResponse (by decide)
  obtain ⟨htimer, hothers⟩ := h.timer
  obtain ⟨hwatches, hreports⟩ := h.watched
  obtain ⟨hwatches', hreports'⟩ := watchEvent_congr c .migrateStart none (hs .watches (by decide)) (hs .reports (by decide))
    (hs.sameClock (by decide))
  refine ⟨?_, ?_, ?_, ⟨?_, fun d hd => ?_⟩, ⟨?_, ?_⟩, ?_⟩
  · have := Becomes.past_ports hs ht h.record
    simpa only [startContext, hnode, hcounter, hs.sameCircuit (show Block.circuits ∉ [.ports] by decide)] using this
  · rw [ht.sameCounter (by decide), ← hcounter]; exact h.counter
  · rw [← hcounter]
    exact (h.sent.of_frame ht (by decide)).after_frame hs (by decide)
  · rw [ht.sameResponse (by decide)]; exact htimer
  · rw [ht.sameResponse (by decide), ← hresponse]; exact hothers d hd
  · exact Block.same_trans (Block.same_trans hwatches' hwatches) (ht _ (by decide))
  · exact Block.same_trans (Block.same_trans hreports' hreports) (ht _ (by decide))
  · exact ((hs.mono (by decide)).trans h.frame).trans (ht.mono (by decide))

theorem GivenUp.past_ports {c : CircuitNo} (h : GivenUp c s t) : GivenUp c s' t' := by
  obtain ⟨hqueue, hunits⟩ := h
  refine ⟨?_, fun v => ?_⟩
  · rw [ht.sameQueue (by decide), hqueue, hs.sameQueue (by decide)]
  · rw [ht.sameUnit (by decide), hunits v, hs.sameUnit (by decide)]

/-- An abandonment rests on no port. -/
theorem Abandoned.past_ports {c : CircuitNo} {reason : Reason} {decline : Option DeclineReason} (h : Abandoned c reason decline s t) :
    Abandoned c reason decline s' t' := by
  refine ⟨?_, ?_, GivenUp.past_ports hs ht h.matcher⟩
  · rw [← hs.sameCircuit (by decide), ← show s.fc = s'.fc from hs.sameClock (by decide)]
    exact h.turn.past_ports hs ht
  · rw [ht.sameResponse (by decide)]; exact h.response

/-- A revert rests on no port. -/
theorem Reverted.past_ports {c : CircuitNo} {reason : Reason} {j : Option SampleOffset} (h : Reverted c reason j s t) :
    Reverted c reason j s' t' := by
  obtain ⟨hj, hturn⟩ := h
  have hturn := hturn.past_ports hs ht
  rw [hs.sameCircuit (by decide)] at hj hturn
  rw [show s.fc = s'.fc from hs.sameClock (by decide)] at hturn
  exact ⟨hj, hturn⟩

end

/-- R35: the ALIGNED evaluation rests on no port. -/
theorem AlignedJudged.past_ports {c : CircuitNo} {x : Context} {d : Int} {tol : Nat} {s' : State} (h : AlignedJudged c x d tol s t)
    (hs : SameBut [.ports] s' s) : AlignedJudged c x d tol s' (t.withPortsOf s') := by
  have hcirc := hs.sameCircuit (by decide) c
  have hover : s.overAt c d tol = s'.overAt c d tol := by
    rw [State.overAt, hs.sameBusy (by decide) (by decide) (by decide) (by rw [hcirc]) (by rw [hcirc]) (by rw [hcirc]), State.overAt]
  unfold AlignedJudged at h ⊢
  simp only [hover, show s.fc = s'.fc from hs.sameClock (by decide), hs.sameNode (show Block.node ∉ [.ports] by decide)] at h ⊢
  split at h
  next hout =>
    obtain ⟨m, htake, hm, habandoned, hturn⟩ := h
    rw [if_pos hout]
    refine ⟨m.withPortsOf s', htake.past_ports hs (withPortsOf_frame m s'), ?_,
      habandoned.past_ports (SameBut.symm (withPortsOf_frame m s')) (withPortsOf_frame t s'), ?_⟩
    · exact ((hs.mono (by decide)).trans (hm.mono (by decide)) : SameBut [.ports, .circuits] s' m).withPortsOf
    · exact SameBut.withPortsOf (s := m.withPortsOf s')
        (((SameBut.symm (withPortsOf_frame m s')).mono (by decide)).trans (hturn.mono (by decide)) : SameBut (.ports :: turnBlocks) _ t)
  next hout =>
    rw [if_neg hout]
    exact ⟨h.1.past_ports hs (withPortsOf_frame t s'),
      ((hs.mono (by decide)).trans (h.2.mono (by decide)) : SameBut [.ports, .circuits] s' t).withPortsOf⟩

/-! ### The loss of the peer link (R44, R122) -/

/-- The end of every migration rests on no port. -/
theorem MigrationsEnded.withPortsOf (h : MigrationsEnded s t) (u : State) : MigrationsEnded (s.withPortsOf u) (t.withPortsOf u) := by
  have hs := (withPortsOf_frame s u).symm
  have ht := withPortsOf_frame t u
  obtain ⟨bodies, hreported, hnotes⟩ := h.reports
  refine ⟨h.abandoned, h.others, ?_, ⟨bodies, ?_, hnotes⟩, h.watches, ⟨h.matchers.queue, h.matchers.units⟩, ?_⟩
  · exact (h.sent.of_frame ht (by decide)).after_frame hs (by decide)
  · exact (hreported.of_frame ht (by decide)).after_frame hs (by decide) (by decide)
  · exact SameBut.withPortsOf (s := s.withPortsOf u) ((hs.mono (by decide)).trans (h.frame.mono (by decide)))

/-- R122: the loss of the link rests on no port. -/
theorem LeavesUp.withPortsOf {after : LinkState} {kind : PeerReportKind} (h : LeavesUp after kind s t) (u : State) :
    LeavesUp after kind (s.withPortsOf u) (t.withPortsOf u) := by
  obtain ⟨⟨m, hm, hended⟩, bodies, hreported⟩ := h
  refine ⟨⟨m.withPortsOf u, ?_, hended.withPortsOf u⟩, bodies, ?_⟩
  · rw [hm, handReport_withPortsOf]; rfl
  · exact (hreported.of_frame (withPortsOf_frame t u) (by decide)).after_frame (withPortsOf_frame s u).symm (by decide) (by decide)

end Sys2Proof.Machine
end

section
/-! SUPPORT. Reset of the blocks beside the circuit table, and what differs between the two resets (R173, R174, R184). -/

namespace Sys2Proof.Machine

variable {s t : State}

section
variable (h : IsReset t)
include h

theorem IsReset.peer : t.peer = .reset := by obtain ⟨_, _, _, _, _, _, _, _, rfl⟩ := h; rfl

theorem IsReset.ring (c : CircuitNo) : t.ring c = .fill 0x7F#8 := by
  rw [State.ring, h.align]; exact Table.get_fill _ c

theorem IsReset.slot (n : SlotNo) : t.lanes.slots.get n = ⟨.reset, .reset⟩ := by
  obtain ⟨lightA, lightB, hlanes⟩ := h.lanes
  rw [hlanes]; exact Table.get_fill _ n

theorem IsReset.lane (i : Lane) : ∃ light, t.lane i = .reset light := by
  obtain ⟨lightA, lightB, hlanes⟩ := h.lanes
  rw [State.lane, hlanes]
  cases i
  · exact ⟨lightA, rfl⟩
  · exact ⟨lightB, rfl⟩

theorem IsReset.port (port : Port) : ∃ rate, t.port port = .reset rate := by
  obtain ⟨cause, primary, craft, hlinks⟩ := h.links
  rw [State.port, hlinks]
  cases port
  · exact ⟨primary, rfl⟩
  · exact ⟨craft, rfl⟩

end

/-- What both resets keep: what the line and optical receivers show, and the model's own two fields. -/
theorem resetWith_keeps_outside (s : State) (cause : ResetCause) (primary craft : LineRate) :
    let t : State := .resetWith cause primary craft (fun n => (s.span n).lossOfSignal) s.lanes.a.lossOfLight s.lanes.b.lossOfLight
      s.pending s.freeCount
    (∀ n, (t.span n).lossOfSignal = (s.span n).lossOfSignal) ∧ (∀ i, (t.lane i).lossOfLight = (s.lane i).lossOfLight) ∧
      t.pending = s.pending ∧ t.freeCount = s.freeCount := by
  intro t
  refine ⟨fun n => ?_, fun i => by cases i <;> rfl, rfl, rfl⟩
  have hspan : t.span n = .reset (s.span n).lossOfSignal := Table.get_ofFn _ n
  rw [hspan]
  rfl

/-- Settles O5: each block at its reset values, and the two resets by their cause, their rates and what they keep. -/
theorem resetBlocks : Obligations.ResetBlocks := by
  refine ⟨fun s t ht => ?_, fun s primary craft => ?_, fun s tag body hsend => ?_⟩
  · have h := isReset_of_afterReset ht
    obtain ⟨lightA, lightB, hlanes⟩ := h.lanes
    obtain ⟨cause, primary, craft, hlinks⟩ := h.links
    have hfc : t.fc = 0 := by rw [State.fc, hlanes]; rfl
    rw [h.align, hlanes, h.peer, h.directory, hlinks, hfc]
    refine ⟨h.node, fun c i => ?_, rfl, rfl, fun v => ?_, fun n => ?_, fun i => ?_, rfl, rfl, rfl, rfl, rfl, fun n => ?_,
      rfl, rfl, rfl, rfl, rfl, rfl, rfl, rfl, rfl, rfl, rfl, fun c => Table.get_fill _ c, fun i => Table.get_fill _ i, rfl,
      fun i => Table.get_fill _ i, rfl, rfl, fun i => Table.get_fill _ i, fun b w => ?_, rfl, rfl, rfl, h.batch, fun port => ?_,
      rfl, rfl, rfl, rfl⟩
    · rw [h.ring]; exact Table.get_fill _ i
    · rw [h.unit]; exact ⟨rfl, rfl, rfl, rfl, fun i => Table.get_fill _ i⟩
    · obtain ⟨signal, hn⟩ := h.span n
      rw [hn]
      exact ⟨rfl, rfl, rfl, rfl, rfl, rfl, rfl, rfl, rfl, fun i => ⟨Table.get_fill _ i, Table.get_fill _ i⟩, rfl, rfl, rfl, rfl, rfl, rfl⟩
    · obtain ⟨light, hi⟩ := h.lane i
      rw [hi]
      exact ⟨rfl, rfl, rfl, rfl, rfl, rfl, rfl, rfl⟩
    · rw [State.slotCondition, ← hlanes, h.slot]
      exact ⟨rfl, rfl, rfl, rfl, rfl⟩
    · rw [← h.directory]; exact h.trunk b w
    · obtain ⟨rate, hp⟩ := h.port port
      rw [hp]
      exact ⟨rfl, rfl, rfl, rfl, rfl, rfl, rfl⟩
  · refine ⟨_, rfl, rfl, fun port straps hport => ?_, resetWith_keeps_outside s _ _ _⟩
    obtain ⟨rfl, rfl⟩ | ⟨rfl, rfl⟩ := hport <;> rfl
  · refine ⟨s.commandReset, ?_, rfl, fun port => ?_, resetWith_keeps_outside s _ _ _⟩
    · show execFrameTransmitEnd .primary s = _
      simp only [execFrameTransmitEnd, hsend, and_self, if_true]
    · cases port <;> rfl

end Sys2Proof.Machine
end

section
/-! SUPPORT. The commands on a migration and its fallback: MIGRATE, ABANDON, REVERT, RELEASE and RESUME (R25, R39, R43, R47, R50). -/

namespace Sys2Proof.Machine

variable {s t : State} {port : Port} {q : QueuedCommand} {rest : List QueuedCommand}

/-! ### Circuit selectors (R25, checks 1 to 3) -/

/-- A selector that names a circuit resolves to it. -/
theorem resolve_names {sel : Selector} {c : CircuitNo} (h : Names s sel c) : s.resolve sel = .circuit c := by
  cases sel with
  | number n =>
    obtain rfl : n = c.val := h
    simp [State.resolve]
  | code code =>
    obtain ⟨hvalid, hidle, found, hfound⟩ := h
    simp [State.resolve, hvalid, hidle, hfound]

/-- A selector resolves alike before and after the head is taken. -/
theorem resolve_takeHead (s : State) (port : Port) (q : QueuedCommand) (rest : List QueuedCommand) (sel : Selector) :
    (s.takeHead port q rest).resolve sel = s.resolve sel := by
  cases sel <;> rfl

/-- R183: a code out of its ranges. -/
theorem codeValid_false {code : TrunkCode} : codeValid code = false ↔ 4096 ≤ code.route ∨ 256 ≤ code.member := by
  simp [codeValid]
  omega

/-- The command `i` names its circuit by the selector `sel` and follows `rule` for it; `type` is its command type. -/
structure BySelector (i : Instr) (port : Port) (type : Byte) (sel : Selector) (rule : State → CircuitNo → Handled) : Prop where
  runs : ∀ s, exec i s = runCommand i port (fun u => u.withSelector port type sel (rule u)) s
  typed : ∃ tag body, commandFrame i = some (port, ⟨tag, type, body⟩)
  onBothPorts : commandClass type ≠ some .provision

section
variable {i : Instr} {type : Byte} {sel : Selector} {rule : State → CircuitNo → Handled} {c : CircuitNo} {result : ResultCode}
  {body : ReplyBody} (b : BySelector i port type sel rule) (h : Heads s port i q rest)
include b h

theorem BySelector.authority : lacksAuthority port q.type = false := by
  obtain ⟨tag, body, hframe⟩ := b.typed
  exact h.authority (by rw [hframe]; exact b.onBothPorts)

/-- The command type is that of the queued command. -/
theorem BySelector.type_eq : q.type = type := by
  obtain ⟨tag, body, hframe⟩ := b.typed
  have hhead := parseCommand_head h.spells
  rw [hframe] at hhead
  simp only [Option.map_some, Option.some.injEq, Prod.mk.injEq] at hhead
  exact hhead.2.2.symm

/-- A selector that the directory does not resolve refuses the command. -/
theorem BySelector.refuses_unresolved (hsel : s.resolve sel = .refused result body) : Refuses s i port q rest result body := by
  refine refuses_of_rule (b.runs s) h (b.authority h) ?_
  rw [State.withSelector, resolve_takeHead, hsel]

/-- A refusal of the circuit that the selector names. -/
theorem BySelector.refuses (hsel : Names s sel c)
    (hr : rule (s.takeHead port q rest) c = answered (s.takeHead port q rest) result body) : Refuses s i port q rest result body := by
  refine refuses_of_rule (b.runs s) h (b.authority h) ?_
  rw [State.withSelector, resolve_takeHead, resolve_names hsel]
  exact hr

/-- The effect on the circuit that the selector names. -/
theorem BySelector.completes {l : List Block} {effect : State → Prop} (hsel : Names s sel c)
    (hr : rule (s.takeHead port q rest) c = answered t result body) (hf : SameBut l (s.takeHead port q rest) t)
    (hp : Block.ports ∉ l) (heff : ∀ u, SameBut [.ports] t u → effect u) : Completes s i port q rest result body l effect := by
  refine completes_of_rule (b.runs s) h (b.authority h) ?_ hf hp heff
  rw [State.withSelector, resolve_takeHead, resolve_names hsel]
  exact hr

/-- R143, R144: a code that no entry resolves is answered NOT_FOUND, and the miss is recorded. -/
theorem BySelector.missed {code : TrunkCode} (hsel : s.resolve sel = .missed code) :
    Completes s i port q rest .notFound (.missed (missFields code)) [.misses] fun t =>
      t.directory.missCount = raise s.directory.missCount ∧
      t.directory.lastMiss = some ⟨code, portSource port, q.type, (primaryBucket code).val, (secondaryBucket code).val, s.fc⟩ := by
  refine completes_of_rule (t := (s.takeHead port q rest).recordMiss code (portSource port) type) (b.runs s) h (b.authority h) ?_
    (recordMiss_frame _ _ _ _) (by decide) fun u hu => ?_
  · rw [State.withSelector, resolve_takeHead, hsel]
  · obtain ⟨hlast, hcount⟩ : Block.misses.same _ u := hu .misses (by decide)
    rw [b.type_eq h]
    exact ⟨hcount, hlast⟩

end

theorem bySelector_migrate (port : Port) (tag : Byte) (sel : Selector) :
    BySelector (.migrate port tag sel) port 0x20 sel State.migrate := ⟨fun _ => rfl, ⟨_, _, rfl⟩, by decide⟩

/-- R43, for a circuit. -/
def State.abandonAsked (s : State) (c : CircuitNo) : Handled :=
  if (s.circuit c).migrating then answered (s.abandon c .commanded none) .ok .empty else answered s .state .empty

theorem bySelector_abandon (port : Port) (tag : Byte) (sel : Selector) :
    BySelector (.abandon port tag sel) port 0x21 sel State.abandonAsked := ⟨fun _ => rfl, ⟨_, _, rfl⟩, by decide⟩

theorem bySelector_revert (port : Port) (tag : Byte) (sel : Selector) :
    BySelector (.revert port tag sel) port 0x22 sel State.revert := ⟨fun _ => rfl, ⟨_, _, rfl⟩, by decide⟩

/-- R47, for a circuit. -/
def State.releaseAsked (s : State) (c : CircuitNo) : Handled :=
  if (s.circuit c).releasable then answered (s.releaseFallback c .commanded) .ok .empty else answered s .state .empty

theorem bySelector_release (port : Port) (tag : Byte) (sel : Selector) :
    BySelector (.release port tag sel) port 0x23 sel State.releaseAsked := ⟨fun _ => rfl, ⟨_, _, rfl⟩, by decide⟩

/-- R39, for a circuit. -/
def State.resumeAsked (s : State) (c : CircuitNo) : Handled :=
  match (s.circuit c).state, (s.circuit c).context with
  | .aligned, some x => if x.held then s.resume c x else answered s .state .empty
  | _, _ => answered s .state .empty

theorem bySelector_resume (port : Port) (tag : Byte) (sel : Selector) :
    BySelector (.resume port tag sel) port 0x24 sel State.resumeAsked := ⟨fun _ => rfl, ⟨_, _, rfl⟩, by decide⟩

theorem bySelector_of_mem {tag : Byte} {sel : Selector} {i : Instr}
    (hi : i ∈ [.migrate port tag sel, .abandon port tag sel, .revert port tag sel, .release port tag sel, .resume port tag sel]) :
    ∃ type rule, BySelector i port type sel rule := by
  simp only [List.mem_cons, List.not_mem_nil, or_false] at hi
  obtain rfl | rfl | rfl | rfl | rfl := hi
  · exact ⟨_, _, bySelector_migrate port tag sel⟩
  · exact ⟨_, _, bySelector_abandon port tag sel⟩
  · exact ⟨_, _, bySelector_revert port tag sel⟩
  · exact ⟨_, _, bySelector_release port tag sel⟩
  · exact ⟨_, _, bySelector_resume port tag sel⟩

/-- Settles O18: each way in which a selector fails to name a circuit, the same for all five commands. -/
theorem selectorRefusals : Obligations.SelectorRefusals := by
  intro s port tag sel i q rest hi h
  obtain ⟨type, rule, b⟩ := bySelector_of_mem hi
  refine ⟨fun n hn hbig => ?_, fun code hcode => ?_⟩
  · subst hn
    exact b.refuses_unresolved h (by simp [State.resolve, circuitOf_none hbig])
  subst hcode
  refine ite_prop_iff_and.mpr ⟨fun hrange => b.refuses_unresolved h ?_, fun hrange => ?_⟩
  · rw [State.resolve, if_pos (codeValid_false.mpr hrange)]
  have hvalid : ¬ codeValid code = false := mt codeValid_false.mp hrange
  refine ite_prop_iff_and.mpr ⟨fun hbusy => b.refuses_unresolved h ?_, fun hidle hmiss => ?_⟩
  · rw [State.resolve, if_neg hvalid, if_pos hbusy]
  · have hmissed := b.missed h (code := code) (by rw [State.resolve, if_neg hvalid, if_neg hidle, hmiss])
    have hbucket : (secondaryBucket code).val = 127 - (code.route * 7 + code.member) % 128 := by
      simp [secondaryBucket, primaryBucket, Fin.val_rev]
    rw [missFields, hbucket] at hmissed
    exact hmissed

/-! ### MIGRATE (R25) -/

theorem migrate_refused {c : CircuitNo} {result : ResultCode} (h : s.migrateRefusal c = some result) :
    s.migrate c = answered s result .empty := by rw [State.migrate, h]

theorem migrate_started {c : CircuitNo} (h : s.migrateRefusal c = none) :
    s.migrate c = answered (s.startMigration c) .ok (.migrated c s.peer.counter) := by rw [State.migrate, h]

/-- Settles O30: the refusals in the order of the checks, and the migration that starts when they pass. -/
theorem migrate : Obligations.Migrate := by
  intro s port tag sel c q rest h hsel i
  have b : BySelector i port 0x20 sel State.migrate := bySelector_migrate port tag sel
  refine ite_prop_iff_and.mpr ⟨fun hstate => b.refuses h hsel (migrate_refused (if_pos hstate)), fun hstate => ?_⟩
  refine ite_prop_iff_and.mpr ⟨fun hcode => b.refuses h hsel (migrate_refused ((if_neg hstate).trans (if_pos hcode))), fun hcode => ?_⟩
  refine ite_prop_iff_and.mpr ⟨fun hinhibit => b.refuses h hsel
    (migrate_refused ((if_neg hstate).trans ((if_neg hcode).trans (if_pos hinhibit)))), fun hinhibit => ?_⟩
  refine ite_prop_iff_and.mpr ⟨fun hdown => b.refuses h hsel
    (migrate_refused ((if_neg hstate).trans ((if_neg hcode).trans ((if_neg hinhibit).trans (if_pos hdown))))),
    fun hup code slot hc hf => ?_⟩
  have hpass : (s.takeHead port q rest).migrateRefusal c = none :=
    (if_neg hstate).trans ((if_neg hcode).trans ((if_neg hinhibit).trans (if_neg hup)))
  exact b.completes h hsel (migrate_started hpass) ((startMigration_frame _ c).mono (by decide)) (by decide) fun u hu =>
    (startMigration_spec (s := s.takeHead port q rest) hc hf).past_ports (takeHead_frame s port q rest) hu

/-! ### ABANDON, REVERT and RELEASE (R43, R47, R50) -/

theorem Circuit.migrating_iff {r : Circuit} : r.migrating = true ↔
    r.state = .proposing ∨ r.state = .awaiting ∨ r.state = .measuring ∨ r.state = .aligned := by
  cases hs : r.state <;> simp [Circuit.migrating, hs]

/-- Settles O31: the abandonment of a circuit in PROPOSING through ALIGNED, and the refusal of any other. -/
theorem abandon : Obligations.Abandon := by
  intro s port tag sel c q rest hlaw h hsel
  have b := bySelector_abandon port tag sel
  have hbatch : BatchLaw (s.takeHead port q rest) := hlaw.of_frame (takeHead_frame s port q rest) (by decide) fun _ => rfl
  refine ite_prop_iff_and.mpr ⟨fun hm => ?_, fun hm => ?_⟩
  · exact b.completes h hsel (if_pos (Circuit.migrating_iff.mpr hm)) (abandon_frame _ c _ _) (by decide) fun u hu =>
      (abandon_spec hbatch c _ _).past_ports (takeHead_frame s port q rest) hu
  · exact b.refuses h hsel (if_neg (mt Circuit.migrating_iff.mp hm))

theorem spanDownOf_eq (s : State) (r : Circuit) :
    s.spanDownOf r = r.copper.any fun p => decide ((s.span p.span).state = .down) := by
  unfold State.spanDownOf
  cases r.copper <;> rfl

/-- R4: a FIBRE circuit is released exactly when it has no context. -/
theorem Circuit.released_iff {r : Circuit} (h : r.state = .fibre) : r.released = true ↔ r.context = none := by
  simp [Circuit.released, h]

/-- Settles O32: the refusals in the order of the checks, and the revert. -/
theorem revert : Obligations.Revert := by
  intro s port tag sel c q rest _ h hsel i
  have b : BySelector i port 0x22 sel State.revert := bySelector_revert port tag sel
  refine ite_prop_iff_and.mpr ⟨fun hstate => b.refuses h hsel (if_pos hstate), fun hstate => ?_⟩
  have hreleased := Circuit.released_iff (not_not.mp hstate)
  refine ite_prop_iff_and.mpr ⟨fun hx => b.refuses h hsel ((if_neg hstate).trans (if_pos (hreleased.mpr hx))), fun hx => ?_⟩
  have hdown : (s.takeHead port q rest).spanDownOf ((s.takeHead port q rest).circuit c) = _ := spanDownOf_eq s (s.circuit c)
  have hkept := mt hreleased.mp hx
  refine ite_prop_iff_and.mpr ⟨fun hd => b.refuses h hsel
    ((if_neg hstate).trans ((if_neg hkept).trans (if_pos (hdown.trans hd)))),
    fun hd => ⟨((s.takeHead port q rest).revertOffset (s.circuit c)).2, ?_⟩⟩
  exact b.completes h hsel ((if_neg hstate).trans ((if_neg hkept).trans (if_neg (hdown.symm ▸ hd)))) (revertCircuit_frame _ c _)
    (by decide) fun u hu => (revertCircuit_spec c _ _).past_ports (takeHead_frame s port q rest) hu

/-- R47: what RELEASE asks of a record. -/
theorem Circuit.releasable_iff {r : Circuit} :
    r.releasable = true ↔ r.state = .fibre ∧ (r.context.any fun x => x.peerSpliced) = true := by
  cases hx : r.context <;> simp [Circuit.releasable, Circuit.kept, hx]

/-- Settles O33: the release of a fallback whose far end has spliced, and the refusal of any other circuit. -/
theorem release : Obligations.Release := by
  intro s port tag sel c q rest hlaw h hsel
  have b := bySelector_release port tag sel
  have htake := takeHead_frame s port q rest
  have hsound := hlaw.sound.of_frame htake (by decide) (by decide) (by decide) (by decide) (by decide)
  refine ite_prop_iff_and.mpr ⟨fun hr => ?_, fun hr => ?_⟩
  · exact b.completes h hsel (if_pos (Circuit.releasable_iff.mpr hr)) (releaseFallback_frame _ c _) (by decide) fun u hu =>
      (releaseFallback_spec c _ hsound.conditioned hsound.copper).past_ports htake hu
  · exact b.refuses h hsel (if_neg (mt Circuit.releasable_iff.mp hr))

/-! ### RESUME (R39) -/

@[simp] theorem putContext_circuit (s : State) (c : CircuitNo) (z : Context) :
    (s.putContext c z).circuit c = evaluated s.spans s.lanes { s.circuit c with context := some z } := State.putCircuit_circuit_eq ..

/-- What a context holds of the migration does not make a circuit busy. -/
theorem putContext_overAt (s : State) (c : CircuitNo) (z : Context) (d : Int) (tol : Nat) :
    (s.putContext c z).overAt c d tol = s.overAt c d tol := by
  rw [State.overAt, (putContext_frame s c z).sameBusy (by decide) (by decide) (by decide) (by simp) (by simp) (by simp), State.overAt]

/-- A context written over a context. -/
theorem TakesContext.of_putContext {c : CircuitNo} {x z : Context} (h : TakesContext c x (s.putContext c z) t) : TakesContext c x s t := by
  rw [TakesContext, putContext_circuit] at h
  exact ((putContext_takes s c z).trans h).congr fun _ _ => rfl

/-- R35: the ALIGNED evaluation after a context is written. -/
theorem AlignedJudged.of_putContext {c : CircuitNo} {x z : Context} {d : Int} {tol : Nat}
    (h : AlignedJudged c x d tol (s.putContext c z) t) : AlignedJudged c x d tol s t := by
  have hput := putContext_frame s c z
  unfold AlignedJudged at h ⊢
  simp only [putContext_overAt, show (s.putContext c z).fc = s.fc from hput.sameClock (by decide),
    hput.sameNode (show Block.node ∉ [.circuits] by decide)] at h
  split at h
  next hout =>
    obtain ⟨m, htake, hm, hrest⟩ := h
    simp only [if_pos hout]
    exact ⟨m, htake.of_putContext, hput.trans hm, hrest⟩
  next hout =>
    simp only [if_neg hout]
    exact ⟨h.1.of_putContext, hput.trans h.2⟩

/-- R35: a circuit that its evaluation defers, or abandons at once, has no target. -/
theorem AlignedJudged.no_target {c : CircuitNo} {x : Context} {d : Int} {tol : Nat} (h : AlignedJudged c x d tol s t)
    (hheld : x.held = false) (hover : s.overAt c d tol = true) : (t.circuit c).context.bind Context.target = none := by
  unfold AlignedJudged at h
  simp only [hover, Context.judged, hheld, Bool.false_eq_true, if_false, if_true] at h
  split at h
  · obtain ⟨m, -, -, habandoned, -⟩ := h
    obtain hr | ⟨-, hr⟩ := habandoned.turn.record <;> rw [hr] <;> rfl
  · rw [h.1.1]; rfl

/-- R35: an evaluation that finds the circuit neither HELD nor over its tolerance gives it a target. -/
theorem AlignedJudged.targeted {c : CircuitNo} {x : Context} {d : Int} {tol : Nat} (h : AlignedJudged c x d tol s t)
    (hheld : x.held = false) (hover : s.overAt c d tol = false) :
    TakesContext c { x with
      deferred := false, deferLimit := ⟨x.deferLimit.left, false⟩
      target := some (x.target.getD (s.fc + BitVec.ofNat 32 s.node.lead)) } s t ∧ SameBut [.circuits] s t := by
  unfold AlignedJudged at h
  simpa only [hover, Context.judged, Context.runsOut, hheld, Bool.not_false, Bool.and_false, Bool.false_and, Bool.false_eq_true,
    if_false] using h

/-- R35: the ALIGNED evaluation of a circuit whose context is written. -/
theorem putContext_evaluated (h : BatchLaw s) {c : CircuitNo} {y : Context} {d : Int} {p : CopperPosition} (hd : y.delta = some d)
    (hp : (s.circuit c).copper = some p) :
    AlignedJudged c y d (s.span p.span).tolerance s ((s.putContext c y).alignedEvaluation c) := by
  have hbatch : BatchLaw (s.putContext c y) := h.of_frame (putContext_frame s c y) (by decide) (putCircuit_batch rfl)
  exact (alignedEvaluation_spec hbatch (by simp) hd (by simpa using hp)).of_putContext

theorem overTolerance_eq {c : CircuitNo} {x : Context} {d : Int} {p : CopperPosition} (hd : x.delta = some d)
    (hp : (s.circuit c).copper = some p) : s.overTolerance c x = s.overAt c d (s.span p.span).tolerance := by
  simp [State.overTolerance, State.overAt, hd, hp]

/-- R39: a circuit that is not HELD in ALIGNED is refused. -/
theorem resumeAsked_refused {c : CircuitNo}
    (h : (s.circuit c).state ≠ .aligned ∨ ((s.circuit c).context.any fun x => x.held) = false) :
    s.resumeAsked c = answered s .state .empty := by
  unfold State.resumeAsked
  split
  next x hst hx => exact if_neg (by simpa [hst, hx] using h)
  next => rfl

/-- R39: HELD cleared and the evaluation made; the reply says whether it defers the circuit. -/
theorem resumeAsked_held {c : CircuitNo} {x : Context} {d : Int} {p : CopperPosition} (hst : (s.circuit c).state = .aligned)
    (hx : (s.circuit c).context = some x) (hheld : x.held = true) (hd : x.delta = some d) (hp : (s.circuit c).copper = some p) :
    s.resumeAsked c = answered ((s.putContext c { x with held := false }).alignedEvaluation c) .ok
      (.resumed ((((s.putContext c { x with held := false }).alignedEvaluation c).circuit c).context.bind Context.target)
        (s.overAt c d (s.span p.span).tolerance)) := by
  have hover : (s.putContext c { x with held := false }).overTolerance c { x with held := false } =
      s.overAt c d (s.span p.span).tolerance := by
    rw [overTolerance_eq (x := { x with held := false }) (p := p) hd (by simpa using hp), putContext_overAt]
    rfl
  rw [State.resumeAsked, hst, hx]
  exact (if_pos hheld).trans (by rw [State.resume, hover])

/-- Settles O34: the refusals, and a resumed circuit by whether it is busy and over its tolerance. -/
theorem resume : Obligations.Resume := by
  intro s port tag sel c q rest hlaw h hsel i
  have b : BySelector i port 0x24 sel State.resumeAsked := bySelector_resume port tag sel
  refine ⟨fun hbad => b.refuses h hsel (resumeAsked_refused (s := s.takeHead port q rest) hbad), fun x d p hst hx hheld hd hp => ?_⟩
  have htake := takeHead_frame s port q rest
  have hbatch : BatchLaw (s.takeHead port q rest) := hlaw.of_frame htake (by decide) fun _ => rfl
  have hjudged := putContext_evaluated (s := s.takeHead port q rest) (y := { x with held := false }) hbatch hd hp
  have hrule := resumeAsked_held (s := s.takeHead port q rest) hst hx hheld hd hp
  have hover : (s.takeHead port q rest).overAt c d ((s.takeHead port q rest).span p.span).tolerance = true ↔
      s.busy c = true ∧ ((s.span p.span).tolerance : Int) < d := by
    change s.overAt c d (s.span p.span).tolerance = true ↔ _
    simp [State.overAt]
  refine ite_prop_iff_and.mpr ⟨fun hbeyond => ?_, fun hwithin => ?_⟩
  · have hbeyond := hover.mpr hbeyond
    rw [hjudged.no_target rfl hbeyond, hbeyond] at hrule
    refine b.completes h hsel hrule (((putContext_frame _ c _).mono (by decide)).trans (alignedEvaluation_frame _ c)) (by decide)
      fun u hu => ⟨_, hjudged.past_ports htake, ?_⟩
    exact (withPortsOf_frame _ s).symm.trans hu
  · have hwithin := Bool.eq_false_iff.mpr (mt hover.mp hwithin)
    obtain ⟨htakes, hframe⟩ := hjudged.targeted rfl hwithin
    rw [htakes.1, hwithin] at hrule
    exact b.completes h hsel hrule hframe (by decide) fun u hu => htakes.past_ports htake hu

end Sys2Proof.Machine
end

section
/-! SUPPORT. The outcome of a match, and the expiries of a circuit's timers (R7, R28, R31 to R34, R36, R45). -/

namespace Sys2Proof.Machine

variable {s t u : State}

/-! ### Consuming an attempt (R24) -/

theorem consumeAttempt_none {c : CircuitNo} {x : Context} (hx : (s.circuit c).context = some x) (h : x.attempts = 0) (reason : Reason)
    (goOn : State → State) : s.consumeAttempt c reason goOn = s.abandon c reason none := by
  simp only [State.consumeAttempt, hx]
  exact if_pos h

theorem consumeAttempt_some {c : CircuitNo} {x : Context} (hx : (s.circuit c).context = some x) (h : x.attempts ≠ 0) (reason : Reason)
    (goOn : State → State) :
    s.consumeAttempt c reason goOn = goOn (s.putContext c { x with attempts := x.attempts - 1 }) := by
  simp only [State.consumeAttempt, hx]
  exact if_neg h

/-- The later of two contexts written stays. -/
theorem putContext_putContext (s : State) (c : CircuitNo) (x y : Context) : (s.putContext c x).putContext c y = s.putContext c y := by
  rw [State.putContext, putContext_circuit]
  exact congrArg s.setCircuits (Table.set_set_eq ..)

/-! ### The outcome of a match (R34) -/

/-- R34: the unit that has given its outcome is FREE. -/
def State.unitFreed (s : State) (v : UnitNo) : State := s.setUnit v (s.unit v).freed

theorem unitFreed_frame (s : State) (v : UnitNo) : SameBut [.matchers] s (s.unitFreed v) := setUnit_frame s v _

theorem unitFreed_unit (s : State) (v : UnitNo) : (s.unitFreed v).unit v = (s.unit v).freed := State.setUnit_unit_eq ..

theorem unitFreed_unit_ne (s : State) {v w : UnitNo} (h : w ≠ v) : (s.unitFreed v).unit w = s.unit w := State.setUnit_unit_ne _ _ h.symm

theorem Sound.unitFreed (h : Sound s) (v : UnitNo) : Sound (s.unitFreed v) :=
  h.of_frame (unitFreed_frame s v) (by decide) (by decide) (by decide) (by decide) (by decide)

section
variable {v : UnitNo} {c : CircuitNo} {result : MatchResult} (hdone : (s.unit v).state = .done) (hc : (s.unit v).circuit = some c)
  (hresult : (s.unit v).outcome = some result)
include hdone hc hresult

/-- R34: the outcome of a circuit in MATCHING is taken. -/
theorem matchOutcome_taken {x : Context} (hst : (s.circuit c).state = .measuring) (hx : (s.circuit c).context = some x)
    (hsub : x.sub = some .matching) : exec (.matchOutcome v) s = .next ((s.unitFreed v).takeMatch c x result) := by
  show execMatchOutcome v s = _
  simp only [execMatchOutcome, hdone, hc, hresult, hst, hx]
  exact if_pos hsub

/-- R34: any other outcome is discarded. -/
theorem matchOutcome_discarded (h : (s.circuit c).state ≠ .measuring ∨ (s.circuit c).sub ≠ some .matching) :
    exec (.matchOutcome v) s = .next (s.unitFreed v) := by
  show execMatchOutcome v s = _
  simp only [execMatchOutcome, hdone, hc, hresult]
  split
  next x hst hx => exact if_neg (by simpa [hst, Circuit.sub, hx] using h)
  next => rfl

end

theorem staleRecord_frame (s : State) (c : CircuitNo) : SameBut [.spans] s (s.staleRecord c) := by
  unfold State.staleRecord
  split
  · exact setSpan_frame s _ _
  · exact .refl _ s

theorem takeMatch_frame (s : State) (c : CircuitNo) (x : Context) (result : MatchResult) :
    SameBut releaseBlocks s (s.takeMatch c x result) := by
  have hfailed : ∀ reason, SameBut releaseBlocks s (s.matchFailed c reason) := fun reason => by
    unfold State.matchFailed
    split
    · exact spliceSilent_frame s c
    · refine consumeAttempt_frame s c _ _ _ (by decide) fun t => ?_
      split
      · exact (putContext_frame t c _).mono (by decide)
      · exact .refl _ t
  cases result with
  | matched d => exact (enterAligned_frame s c d).mono (by decide)
  | confirmed d => exact (enterAligned_frame s c d).mono (by decide)
  | confirmFailed =>
    exact (((staleRecord_frame s c).mono (by decide)).trans ((putContext_frame _ c _).mono (by decide))).trans
      ((joinQueue_frame _ c _).mono (by decide))
  | noMatch => exact hfailed _
  | ambiguous => exact hfailed _

/-- R34, R88: CONFIRM-FAILED makes the span's record STALE, and asks for a full search. -/
theorem takeMatch_confirmFailed {c : CircuitNo} {p : CopperPosition} (hp : (s.circuit c).copper = some p) (x : Context) :
    TakesContext c { x with sub := some .queued } s (s.takeMatch c x .confirmFailed) ∧
      (s.takeMatch c x .confirmFailed).align.queue = s.align.queue ++ [⟨c, .full⟩] ∧
      SameBut [.circuits, .spans, .matcherQueue] s (s.takeMatch c x .confirmFailed) ∧
      ∀ n, (s.takeMatch c x .confirmFailed).span n = if n = p.span then { s.span n with record := (s.span n).record.staled } else s.span n := by
  have hstale : s.staleRecord c = s.setSpan p.span { s.span p.span with record := (s.span p.span).record.staled } := by
    simp only [State.staleRecord, hp]
  have hput := putContext_frame (s.staleRecord c) c { x with sub := some .queued }
  have hjoin := joinQueue_frame ((s.staleRecord c).putContext c { x with sub := some .queued }) c .full
  have hqueue : (s.staleRecord c).align.queue = s.align.queue := (staleRecord_frame s c).sameQueue (by decide)
  refine ⟨?_, congrArg (· ++ [_]) hqueue, ?_, fun n => ?_⟩
  · exact TakesContext.after_frame ((putContext_takes (s.staleRecord c) c _).of_frame hjoin (by decide) (by decide) (by decide))
      (staleRecord_frame s c) (by decide)
  · exact (((staleRecord_frame s c).mono (by decide)).trans (hput.mono (by decide))).trans (hjoin.mono (by decide))
  · refine (hjoin.sameSpan (by decide) n).trans ((hput.sameSpan (by decide) n).trans ?_)
    rw [hstale]
    split
    next hn => rw [hn, State.setSpan_span_eq]
    next hn => exact State.setSpan_span_ne _ _ (Ne.symm hn)

/-- R34: NO-MATCH and AMBIGUOUS, by whether the circuit is idle at its bridge flag, and by its attempts. -/
theorem matchFailed_spec (h : Sound s) {c : CircuitNo} {x : Context} (hx : (s.circuit c).context = some x) (reason : Reason) :
    if s.busy c = false ∧ s.flagPresent c = true then Spliced c .splicedIdle 0 none none x s (s.matchFailed c reason)
    else if x.attempts = 0 then Abandoned c reason none s (s.matchFailed c reason)
    else TakesContext c { x with
        attempts := x.attempts - 1, sub := some .bridgeWait, backoff := some ⟨s.node.backoff, false⟩ } s (s.matchFailed c reason) ∧
      SameBut [.circuits] s (s.matchFailed c reason) := by
  unfold State.matchFailed
  split
  · exact (splice_loud h.batches h.conditioned h.copper hx rfl _ _ _).1
  split
  next hnone => rw [consumeAttempt_none hx hnone]; exact abandon_spec h.batches c _ _
  next hsome =>
    rw [consumeAttempt_some hx hsome]
    simp only [putContext_circuit, evaluated_context]
    rw [putContext_putContext]
    exact ⟨putContext_takes s c _, putContext_frame s c _⟩

/-- Settles O37: each outcome by what it makes of its circuit in MATCHING, and the discard of any other. -/
theorem matchOutcome : Obligations.MatchOutcome := by
  refine ⟨fun s v c result hlaw hdone hc hresult => ?_, fun s v c result hdone hc hresult hst => ?_⟩
  · obtain ⟨hst, hsub⟩ := (hlaw.matchers.matching c).mp ⟨v, hc⟩
    obtain ⟨x, hx, hsub⟩ : ∃ x, (s.circuit c).context = some x ∧ x.sub = some .matching := Option.bind_eq_some_iff.mp hsub
    have hsound := hlaw.sound.unitFreed v
    refine ⟨_, _, matchOutcome_taken hdone hc hresult hst hx hsub, unitFreed_frame s v, unitFreed_unit s v,
      fun w hw => unitFreed_unit_ne s hw, ((unitFreed_frame s v).mono (by decide)).trans (takeMatch_frame _ c x result),
      fun y p hy hp => ?_⟩
    obtain rfl : x = y := Option.some.inj (hx.symm.trans hy)
    cases result with
    | matched d => exact enterAligned_spec hsound.batches hx hp d
    | confirmed d => exact enterAligned_spec hsound.batches hx hp d
    | confirmFailed => exact takeMatch_confirmFailed (s := s.unitFreed v) hp x
    | noMatch => exact matchFailed_spec hsound hx .noMatch
    | ambiguous => exact matchFailed_spec hsound hx .ambiguous
  · exact ⟨_, matchOutcome_discarded hdone hc hresult hst, unitFreed_frame s v, unitFreed_unit s v, fun w hw => unitFreed_unit_ne s hw⟩

/-! ### Response timers (R127) -/

theorem setResponse_timed (s : State) (c : CircuitNo) (a : Option Countdown) : Timed c a s (s.setResponse c a) :=
  ⟨Table.get_set_eq .., fun _ hd => Table.get_set_ne _ _ (Ne.symm hd)⟩

/-- A proposal sent, and its response timer started (R28, R127). -/
theorem sendPropose_spec {c : CircuitNo} {code : TrunkCode} {slot : SlotNo} (hcode : (s.circuit c).code = some code)
    (hslot : (s.circuit c).fibre = some slot) (number : Byte) :
    Sent [.propose code slot number] s (s.sendPropose c number) ∧ Timed c (some ⟨2000, false⟩) s (s.sendPropose c number) := by
  have hsend : s.sendPropose c number = (s.queueMessage (.propose code slot number)).startResponse c := by
    simp only [State.sendPropose, hslot, State.sendFor, hcode]
  have hqueue := queueMessage_frame s (.propose code slot number)
  obtain ⟨htimer, hothers⟩ := setResponse_timed (s.queueMessage (.propose code slot number)) c (some ⟨2000, false⟩)
  rw [hsend]
  exact ⟨(queueMessage_sent s _).of_frame (startResponse_frame _ c) (by decide), htimer, fun d hd => by
    rw [← hqueue.sameResponse (by decide)]; exact hothers d hd⟩

/-- An abandonment stops the response timer itself (R42). -/
theorem stopResponse_abandon (s : State) (c : CircuitNo) (reason : Reason) (decline : Option DeclineReason) :
    (s.stopResponse c).abandon c reason decline = s.abandon c reason decline := by
  have hstop : (s.stopResponse c).stopResponse c = s.stopResponse c := by
    simp [State.stopResponse, State.setResponse, State.setPeer]
  unfold State.abandon
  rw [hstop]
  rfl

theorem backOff_eq {c : CircuitNo} {x : Context} (hx : (s.circuit c).context = some x) :
    s.backOff c = s.takeNumber.putContext c { x with number := s.peer.counter, backoff := some ⟨s.node.backoff, false⟩ } := by
  simp only [State.backOff, hx]
  rfl

section
variable {c : CircuitNo} {x : Context} {a : Countdown} (hx : (s.circuit c).context = some x)
  (ha : s.peer.response.get c = some a) (hdue : a.due = true)
include hx ha hdue

/-- R31, R28: no answer in AWAITING, or in PROPOSING with no attempt left. -/
theorem responseTimerExpiry_abandons (h : BatchLaw s)
    (hst : (s.circuit c).state = .awaiting ∨ ((s.circuit c).state = .proposing ∧ x.attempts = 0)) :
    Happens s (.responseTimerExpiry c) turnBlocks (Abandoned c .peerTimeout none s) := by
  refine ⟨_, ?_, abandon_frame s c _ _, abandon_spec h c _ _⟩
  show execResponseTimerExpiry c s = _
  rw [execResponseTimerExpiry, if_pos (by simp [ha, hdue]), ← stopResponse_abandon]
  obtain hst | ⟨hst, hnone⟩ := hst <;> simp only [hst]
  exact congrArg Host.Outcome.next (consumeAttempt_none (s := s.stopResponse c) hx hnone _ _)

/-- R28: no answer in PROPOSING with an attempt left. -/
theorem responseTimerExpiry_backs_off (hst : (s.circuit c).state = .proposing) (hsome : 0 < x.attempts) :
    Happens s (.responseTimerExpiry c) [.circuits, .responses, .proposals] fun t =>
      TakesContext c { x with attempts := x.attempts - 1, number := s.peer.counter, backoff := some ⟨s.node.backoff, false⟩ } s t ∧
      Timed c none s t ∧ t.peer.counter = s.peer.counter + 1 := by
  have hstop := stopResponse_frame s c
  have hput := putContext_frame (s.stopResponse c) c { x with attempts := x.attempts - 1 }
  have hnumber := takeNumber_frame ((s.stopResponse c).putContext c { x with attempts := x.attempts - 1 })
  have hbackoff := putContext_frame ((s.stopResponse c).putContext c { x with attempts := x.attempts - 1 }).takeNumber c
    { x with attempts := x.attempts - 1, number := s.peer.counter, backoff := some ⟨s.node.backoff, false⟩ }
  refine ⟨_, ?_, (((hstop.mono (by decide)).trans (hput.mono (by decide))).trans (hnumber.mono (by decide))).trans
    (hbackoff.mono (by decide)), ?_, setResponse_timed s c none, rfl⟩
  · show execResponseTimerExpiry c s = _
    rw [execResponseTimerExpiry, if_pos (by simp [ha, hdue])]
    simp only [hst]
    rw [consumeAttempt_some (s := s.stopResponse c) hx (by omega), backOff_eq (x := { x with attempts := x.attempts - 1 }) (by simp)]
    rfl
  · exact (((putContext_takes _ c _).after_frame hnumber (by decide)).of_putContext).after_frame hstop (by decide)

end

/-! ### The drain and the hold (R7, R45) -/

theorem drainEnd_spec {c : CircuitNo} {a : Countdown} (ha : (s.circuit c).fibreTransmit = .draining a) (hdue : a.due = true) :
    Happens s (.drainEnd c) [.circuits] (Becomes c { s.circuit c with fibreTransmit := .off } s) := by
  refine ⟨_, ?_, putCircuit_frame s c _, putCircuit_becomes s c _⟩
  show execDrainEnd c s = _
  simp only [execDrainEnd, ha]
  exact if_pos hdue

section
variable {c : CircuitNo} {x : Context} {a : Countdown} (hx : (s.circuit c).context = some x)
include hx

/-- R45: the hold stands at 0, and the release test is made. -/
theorem fallbackHoldExpiry_spec (h : Sound s) (hst : (s.circuit c).state = .fibre) (ha : x.hold = some a) (hdue : a.due = true) :
    ∃ m t, exec (.fallbackHoldExpiry c) s = .next t ∧ TakesContext c { x with hold := some ⟨0, false⟩ } s m ∧ SameBut [.circuits] s m ∧
      if (s.circuit c).autoRelease = true ∧ x.peerSpliced = true then Released c .holdExpired m t ∧ SameBut releaseBlocks m t
      else t = m := by
  have hput : Sound (s.putContext c { x with hold := some ⟨0, false⟩ }) := h.putCircuit rfl rfl
  have hreleaseDue : ((s.putContext c { x with hold := some ⟨0, false⟩ }).circuit c).releaseDue = true ↔
      (s.circuit c).autoRelease = true ∧ x.peerSpliced = true := by
    simp [Circuit.releaseDue, hst]
  refine ⟨_, (s.putContext c { x with hold := some ⟨0, false⟩ }).releaseTest c, ?_, putContext_takes s c _, putContext_frame s c _, ?_⟩
  · show execFallbackHoldExpiry c s = _
    simp only [execFallbackHoldExpiry, hst, hx, ha]
    exact if_pos (by simp [hdue])
  · unfold State.releaseTest
    split
    next hrel =>
      rw [if_pos (hreleaseDue.mpr hrel)]
      exact ⟨releaseFallback_spec c _ hput.conditioned hput.copper, releaseFallback_frame _ c _⟩
    next hrel => exact if_neg (mt hreleaseDue.mp hrel)

/-! ### The bridge limit and the defer limit (R32, R36) -/

theorem bridgeLimitExpiry_spec (h : BatchLaw s) (hst : (s.circuit c).state = .measuring) (hdue : x.bridgeLimit.due = true) :
    Happens s (.bridgeLimitExpiry c) turnBlocks (Abandoned c .bridgeLimit none s) :=
  ⟨_, if_pos (by simp [hst, hx, hdue]), abandon_frame s c _ _, abandon_spec h c _ _⟩

theorem deferLimitExpiry_spec (h : BatchLaw s) (hst : (s.circuit c).state = .aligned) (hdef : x.deferred = true)
    (hdue : x.deferLimit.due = true) : Happens s (.deferLimitExpiry c) turnBlocks (Abandoned c .deferLimit none s) :=
  ⟨_, if_pos (by simp [hst, hx, hdef, hdue]), abandon_frame s c _ _, abandon_spec h c _ _⟩

/-! ### The retry backoff (R28, R33) -/

/-- R28: at the end of its backoff a circuit in PROPOSING proposes again. -/
theorem retryBackoffExpiry_proposing {code : TrunkCode} {slot : SlotNo} (ha : x.backoff = some a) (hdue : a.due = true)
    (hst : (s.circuit c).state = .proposing) (hcode : (s.circuit c).code = some code) (hslot : (s.circuit c).fibre = some slot) :
    Happens s (.retryBackoffExpiry c) [.circuits, .overhead, .responses] fun t =>
      TakesContext c { x with backoff := none } s t ∧ Sent [.propose code slot x.number] s t ∧ Timed c (some ⟨2000, false⟩) s t := by
  have hput := putContext_frame s c { x with backoff := none }
  have hpropose := sendPropose_frame (s.putContext c { x with backoff := none }) c x.number
  obtain ⟨hsent, htimed⟩ := sendPropose_spec (s := s.putContext c { x with backoff := none }) (c := c) (code := code) (slot := slot)
    (by simpa using hcode) (by simpa using hslot) x.number
  refine ⟨(s.putContext c { x with backoff := none }).sendPropose c x.number, ?_, ?_, ?_, ?_, ?_⟩
  · show execRetryBackoffExpiry c s = _
    simp only [execRetryBackoffExpiry, hx, ha, hst]
    exact if_pos (by simp [hdue])
  · exact (hput.mono (by decide)).trans (hpropose.mono (by decide))
  · exact (putContext_takes s c _).of_frame hpropose (by decide) (by decide) (by decide)
  · exact hsent.after_frame hput (by decide)
  · exact htimed

/-- R33: at the end of its backoff a circuit in MEASURING takes the test of BRIDGE-WAIT. -/
theorem retryBackoffExpiry_measuring (h : Sound s) (ha : x.backoff = some a) (hdue : a.due = true) (hst : (s.circuit c).state = .measuring) :
    ∃ m t, exec (.retryBackoffExpiry c) s = .next t ∧ TakesContext c { x with backoff := none } s m ∧ SameBut [.circuits] s m ∧
      if x.sub = some .bridgeWait then BridgeWaitJudged c { x with backoff := none } m t else t = m := by
  have hput : Sound (s.putContext c { x with backoff := none }) := h.putCircuit rfl rfl
  refine ⟨_, (s.putContext c { x with backoff := none }).bridgeWaitTest c, ?_, putContext_takes s c _, putContext_frame s c _, ?_⟩
  · show execRetryBackoffExpiry c s = _
    simp only [execRetryBackoffExpiry, hx, ha, hst]
    exact if_pos (by simp [hdue])
  · split
    next hsub => exact bridgeWaitTest_spec hput (by simpa using hst) (by simp) hsub
    next hsub =>
      refine bridgeWaitTest_other (.inr fun y hy => ?_)
      obtain rfl : { x with backoff := none } = y := by simpa using hy
      exact hsub

end

/-- Settles O53: each expiry by the state that it finds. -/
theorem circuitTimers : Obligations.CircuitTimers :=
  ⟨fun _ _ _ ha hdue => drainEnd_spec ha hdue, fun _ _ _ hlaw hx =>
    ⟨fun _ ha hdue => ⟨responseTimerExpiry_abandons hx ha hdue hlaw.batches, responseTimerExpiry_backs_off hx ha hdue⟩,
      fun _ ha hdue => ⟨fun _ _ => retryBackoffExpiry_proposing hx ha hdue, retryBackoffExpiry_measuring hx hlaw.sound ha hdue⟩,
      bridgeLimitExpiry_spec hx hlaw.batches, deferLimitExpiry_spec hx hlaw.batches,
      fun _ hst ha hdue => fallbackHoldExpiry_spec hx hlaw.sound hst ha hdue⟩⟩

end Sys2Proof.Machine
end

section
/-! SUPPORT. SET NODE: the parameters adjusted and written, and the loss of the link that a changed node number or mode brings
(R23, R118, R121, R122). -/

namespace Sys2Proof.Machine

variable {s t u : State}

/-! ### The parameters (R23) -/

theorem clampNat_eq {lo hi : Nat} (h : lo ≤ hi) (n : Nat) : clampNat lo hi n = max lo (min hi n) := by
  unfold clampNat
  split
  · omega
  · split <;> omega

theorem adjusted_eq {lo hi : Nat} (h : lo ≤ hi) (inForce : Nat) (given : Option Nat) :
    adjusted lo hi inForce given = (given.map fun n => max lo (min hi n)).getD inForce := by
  cases given with
  | none => rfl
  | some n => exact clampNat_eq h n

theorem noNodeSettings_iff {p : NodeSettings} :
    noNodeSettings p = true ↔ p = ⟨none, none, none, none, none, none, none, none, none⟩ := by
  obtain ⟨⟩ := p
  simp [noNodeSettings, and_assoc]

theorem badMode_eq (p : NodeSettings) : badMode p = p.mode.any fun m => decide (2 ≤ m) := by
  unfold badMode
  cases p.mode with
  | none => rfl
  | some m => match m with
    | 0 => rfl
    | 1 => rfl
    | m + 2 => simp [modeOfCode]

theorem modeOfCode_eq {m : Nat} (h : ¬ 2 ≤ m) : modeOfCode m = some (if m = 0 then .twoWay else .threeWay) := by
  match m with
  | 0 => rfl
  | 1 => rfl
  | m + 2 => omega

/-- R23: the parameters after a SET NODE whose mode is one of the two. -/
theorem NodeParams.apply_eq (q : NodeParams) {p : NodeSettings} (h : badMode p = false) : q.apply p =
    { node := (p.node.map fun n => max 0 (min 65535 n)).getD q.node
      mode := (p.mode.map fun m => if m = 0 then .twoWay else .threeWay).getD q.mode
      lead := (p.lead.map fun n => max 2 (min 64 n)).getD q.lead
      window := (p.window.map fun n => max 16 (min 255 n)).getD q.window
      retryLimit := (p.retryLimit.map fun n => max 0 (min 7 n)).getD q.retryLimit
      backoff := (p.backoff.map fun n => max 400 (min 32000 n)).getD q.backoff
      bridgeLimit := (p.bridgeLimit.map fun n => max 8000 (min 960000 n)).getD q.bridgeLimit
      deferLimit := (p.deferLimit.map fun n => max 0 (min 28800000 n)).getD q.deferLimit
      idleCode := (p.idleCode.map (BitVec.ofNat 8)).getD q.idleCode } := by
  have hmode : p.mode.bind modeOfCode = p.mode.map fun m => if m = 0 then .twoWay else .threeWay := by
    rw [badMode_eq] at h
    cases hm : p.mode with
    | none => rfl
    | some m => exact modeOfCode_eq (by simpa [hm] using h)
  have hcode : p.idleCode.map byteOf = p.idleCode.map (BitVec.ofNat 8) := rfl
  rw [NodeParams.apply, hmode, hcode]
  simp only [adjusted_eq (show 0 ≤ 65535 by decide), adjusted_eq (show 2 ≤ 64 by decide), adjusted_eq (show 16 ≤ 255 by decide),
    adjusted_eq (show 0 ≤ 7 by decide), adjusted_eq (show 400 ≤ 32000 by decide), adjusted_eq (show 8000 ≤ 960000 by decide),
    adjusted_eq (show 0 ≤ 28800000 by decide)]

/-! ### The link after a change of the own values (R118, R121, R122) -/

theorem setPeer_link_frame (s : State) (state : LinkState) (hello silence : Option Countdown) (heard : Option PeerHeard) (qualified : Option Nat) :
    SameBut [.link] s (s.setPeer { s.peer with state := state, hello := hello, silence := silence, heard := heard, qualified := qualified }) :=
  .of_forall fun b => by cases b <;> simp [Block.same]

theorem queueMessage_peer (s : State) (m : PeerMessage) : (s.queueMessage m).peer = s.peer := by
  unfold State.queueMessage
  split <;> rfl

/-- R118: the HELLO timer after a change of the own values, and the HELLO sent. -/
theorem rehello_spec (s : State) :
    SameBut [.link, .overhead] s s.rehello ∧
      s.rehello.peer = { s.peer with hello := if s.node.node = 0 then none else some ⟨800, false⟩ } ∧
      Sent (if s.node.node = 0 then [] else [.hello s.node.node s.node.mode]) s s.rehello := by
  unfold State.rehello
  split
  next h0 =>
    have hlink := setPeer_link_frame s s.peer.state none s.peer.silence s.peer.heard s.peer.qualified
    exact ⟨hlink.mono (by decide), rfl, hlink.sentNone (by decide)⟩
  next h0 =>
    have hlink := setPeer_link_frame s s.peer.state (some (.load Config.helloFrames)) s.peer.silence s.peer.heard s.peer.qualified
    exact ⟨(hlink.mono (by decide)).trans ((queueMessage_frame _ _).mono (by decide)), queueMessage_peer _ _,
      (queueMessage_sent _ _).after_frame hlink (by decide)⟩

/-- R118, R121: the part after the HELLO of a change of the own values, and before the link goes DOWN for it. -/
def State.announced (s : State) : State := s.rehello.setPeer { s.rehello.peer with silence := none }

theorem announced_frame (s : State) : SameBut [.link, .overhead] s s.announced :=
  (rehello_spec s).1.trans ((setPeer_link_frame _ _ _ none _ _).mono (by decide))

theorem announced_peer (s : State) : s.announced.peer =
    { s.peer with hello := if s.node.node = 0 then none else some ⟨800, false⟩, silence := none } := by
  show { s.rehello.peer with silence := none } = _
  rw [(rehello_spec s).2.1]

theorem announced_sent (s : State) :
    Sent (if s.node.node = 0 then [] else [.hello s.node.node s.node.mode]) s s.announced := by
  exact (rehello_spec s).2.2.of_frame (setPeer_link_frame s.rehello _ _ none _ _) (by decide)

theorem linkDown_frame (s : State) (cause : PeerDownCause) : SameBut (.link :: turnBlocks) s (s.linkDown cause) := by
  unfold State.linkDown State.leaveUp
  split
  · exact (((setPeer_link_frame s .down _ _ _ none).mono (by decide)).trans ((handReport_frame _ _).mono (by decide))).trans
      ((abandonAll_frame _).mono (by decide))
  · exact ((setPeer_link_frame s .down _ _ _ _).mono (by decide)).trans ((handReport_frame _ _).mono (by decide))
  · exact .refl _ s

theorem linkDown_up (h : BatchLaw s) (hst : s.peer.state = .up) (cause : PeerDownCause) :
    LeavesUp .down (.down cause s.heardNode s.migratingCircuits.length) s (s.linkDown cause) := by
  rw [State.linkDown, hst]
  exact leaveUp_spec h (by decide) _

theorem linkDown_mismatch (hst : s.peer.state = .mismatch) (cause : PeerDownCause) : s.linkDown cause =
    (s.setPeer { s.peer with state := .down }).handReport (.peer s.node.node s.node.mode (.down cause s.heardNode 0)) := by
  rw [State.linkDown, hst]
  rfl

theorem linkDown_down (hst : s.peer.state = .down) (cause : PeerDownCause) : s.linkDown cause = s := by
  rw [State.linkDown, hst]

/-! ### The command -/

/-- R23: a SET NODE that keeps the node number and the mode. -/
theorem writeNode_unchanged {p : NodeSettings} (h : (s.node.apply p).node = s.node.node ∧ (s.node.apply p).mode = s.node.mode) :
    s.writeNode p = s.setNode (s.node.apply p) := if_neg (by simp [h])

/-- R121: a SET NODE that changes them. -/
theorem writeNode_changed {p : NodeSettings} (h : ¬ ((s.node.apply p).node = s.node.node ∧ (s.node.apply p).mode = s.node.mode)) :
    s.writeNode p = (s.setNode (s.node.apply p)).announced.linkDown .localChange := if_pos (by tauto)

theorem writeNode_frame (s : State) (p : NodeSettings) : SameBut (.node :: .link :: turnBlocks) s (s.writeNode p) := by
  have hset := (setNode_frame s (s.node.apply p)).mono (m := .node :: .link :: turnBlocks) (by decide)
  by_cases h : (s.node.apply p).node = s.node.node ∧ (s.node.apply p).mode = s.node.mode
  · rw [writeNode_unchanged h]; exact hset
  · rw [writeNode_changed h]
    exact (hset.trans ((announced_frame _).mono (by decide))).trans ((linkDown_frame _ _).mono (by decide))

theorem writeNode_node (s : State) (p : NodeSettings) : (s.writeNode p).node = s.node.apply p := by
  by_cases h : (s.node.apply p).node = s.node.node ∧ (s.node.apply p).mode = s.node.mode
  · rw [writeNode_unchanged h]; rfl
  · rw [writeNode_changed h, (linkDown_frame _ _).sameNode (by decide), (announced_frame _).sameNode (by decide)]; rfl

/-- R118, R121, R122: the HELLO of a change of the own values, and the link taken DOWN by its state, seen past the ports. -/
theorem announced_linkDown (h : BatchLaw s) (hu : SameBut [.ports] (s.announced.linkDown .localChange) u) :
    ∃ m, SameBut [.ports, .link, .overhead] s m ∧
      m.peer = { s.peer with hello := if s.node.node = 0 then none else some ⟨800, false⟩, silence := none } ∧
      Sent (if s.node.node = 0 then [] else [.hello s.node.node s.node.mode]) s m ∧
      (s.peer.state = .up → LeavesUp .down (.down .localChange s.heardNode s.migratingCircuits.length) m u) ∧
      (s.peer.state = .mismatch → u = (m.setPeer { m.peer with state := .down }).handReport
        (.peer s.node.node s.node.mode (.down .localChange s.heardNode 0))) ∧
      (s.peer.state = .down → u = m) := by
  have hann := announced_frame s
  have hports := withPortsOf_frame s.announced u
  have hpeer := announced_peer s
  have hstate : s.announced.peer.state = s.peer.state := by rw [hpeer]
  have hheard : s.announced.heardNode = s.heardNode := by rw [State.heardNode, hpeer]; rfl
  have hnode := hann.sameNode (by decide)
  have heq := hu.eq_withPortsOf
  refine ⟨s.announced.withPortsOf u, (hann.mono (by decide)).trans (hports.mono (by decide)), hpeer,
    (announced_sent s).of_frame hports (by decide), fun hup => ?_, fun hmis => ?_, fun hdown => ?_⟩
  · have hbatch := h.of_frame hann (by decide) fun c => by rw [hann.sameCircuit (by decide)]
    have hleaves := linkDown_up hbatch (hstate.trans hup) .localChange
    rw [hheard, hann.sameMigrating (by decide)] at hleaves
    rw [heq]
    exact hleaves.withPortsOf u
  · rw [linkDown_mismatch (hstate.trans hmis), handReport_withPortsOf, hheard, hnode] at heq
    exact heq
  · rw [linkDown_down (hstate.trans hdown)] at heq
    exact heq

/-- Settles O35: the refusals, the parameters written, and the link taken DOWN by its state. -/
theorem setNode : Obligations.SetNode := by
  intro s port tag p q rest hlaw h i clamp
  have hauth := h.authority
  refine ite_prop_iff_and.mpr ⟨fun hbad => refuses_of_rule rfl h.toHeads hauth ?_, fun hgood => ?_⟩
  · rw [ruleSetNode]
    rcases hbad with hnone | hmode
    · exact if_pos (noNodeSettings_iff.mpr hnone)
    · split
      · rfl
      · exact if_pos ((badMode_eq p).trans hmode)
  intro n
  have hgiven : ¬ noNodeSettings p = true := fun hnone => hgood (.inl (noNodeSettings_iff.mp hnone))
  have hmode : badMode p = false := Bool.eq_false_iff.mpr fun hmode => hgood (.inr ((badMode_eq p).symm.trans hmode))
  have hn : (s.takeHead port q rest).node.apply p = n := s.node.apply_eq hmode
  clear_value n
  have htake := takeHead_frame s port q rest
  have hset := setNode_frame (s.takeHead port q rest) n
  have hrule : ruleSetNode p (s.takeHead port q rest) = answered ((s.takeHead port q rest).writeNode p) .ok (.nodeParams n) := by
    rw [ruleSetNode, if_neg hgiven, if_neg (by simp [hmode]), writeNode_node, hn]
  refine completes_of_rule rfl h.toHeads hauth hrule (writeNode_frame _ p) (by decide) fun u hu => ⟨?_, ?_⟩
  · rw [hu.sameNode (by decide), writeNode_node, hn]
  refine ite_prop_iff_and.mpr ⟨fun hsame => ?_, fun hchanged => ?_⟩
  · rw [writeNode_unchanged (by rw [hn]; exact hsame), hn] at hu
    exact ((htake.mono (by decide)).trans (hset.mono (by decide))).trans (hu.mono (by decide))
  · rw [writeNode_changed (by rw [hn]; exact hchanged), hn] at hu
    have hbatch : BatchLaw ((s.takeHead port q rest).setNode n) :=
      (hlaw.of_frame htake (by decide) fun _ => rfl).of_frame hset (by decide) fun _ => rfl
    obtain ⟨m, hm, hpeer, hsent, hup, hmis, hdown⟩ := announced_linkDown hbatch hu
    have hmnode : m.node = n := hm.sameNode (by decide)
    refine ⟨m, ((htake.mono (by decide)).trans (hset.mono (by decide))).trans (hm.mono (by decide)), hmnode, by rw [hpeer]; rfl,
      by rw [hpeer]; rfl, by rw [hpeer]; rfl, by rw [hpeer], by rw [hpeer]; rfl, ?_, hup, hmis, hdown⟩
    exact (hsent.after_frame hset (by decide)).after_frame htake (by decide)

end Sys2Proof.Machine
end

section
/-! SUPPORT. The matcher queue and the matcher units against the sub-statuses (R57): what the law rests on, the law with one
circuit set aside while it changes its place, and the relation `KeepsMatchers` between a state and a later one, which every
command's proof is composed of. -/

namespace Sys2Proof.Machine

variable {s t u : State} {c : CircuitNo} {r : Circuit}

/-! ### The place that a record asks for -/

/-- R57: where the sub-status of a record puts its circuit in the Path Alignment Unit: into the matcher queue, into a unit, or
nowhere. -/
def Circuit.matcherPlace (r : Circuit) : Option SubStatus :=
  match r.state, r.sub with
  | .measuring, some .queued => some .queued
  | .measuring, some .matching => some .matching
  | _, _ => none

theorem Circuit.matcherPlace_queued : r.matcherPlace = some .queued ↔ r.state = .measuring ∧ r.sub = some .queued := by
  unfold Circuit.matcherPlace
  split <;> simp_all

theorem Circuit.matcherPlace_matching : r.matcherPlace = some .matching ↔ r.state = .measuring ∧ r.sub = some .matching := by
  unfold Circuit.matcherPlace
  split <;> simp_all

/-- Only MEASURING has a place. -/
theorem Circuit.matcherPlace_elsewhere (h : r.state ≠ .measuring) : r.matcherPlace = none := by
  unfold Circuit.matcherPlace
  split <;> simp_all

/-- A circuit in BRIDGE-WAIT has no place. -/
theorem Circuit.matcherPlace_bridgeWait (h : r.sub = some .bridgeWait) : r.matcherPlace = none := by
  unfold Circuit.matcherPlace
  split <;> simp_all

/-- The place rests on the state and the sub-status. -/
theorem Circuit.matcherPlace_congr {r' : Circuit} (hs : r'.state = r.state) (hsub : r'.sub = r.sub) : r'.matcherPlace = r.matcherPlace := by
  simp only [Circuit.matcherPlace, hs, hsub]

@[simp] theorem matcherPlace_evaluated (spans : Table 16 Span) (lanes : LaneInterface) (r : Circuit) :
    (evaluated spans lanes r).matcherPlace = r.matcherPlace := rfl

@[simp] theorem putCircuit_matcherPlace (s : State) (c : CircuitNo) (r : Circuit) :
    ((s.putCircuit c r).circuit c).matcherPlace = r.matcherPlace := by
  rw [State.putCircuit_circuit_eq, matcherPlace_evaluated]

/-- A circuit stands in the matcher queue. -/
def State.inQueue (s : State) (c : CircuitNo) : Prop := c ∈ s.align.queue.map QueueEntry.circuit

/-- A matcher unit holds a circuit. -/
def State.inUnit (s : State) (c : CircuitNo) : Prop := ∃ v, (s.unit v).circuit = some c

/-! ### The law with one circuit set aside -/

/-- R57 for every circuit but `c`, which may stand anywhere. -/
structure PlacedBut (c : CircuitNo) (s : State) : Prop where
  once : (s.align.queue.map QueueEntry.circuit).Nodup
  queued : ∀ d, d ≠ c → (s.inQueue d ↔ (s.circuit d).matcherPlace = some .queued)
  matching : ∀ d, d ≠ c → (s.inUnit d ↔ (s.circuit d).matcherPlace = some .matching)
  oneUnit : ∀ v w d, (s.unit v).circuit = some d → (s.unit w).circuit = some d → v = w
  free : ∀ v, (s.unit v).state = .free ↔ (s.unit v).circuit = none

/-- R57 for every circuit but `c`, which stands neither in the queue nor in a unit. -/
structure Unplaced (c : CircuitNo) (s : State) : Prop extends PlacedBut c s where
  unqueued : ¬ s.inQueue c
  unmatched : ¬ s.inUnit c

theorem MatcherLaw.queuedPlace (h : MatcherLaw s) (d : CircuitNo) : s.inQueue d ↔ (s.circuit d).matcherPlace = some .queued :=
  (h.queued d).trans Circuit.matcherPlace_queued.symm

theorem MatcherLaw.matchingPlace (h : MatcherLaw s) (d : CircuitNo) : s.inUnit d ↔ (s.circuit d).matcherPlace = some .matching :=
  (h.matching d).trans Circuit.matcherPlace_matching.symm

theorem MatcherLaw.placedBut (h : MatcherLaw s) (c : CircuitNo) : PlacedBut c s :=
  ⟨h.once, fun d _ => h.queuedPlace d, fun d _ => h.matchingPlace d, h.oneUnit, h.free⟩

/-- The law is that of the other circuits and the clauses of `c`. -/
theorem PlacedBut.law (h : PlacedBut c s) (hq : s.inQueue c ↔ (s.circuit c).matcherPlace = some .queued)
    (hm : s.inUnit c ↔ (s.circuit c).matcherPlace = some .matching) : MatcherLaw s where
  once := h.once
  oneUnit := h.oneUnit
  free := h.free
  queued d := by
    by_cases hd : d = c
    · subst hd; exact hq.trans Circuit.matcherPlace_queued
    · exact (h.queued d hd).trans Circuit.matcherPlace_queued
  matching d := by
    by_cases hd : d = c
    · subst hd; exact hm.trans Circuit.matcherPlace_matching
    · exact (h.matching d hd).trans Circuit.matcherPlace_matching

/-- A circuit without a place stands nowhere. -/
theorem MatcherLaw.unplaced (h : MatcherLaw s) (hc : (s.circuit c).matcherPlace = none) : Unplaced c s :=
  ⟨h.placedBut c, by simp [h.queuedPlace, hc], by simp [h.matchingPlace, hc]⟩

/-- The law holds again once the circuit that stands nowhere has no place. -/
theorem Unplaced.law (h : Unplaced c s) (hc : (s.circuit c).matcherPlace = none) : MatcherLaw s :=
  h.toPlacedBut.law (by simp [h.unqueued, hc]) (by simp [h.unmatched, hc])

/-- What the law of the other circuits rests on: the queue, the circuits of the units and which are FREE, and the places. -/
theorem PlacedBut.congr (h : PlacedBut c s) (hq : t.align.queue = s.align.queue) (hu : ∀ v, (t.unit v).circuit = (s.unit v).circuit)
    (hf : ∀ v, (t.unit v).state = .free ↔ (s.unit v).state = .free)
    (hp : ∀ d, d ≠ c → (t.circuit d).matcherPlace = (s.circuit d).matcherPlace) : PlacedBut c t where
  once := hq ▸ h.once
  queued d hd := by rw [State.inQueue, hq, hp d hd]; exact h.queued d hd
  matching d hd := by simp only [State.inUnit, hu, hp d hd]; exact h.matching d hd
  oneUnit v w d := by rw [hu, hu]; exact h.oneUnit v w d
  free v := by rw [hf, hu]; exact h.free v

/-- What the whole law rests on. -/
theorem MatcherLaw.congr (h : MatcherLaw s) (hq : t.align.queue = s.align.queue) (hu : ∀ v, (t.unit v).circuit = (s.unit v).circuit)
    (hf : ∀ v, (t.unit v).state = .free ↔ (s.unit v).state = .free)
    (hp : ∀ d, (t.circuit d).matcherPlace = (s.circuit d).matcherPlace) : MatcherLaw t := by
  have hlaw := (h.placedBut 0).congr hq hu hf fun d _ => hp d
  exact hlaw.law (by rw [State.inQueue, hq, hp]; exact h.queuedPlace 0) (by simp only [State.inUnit, hu, hp]; exact h.matchingPlace 0)

/-- The holdings that the law of the matchers rests on. -/
def matcherLawBlocks : List Block := [.circuits, .matchers, .matcherQueue]

theorem PlacedBut.quiet {l : List Block} (h : PlacedBut c s) (hf : SameBut l s t) (hl : ∀ b ∈ matcherLawBlocks, b ∉ l) : PlacedBut c t := by
  have hu := hf.sameUnit (hl _ (by decide))
  exact h.congr (hf.sameQueue (hl _ (by decide))) (fun v => by rw [hu]) (fun v => by rw [hu])
    fun d _ => by rw [hf.sameCircuit (hl _ (by decide))]

theorem Unplaced.quiet {l : List Block} (h : Unplaced c s) (hf : SameBut l s t) (hl : ∀ b ∈ matcherLawBlocks, b ∉ l) : Unplaced c t := by
  refine ⟨h.toPlacedBut.quiet hf hl, ?_, ?_⟩
  · rw [State.inQueue, hf.sameQueue (hl _ (by decide))]; exact h.unqueued
  · simp only [State.inUnit, hf.sameUnit (hl _ (by decide))]; exact h.unmatched

/-- The record of the circuit set aside may be written. -/
theorem PlacedBut.putCircuit (h : PlacedBut c s) (r : Circuit) : PlacedBut c (s.putCircuit c r) :=
  h.congr rfl (fun _ => rfl) (fun _ => Iff.rfl) fun d hd => by rw [putCircuit_circuit, if_neg (Ne.symm hd)]

theorem Unplaced.putCircuit (h : Unplaced c s) (r : Circuit) : Unplaced c (s.putCircuit c r) :=
  ⟨h.toPlacedBut.putCircuit r, h.unqueued, h.unmatched⟩

/-! ### Taking a circuit out of its place and into one -/

/-- R67: the circuit released stands nowhere, wherever it stood. -/
theorem PlacedBut.releaseMatcher (h : PlacedBut c s) : Unplaced c (s.releaseMatcher c) := by
  obtain ⟨hqueue, hunits⟩ := releaseMatcher_givenUp c s
  have hcirc : ∀ v, ((s.releaseMatcher c).unit v).circuit = if (s.unit v).circuit = some c then none else (s.unit v).circuit := fun v => by
    rw [hunits]; split <;> rfl
  have hstate : ∀ v, ((s.releaseMatcher c).unit v).state = if (s.unit v).circuit = some c then .free else (s.unit v).state := fun v => by
    rw [hunits]; split <;> rfl
  have hin : ∀ d, (s.releaseMatcher c).inQueue d ↔ d ≠ c ∧ s.inQueue d := fun d => by
    simp only [State.inQueue, hqueue, List.mem_map, List.mem_filter]
    grind
  have hunit : ∀ d, (s.releaseMatcher c).inUnit d ↔ d ≠ c ∧ s.inUnit d := fun d => by
    simp only [State.inUnit, hcirc]
    grind
  refine ⟨⟨?_, fun d hd => ?_, fun d hd => ?_, fun v w d => ?_, fun v => ?_⟩, by simp [hin], by simp [hunit]⟩
  · rw [hqueue]
    exact h.once.sublist (List.filter_sublist.map _)
  · rw [hin]; exact (and_iff_right hd).trans (h.queued d hd)
  · rw [hunit]; exact (and_iff_right hd).trans (h.matching d hd)
  · rw [hcirc, hcirc]
    have := h.oneUnit v w d
    grind
  · rw [hcirc, hstate]
    have := h.free v
    grind

/-- R57: a QUEUED circuit that stands nowhere joins the queue. -/
theorem Unplaced.joinQueue (h : Unplaced c s) (hc : (s.circuit c).matcherPlace = some .queued) (k : SearchKind) :
    MatcherLaw (s.joinQueue c k) := by
  have hin : ∀ d, (s.joinQueue c k).inQueue d ↔ s.inQueue d ∨ d = c := fun d => by simp [State.inQueue, State.joinQueue]
  have hnot := h.unqueued
  have hplaced : PlacedBut c (s.joinQueue c k) := by
    refine ⟨?_, fun d hd => ?_, h.matching, h.oneUnit, h.free⟩
    · have hq : (s.joinQueue c k).align.queue.map QueueEntry.circuit = s.align.queue.map QueueEntry.circuit ++ [c] := by simp [State.joinQueue]
      rw [hq]
      exact List.Nodup.append h.once (List.nodup_singleton c) (by simpa [State.inQueue] using hnot)
    · rw [hin]; exact (or_iff_left hd).trans (h.queued d hd)
  refine hplaced.law (iff_of_true ((hin c).mpr (.inr rfl)) hc) (iff_of_false h.unmatched ?_)
  rw [show ((s.joinQueue c k).circuit c) = s.circuit c from rfl, hc]
  decide

/-- R58: the head entry leaves the queue. -/
theorem MatcherLaw.takeEntry (h : MatcherLaw s) {e : QueueEntry} {rest : List QueueEntry} (hq : s.align.queue = e :: rest) :
    Unplaced e.circuit (s.setAlign { s.align with queue := rest }) := by
  have hnodup : e.circuit ∉ rest.map QueueEntry.circuit ∧ (rest.map QueueEntry.circuit).Nodup := by
    have := h.once
    rwa [hq, List.map_cons, List.nodup_cons] at this
  have hplace : (s.circuit e.circuit).matcherPlace = some .queued := (h.queuedPlace _).mp (by simp [State.inQueue, hq])
  refine ⟨⟨hnodup.2, fun d hd => ?_, fun d _ => h.matchingPlace d, h.oneUnit, h.free⟩, hnodup.1, ?_⟩
  · have := h.queuedPlace d
    simpa [State.inQueue, hq, hd] using this
  · show ¬ s.inUnit e.circuit
    rw [h.matchingPlace, hplace]
    decide

/-- The units after one has been written. -/
theorem setUnit_unit (s : State) (v w : UnitNo) (x : Matcher) : (s.setUnit v x).unit w = if v = w then x else s.unit w := by
  split
  next h => rw [h, State.setUnit_unit_eq]
  next h => exact State.setUnit_unit_ne _ _ h

/-- R34: the circuit of a unit that becomes FREE stands nowhere. -/
theorem MatcherLaw.freeUnit (h : MatcherLaw s) {v : UnitNo} (hv : (s.unit v).circuit = some c) :
    Unplaced c (s.setUnit v (s.unit v).freed) := by
  have hcirc : ∀ w, ((s.setUnit v (s.unit v).freed).unit w).circuit = if v = w then none else (s.unit w).circuit := fun w => by
    rw [setUnit_unit]; split <;> rfl
  have hone : ∀ w, (s.unit w).circuit = some c → v = w := fun w hw => h.oneUnit v w c hv hw
  have hunit : ∀ d, (s.setUnit v (s.unit v).freed).inUnit d ↔ d ≠ c ∧ s.inUnit d := fun d => by
    simp only [State.inUnit, hcirc]
    grind
  have hplace : (s.circuit c).matcherPlace = some .matching := (h.matchingPlace c).mp ⟨v, hv⟩
  refine ⟨⟨h.once, fun d _ => h.queuedPlace d, fun d hd => ?_, fun w x d => ?_, fun w => ?_⟩, ?_, by simp [hunit]⟩
  · rw [hunit]; exact (and_iff_right hd).trans (h.matchingPlace d)
  · rw [hcirc, hcirc]
    have := h.oneUnit w x d
    grind
  · rw [hcirc, setUnit_unit]
    have := h.free w
    split <;> simp_all [Matcher.freed]
  · show ¬ s.inQueue c
    rw [h.queuedPlace, hplace]
    decide

/-- R59: a MATCHING circuit that stands nowhere is taken by a FREE unit. -/
theorem Unplaced.takeUnit (h : Unplaced c s) (hc : (s.circuit c).matcherPlace = some .matching) {v : UnitNo} {x : Matcher}
    (hv : (s.unit v).state = .free) (hx : x.circuit = some c) (hstate : x.state ≠ .free) : MatcherLaw (s.setUnit v x) := by
  have hcirc : ∀ w, ((s.setUnit v x).unit w).circuit = if v = w then some c else (s.unit w).circuit := fun w => by
    rw [setUnit_unit]; split
    · exact hx
    · rfl
  have hnone : (s.unit v).circuit = none := (h.free v).mp hv
  have hunit : ∀ d, (s.setUnit v x).inUnit d ↔ d = c ∨ s.inUnit d := fun d => by
    simp only [State.inUnit, hcirc]
    grind
  have hno : ∀ w, (s.unit w).circuit ≠ some c := fun w hw => h.unmatched ⟨w, hw⟩
  have hplaced : PlacedBut c (s.setUnit v x) := by
    refine ⟨h.once, h.queued, fun d hd => ?_, fun w y d => ?_, fun w => ?_⟩
    · rw [hunit]; exact (or_iff_right hd).trans (h.matching d hd)
    · rw [hcirc, hcirc]
      have := h.oneUnit w y d
      grind
    · rw [hcirc, setUnit_unit]
      have := h.free w
      split <;> simp_all
  refine hplaced.law (iff_of_false h.unqueued ?_) (iff_of_true ((hunit c).mpr (.inl rfl)) hc)
  rw [show ((s.setUnit v x).circuit c) = s.circuit c from rfl, hc]
  decide

/-! ### A step that keeps the law -/

/-- From `s` to `t` the law of the matchers holds on. -/
def KeepsMatchers (s t : State) : Prop := MatcherLaw s → MatcherLaw t

theorem KeepsMatchers.refl (s : State) : KeepsMatchers s s := id

theorem KeepsMatchers.trans (h : KeepsMatchers s t) (k : KeepsMatchers t u) : KeepsMatchers s u := k ∘ h

/-- Any number of steps. -/
theorem KeepsMatchers.foldl {α : Type} {f : State → α → State} (h : ∀ s a, KeepsMatchers s (f s a)) :
    ∀ (xs : List α) (s : State), KeepsMatchers s (xs.foldl f s)
  | [], s => .refl s
  | x :: xs, s => (h s x).trans (KeepsMatchers.foldl h xs (f s x))

/-- A step taken or not. -/
theorem KeepsMatchers.ite (b : Prop) [Decidable b] (h : b → KeepsMatchers s t) (k : ¬ b → KeepsMatchers s u) :
    KeepsMatchers s (if b then t else u) := by
  split
  next hb => exact h hb
  next hb => exact k hb

/-- A step that changes none of the holdings that the law rests on. -/
theorem KeepsMatchers.quiet {l : List Block} (h : SameBut l s t) (hl : ∀ b ∈ matcherLawBlocks, b ∉ l := by decide) : KeepsMatchers s t :=
  fun k => by
    have hu := h.sameUnit (hl _ (by decide))
    exact k.congr (h.sameQueue (hl _ (by decide))) (fun v => by rw [hu]) (fun v => by rw [hu])
      fun d => by rw [h.sameCircuit (hl _ (by decide))]

/-- A step that leaves the records and the Path Alignment Unit. -/
theorem KeepsMatchers.rest (hc : t.circuits = s.circuits) (ha : t.align = s.align) : KeepsMatchers s t := fun k =>
  k.congr (by rw [ha]) (fun v => by rw [State.unit, ha]; rfl) (fun v => by rw [State.unit, ha]; rfl)
    fun d => by rw [State.circuit, hc]; rfl

/-- A step on the records that leaves every place. -/
theorem KeepsMatchers.places (hq : t.align.queue = s.align.queue) (hu : t.align.units = s.align.units)
    (hp : ∀ d, (t.circuit d).matcherPlace = (s.circuit d).matcherPlace) : KeepsMatchers s t := fun k =>
  k.congr hq (fun v => by rw [State.unit, hu]; rfl) (fun v => by rw [State.unit, hu]; rfl) hp

/-- A step on the units in which each keeps its circuit and whether it is FREE. -/
theorem KeepsMatchers.units {x : AlignmentUnit} (hq : x.queue = s.align.queue)
    (hu : ∀ v, (x.units.get v).circuit = (s.unit v).circuit ∧ ((x.units.get v).state = .free ↔ (s.unit v).state = .free)) :
    KeepsMatchers s (s.setAlign x) := fun k =>
  k.congr hq (fun v => (hu v).1) (fun v => (hu v).2) fun _ => rfl

/-- A record written that keeps its place. -/
theorem putCircuit_keepsMatchers (hr : r.matcherPlace = (s.circuit c).matcherPlace) : KeepsMatchers s (s.putCircuit c r) :=
  .places rfl rfl fun d => by
    rw [putCircuit_circuit]
    split
    next h => subst h; exact hr
    next => rfl

/-- A record written outside MEASURING that stays outside. -/
theorem putElsewhere_keepsMatchers (hs : (s.circuit c).state ≠ .measuring) (hr : r.state ≠ .measuring) : KeepsMatchers s (s.putCircuit c r) :=
  putCircuit_keepsMatchers (by rw [Circuit.matcherPlace_elsewhere hs, Circuit.matcherPlace_elsewhere hr])

/-- A context written with the sub-status that it had. -/
theorem putContext_keepsMatchers {x y : Context} (hx : (s.circuit c).context = some x) (hsub : y.sub = x.sub) :
    KeepsMatchers s (s.putContext c y) :=
  putCircuit_keepsMatchers (Circuit.matcherPlace_congr rfl (by simp [Circuit.sub, hx, hsub]))

end Sys2Proof.Machine
end

section
/-! SUPPORT. Every turn of a circuit keeps the law of the matchers: the starts of migrations and batches, outcomes, releases,
splices, abandonments and reverts, and the tests and evaluations that lead to them (R57, R67). -/

namespace Sys2Proof.Machine

variable {s t u : State} {c : CircuitNo}

/-! ### Starts and batches (R25, R159, R160, R162) -/

/-- R25: a migration starts from COPPER. -/
theorem startMigration_keepsMatchers (h : s.migrateRefusal c = none) : KeepsMatchers s (s.startMigration c) := by
  obtain ⟨⟨hst, -⟩, -⟩ := startable_iff.mp (show s.startable c = true by rw [State.startable, h]; rfl)
  have hput : KeepsMatchers s.takeNumber (s.takeNumber.putCircuit c { s.circuit c with
      state := .proposing, buildOut := 0, context := some (newContext s.takeNumber.node .initiator s.peer.counter) }) :=
    putElsewhere_keepsMatchers (show (s.circuit c).state ≠ .measuring by simp [hst]) (by simp)
  exact ((KeepsMatchers.quiet (takeNumber_frame s)).trans hput).trans
    ((KeepsMatchers.quiet (sendPropose_frame _ c _)).trans (.quiet (watchEvent_frame _ c _ _)))

/-- A membership written or cleared. -/
theorem putBatch_keepsMatchers (s : State) (c : CircuitNo) (f : Option (Fin 8)) :
    KeepsMatchers s (s.putCircuit c { s.circuit c with batch := f }) := putCircuit_keepsMatchers rfl

/-- The memberships of a list of members written or cleared. -/
theorem putBatches_keepsMatchers (l : List Member) (f : Option (Fin 8)) (s : State) :
    KeepsMatchers s (l.foldl (fun s m => s.putCircuit m.circuit { s.circuit m.circuit with batch := f }) s) :=
  .foldl (fun s m => putBatch_keepsMatchers s m.circuit f) l s

theorem setBatch_keepsMatchers (s : State) (id : Fin 8) (b : Option Batch) : KeepsMatchers s (s.setBatch id b) := .quiet (setBatch_frame s id b)

theorem handReport_keepsMatchers (s : State) (b : ReportBody) : KeepsMatchers s (s.handReport b) := .quiet (handReport_frame s b)

theorem closeBatch_keepsMatchers (s : State) (id : Fin 8) (cause : BatchCause) : KeepsMatchers s (s.closeBatch id cause) := by
  unfold State.closeBatch
  split
  · exact ((handReport_keepsMatchers s _).trans (putBatches_keepsMatchers _ none _)).trans (setBatch_keepsMatchers _ id none)
  · exact .refl s

theorem startMember_keepsMatchers (id : Fin 8) (p : StartProgress) (i : Nat) : KeepsMatchers p.state (startMember id p i).state := by
  unfold startMember
  split
  · split
    · split
      · split
        next h => exact (startMigration_keepsMatchers h).trans (setBatch_keepsMatchers _ id _)
        next => exact setBatch_keepsMatchers _ id _
      · exact .refl _
    · exact .refl _
  · exact .refl _

theorem startMembers_keepsMatchers (id : Fin 8) :
    ∀ (l : List Nat) (p : StartProgress), KeepsMatchers p.state (l.foldl (startMember id) p).state
  | [], _ => .refl _
  | i :: l, p => (startMember_keepsMatchers id p i).trans (startMembers_keepsMatchers id l (startMember id p i))

theorem startStep_keepsMatchers (s : State) (id : Fin 8) : KeepsMatchers s (s.startStep id).state := by
  unfold State.startStep
  split
  next b _ =>
    have hall := startMembers_keepsMatchers id (List.range b.members.length) ⟨s, 0, 0⟩
    simp only
    split
    · split
      · exact hall.trans (closeBatch_keepsMatchers _ id _)
      · exact hall
    · exact hall
  next => exact .refl s

theorem openBatch_keepsMatchers (s : State) (id : Fin 8) (b : Batch) : KeepsMatchers s (s.openBatch id b).state :=
  ((setBatch_keepsMatchers s id _).trans (putBatches_keepsMatchers _ _ _)).trans (startStep_keepsMatchers _ id)

theorem batchOutcome_keepsMatchers (s : State) (c : CircuitNo) (o : OutcomeRecord) : KeepsMatchers s (s.batchOutcome c o) := by
  unfold State.batchOutcome
  repeat' split
  · exact (setBatch_keepsMatchers s _ _).trans (startStep_keepsMatchers _ _)
  all_goals exact .refl s

/-! ### Outcomes (R19) -/

theorem handOutcome_keepsMatchers (s : State) (c : CircuitNo) (o : OutcomeRecord) : KeepsMatchers s (s.handOutcome c o) := by
  have hb : ∀ s : State, KeepsMatchers s (s.batchOutcome c o) := fun s => batchOutcome_keepsMatchers s c o
  have hw : ∀ s : State, KeepsMatchers s (s.watchOutcome c o.code) := fun s => .quiet (watchOutcome_frame s c o.code)
  have hr : ∀ s : State, KeepsMatchers s (s.reportOutcome c o) := fun s => .quiet (reportOutcome_frame s c o)
  unfold State.handOutcome
  split
  · exact ((hb _).trans (hw _)).trans (hr _)
  · refine (KeepsMatchers.quiet (drawn_frame s)).trans ?_
    simp only
    split
    · exact ((hb _).trans (hw _)).trans (hr _)
    · exact ((hb _).trans (hr _)).trans (hw _)
    · exact ((hw _).trans (hb _)).trans (hr _)
    · exact ((hw _).trans (hr _)).trans (hb _)
    · exact ((hr _).trans (hb _)).trans (hw _)
    · exact ((hr _).trans (hw _)).trans (hb _)

theorem writeOutcome_keepsMatchers (s : State) (c : CircuitNo) (o : OutcomeRecord) : KeepsMatchers s (s.writeOutcome c o) := by
  have hput : KeepsMatchers s (s.putCircuit c { s.circuit c with outcome := some o, changed := true }) := putCircuit_keepsMatchers rfl
  exact hput.trans (handOutcome_keepsMatchers _ c o)

/-! ### Release and collapse (R46, R48, R91) -/

/-- R17: conditioning has no say in a circuit's place. -/
theorem evaluateAll_keepsMatchers (s : State) : KeepsMatchers s s.evaluateAll :=
  .places rfl rfl fun d => by rw [State.evaluateAll_circuit, matcherPlace_evaluated]

theorem setSpan_keepsMatchers (s : State) (n : SpanNo) (x : Span) : KeepsMatchers s (s.setSpan n x) := .rest rfl rfl

theorem sendFor_keepsMatchers (s : State) (c : CircuitNo) (m : TrunkCode → PeerMessage) : KeepsMatchers s (s.sendFor c m) :=
  .quiet (sendFor_frame s c m)

theorem retireSpan_keepsMatchers (s : State) (n : SpanNo) : KeepsMatchers s (s.retireSpan n) :=
  ((setSpan_keepsMatchers s n _).trans (evaluateAll_keepsMatchers _)).trans (handReport_keepsMatchers _ _)

theorem autoRetire_keepsMatchers (s : State) (n : SpanNo) : KeepsMatchers s (s.autoRetire n) :=
  .ite _ (fun _ => retireSpan_keepsMatchers s n) fun _ => .refl s

/-- R46: a fallback is released in FIBRE. -/
theorem releaseFallback_keepsMatchers (hst : (s.circuit c).state = .fibre) (reason : Reason) : KeepsMatchers s (s.releaseFallback c reason) := by
  have hmark : KeepsMatchers s (s.markCopper (s.circuit c).copper none) := .quiet (markCopper_frame s _ _)
  have hput : KeepsMatchers (s.markCopper (s.circuit c).copper none) ((s.markCopper (s.circuit c).copper none).putCircuit c
      { s.circuit c with copper := none, copperTransmit := false, context := none }) :=
    putElsewhere_keepsMatchers (by rw [markCopper_circuit, hst]; decide) (by simp [hst])
  have hsend : ∀ t : State, KeepsMatchers t (if reason = .peerReleased then t else t.sendFor c .release) := fun t =>
    .ite _ (fun _ => .refl t) fun _ => sendFor_keepsMatchers t c _
  have hrest := fun o => ((hmark.trans hput).trans (writeOutcome_keepsMatchers _ c o)).trans (hsend _)
  unfold State.releaseFallback
  simp only
  split
  · exact (hrest _).trans (autoRetire_keepsMatchers _ _)
  · exact hrest _

theorem releaseTest_keepsMatchers (s : State) (c : CircuitNo) : KeepsMatchers s (s.releaseTest c) :=
  .ite _ (fun h => releaseFallback_keepsMatchers (releaseDue_fibre h) _) fun _ => .refl s

theorem collapseTest_keepsMatchers (s : State) (c : CircuitNo) : KeepsMatchers s (s.collapseTest c) := by
  have hput : KeepsMatchers s (s.putCircuit c { s.circuit c with buildOut := 0 }) := putCircuit_keepsMatchers rfl
  exact .ite _ (fun _ => hput.trans (writeOutcome_keepsMatchers _ c _)) fun _ => .refl s

/-! ### Turns that give the circuit's place up (R40, R42, R67) -/

/-- R40: a splice ends with the law, wherever its circuit stood. -/
theorem splice_matcherLaw (h : PlacedBut c s) {x : Context} (hx : (s.circuit c).context = some x) (code : OutcomeCode) (b : Nat)
    (d : Option Int) (j : Option SampleOffset) : MatcherLaw (s.splice c code b d j) := by
  have hput : MatcherLaw ((s.releaseMatcher c).putCircuit c
      { s.circuit c with state := .fibre, buildOut := b, context := some (x.spliced (s.circuit c).holdSeconds) }) :=
    (h.releaseMatcher.putCircuit _).law (by rw [putCircuit_matcherPlace, Circuit.matcherPlace_elsewhere (by simp)])
  have hrest := fun w o => (((sendFor_keepsMatchers w c .spliced).trans (writeOutcome_keepsMatchers _ c o)).trans
    (releaseTest_keepsMatchers _ c)).trans (collapseTest_keepsMatchers _ c)
  simp only [State.splice, hx]
  exact hrest _ _ hput

theorem splice_keepsMatchers (s : State) (c : CircuitNo) (code : OutcomeCode) (b : Nat) (d : Option Int) (j : Option SampleOffset) :
    KeepsMatchers s (s.splice c code b d j) := by
  cases hx : (s.circuit c).context with
  | none => simp only [State.splice, hx]; exact .refl s
  | some x => exact fun h => splice_matcherLaw (h.placedBut c) hx code b d j

theorem spliceAligned_keepsMatchers (s : State) (c : CircuitNo) (code : OutcomeCode) : KeepsMatchers s (s.spliceAligned c code) := by
  unfold State.spliceAligned
  split
  · exact (KeepsMatchers.quiet (spliceOffset_frame s _)).trans (splice_keepsMatchers _ c _ _ _ _)
  · exact splice_keepsMatchers s c _ _ _ _

/-- R42: an abandonment ends with the law, wherever its circuit stood. -/
theorem abandon_matcherLaw (h : PlacedBut c s) (reason : Reason) (decline : Option DeclineReason) : MatcherLaw (s.abandon c reason decline) := by
  have hput : MatcherLaw (((s.stopResponse c).releaseMatcher c).putCircuit c
      ((s.circuit c).backToCopper (drainBridge (s.circuit c).fibreTransmit))) :=
    ((h.quiet (stopResponse_frame s c) (by decide)).releaseMatcher.putCircuit _).law
      (by rw [putCircuit_matcherPlace, Circuit.matcherPlace_elsewhere (by simp [Circuit.backToCopper])])
  have hwritten := fun o => writeOutcome_keepsMatchers _ c o hput
  unfold State.abandon
  simp only
  split
  · exact sendFor_keepsMatchers _ c _ (hwritten _)
  · exact hwritten _

theorem abandon_keepsMatchers (s : State) (c : CircuitNo) (reason : Reason) (decline : Option DeclineReason) :
    KeepsMatchers s (s.abandon c reason decline) := fun h => abandon_matcherLaw (h.placedBut c) reason decline

/-- R24: an attempt consumed. -/
theorem consumeAttempt_keepsMatchers (s : State) (c : CircuitNo) (reason : Reason) {goOn : State → State}
    (hg : ∀ x, (s.circuit c).context = some x → KeepsMatchers (s.putContext c { x with attempts := x.attempts - 1 })
      (goOn (s.putContext c { x with attempts := x.attempts - 1 }))) : KeepsMatchers s (s.consumeAttempt c reason goOn) := by
  unfold State.consumeAttempt
  split
  next x hx => exact .ite _ (fun _ => abandon_keepsMatchers s c _ _) fun _ =>
    (putContext_keepsMatchers (y := { x with attempts := x.attempts - 1 }) hx rfl).trans (hg x hx)
  next => exact .refl s

/-- R49: a revert leaves FIBRE. -/
theorem revertCircuit_keepsMatchers (hst : (s.circuit c).state = .fibre) (reason : Reason) : KeepsMatchers s (s.revertCircuit c reason) := by
  have hoffset := revertOffset_frame s (s.circuit c)
  have hput : KeepsMatchers (s.revertOffset (s.circuit c)).1 ((s.revertOffset (s.circuit c)).1.putCircuit c
      ((s.circuit c).backToCopper (.draining (.load Config.drainFrames)))) :=
    putElsewhere_keepsMatchers (by rw [hoffset.sameCircuit (by decide), hst]; decide) (by simp [Circuit.backToCopper])
  have hwritten := fun o => ((KeepsMatchers.quiet hoffset).trans hput).trans (writeOutcome_keepsMatchers _ c o)
  unfold State.revertCircuit
  simp only
  split
  · exact (hwritten _).trans (sendFor_keepsMatchers _ c _)
  · exact hwritten _

/-! ### Measuring (R32, R33) -/

/-- R32: an entry to BRIDGE-WAIT of a circuit that has no place. -/
theorem enterMeasuring_keepsMatchers (hs : (s.circuit c).state ≠ .measuring) : KeepsMatchers s (s.enterMeasuring c .bridgeWait) := by
  unfold State.enterMeasuring
  split
  · exact putCircuit_keepsMatchers (by rw [Circuit.matcherPlace_elsewhere hs]; exact Circuit.matcherPlace_bridgeWait rfl)
  · exact .refl s

/-- R33: a circuit in BRIDGE-WAIT joins the queue. -/
theorem queueForMatch_keepsMatchers {x : Context} (hs : (s.circuit c).state = .measuring) (hx : (s.circuit c).context = some x)
    (hsub : x.sub = some .bridgeWait) : KeepsMatchers s (s.queueForMatch c x) := fun h =>
  ((h.unplaced (Circuit.matcherPlace_bridgeWait (by simp [Circuit.sub, hx, hsub]))).putCircuit _).joinQueue
    (by rw [putCircuit_matcherPlace]; exact Circuit.matcherPlace_queued.mpr ⟨hs, rfl⟩) _

theorem bridgeWaitTest_keepsMatchers (s : State) (c : CircuitNo) : KeepsMatchers s (s.bridgeWaitTest c) := by
  unfold State.bridgeWaitTest
  split
  next x hs hx =>
    refine .ite _ (fun hwait => ?_) fun _ => .refl s
    refine .ite _ (fun _ => splice_keepsMatchers s c _ _ _ _) fun _ => ?_
    refine .ite _ (fun _ => splice_keepsMatchers s c _ _ _ _) fun _ => ?_
    exact .ite _ (fun _ => queueForMatch_keepsMatchers hs hx hwait.1) fun _ => .refl s
  next => exact .refl s

theorem enterBridgeWait_keepsMatchers (hs : (s.circuit c).state ≠ .measuring) : KeepsMatchers s (s.enterBridgeWait c) :=
  (enterMeasuring_keepsMatchers hs).trans (bridgeWaitTest_keepsMatchers _ c)

/-- R37, R38: a circuit outside MEASURING goes back to the queue. -/
theorem requeueFull_keepsMatchers (hs : (s.circuit c).state ≠ .measuring) : KeepsMatchers s (s.requeueFull c) := by
  unfold State.requeueFull State.enterMeasuring
  split
  next x hx =>
    simp only [putContext_circuit, evaluated_context]
    exact fun h => (((h.unplaced (Circuit.matcherPlace_elsewhere hs)).putCircuit _).putCircuit _).joinQueue
      (by rw [putCircuit_matcherPlace]; exact Circuit.matcherPlace_queued.mpr ⟨rfl, rfl⟩) _
  next => exact .refl s

/-! ### Aligned (R35 to R37) -/

theorem watchEvent_keepsMatchers (s : State) (c : CircuitNo) (cls : EventClass) (o : Option OutcomeCode) :
    KeepsMatchers s (s.watchEvent c cls o) := .quiet (watchEvent_frame s c cls o)

theorem alignedEvaluation_keepsMatchers (s : State) (c : CircuitNo) : KeepsMatchers s (s.alignedEvaluation c) := by
  unfold State.alignedEvaluation
  split
  next x hx =>
    have hput : ∀ y : Context, y.sub = x.sub → KeepsMatchers s (s.putContext c y) := fun y => putContext_keepsMatchers hx
    refine .ite _ (fun _ => hput _ rfl) fun _ => .ite _ (fun _ => ?_) fun _ => hput _ rfl
    have hdeferred := hput { x with deferred := true, target := none } rfl
    exact .ite _ (fun _ => hdeferred.trans (abandon_keepsMatchers _ c _ _)) fun _ => hdeferred
  next => exact .refl s

/-- R35: a circuit that stands nowhere enters ALIGNED. -/
theorem enterAligned_matcherLaw (h : Unplaced c s) {x : Context} (hx : (s.circuit c).context = some x) (d : Int) :
    MatcherLaw (s.enterAligned c d) := by
  have hput : ∀ y : Context, MatcherLaw (s.putCircuit c
      { s.circuit c with state := .aligned, buildOut := buildOutOf d, context := some y }) := fun y =>
    (h.putCircuit _).law (by rw [putCircuit_matcherPlace, Circuit.matcherPlace_elsewhere (by simp)])
  simp only [State.enterAligned, hx]
  exact alignedEvaluation_keepsMatchers _ c (watchEvent_keepsMatchers _ c _ _ (hput _))

/-- R37: an ALIGNED circuit takes a slipped Δ, or goes back to the queue. -/
theorem takeSlippedDelta_keepsMatchers (hs : (s.circuit c).state = .aligned) (d : Int) : KeepsMatchers s (s.takeSlippedDelta c d) := by
  unfold State.takeSlippedDelta
  split
  next x _ hx _ =>
    refine .ite _ (fun _ => ?_) fun _ => ?_
    · have hput : KeepsMatchers s (s.putCircuit c
          { s.circuit c with buildOut := buildOutOf d, context := some { x with delta := some d } }) :=
        putElsewhere_keepsMatchers (by simp [hs]) (by simp [hs])
      exact hput.trans (alignedEvaluation_keepsMatchers _ c)
    · have hput : KeepsMatchers s (s.putContext c { x with delta := keepDelta d }) := putContext_keepsMatchers hx rfl
      exact hput.trans (consumeAttempt_keepsMatchers _ c _ fun y _ =>
        requeueFull_keepsMatchers (by rw [putContext_state, putContext_state, hs]; decide))
  next => exact .refl s

/-! ### The idle and busy result (R16) -/

theorem becameIdle_keepsMatchers (s : State) (c : CircuitNo) : KeepsMatchers s (s.becameIdle c) := by
  unfold State.becameIdle
  split
  · exact bridgeWaitTest_keepsMatchers s c
  next x hs hx =>
    refine .ite _ (fun _ => .ite _ (fun _ => spliceAligned_keepsMatchers s c _) fun _ => ?_) fun _ => .refl s
    exact enterBridgeWait_keepsMatchers (by simp [hs])
  · exact collapseTest_keepsMatchers s c
  · exact .refl s

theorem becameBusy_keepsMatchers (s : State) (c : CircuitNo) : KeepsMatchers s (s.becameBusy c) :=
  .ite _ (fun _ => alignedEvaluation_keepsMatchers s c) fun _ => .refl s

theorem inputChanged_keepsMatchers (s : State) (c : CircuitNo) (wasBusy : Bool) : KeepsMatchers s (s.inputChanged c wasBusy) := by
  have hline : KeepsMatchers s (if lineWatched (s.circuit c).state then s.watchEvent c .line none else s) :=
    .ite _ (fun _ => watchEvent_keepsMatchers s c _ _) fun _ => .refl s
  have hresult : ∀ t, KeepsMatchers t (if wasBusy ∧ t.busy c = false then t.becameIdle c
      else if wasBusy = false ∧ t.busy c = true then t.becameBusy c else t) := fun t =>
    .ite _ (fun _ => becameIdle_keepsMatchers t c) fun _ => .ite _ (fun _ => becameBusy_keepsMatchers t c) fun _ => .refl t
  exact hline.trans (hresult _)

/-! ### Mass events (R44, R52, R53) -/

/-- R52: a circuit of a lost span is spliced, or gives its place up for BRIDGE-WAIT. -/
theorem spanLostFor_keepsMatchers (handed : DelayRecord) (s : State) (c : CircuitNo) : KeepsMatchers s (State.spanLostFor handed s c) := by
  unfold State.spanLostFor
  split
  next x hx =>
    refine .ite _ (fun _ => .refl s) fun _ => ?_
    refine .ite _ (fun _ => splice_keepsMatchers s c _ _ _ _) fun _ => .ite _ (fun _ => ?_) fun _ => .refl s
    exact fun h => ((h.placedBut c).releaseMatcher.putCircuit _).law
      (by rw [putCircuit_matcherPlace]; exact Circuit.matcherPlace_bridgeWait rfl)
  next => exact .refl s

theorem fibreLostFor_keepsMatchers (s : State) (c : CircuitNo) : KeepsMatchers s (s.fibreLostFor c) :=
  .ite _ (fun _ => abandon_keepsMatchers s c _ _) fun _ =>
    .ite _ (fun h => revertCircuit_keepsMatchers (Circuit.kept_iff.mp h.1).1 _) fun _ => .refl s

theorem abandonAll_keepsMatchers (s : State) : KeepsMatchers s s.abandonAll :=
  .foldl (fun t c => .ite _ (fun _ => abandon_keepsMatchers t c _ _) fun _ => .refl t) _ _

end Sys2Proof.Machine
end

section
/-! SUPPORT. Every event row of the site frame, the circuits' timers, the Path Alignment Unit, the spans and the lanes keeps the law of
the matchers (R57). -/

namespace Sys2Proof.Machine

variable {s t u : State} {c : CircuitNo}

/-! ### Rows -/

theorem answers_ite {P : State → Prop} {x y : Answer} (b : Prop) [Decidable b] (h : b → Answers P x) (k : ¬ b → Answers P y) :
    Answers P (if b then x else y) := by
  split
  next hb => exact h hb
  next hb => exact k hb

/-- A row that does something where its condition holds, and nothing elsewhere. -/
theorem keepsMatchers_when (b : Prop) [Decidable b] (h : b → KeepsMatchers s t) :
    Answers (KeepsMatchers s) (if b then .next t else .next s) :=
  answers_ite b (fun hb => answers_next (h hb)) fun _ => answers_next (.refl s)

/-! ### The units in a frame, at a slip and at a change of the working lane (R60 to R66) -/

/-- A unit goes on with its circuit, and is FREE exactly when it was. -/
def Matcher.HoldsOn (m m' : Matcher) : Prop := m'.circuit = m.circuit ∧ (m'.state = .free ↔ m.state = .free)

theorem Matcher.HoldsOn.refl (m : Matcher) : m.HoldsOn m := ⟨rfl, Iff.rfl⟩

theorem Matcher.restart_holdsOn {m : Matcher} (h : m.state ≠ .free) (kind : SearchKind) (record : DelayRecord) :
    m.HoldsOn (m.restart kind record) := ⟨rfl, by simp [Matcher.restart, h]⟩

theorem Matcher.frame_holdsOn (m : Matcher) (fc : FrameCount) (sample : Byte) (ring : Table 128 Byte) : m.HoldsOn (m.frame fc sample ring) := by
  unfold Matcher.frame
  split
  · exact ⟨rfl, Iff.rfl⟩
  · simp only; split <;> exact ⟨rfl, Iff.rfl⟩
  all_goals exact .refl m

theorem frameUnit_holdsOn (s : State) (m : Matcher) : m.HoldsOn (s.frameUnit m) := by
  unfold State.frameUnit
  split
  · exact m.frame_holdsOn _ _ _
  · exact .refl m

theorem flagClearUnit_holdsOn (s : State) (content : SlotNo → SlotContent) (m : Matcher) : m.HoldsOn (s.flagClearUnit content m) := by
  have hrestart : m.state ≠ .free → ∀ c, m.HoldsOn (match (s.circuit c).fibre with
      | some n => if (content n).flag then m else m.restart m.kind (s.recordOf c)
      | none => m) := fun hm c => by
    repeat' split
    · exact .refl m
    · exact m.restart_holdsOn hm _ _
    · exact .refl m
  unfold State.flagClearUnit
  split
  next h _ => exact hrestart (by simp [h]) _
  next h _ => exact hrestart (by simp [h]) _
  next => exact .refl m

theorem slipUnit_holdsOn (s : State) (n : SpanNo) (kind : SlipKind) (m : Matcher) : m.HoldsOn (s.slipUnit n kind m) := by
  have hslip : ∀ record, m.HoldsOn (m.slip kind record) := fun record => by
    unfold Matcher.slip
    split
    next h => exact m.restart_holdsOn (by simp [h]) _ _
    next h => exact m.restart_holdsOn (by simp [h]) _ _
    · exact ⟨rfl, Iff.rfl⟩
    · exact .refl m
  unfold State.slipUnit
  repeat' split
  · exact hslip _
  all_goals exact .refl m

theorem laneChangeUnit_holdsOn (s : State) (m : Matcher) : m.HoldsOn (s.laneChangeUnit m) := by
  unfold State.laneChangeUnit Matcher.laneChange
  repeat' split
  next h => exact m.restart_holdsOn (by simp [h]) _ _
  next h => exact m.restart_holdsOn (by simp [h]) _ _
  next h => exact m.restart_holdsOn (by simp [h]) _ _
  all_goals exact .refl m

/-- A step of every unit that goes on with its circuit. -/
theorem mapUnits_keepsMatchers {x : AlignmentUnit} {f : Matcher → Matcher} (hf : ∀ m : Matcher, m.HoldsOn (f m))
    (hq : x.queue = s.align.queue) (hu : x.units = s.align.units.map f) : KeepsMatchers s (s.setAlign x) :=
  .units hq fun v => by rw [hu, Table.get_map]; exact hf _

/-- A step of the unit that leaves its queue and the matchers. -/
theorem setAlign_keepsMatchers {x : AlignmentUnit} (hq : x.queue = s.align.queue) (hu : x.units = s.align.units) :
    KeepsMatchers s (s.setAlign x) := .places hq hu fun _ => rfl

/-- A step of one unit that goes on with its circuit. -/
theorem setUnit_keepsMatchers {v : UnitNo} {x : Matcher} (hx : (s.unit v).HoldsOn x) : KeepsMatchers s (s.setUnit v x) :=
  .units rfl fun w => by
    have hw := setUnit_unit s v w x
    rw [show (s.align.units.set v x).get w = _ from hw]
    split
    next h => exact h ▸ hx
    next => exact ⟨rfl, Iff.rfl⟩

theorem slipUnits_keepsMatchers (s : State) (n : SpanNo) (kind : SlipKind) : KeepsMatchers s (s.slipUnits n kind) :=
  mapUnits_keepsMatchers (slipUnit_holdsOn s n kind) rfl rfl

theorem flagClearUnits_keepsMatchers (s : State) (content : SlotNo → SlotContent) : KeepsMatchers s (s.flagClearUnits content) :=
  mapUnits_keepsMatchers (flagClearUnit_holdsOn s content) rfl rfl

/-! ### The site frame (R113) -/

theorem powerOnReset_keepsMatchers (primary craft : Straps) (s : State) : Answers (KeepsMatchers s) (execPowerOnReset primary craft s) :=
  answers_next fun _ => (isReset_resetWith ..).matcherLaw

theorem transmitFrame_keepsMatchers (s : State) (switch : Table 512 ChannelInput) : KeepsMatchers s (s.transmitFrame switch) := .rest rfl rfl

theorem setPort_keepsMatchers (s : State) (port : Port) (x : PortRecord) : KeepsMatchers s (s.setPort port x) := .rest rfl rfl

theorem reply_keepsMatchers (s : State) (port : Port) (result : ResultCode) (body : ReplyBody) :
    KeepsMatchers s (s.reply port result body) := by
  unfold State.reply
  split
  · exact setPort_keepsMatchers s port _
  · exact .refl s

theorem takeRefused_keepsMatchers (s : State) (port : Port) : KeepsMatchers s (s.takeRefused port) := by
  unfold State.takeRefused
  repeat' split
  · exact (setPort_keepsMatchers s port _).trans (reply_keepsMatchers _ port _ _)
  all_goals exact .refl s

theorem setLinks_keepsMatchers (s : State) (x : Links) : KeepsMatchers s (s.setLinks x) := .rest rfl rfl
theorem setLanes_keepsMatchers (s : State) (x : LaneInterface) : KeepsMatchers s (s.setLanes x) := .rest rfl rfl
theorem setLane_keepsMatchers (s : State) (i : Lane) (x : LaneRecord) : KeepsMatchers s (s.setLane i x) := .rest rfl rfl
theorem setPeer_keepsMatchers (s : State) (x : PeerEngine) : KeepsMatchers s (s.setPeer x) := .rest rfl rfl
theorem setHighway_keepsMatchers (s : State) (x : Highway) : KeepsMatchers s (s.setHighway x) := .rest rfl rfl
theorem setDirectory_keepsMatchers (s : State) (x : Directory) : KeepsMatchers s (s.setDirectory x) := .rest rfl rfl

theorem startUpEnd_keepsMatchers (s : State) : Answers (KeepsMatchers s) (execStartUpEnd s) :=
  keepsMatchers_when _ fun _ => ((((setLinks_keepsMatchers s _).trans (transmitFrame_keepsMatchers _ _)).trans
    (handReport_keepsMatchers _ _)).trans (takeRefused_keepsMatchers _ _)).trans (takeRefused_keepsMatchers _ _)

/-- A change of every record's context that keeps the sub-status. -/
theorem mapContexts_matcherPlace (r : Circuit) (f : Context → Context) (hf : ∀ x, (f x).sub = x.sub) :
    ({ r with context := r.context.map f } : Circuit).matcherPlace = r.matcherPlace :=
  Circuit.matcherPlace_congr rfl (by cases hx : r.context <;> simp [Circuit.sub, hx, hf])

theorem tickAll_keepsMatchers (s : State) : KeepsMatchers s s.tickAll :=
  .places rfl rfl fun d => by
    rw [show s.tickAll.circuit d = (s.circuit d).tick from Table.get_map ..]
    exact mapContexts_matcherPlace _ _ fun x => (x.tick_kept _).2

theorem writeRings_keepsMatchers (s : State) : KeepsMatchers s s.writeRings :=
  .ite _ (fun _ => setAlign_keepsMatchers rfl rfl) fun _ => .refl s

theorem frameWork_keepsMatchers (s : State) (switch : Table 512 ChannelInput) : KeepsMatchers s (s.frameWork switch) := by
  have hclock : KeepsMatchers s s.advanceClock := setLanes_keepsMatchers s _
  have hstores : ∀ s : State, KeepsMatchers s s.readStores := fun s => .rest rfl rfl
  have hslots : ∀ s : State, KeepsMatchers s s.takeSlots := fun s => setLanes_keepsMatchers s _
  have hunits : ∀ s : State, KeepsMatchers s s.frameUnits := fun s => mapUnits_keepsMatchers (frameUnit_holdsOn s) rfl rfl
  exact ((((((((hclock.trans (tickAll_keepsMatchers _)).trans (setHighway_keepsMatchers _ _)).trans (transmitFrame_keepsMatchers _ _)).trans
    (hstores _)).trans (hslots _)).trans (writeRings_keepsMatchers _)).trans (hunits _)).trans (flagClearUnits_keepsMatchers _ _)).trans
    (setHighway_keepsMatchers _ _)

theorem slipCircuit_keepsMatchers (kind : SlipKind) (s : State) (c : CircuitNo) : KeepsMatchers s (State.slipCircuit kind s c) := by
  unfold State.slipCircuit
  split
  next x hx =>
    split
    next hs => exact takeSlippedDelta_keepsMatchers hs _
    · exact putContext_keepsMatchers hx rfl
    · exact putContext_keepsMatchers hx rfl
    · exact .refl s
  next => exact .refl s

theorem slipReport_keepsMatchers (s : State) (n : SpanNo) (kind : SlipKind) (fill : Nat) (record : DelayRecord) :
    KeepsMatchers s (s.slipReport n kind fill record) := .ite _ (fun _ => handReport_keepsMatchers s _) fun _ => .refl s

/-- R87: the steps of a slip, one after another; the report before or after the others. -/
theorem slipStep_keepsMatchers (s : State) (n : SpanNo) (kind : SlipKind) (fill : Nat) : KeepsMatchers s (s.slipStep n kind fill) := by
  have halign : ∀ s : State, KeepsMatchers s (s.slipAlign n kind) := fun s =>
    (slipUnits_keepsMatchers s n kind).trans (.foldl (slipCircuit_keepsMatchers kind) _ _)
  have hwatch : ∀ (s : State) (l : List CircuitNo), KeepsMatchers s (l.foldl (fun s c => s.watchEvent c .slip none) s) := fun s l =>
    .foldl (fun s c => watchEvent_keepsMatchers s c _ _) l s
  have hdrawn : KeepsMatchers s (if s.slipOrderOpen n then s.drawn else s) := .ite _ (fun _ => .quiet (drawn_frame s)) fun _ => .refl s
  have hearly : ∀ (b : Bool) (s : State) (record : DelayRecord), KeepsMatchers s (if b then s.slipReport n kind fill record else s) :=
    fun b s record => .ite _ (fun _ => slipReport_keepsMatchers s n kind fill record) fun _ => .refl s
  have hlate : ∀ (b : Bool) (s : State) (record : DelayRecord), KeepsMatchers s (if b then s else s.slipReport n kind fill record) :=
    fun b s record => .ite _ (fun _ => .refl s) fun _ => slipReport_keepsMatchers s n kind fill record
  exact ((((hdrawn.trans (setSpan_keepsMatchers _ n _)).trans (hearly _ _ _)).trans (halign _)).trans (hwatch _ _)).trans (hlate _ _ _)

theorem siteFrame_keepsMatchers (switch : Table 512 ChannelInput) (s : State) : Answers (KeepsMatchers s) (execSiteFrame switch s) := by
  have hstart : KeepsMatchers s s.startUpFrame := setLinks_keepsMatchers s _
  refine answers_ite _ (fun _ => answers_next ?_) fun _ => answers_ite _ (fun _ => answers_next ?_) fun _ => answers_next hstart
  · exact (frameWork_keepsMatchers s switch).trans (.foldl (fun t n => slipStep_keepsMatchers t n _ _) _ _)
  · exact hstart.trans (setHighway_keepsMatchers _ _)

/-! ### A circuit's inputs and timers -/

theorem switchLineConditionChange_keepsMatchers (c : CircuitNo) (s : State) :
    Answers (KeepsMatchers s) (execSwitchLineConditionChange c s) :=
  keepsMatchers_when _ fun _ => (setHighway_keepsMatchers s _).trans (inputChanged_keepsMatchers _ c _)

theorem targetReached_keepsMatchers (c : CircuitNo) (s : State) : Answers (KeepsMatchers s) (execTargetReached c s) := by
  unfold execTargetReached
  split
  next hs _ => exact keepsMatchers_when _ fun _ => .ite _ (fun _ => spliceAligned_keepsMatchers s c _) fun _ =>
    enterBridgeWait_keepsMatchers (by simp [hs])
  next => exact answers_next (.refl s)

theorem takeNumber_keepsMatchers (s : State) : KeepsMatchers s s.takeNumber := .rest rfl rfl
theorem stopResponse_keepsMatchers (s : State) (c : CircuitNo) : KeepsMatchers s (s.stopResponse c) := .rest rfl rfl

theorem backOff_keepsMatchers (s : State) (c : CircuitNo) : KeepsMatchers s (s.backOff c) := by
  unfold State.backOff
  split
  next x hx => exact (takeNumber_keepsMatchers s).trans (putContext_keepsMatchers (s := s.takeNumber) hx rfl)
  next => exact .refl s

theorem responseTimerExpiry_keepsMatchers (c : CircuitNo) (s : State) : Answers (KeepsMatchers s) (execResponseTimerExpiry c s) := by
  have hstop := stopResponse_keepsMatchers s c
  refine answers_ite _ (fun _ => ?_) fun _ => answers_next (.refl s)
  simp only
  split
  · exact answers_next (hstop.trans (consumeAttempt_keepsMatchers _ c _ fun x _ => backOff_keepsMatchers _ c))
  · exact answers_next (hstop.trans (abandon_keepsMatchers _ c _ _))
  all_goals exact answers_next hstop

theorem retryBackoffExpiry_keepsMatchers (c : CircuitNo) (s : State) : Answers (KeepsMatchers s) (execRetryBackoffExpiry c s) := by
  unfold execRetryBackoffExpiry
  split
  next x hx =>
    have hput : KeepsMatchers s (s.putContext c { x with backoff := none }) := putContext_keepsMatchers hx rfl
    refine answers_ite _ (fun _ => ?_) fun _ => answers_next (.refl s)
    simp only
    split
    · exact answers_next (hput.trans (.quiet (sendPropose_frame _ c _)))
    · exact answers_next (hput.trans (bridgeWaitTest_keepsMatchers _ c))
    all_goals exact answers_next hput
  next => exact answers_next (.refl s)

theorem bridgeLimitExpiry_keepsMatchers (c : CircuitNo) (s : State) : Answers (KeepsMatchers s) (execBridgeLimitExpiry c s) :=
  keepsMatchers_when _ fun _ => abandon_keepsMatchers s c _ _

theorem deferLimitExpiry_keepsMatchers (c : CircuitNo) (s : State) : Answers (KeepsMatchers s) (execDeferLimitExpiry c s) :=
  keepsMatchers_when _ fun _ => abandon_keepsMatchers s c _ _

theorem fallbackHoldExpiry_keepsMatchers (c : CircuitNo) (s : State) : Answers (KeepsMatchers s) (execFallbackHoldExpiry c s) := by
  unfold execFallbackHoldExpiry
  split
  next x _ hx => exact keepsMatchers_when _ fun _ =>
    (putContext_keepsMatchers (y := { x with hold := some (.load 0) }) hx rfl).trans (releaseTest_keepsMatchers _ c)
  next => exact answers_next (.refl s)

/-- R7, R138: the end of a drain. -/
theorem endDrain_keepsMatchers (s : State) (c : CircuitNo) : KeepsMatchers s (s.putCircuit c { s.circuit c with fibreTransmit := .off }) :=
  putCircuit_keepsMatchers rfl

theorem drainEnd_keepsMatchers (c : CircuitNo) (s : State) : Answers (KeepsMatchers s) (execDrainEnd c s) := by
  unfold execDrainEnd
  split
  · exact keepsMatchers_when _ fun _ => endDrain_keepsMatchers s c
  all_goals exact answers_next (.refl s)

/-! ### The Path Alignment Unit (chapter 3) -/

/-- The lowest FREE unit is FREE. -/
theorem freeUnit_free {v : UnitNo} (h : s.freeUnit = some v) : (s.unit v).state = .free := by
  simpa using List.find?_some h

/-- R57: the circuit of a queue entry is in MEASURING and QUEUED. -/
theorem MatcherLaw.queuedContext (h : MatcherLaw s) {e : QueueEntry} (he : e ∈ s.align.queue) :
    ∃ x, (s.circuit e.circuit).state = .measuring ∧ (s.circuit e.circuit).context = some x ∧ x.sub = some .queued := by
  obtain ⟨hstate, hsub⟩ := (h.queued e.circuit).mp (List.mem_map_of_mem he)
  obtain ⟨x, hx, hx'⟩ := Option.bind_eq_some_iff.mp hsub
  exact ⟨x, hstate, hx, hx'⟩

/-- R58: the request for MATCHING finds its circuit QUEUED. -/
theorem setMatching_queued {x : Context} (hstate : (s.circuit c).state = .measuring) (hx : (s.circuit c).context = some x)
    (hsub : x.sub = some .queued) : s.setMatching c = s.putContext c { x with sub := some .matching } := by
  simp [State.setMatching, hstate, hx, hsub]

/-- R58, R59: the head entry leaves the queue, its circuit turns from QUEUED to MATCHING, and a FREE unit takes it. -/
theorem matcherStart_keepsMatchers (s : State) : Answers (KeepsMatchers s) (execMatcherStart s) := by
  unfold execMatcherStart
  split
  next e rest v hq hv =>
    refine keepsMatchers_when _ fun _ h => ?_
    obtain ⟨x, hstate, hx, hsub⟩ := h.queuedContext (e := e) (by simp [hq])
    rw [setMatching_queued (x := x)]
    case hstate => exact hstate
    case hx => exact hx
    case hsub => exact hsub
    exact ((h.takeEntry hq).putCircuit { s.circuit e.circuit with context := some { x with sub := some .matching } }).takeUnit
      (by rw [putCircuit_matcherPlace]; exact Circuit.matcherPlace_matching.mpr ⟨hstate, rfl⟩)
      (v := v) (x := State.startedUnit (s.setAlign { s.align with queue := rest }) v e) (freeUnit_free hv) rfl
      (by simp [State.startedUnit])
  next => exact answers_next (.refl s)

theorem primingComplete_keepsMatchers (v : UnitNo) (s : State) : Answers (KeepsMatchers s) (execPrimingComplete v s) :=
  keepsMatchers_when _ fun h => setUnit_keepsMatchers ⟨rfl, by simp [h.1]⟩

theorem windowEnd_keepsMatchers (v : UnitNo) (s : State) : Answers (KeepsMatchers s) (execWindowEnd v s) := by
  refine answers_ite _ (fun h => ?_) fun _ => answers_next (.refl s)
  have hdone : KeepsMatchers s (s.setUnit v { s.unit v with state := .done, outcome := some (s.unit v).decide }) :=
    setUnit_keepsMatchers ⟨rfl, by simp [h.1]⟩
  have hwrite : ∀ (t : State) (c : CircuitNo) (d : Int), KeepsMatchers t (t.writeMatch c d) := fun t c d => by
    unfold State.writeMatch
    split
    · exact setSpan_keepsMatchers t _ _
    · exact .refl t
  split
  · exact answers_next (hdone.trans (hwrite _ _ _))
  · exact answers_next hdone

/-- R34: NO-MATCH or AMBIGUOUS for a circuit that its unit has let go. -/
theorem matchFailed_matcherLaw (h : Unplaced c s) {x : Context} (hx : (s.circuit c).context = some x) (reason : Reason) :
    MatcherLaw (s.matchFailed c reason) := by
  unfold State.matchFailed
  split
  · exact splice_matcherLaw h.toPlacedBut hx _ _ _ _
  · by_cases hnone : x.attempts = 0
    · rw [consumeAttempt_none hx hnone]; exact abandon_matcherLaw h.toPlacedBut _ _
    · rw [consumeAttempt_some hx hnone]
      simp only [putContext_circuit, evaluated_context]
      exact ((h.putCircuit _).putCircuit _).law (by rw [putCircuit_matcherPlace]; exact Circuit.matcherPlace_bridgeWait rfl)

/-- R34: an outcome taken for a circuit that its unit has let go. -/
theorem takeMatch_matcherLaw (h : Unplaced c s) (hs : (s.circuit c).state = .measuring) {x : Context}
    (hx : (s.circuit c).context = some x) (result : MatchResult) : MatcherLaw (s.takeMatch c x result) := by
  cases result with
  | matched d => exact enterAligned_matcherLaw h hx d
  | confirmed d => exact enterAligned_matcherLaw h hx d
  | confirmFailed =>
    refine ((h.quiet (staleRecord_frame s c) (by decide)).putCircuit _).joinQueue ?_ _
    rw [putCircuit_matcherPlace]
    exact Circuit.matcherPlace_queued.mpr ⟨by rw [staleRecord_circuit]; exact hs, rfl⟩
  | noMatch => exact matchFailed_matcherLaw h hx _
  | ambiguous => exact matchFailed_matcherLaw h hx _

/-- R34: by the law the circuit of a unit is in MATCHING, so that no outcome is discarded. -/
theorem matchOutcome_keepsMatchers (v : UnitNo) (s : State) : Answers (KeepsMatchers s) (execMatchOutcome v s) := by
  have discard : ∀ c, (s.unit v).circuit = some c → ¬ ((s.circuit c).state = .measuring ∧ (s.circuit c).sub = some .matching) →
      KeepsMatchers s (s.setUnit v (s.unit v).freed) := fun c hc hno h => absurd ((h.matching c).mp ⟨v, hc⟩) hno
  unfold execMatchOutcome
  split
  next result c _ _ hc =>
    split
    next x hs hx =>
      refine answers_ite _ (fun _ => answers_next fun h => ?_) fun hsub => answers_next (discard c hc ?_)
      · exact takeMatch_matcherLaw (h.freeUnit hc) hs hx result
      · simp [Circuit.sub, hx, hsub]
    next hno =>
      refine answers_next (discard c hc fun hm => ?_)
      obtain ⟨x, hx, -⟩ := Option.bind_eq_some_iff.mp (show (s.circuit c).context.bind Context.sub = some .matching from hm.2)
      exact hno x hm.1 hx
  next => exact answers_next (.refl s)

theorem servicePauseEnd_keepsMatchers (s : State) : Answers (KeepsMatchers s) (execServicePauseEnd s) :=
  keepsMatchers_when _ fun _ => setAlign_keepsMatchers rfl rfl

/-! ### Spans (chapter 4) -/

theorem takeCopperCode_keepsMatchers (n : SpanNo) (s : State) (x : TimeslotNo × LineCondition) :
    KeepsMatchers s (State.takeCopperCode n s x) := by
  unfold State.takeCopperCode
  refine .ite _ (fun _ => ?_) fun _ => .refl s
  have hspan := setSpan_keepsMatchers s n ((s.span n).setCondition x.1 ((s.span n).afterCode x))
  simp only
  split
  · exact .ite _ (fun _ => hspan.trans (inputChanged_keepsMatchers _ _ _)) fun _ => hspan
  · exact hspan

theorem upFrame_keepsMatchers (s : State) (n : SpanNo) (f : SpanFrame) : KeepsMatchers s (s.upFrame n f) := by
  have hsignal : KeepsMatchers s (s.signalFrame n f) := by
    have hspan := setSpan_keepsMatchers s n ((s.span n).signalFrame f)
    unfold State.signalFrame State.endMultiframe
    simp only
    repeat' split
    · exact hspan.trans (.foldl (takeCopperCode_keepsMatchers n) _ _)
    · exact hspan.trans (setSpan_keepsMatchers _ n _)
    · exact hspan
  have hstore : ∀ s : State, KeepsMatchers s (s.storeFrame n f) := fun s => by
    have hspan := setSpan_keepsMatchers s n ((s.span n).write (spanSamples f)).1
    exact .ite _ (fun _ => .ite _ (fun _ => hspan.trans (slipStep_keepsMatchers _ n _ _)) fun _ => hspan) fun _ => .refl s
  exact hsignal.trans (hstore _)

theorem spanFrameReceived_keepsMatchers (n : SpanNo) (f : SpanFrame) (s : State) :
    Answers (KeepsMatchers s) (execSpanFrameReceived n f s) := by
  refine answers_ite _ (fun _ => ?_) fun _ => answers_next (.refl s)
  split
  · exact answers_next (upFrame_keepsMatchers s n f)
  · exact answers_next (setSpan_keepsMatchers s n _)
  · exact answers_next (setSpan_keepsMatchers s n _)
  all_goals exact answers_next (.refl s)

theorem frameAlignmentFound_keepsMatchers (n : SpanNo) (s : State) : Answers (KeepsMatchers s) (execFrameAlignmentFound n s) :=
  keepsMatchers_when _ fun _ => setSpan_keepsMatchers s n _

theorem multiframeHuntLoss_keepsMatchers (n : SpanNo) (s : State) : Answers (KeepsMatchers s) (execMultiframeHuntLoss n s) :=
  keepsMatchers_when _ fun _ => setSpan_keepsMatchers s n _

theorem spanUp_keepsMatchers (n : SpanNo) (s : State) : Answers (KeepsMatchers s) (execSpanUp n s) :=
  keepsMatchers_when _ fun _ => ((setSpan_keepsMatchers s n _).trans (evaluateAll_keepsMatchers _)).trans (handReport_keepsMatchers _ _)

/-- R82, R52: a span goes DOWN. -/
theorem spanLowered_keepsMatchers (s : State) (n : SpanNo) (cause : SpanDownCause) : KeepsMatchers s (s.spanLowered n cause) := by
  have hlost : ∀ (s : State) (handed : DelayRecord), KeepsMatchers s (s.spanLost n handed) := fun s handed =>
    (evaluateAll_keepsMatchers s).trans (.foldl (spanLostFor_keepsMatchers handed) _ _)
  exact (((setSpan_keepsMatchers s n _).trans (hlost _ _)).trans (setSpan_keepsMatchers _ n _)).trans (handReport_keepsMatchers _ _)

theorem spanLossOfSignal_keepsMatchers (n : SpanNo) (s : State) : Answers (KeepsMatchers s) (execSpanLossOfSignal n s) := by
  have hlost : ∀ s : State, KeepsMatchers s (s.signalLost n) := fun s => by
    unfold State.signalLost
    split
    · exact spanLowered_keepsMatchers s n _
    · exact setSpan_keepsMatchers s n _
    · exact .refl s
  exact answers_next ((setSpan_keepsMatchers s n _).trans (hlost _))

theorem spanBadAlignment_keepsMatchers (n : SpanNo) (s : State) : Answers (KeepsMatchers s) (execSpanBadAlignment n s) :=
  keepsMatchers_when _ fun _ => spanLowered_keepsMatchers s n _

theorem spanSignalReturn_keepsMatchers (n : SpanNo) (s : State) : Answers (KeepsMatchers s) (execSpanSignalReturn n s) :=
  answers_next (setSpan_keepsMatchers s n _)

/-! ### The working lane (R66, R70, R105) -/

/-- R70: the Δ removed leaves the sub-status. -/
theorem laneChanged_matcherPlace (r : Circuit) : r.laneChanged.matcherPlace = r.matcherPlace := by
  unfold Circuit.laneChanged
  split
  · exact mapContexts_matcherPlace r _ fun _ => rfl
  · rfl

theorem changeWorking_keepsMatchers (s : State) (cause : WorkingCause) : KeepsMatchers s (s.changeWorking cause) := by
  have hstale : ∀ s : State, KeepsMatchers s s.staleRecords := fun s => .rest rfl rfl
  have halign : ∀ s : State, KeepsMatchers s s.laneChangeAlign := fun s => by
    have hunits : KeepsMatchers s (s.setAlign { s.align with
        pause := .load Config.pauseFrames, units := s.align.units.map s.laneChangeUnit }) :=
      mapUnits_keepsMatchers (laneChangeUnit_holdsOn s) rfl rfl
    refine hunits.trans (.places rfl rfl fun d => ?_)
    have hd : s.laneChangeAlign.circuit d = (s.circuit d).laneChanged := Table.get_map ..
    exact (congrArg Circuit.matcherPlace hd).trans (laneChanged_matcherPlace _)
  have hrequeue : ∀ s : State, KeepsMatchers s s.requeueAligned := fun s =>
    .foldl (fun t c => .ite _ (fun h => requeueFull_keepsMatchers (by simp [h])) fun _ => .refl t) _ _
  exact ((((setLanes_keepsMatchers s _).trans (hstale _)).trans (halign _)).trans (hrequeue _)).trans (handReport_keepsMatchers _ _)

theorem workingTest_keepsMatchers (s : State) (cause : WorkingCause) : KeepsMatchers s (s.workingTest cause) := by
  unfold State.workingTest
  split
  · exact changeWorking_keepsMatchers s cause
  · exact .refl s

/-! ### Lanes (chapter 5) -/

theorem laneState_keepsMatchers (s : State) (i : Lane) (after : LaneRecord) (cause : LaneCause) :
    KeepsMatchers s (s.laneState i after cause) := .quiet (laneState_spec i after cause s).frame

/-- R100: the step taken for a change of the count of UP lanes. -/
theorem availability_keepsMatchers (s : State) (wasUp : Bool) : KeepsMatchers s (s.availability wasUp) := by
  refine .ite _ (fun _ => ?_) fun _ => .ite _ (fun _ => evaluateAll_keepsMatchers s) fun _ => .refl s
  exact ((setLanes_keepsMatchers s _).trans (evaluateAll_keepsMatchers _)).trans (.foldl fibreLostFor_keepsMatchers _ _)

theorem idleFrame_keepsMatchers (s : State) : KeepsMatchers s s.idleFrame := by
  have hrings : ∀ s : State, KeepsMatchers s s.idleRings := fun s => setAlign_keepsMatchers rfl rfl
  exact (((setLanes_keepsMatchers s _).trans (hrings _)).trans (flagClearUnits_keepsMatchers _ _)).trans (setHighway_keepsMatchers _ _)

theorem laneRaised_keepsMatchers (s : State) (i : Lane) : KeepsMatchers s (s.laneRaised i) :=
  ((laneState_keepsMatchers s i _ _).trans (workingTest_keepsMatchers _ _)).trans (availability_keepsMatchers _ _)

theorem laneLowered_keepsMatchers (s : State) (i : Lane) (cause : LaneCause) : KeepsMatchers s (s.laneLowered i cause) := by
  have hidle : ∀ t : State, KeepsMatchers t (if s.lanes.working = i ∧ t.lanes.anyUp = true then t.idleFrame else t) := fun t =>
    .ite _ (fun _ => idleFrame_keepsMatchers t) fun _ => .refl t
  exact (((laneState_keepsMatchers s i _ _).trans (hidle _)).trans (availability_keepsMatchers _ _)).trans (workingTest_keepsMatchers _ _)

theorem laneGraded_keepsMatchers (s : State) (i : Lane) (after : LaneRecord) (cause : LaneCause) :
    KeepsMatchers s (s.laneGraded i after cause) :=
  ((laneState_keepsMatchers s i after cause).trans (availability_keepsMatchers _ _)).trans (workingTest_keepsMatchers _ _)

theorem receiveOverhead_keepsMatchers (s : State) (i : Lane) (bytes : List Byte) : KeepsMatchers s (s.receiveOverhead i bytes) := by
  have hdeliver : ∀ (s : State) (m : Byte × List Byte), KeepsMatchers s (s.deliver m.1 m.2) := fun s m => by
    unfold State.deliver
    simp only
    repeat' split
    · exact .refl s
    · exact (setLanes_keepsMatchers s _).trans (setPeer_keepsMatchers _ _)
    · exact (setLanes_keepsMatchers s _).trans (setPeer_keepsMatchers _ _)
  unfold State.receiveOverhead
  simp only
  exact .ite _ (fun _ => (setLane_keepsMatchers s i _).trans (.foldl hdeliver _ _)) fun _ => setLane_keepsMatchers s i _

theorem laneFrameReceived_keepsMatchers (i : Lane) (f : LaneFrame) (s : State) :
    Answers (KeepsMatchers s) (execLaneFrameReceived i f s) := by
  refine answers_ite _ (fun _ => answers_ite _ (fun _ => answers_next ?_) fun _ => answers_next ?_) fun _ => answers_next (.refl s)
  · exact (setLane_keepsMatchers s i _).trans (receiveOverhead_keepsMatchers _ i _)
  · exact setLane_keepsMatchers s i _

theorem updateSlot_keepsMatchers (s : State) (n : SlotNo) (f : SlotRecognition → SlotRecognition) : KeepsMatchers s (s.updateSlot n f) :=
  setLanes_keepsMatchers s _

theorem slotLineConditionChange_keepsMatchers (n : SlotNo) (s : State) : Answers (KeepsMatchers s) (execSlotLineConditionChange n s) := by
  unfold execSlotLineConditionChange
  simp only
  repeat' split
  · exact answers_next ((updateSlot_keepsMatchers s n _).trans (inputChanged_keepsMatchers _ _ _))
  · exact answers_next (updateSlot_keepsMatchers s n _)
  · exact answers_next (updateSlot_keepsMatchers s n _)
  · exact answers_next (.refl s)

theorem bridgeFlagRecognised_keepsMatchers (n : SlotNo) (s : State) : Answers (KeepsMatchers s) (execBridgeFlagRecognised n s) := by
  have hflag : ∀ (s : State) (c : CircuitNo), KeepsMatchers s (s.flagRecognised c) := fun s c =>
    .ite _ (fun _ => splice_keepsMatchers s c _ _ _ _) fun _ => bridgeWaitTest_keepsMatchers s c
  unfold execBridgeFlagRecognised
  simp only
  repeat' split
  · exact answers_next ((updateSlot_keepsMatchers s n _).trans (hflag _ _))
  · exact answers_next (updateSlot_keepsMatchers s n _)
  · exact answers_next (updateSlot_keepsMatchers s n _)
  · exact answers_next (.refl s)

theorem laneUp_keepsMatchers (i : Lane) (s : State) : Answers (KeepsMatchers s) (execLaneUp i s) :=
  keepsMatchers_when _ fun _ => laneRaised_keepsMatchers s i

theorem laneLossOfLight_keepsMatchers (i : Lane) (s : State) : Answers (KeepsMatchers s) (execLaneLossOfLight i s) := by
  have hlight := setLane_keepsMatchers s i { s.lane i with lossOfLight := true }
  exact answers_ite _ (fun _ => answers_next (hlight.trans (laneLowered_keepsMatchers _ i _))) fun _ =>
    answers_next (hlight.trans (setLane_keepsMatchers _ i _))

theorem laneAlignmentLoss_keepsMatchers (i : Lane) (s : State) : Answers (KeepsMatchers s) (execLaneAlignmentLoss i s) :=
  keepsMatchers_when _ fun _ => laneLowered_keepsMatchers s i _

theorem laneDegraded_keepsMatchers (i : Lane) (s : State) : Answers (KeepsMatchers s) (execLaneDegraded i s) :=
  keepsMatchers_when _ fun _ => laneGraded_keepsMatchers s i _ _

theorem errorIntervalEnd_keepsMatchers (i : Lane) (s : State) : Answers (KeepsMatchers s) (execErrorIntervalEnd i s) := by
  refine answers_ite _ (fun _ => answers_ite _ (fun _ => answers_next ?_) fun _ => answers_next ?_) fun _ => answers_next (.refl s)
  · exact setLane_keepsMatchers s i _
  · exact laneGraded_keepsMatchers s i _ _

theorem laneLightReturn_keepsMatchers (i : Lane) (s : State) : Answers (KeepsMatchers s) (execLaneLightReturn i s) :=
  answers_next (setLane_keepsMatchers s i _)

theorem holdOffExpiry_keepsMatchers (s : State) : Answers (KeepsMatchers s) (execHoldOffExpiry s) :=
  keepsMatchers_when _ fun _ => setLanes_keepsMatchers s _

theorem duplicateWindowExpiry_keepsMatchers (s : State) : Answers (KeepsMatchers s) (execDuplicateWindowExpiry s) :=
  keepsMatchers_when _ fun _ => setLanes_keepsMatchers s _

end Sys2Proof.Machine
end

section
/-! SUPPORT. The rows of the peer engine, the directory and the management links, and every command, keep the law of the matchers; then
so does every step (R57). -/

namespace Sys2Proof.Machine

variable {s t u : State} {c : CircuitNo}

/-! ### The peer link (chapter 6) -/

theorem queueMessage_keepsMatchers (s : State) (m : PeerMessage) : KeepsMatchers s (s.queueMessage m) := .quiet (queueMessage_frame s m)

theorem sendHello_keepsMatchers (s : State) : KeepsMatchers s s.sendHello :=
  (setPeer_keepsMatchers s _).trans (queueMessage_keepsMatchers _ _)

theorem leaveUp_keepsMatchers (s : State) (after : LinkState) (kind : Nat → PeerReportKind) : KeepsMatchers s (s.leaveUp after kind) :=
  ((setPeer_keepsMatchers s _).trans (handReport_keepsMatchers _ _)).trans (abandonAll_keepsMatchers _)

theorem enterUp_keepsMatchers (s : State) (node : Nat) (mode : HandshakeMode) : KeepsMatchers s (s.enterUp node mode) :=
  (setPeer_keepsMatchers s _).trans (handReport_keepsMatchers _ _)

theorem linkDown_keepsMatchers (s : State) (cause : PeerDownCause) : KeepsMatchers s (s.linkDown cause) := by
  unfold State.linkDown
  split
  · exact leaveUp_keepsMatchers s _ _
  · exact (setPeer_keepsMatchers s _).trans (handReport_keepsMatchers _ _)
  · exact .refl s

theorem judgeHello_keepsMatchers (s : State) (node : Nat) (mode : HandshakeMode) : KeepsMatchers s (s.judgeHello node mode) := by
  unfold State.judgeHello
  split
  · exact enterUp_keepsMatchers s node mode
  · exact enterUp_keepsMatchers s node mode
  · exact .ite _ (fun _ => .refl s) fun _ => (leaveUp_keepsMatchers s _ _).trans (enterUp_keepsMatchers _ node mode)
  · exact (setPeer_keepsMatchers s _).trans (handReport_keepsMatchers _ _)
  · exact .refl s
  · exact leaveUp_keepsMatchers s _ _

theorem takeHello_keepsMatchers (s : State) (node : Nat) (mode : HandshakeMode) : KeepsMatchers s (s.takeHello node mode) :=
  (setPeer_keepsMatchers s _).trans (.ite _ (fun _ => .refl _) fun _ => judgeHello_keepsMatchers _ node mode)

theorem helloTimerExpiry_keepsMatchers (s : State) : Answers (KeepsMatchers s) (execHelloTimerExpiry s) :=
  keepsMatchers_when _ fun _ => sendHello_keepsMatchers s

theorem silenceExpiry_keepsMatchers (s : State) : Answers (KeepsMatchers s) (execSilenceExpiry s) :=
  keepsMatchers_when _ fun _ => (setPeer_keepsMatchers s _).trans (linkDown_keepsMatchers _ _)

/-! ### Received messages (R124, R128 to R138) -/

theorem takeMessage_keepsMatchers (m : PeerMessage) {rule : State → State} (hr : ∀ s, KeepsMatchers s (rule s)) (s : State) :
    Answers (KeepsMatchers s) (takeMessage m rule s) := by
  unfold takeMessage
  split
  · exact keepsMatchers_when _ fun _ => (setPeer_keepsMatchers s _).trans (hr _)
  · exact answers_next (.refl s)

theorem countUnresolved_keepsMatchers (s : State) : KeepsMatchers s s.countUnresolved := setPeer_keepsMatchers s _
theorem countStale_keepsMatchers (s : State) : KeepsMatchers s s.countStale := setPeer_keepsMatchers s _
theorem countInapplicable_keepsMatchers (s : State) : KeepsMatchers s s.countInapplicable := setPeer_keepsMatchers s _

theorem recordMiss_keepsMatchers (s : State) (code : TrunkCode) (source : MissSource) (asked : Byte) :
    KeepsMatchers s (s.recordMiss code source asked) := setDirectory_keepsMatchers s _

theorem sendDecline_keepsMatchers (s : State) (code : TrunkCode) (number : Byte) (reason : DeclineReason) :
    KeepsMatchers s (s.sendDecline code number reason) := .quiet (sendDecline_frame s code number reason)

theorem dispatch_keepsMatchers (m : PeerMessage) (code : TrunkCode) {miss : State → State} {rule : CircuitNo → State → State}
    (hm : ∀ s, KeepsMatchers s (miss s)) (hr : ∀ c s, KeepsMatchers s (rule c s)) (s : State) :
    KeepsMatchers s (dispatch m code miss rule s) := by
  unfold dispatch
  refine .ite _ (fun _ => setPeer_keepsMatchers s _) fun _ => ?_
  split
  · exact hr _ s
  · exact (recordMiss_keepsMatchers s _ _ _).trans (hm _)

/-- A message for a circuit that is counted as unresolved when its code resolves to none. -/
theorem received_keepsMatchers (m : PeerMessage) (code : TrunkCode) {rule : CircuitNo → State → State}
    (hr : ∀ c s, KeepsMatchers s (rule c s)) (s : State) :
    Answers (KeepsMatchers s) (takeMessage m (dispatch m code State.countUnresolved rule) s) :=
  takeMessage_keepsMatchers m (dispatch_keepsMatchers m code countUnresolved_keepsMatchers hr) s

theorem receivedHello_keepsMatchers (node : Nat) (mode : HandshakeMode) (s : State) :
    Answers (KeepsMatchers s) (execReceivedHello node mode s) :=
  takeMessage_keepsMatchers _ (fun s => takeHello_keepsMatchers s node mode) s

theorem startResponse_keepsMatchers (s : State) (c : CircuitNo) : KeepsMatchers s (s.startResponse c) := .rest rfl rfl

/-- R29, R30: an acceptor from COPPER or PROPOSING goes on to AWAITING or to BRIDGE-WAIT. -/
theorem acceptorGoesOn_keepsMatchers (hs : (s.circuit c).state ≠ .measuring) : KeepsMatchers s (s.acceptorGoesOn c) := by
  unfold State.acceptorGoesOn
  split
  · exact (putElsewhere_keepsMatchers hs (by simp)).trans (startResponse_keepsMatchers _ c)
  · exact enterMeasuring_keepsMatchers hs

/-- R29, R30: a record written that stays outside MEASURING, the ACCEPT, and what the handshake mode makes of it. -/
theorem goOnAsAcceptor_keepsMatchers {r : Circuit} (m : PeerMessage) (hs : (s.circuit c).state ≠ .measuring) (hr : r.state ≠ .measuring) :
    KeepsMatchers s (((s.putCircuit c r).queueMessage m).acceptorGoesOn c) := by
  refine ((putElsewhere_keepsMatchers hs hr).trans (queueMessage_keepsMatchers _ m)).trans (acceptorGoesOn_keepsMatchers ?_)
  rw [(queueMessage_frame _ m).sameCircuit (by decide), State.putCircuit_circuit_eq]
  exact hr

/-- R29: acceptance. -/
theorem acceptProposal_keepsMatchers (hs : (s.circuit c).state = .copper) (code : TrunkCode) (slot : SlotNo) (number : Byte) :
    KeepsMatchers s (s.acceptProposal c code slot number) := by
  have hslot : KeepsMatchers s (s.setSlotOwner slot (some c)) := .rest rfl rfl
  have hput : KeepsMatchers (s.setSlotOwner slot (some c))
      ((s.setSlotOwner slot (some c)).putCircuit c { s.circuit c with fibre := some slot }) := putCircuit_keepsMatchers rfl
  have hattach : KeepsMatchers s (s.attachProposed c slot) :=
    .ite _ (fun _ => .refl s) fun _ => (hslot.trans hput).trans (.quiet (fillRing_frame _ c))
  have hgo : ∀ t : State, (t.circuit c).state ≠ .measuring →
      KeepsMatchers t (((t.putCircuit c { t.circuit c with
        fibreTransmit := .bridged, context := some (newContext t.node .acceptor number) }).queueMessage (.accept code slot number)).acceptorGoesOn c) :=
    fun t ht => goOnAsAcceptor_keepsMatchers _ ht ht
  exact (hattach.trans (hgo _ (by rw [(attachProposed_circuit s c slot).1, hs]; decide))).trans
    ((watchEvent_keepsMatchers _ c _ _).trans (bridgeWaitTest_keepsMatchers _ c))

/-- R30: a circuit in PROPOSING yields. -/
theorem yieldTo_keepsMatchers (hs : (s.circuit c).state = .proposing) (code : TrunkCode) (slot : SlotNo) (number : Byte) :
    KeepsMatchers s (s.yieldTo c code slot number) := by
  unfold State.yieldTo
  split
  next x hx =>
    have hgo : ∀ t : State, (t.circuit c).state ≠ .measuring →
        KeepsMatchers t (((t.putCircuit c { t.circuit c with fibreTransmit := .bridged, context := some { x with
          role := .acceptor, number := number, backoff := none } }).queueMessage (.accept code slot number)).acceptorGoesOn c) :=
      fun t ht => goOnAsAcceptor_keepsMatchers _ ht ht
    exact ((stopResponse_keepsMatchers s c).trans (hgo _ (by rw [(stopResponse_frame s c).sameCircuit (by decide), hs]; decide))).trans
      (bridgeWaitTest_keepsMatchers _ c)
  next => exact .refl s

theorem proposeToCopper_keepsMatchers (hs : (s.circuit c).state = .copper) (code : TrunkCode) (slot : SlotNo) (number : Byte) :
    KeepsMatchers s (s.proposeToCopper c code slot number) := by
  have haccept := acceptProposal_keepsMatchers hs code slot number
  have hdecline := sendDecline_keepsMatchers s code number
  unfold State.proposeToCopper
  refine .ite _ (fun _ => hdecline _) fun _ => ?_
  split
  · exact .ite _ (fun _ => haccept) fun _ => hdecline _
  · exact .ite _ (fun _ => hdecline _) fun _ => haccept

theorem proposeAgain_keepsMatchers {x : Context} (hx : (s.circuit c).context = some x) (code : TrunkCode) (slot : SlotNo)
    (number : Byte) : KeepsMatchers s (s.proposeAgain c x code slot number) := by
  have hput : KeepsMatchers s (s.putContext c { x with number := number }) := putContext_keepsMatchers hx rfl
  have hrepeat := hput.trans (queueMessage_keepsMatchers _ (.accept code slot number))
  refine .ite _ (fun _ => sendDecline_keepsMatchers s _ _ _) fun _ => .ite _ (fun _ => ?_) fun _ => sendDecline_keepsMatchers s _ _ _
  exact hrepeat.trans (.ite _ (fun _ => startResponse_keepsMatchers _ c) fun _ => .refl _)

theorem takePropose_keepsMatchers (c : CircuitNo) (code : TrunkCode) (slot : SlotNo) (number : Byte) (s : State) :
    KeepsMatchers s (s.takePropose c code slot number) := by
  unfold State.takePropose
  split
  next h => exact proposeToCopper_keepsMatchers h code slot number
  next h =>
    refine .ite _ (fun _ => ?_) fun _ => sendDecline_keepsMatchers s _ _ _
    exact .ite _ (fun _ => countInapplicable_keepsMatchers s) fun _ => yieldTo_keepsMatchers h code slot number
  next h => exact proposeAgain_keepsMatchers h code slot number
  next h => exact proposeAgain_keepsMatchers h code slot number
  all_goals exact sendDecline_keepsMatchers s _ _ _

theorem receivedPropose_keepsMatchers (code : TrunkCode) (slot : SlotNo) (number : Byte) (s : State) :
    Answers (KeepsMatchers s) (execReceivedPropose code slot number s) := by
  refine takeMessage_keepsMatchers _ (fun s => .ite _ (fun _ => sendDecline_keepsMatchers s _ _ _) fun _ => ?_) s
  exact dispatch_keepsMatchers _ _ (fun s => sendDecline_keepsMatchers s _ _ _) (fun c s => takePropose_keepsMatchers c code slot number s) s

/-- R26: a matching ACCEPT takes a circuit from PROPOSING to BRIDGE-WAIT. -/
theorem accepted_keepsMatchers (hs : (s.circuit c).state = .proposing) (number : Byte) : KeepsMatchers s (s.accepted c number) := by
  have hconfirm : ∀ t : State, SameBut [.overhead] t (if t.node.mode = .threeWay then t.sendFor c fun code => .confirm code number else t) :=
    fun t => by
      split
      · exact sendFor_frame t c _
      · exact .refl _ t
  have hput : KeepsMatchers (s.stopResponse c)
      ((s.stopResponse c).putCircuit c { (s.stopResponse c).circuit c with fibreTransmit := .bridged }) := putCircuit_keepsMatchers rfl
  refine (((stopResponse_keepsMatchers s c).trans hput).trans (.quiet (hconfirm _))).trans (enterBridgeWait_keepsMatchers ?_)
  rw [(hconfirm _).sameCircuit (by decide), State.putCircuit_circuit_eq]
  show (s.circuit c).state ≠ .measuring
  simp [hs]

theorem takeAccept_keepsMatchers (c : CircuitNo) (slot : SlotNo) (number : Byte) (s : State) :
    KeepsMatchers s (s.takeAccept c slot number) := by
  unfold State.takeAccept
  split
  · refine .ite _ (fun _ => countStale_keepsMatchers s) fun _ => .ite _ (fun _ => countInapplicable_keepsMatchers s) fun hs => ?_
    refine .ite _ (fun _ => countStale_keepsMatchers s) fun _ => .ite _ (fun _ => ?_) fun _ => countInapplicable_keepsMatchers s
    exact accepted_keepsMatchers (not_not.mp hs) number
  · exact countInapplicable_keepsMatchers s

theorem takeDecline_keepsMatchers (c : CircuitNo) (code : TrunkCode) (number : Byte) (reason : DeclineReason) (s : State) :
    KeepsMatchers s (s.takeDecline c code number reason) := by
  refine .ite _ (fun _ => (setPeer_keepsMatchers s _).trans (countInapplicable_keepsMatchers _)) fun _ => ?_
  split
  · refine .ite _ (fun _ => countStale_keepsMatchers s) fun _ => .ite _ (fun _ => countInapplicable_keepsMatchers s) fun _ => ?_
    exact .ite _ (fun _ => countStale_keepsMatchers s) fun _ => abandon_keepsMatchers s c _ _
  · exact countInapplicable_keepsMatchers s

theorem takeConfirm_keepsMatchers (c : CircuitNo) (number : Byte) (s : State) : KeepsMatchers s (s.takeConfirm c number) := by
  unfold State.takeConfirm
  split
  · refine .ite _ (fun _ => countStale_keepsMatchers s) fun _ => .ite _ (fun hs => ?_) fun _ => countInapplicable_keepsMatchers s
    refine (stopResponse_keepsMatchers s c).trans (enterBridgeWait_keepsMatchers ?_)
    rw [(stopResponse_frame s c).sameCircuit (by decide), hs]
    decide
  · exact countInapplicable_keepsMatchers s

theorem takeSpliced_keepsMatchers (c : CircuitNo) (s : State) : KeepsMatchers s (s.takeSpliced c) := by
  unfold State.takeSpliced
  split
  next x hx =>
    exact (putContext_keepsMatchers (y := { x with peerSpliced := true }) hx rfl).trans (releaseTest_keepsMatchers _ c)
  next => exact countInapplicable_keepsMatchers s

theorem takeAbandon_keepsMatchers (c : CircuitNo) (code : TrunkCode) (reason : Reason) (s : State) :
    KeepsMatchers s (s.takeAbandon c code reason) := by
  refine (setPeer_keepsMatchers s { s.peer with lastAbandon := some ⟨code, reason, s.fc⟩ }).trans ?_
  refine .ite _ (fun _ => abandon_keepsMatchers _ c _ _) fun _ => .ite _ (fun h => ?_) fun _ => countInapplicable_keepsMatchers _
  exact revertCircuit_keepsMatchers (Circuit.kept_iff.mp (abandonReverts_kept h)).1 _

theorem takeRevert_keepsMatchers (c : CircuitNo) (code : TrunkCode) (s : State) : KeepsMatchers s (s.takeRevert c code) := by
  have hback : KeepsMatchers s ((s.abandon c .peerAbandoned none).queueMessage (.revertDone code)) :=
    (abandon_keepsMatchers s c _ _).trans (queueMessage_keepsMatchers _ _)
  unfold State.takeRevert
  split
  next hs => exact .ite _ (fun _ => revertCircuit_keepsMatchers hs _) fun _ => sendDecline_keepsMatchers s _ _ _
  · exact hback
  · exact hback
  · exact hback
  · exact hback
  · exact queueMessage_keepsMatchers s _
  · exact sendDecline_keepsMatchers s _ _ _

theorem takeRevertDone_keepsMatchers (c : CircuitNo) (s : State) : KeepsMatchers s (s.takeRevertDone c) :=
  .ite _ (fun _ => endDrain_keepsMatchers s c) fun _ => countInapplicable_keepsMatchers s

theorem takeRelease_keepsMatchers (c : CircuitNo) (s : State) : KeepsMatchers s (s.takeRelease c) :=
  .ite _ (fun h => releaseFallback_keepsMatchers (Circuit.kept_iff.mp h).1 _) fun _ => countInapplicable_keepsMatchers s

/-! ### The directory (chapter 7) -/

/-- R145: a trunk code has no say in a circuit's place. -/
theorem setCode_keepsMatchers (s : State) (c : CircuitNo) (code : Option TrunkCode) : KeepsMatchers s (s.setCode c code) :=
  putCircuit_keepsMatchers rfl

theorem setCodes_keepsMatchers (l : List (CircuitNo × TrunkCode)) (f : CircuitNo × TrunkCode → Option TrunkCode) (s : State) :
    KeepsMatchers s (l.foldl (fun s m => s.setCode m.1 (f m)) s) := .foldl (fun s m => setCode_keepsMatchers s m.1 (f m)) l s

theorem removeTrunkAt_keepsMatchers (s : State) (b : Fin 128) (w : Fin 4) (e : TrunkEntry) : KeepsMatchers s (s.removeTrunkAt b w e) :=
  (setDirectory_keepsMatchers s _).trans (setCode_keepsMatchers _ _ _)

/-- R178, R179: a handled command's state is what its rule made of it, but for the ports. -/
theorem finish_keepsMatchers {h : Handled} (hk : KeepsMatchers s h.1) (port : Port) : KeepsMatchers s (h.finish port) := by
  have hpend : ∀ s : State, KeepsMatchers s (s.pend port) := fun s => by
    unfold State.pend
    split
    · exact setPort_keepsMatchers s port _
    · exact .refl s
  unfold Handled.finish
  split
  · exact hk.trans (reply_keepsMatchers _ port _ _)
  · exact hk.trans (hpend _)

theorem rangeCheckBucket_keepsMatchers (s : State) : Answers (KeepsMatchers s) (execRangeCheckBucket s) := by
  unfold execRangeCheckBucket
  repeat' split
  · exact answers_next (setDirectory_keepsMatchers s _)
  · exact answers_next (setDirectory_keepsMatchers s _)
  all_goals exact answers_next (.refl s)

theorem completeRange_keepsMatchers (s : State) (e : RangeEntry) (found : Option FoundTrunk) :
    KeepsMatchers s (s.completeRange e found).1 := by
  unfold State.completeRange
  repeat' split
  · exact .refl s
  · exact .refl s
  · exact (setDirectory_keepsMatchers s _).trans (setCodes_keepsMatchers _ (fun m => some m.2) _)
  · exact .refl s

theorem rangeCheckComplete_keepsMatchers (s : State) : Answers (KeepsMatchers s) (execRangeCheckComplete s) := by
  unfold execRangeCheckComplete
  split
  · exact keepsMatchers_when _ fun _ => finish_keepsMatchers ((setDirectory_keepsMatchers s _).trans (completeRange_keepsMatchers _ _ _)) _
  all_goals exact answers_next (.refl s)

theorem purgeBucket_keepsMatchers (s : State) (b : Fin 128) (removed : Nat) : KeepsMatchers s (s.purgeBucket b removed).1 := by
  have hway : ∀ (p : State × Nat) (w : Fin 4), KeepsMatchers p.1 (purgeWay b p w).1 := fun p w => by
    unfold purgeWay
    repeat' split
    · exact removeTrunkAt_keepsMatchers p.1 b w _
    all_goals exact .refl _
  have hways : ∀ (l : List (Fin 4)) (p : State × Nat), KeepsMatchers p.1 (l.foldl (purgeWay b) p).1 := fun l => by
    induction l with
    | nil => exact fun p => .refl _
    | cons w l ih => exact fun p => (hway p w).trans (ih _)
  exact hways _ (s, removed)

theorem purgeBucketRow_keepsMatchers (s : State) : Answers (KeepsMatchers s) (execPurgeBucket s) := by
  unfold execPurgeBucket
  repeat' split
  · exact answers_next ((purgeBucket_keepsMatchers s _ _).trans (setDirectory_keepsMatchers _ _))
  all_goals exact answers_next (.refl s)

theorem purgeComplete_keepsMatchers (s : State) : Answers (KeepsMatchers s) (execPurgeComplete s) := by
  unfold execPurgeComplete
  split
  case h_1 => exact keepsMatchers_when _ fun _ => finish_keepsMatchers (setDirectory_keepsMatchers s _) _
  all_goals exact answers_next (.refl s)

/-! ### The management links (R175 to R184) -/

theorem managementFrameReceived_keepsMatchers (port : Port) (bytes : List LinkByte) (s : State) :
    Answers (KeepsMatchers s) (execManagementFrameReceived port bytes s) :=
  answers_next (.foldl (fun s _ => (setPort_keepsMatchers s port _).trans (takeRefused_keepsMatchers _ port)) bytes s)

theorem interByteTimeout_keepsMatchers (port : Port) (s : State) : Answers (KeepsMatchers s) (execInterByteTimeout port s) :=
  keepsMatchers_when _ fun _ => setPort_keepsMatchers s port _

theorem frameTransmitStart_keepsMatchers (port : Port) (s : State) : Answers (KeepsMatchers s) (execFrameTransmitStart port s) := by
  have hreport : KeepsMatchers s (s.startReport port) := by
    unfold State.startReport
    split
    · exact (setLinks_keepsMatchers s _).trans (setPort_keepsMatchers _ _ _)
    all_goals exact .refl s
  refine answers_ite _ (fun _ => ?_) fun _ => answers_next (.refl s)
  split
  · exact answers_next (setPort_keepsMatchers s port _)
  · exact answers_next hreport

theorem frameTransmitEnd_keepsMatchers (port : Port) (s : State) : Answers (KeepsMatchers s) (execFrameTransmitEnd port s) := by
  unfold execFrameTransmitEnd
  repeat' split
  · exact answers_next fun _ => (isReset_resetWith ..).matcherLaw
  · exact answers_next ((setPort_keepsMatchers s port _).trans (takeRefused_keepsMatchers _ port))
  · exact answers_next (setPort_keepsMatchers s port _)
  · exact answers_next (setPort_keepsMatchers s port _)
  · exact answers_next (.refl s)

/-! ### How a command runs (R178, R25, R149) -/

theorem runCommand_keepsMatchers {rule : State → Handled} (hr : ∀ s, KeepsMatchers s (rule s).1) (i : Instr) (port : Port) (s : State) :
    Answers (KeepsMatchers s) (runCommand i port rule s) := by
  unfold runCommand
  split
  next q rest _ =>
    have hq : KeepsMatchers s (s.takeHead port q rest) := setPort_keepsMatchers s port _
    refine answers_ite _ (fun _ => answers_ite _ (fun _ => answers_next ?_) fun _ => answers_next ?_) fun _ => answers_next (.refl s)
    · exact hq.trans (reply_keepsMatchers _ port _ _)
    · exact finish_keepsMatchers (hq.trans (hr _)) port
  next => exact answers_next (.refl s)

theorem withSelector_keepsMatchers {rule : CircuitNo → Handled} (hr : ∀ c, KeepsMatchers s (rule c).1) (port : Port) (type : Byte)
    (sel : Selector) : KeepsMatchers s (s.withSelector port type sel rule).1 := by
  unfold State.withSelector
  split
  · exact hr _
  · exact .refl s
  · exact recordMiss_keepsMatchers s _ _ _

theorem withTrunk_keepsMatchers {rule : Fin 128 → Fin 4 → TrunkEntry → Handled} (hr : ∀ b w e, KeepsMatchers s (rule b w e).1) (port : Port)
    (type : Byte) (code : TrunkCode) (range : Fin 8 → ReplyBody) : KeepsMatchers s (s.withTrunk port type code range rule).1 := by
  unfold State.withTrunk
  repeat' split
  · exact .refl s
  · exact .refl s
  · exact .refl s
  · exact hr _ _ _
  · exact recordMiss_keepsMatchers s _ _ _

theorem withLane_keepsMatchers {rule : Lane → Handled} (hr : ∀ i, KeepsMatchers s (rule i).1) (lane : Nat) :
    KeepsMatchers s (withLane s lane rule).1 := by
  unfold withLane
  split
  · exact hr _
  · exact .refl s

/-! ### The commands on circuits (R10 to R13, R20, R25, R39, R43, R47, R50, R171) -/

/-- R9: a record written outside MEASURING, with its occupancy entries. -/
theorem rewrite_keepsMatchers {r : Circuit} (hs : (s.circuit c).state ≠ .measuring) (hr : r.state ≠ .measuring) (p : Option CopperPosition)
    (n : Option SlotNo) (x y : Option CircuitNo) : KeepsMatchers s (((s.markCopper p x).markFibre n y).putCircuit c r) := by
  refine ((KeepsMatchers.quiet (markCopper_frame s p x)).trans (.quiet (markFibre_frame _ n y))).trans (putElsewhere_keepsMatchers ?_ hr)
  rwa [markFibre_circuit, markCopper_circuit]

theorem ruleAttach_keepsMatchers (circuit : Nat) (copper : Option (Nat × Nat)) (fibre : Option Nat) (s : State) :
    KeepsMatchers s (ruleAttach circuit copper fibre s).1 := by
  have hattach : ∀ (c : CircuitNo) (p : Option CopperPosition) (n : Option SlotNo), (s.circuit c).state ≠ .measuring →
      KeepsMatchers s (s.attach c p n) := fun c p n hs => by
    have hput := rewrite_keepsMatchers (r := (s.circuit c).attached p n) hs (by cases p <;> simp [Circuit.attached, hs]) p n (some c) (some c)
    exact hput.trans (.ite _ (fun _ => .quiet (fillRing_frame _ c)) fun _ => .refl _)
  have hchecked : ∀ (c : CircuitNo) (p : Option CopperPosition) (n : Option SlotNo), KeepsMatchers s (s.attachChecked c p n).1 := fun c p n => by
    unfold State.attachChecked
    simp only
    split
    · exact .refl s
    next hs =>
      repeat' split
      case h_2 => exact hattach c p n fun h => hs (by simp [h])
      all_goals exact .refl s
  unfold ruleAttach
  repeat' split
  · exact .refl s
  · exact hchecked _ _ _
  · exact .refl s

theorem ruleDetach_keepsMatchers (circuit : Nat) (copper fibre : Bool) (s : State) : KeepsMatchers s (ruleDetach circuit copper fibre s).1 := by
  have hdetach : ∀ c : CircuitNo, (s.circuit c).detachable copper fibre = true → copper = true ∨ fibre = true →
      KeepsMatchers s (s.detach c copper fibre) := fun c hd hsides => by
    have hs : (s.circuit c).state ≠ .measuring := fun hs => by
      simp [Circuit.detachable, Circuit.fibreDetachable, Circuit.released, hs] at hd
      simp [hd] at hsides
    rw [detach_eq]
    refine rewrite_keepsMatchers hs ?_ _ _ _ _
    unfold Circuit.detached Circuit.withoutFibre Circuit.withoutCopper
    cases copper <;> cases fibre <;> grind
  unfold ruleDetach
  repeat' split
  · exact .refl s
  next hsides _ _ _ hd => exact hdetach _ hd (by simpa [or_iff_not_imp_left] using hsides)
  all_goals exact .refl s

theorem ruleActivate_keepsMatchers (circuit : Nat) (s : State) : KeepsMatchers s (ruleActivate circuit s).1 := by
  unfold ruleActivate
  repeat' split
  · exact .refl s
  · exact .refl s
  next c _ h _ =>
    have hvacant : (s.circuit c).state = .vacant := by simp only [ne_eq, not_or, not_not] at h; exact h.1
    have hput : KeepsMatchers s (s.putCircuit c { s.circuit c with state := .fibre, context := none, fibreTransmit := .bridged }) :=
      putElsewhere_keepsMatchers (by simp [hvacant]) (by simp)
    exact hput.trans (writeOutcome_keepsMatchers _ c _)
  · exact .refl s

theorem ruleSetCircuit_keepsMatchers (circuit : Nat) (notify autoRelease : Option Bool) (hold : Option Nat) (inhibit : Option Bool)
    (s : State) : KeepsMatchers s (ruleSetCircuit circuit notify autoRelease hold inhibit s).1 := by
  have hset : ∀ c : CircuitNo, KeepsMatchers s (s.setOptions c notify autoRelease hold inhibit) := fun c => by
    have hput : KeepsMatchers s (s.putCircuit c ((s.circuit c).withOptions notify autoRelease hold inhibit)) := putCircuit_keepsMatchers rfl
    exact hput.trans (.ite _ (fun _ => releaseTest_keepsMatchers _ c) fun _ => .refl _)
  unfold ruleSetCircuit
  repeat' split
  · exact .refl s
  · exact hset _
  · exact .refl s

theorem ruleQueryCircuit_keepsMatchers (circuit : Nat) (clear : Bool) (s : State) : KeepsMatchers s (ruleQueryCircuit circuit clear s).1 := by
  have hclear : ∀ c : CircuitNo, KeepsMatchers s (s.clearChanged c) := fun c => putCircuit_keepsMatchers rfl
  unfold ruleQueryCircuit
  split
  · exact .ite _ (fun _ => hclear _) fun _ => .refl s
  · exact .refl s

theorem ruleMigrate_keepsMatchers (port : Port) (sel : Selector) (s : State) : KeepsMatchers s (ruleMigrate port sel s).1 := by
  refine withSelector_keepsMatchers (fun c => ?_) _ _ _
  unfold State.migrate
  split
  · exact .refl s
  next h => exact startMigration_keepsMatchers h

theorem ruleAbandon_keepsMatchers (port : Port) (sel : Selector) (s : State) : KeepsMatchers s (ruleAbandon port sel s).1 := by
  refine withSelector_keepsMatchers (fun c => ?_) _ _ _
  split
  · exact abandon_keepsMatchers s c .commanded none
  · exact .refl s

theorem ruleRevert_keepsMatchers (port : Port) (sel : Selector) (s : State) : KeepsMatchers s (ruleRevert port sel s).1 := by
  refine withSelector_keepsMatchers (fun c => ?_) _ _ _
  unfold State.revert
  repeat' split
  · exact .refl s
  · exact .refl s
  · exact .refl s
  next hs _ _ => exact revertCircuit_keepsMatchers (not_not.mp hs) .commanded

theorem ruleRelease_keepsMatchers (port : Port) (sel : Selector) (s : State) : KeepsMatchers s (ruleRelease port sel s).1 := by
  refine withSelector_keepsMatchers (fun c => ?_) _ _ _
  split
  next h =>
    simp only [Circuit.releasable, Bool.and_eq_true] at h
    exact releaseFallback_keepsMatchers (Circuit.kept_iff.mp h.1).1 _
  next => exact .refl s

theorem ruleResume_keepsMatchers (port : Port) (sel : Selector) (s : State) : KeepsMatchers s (ruleResume port sel s).1 := by
  refine withSelector_keepsMatchers (fun c => ?_) _ _ _
  repeat' split
  next x _ hx _ =>
    exact (putContext_keepsMatchers (y := { x with held := false }) hx rfl).trans (alignedEvaluation_keepsMatchers _ c)
  all_goals exact .refl s

/-- R172: two records written outside MEASURING, with the occupancy entries of a side. -/
theorem putTwo_keepsMatchers {a b : CircuitNo} {x y : Circuit} (hf : SameBut [.occupancy] s t) (ha : (s.circuit a).state ≠ .measuring)
    (hb : (s.circuit b).state ≠ .measuring) (hx : x.state ≠ .measuring) (hy : y.state ≠ .measuring) :
    KeepsMatchers s ((t.putCircuit a x).putCircuit b y) := by
  have hcirc := hf.sameCircuit (by decide)
  refine ((KeepsMatchers.quiet hf).trans (putElsewhere_keepsMatchers (by rwa [hcirc]) hx)).trans (putElsewhere_keepsMatchers ?_ hy)
  rw [putCircuit_circuit]
  split
  · exact hx
  · rwa [hcirc]

theorem ruleExchange_keepsMatchers (kind a stateA b stateB : Nat) (s : State) : KeepsMatchers s (ruleExchange kind a stateA b stateB s).1 := by
  have hsettled : ∀ r : Circuit, r.settled = true → r.state ≠ .measuring := fun r h hs => by simp [Circuit.settled, hs] at h
  have hring : ∀ (s : State) (c : CircuitNo), KeepsMatchers s (s.fillAttachedRing c) := fun s c =>
    .ite _ (fun _ => .quiet (fillRing_frame s c)) fun _ => .refl s
  have hwith : ∀ (r : Circuit) (p : Option CopperPosition), (r.withCopper p).state ≠ .measuring := fun r p => by
    cases p <;> simp [Circuit.withCopper]
  have hexchange : ∀ (copper : Bool) (a b : CircuitNo), (s.circuit a).state ≠ .measuring → (s.circuit b).state ≠ .measuring →
      KeepsMatchers s (s.exchange copper a b).1 := fun copper a b ha hb => by
    unfold State.exchange
    repeat' split
    · exact .refl s
    · exact .refl s
    · exact putTwo_keepsMatchers (markCopper_keepsFrame s _ _ _ _) ha hb (hwith _ _) (hwith _ _)
    · exact .refl s
    · have htwo := putTwo_keepsMatchers (x := { s.circuit a with fibre := (s.circuit b).fibre }) (y := { s.circuit b with fibre := (s.circuit a).fibre })
        ((markFibre_frame s (s.circuit a).fibre (some b)).trans (markFibre_frame _ (s.circuit b).fibre (some a))) ha hb ha hb
      exact (htwo.trans (hring _ a)).trans (hring _ b)
  unfold ruleExchange
  repeat' split
  · exact .refl s
  · exact .refl s
  · exact .refl s
  next hset =>
    simp only [not_or, Bool.not_eq_false] at hset
    exact hexchange _ _ _ (hsettled _ hset.1) (hsettled _ hset.2)
  · exact .refl s
  · exact .refl s

/-! ### The commands of the other blocks -/

theorem examineEntries_keepsMatchers {port : Port} {h : Handled} : ∀ (entries : List Selector) (done : List CircuitNo),
    s.examineEntries port done entries = .error h → KeepsMatchers s h.1
  | [], _, e => by cases e
  | entry :: rest, done, e => by
    unfold State.examineEntries at e
    repeat' split at e
    · cases e
      cases entry
      · exact .refl s
      · exact recordMiss_keepsMatchers s _ _ _
    · cases e; exact .refl s
    · cases e; exact .refl s
    · cases e; exact .refl s
    · exact examineEntries_keepsMatchers rest _ e

theorem ruleOpenBatch_keepsMatchers (port : Port) (tag : Byte) (batch mode limit : Nat) (entries : List Selector) (s : State) :
    KeepsMatchers s (ruleOpenBatch port tag batch mode limit entries s).1 := by
  unfold ruleOpenBatch
  repeat' split
  iterate 6 exact .refl s
  next e => exact examineEntries_keepsMatchers _ _ e
  next => exact openBatch_keepsMatchers s _ _

theorem ruleCancelBatch_keepsMatchers (batch : Nat) (s : State) : KeepsMatchers s (ruleCancelBatch batch s).1 := by
  unfold ruleCancelBatch
  repeat' split
  · exact .refl s
  next id _ _ b _ => exact (setBatch_keepsMatchers s id (some b.cancelled)).trans (closeBatch_keepsMatchers _ id .cancelled)
  · exact .refl s

theorem ruleBatchStatus_keepsMatchers (batch : Nat) (s : State) : KeepsMatchers s (ruleBatchStatus batch s).1 := by
  unfold ruleBatchStatus
  split <;> exact .refl s

theorem ruleSetWatch_keepsMatchers (watch : Nat) (p : WatchSettings) (s : State) : KeepsMatchers s (ruleSetWatch watch p s).1 := by
  unfold ruleSetWatch
  repeat' split
  · exact .refl s
  · exact .refl s
  · exact .rest rfl rfl

theorem ruleWatchStatus_keepsMatchers (clear : Nat) (s : State) : KeepsMatchers s (ruleWatchStatus clear s).1 := by
  unfold ruleWatchStatus
  split
  · exact .refl s
  · exact .rest rfl rfl

theorem ruleSetNode_keepsMatchers (p : NodeSettings) (s : State) : KeepsMatchers s (ruleSetNode p s).1 := by
  have hrehello : ∀ s : State, KeepsMatchers s s.rehello := fun s =>
    .ite _ (fun _ => setPeer_keepsMatchers s _) fun _ => sendHello_keepsMatchers s
  have hchange : ∀ s : State, KeepsMatchers s s.localChange := fun s =>
    ((hrehello s).trans (setPeer_keepsMatchers _ _)).trans (linkDown_keepsMatchers _ .localChange)
  have hnode : ∀ x : NodeParams, KeepsMatchers s (s.setNode x) := fun x => .rest rfl rfl
  have hwrite : KeepsMatchers s (s.writeNode p) :=
    (hnode (s.node.apply p)).trans (.ite _ (fun _ => hchange _) fun _ => .refl _)
  unfold ruleSetNode
  repeat' split
  · exact .refl s
  · exact .refl s
  · exact hwrite

theorem rulePeerStatus_keepsMatchers (clear : Bool) (s : State) : KeepsMatchers s (rulePeerStatus clear s).1 := by
  cases clear
  · exact .refl s
  · exact setPeer_keepsMatchers s _

theorem ruleQueryAlignment_keepsMatchers (circuit first : Option Nat) (s : State) :
    KeepsMatchers s (ruleQueryAlignment circuit first s).1 := by
  unfold ruleQueryAlignment
  repeat' split
  all_goals exact .refl s

theorem ruleSetSpan_keepsMatchers (span : Nat) (p : SpanSettings) (s : State) : KeepsMatchers s (ruleSetSpan span p s).1 := by
  unfold ruleSetSpan
  repeat' split
  · exact .refl s
  · exact setSpan_keepsMatchers s _ _
  · exact .refl s

theorem ruleSpanStatus_keepsMatchers (span : Nat) (s : State) : KeepsMatchers s (ruleSpanStatus span s).1 := by
  unfold ruleSpanStatus
  split <;> exact .refl s

theorem ruleRestartSpan_keepsMatchers (span : Nat) (s : State) : KeepsMatchers s (ruleRestartSpan span s).1 := by
  have hrestart : ∀ n : SpanNo, KeepsMatchers s (s.restart n) := fun n => by
    unfold State.restart
    split
    · exact spanLowered_keepsMatchers s n _
    · exact setSpan_keepsMatchers s n _
    · exact setSpan_keepsMatchers s n _
  unfold ruleRestartSpan
  split
  · exact hrestart _
  · exact .refl s

theorem ruleRetireSpan_keepsMatchers (span : Nat) (s : State) : KeepsMatchers s (ruleRetireSpan span s).1 := by
  unfold ruleRetireSpan
  repeat' split
  · exact .refl s
  · exact .refl s
  · exact retireSpan_keepsMatchers s _
  · exact .refl s

theorem ruleSelect_keepsMatchers (lane : Nat) (s : State) : KeepsMatchers s (ruleSelect lane s).1 := by
  refine withLane_keepsMatchers (fun i => ?_) lane
  repeat' split
  · exact .refl s
  · exact .refl s
  · exact .refl s
  · exact .refl s
  · rw [answered_fst]; exact changeWorking_keepsMatchers s .select

theorem setLockout_keepsMatchers (s : State) (i : Lane) (flag : Bool) (cause : WorkingCause) :
    KeepsMatchers s (s.setLockout i flag cause) := (setLane_keepsMatchers s i _).trans (workingTest_keepsMatchers _ cause)

theorem ruleLockout_keepsMatchers (lane : Nat) (s : State) : KeepsMatchers s (ruleLockout lane s).1 := by
  refine withLane_keepsMatchers (fun i => ?_) lane
  repeat' split
  · exact .refl s
  · exact .refl s
  · exact setLockout_keepsMatchers s i true .lockout

theorem ruleClear_keepsMatchers (lane : Nat) (s : State) : KeepsMatchers s (ruleClear lane s).1 := by
  refine withLane_keepsMatchers (fun i => ?_) lane
  split
  · exact setLockout_keepsMatchers s i false .automatic
  · exact .refl s

theorem ruleShut_keepsMatchers (lane : Nat) (s : State) : KeepsMatchers s (ruleShut lane s).1 := by
  refine withLane_keepsMatchers (fun i => ?_) lane
  repeat' split
  · exact .refl s
  · exact .refl s
  · exact setLane_keepsMatchers s i _

theorem ruleRestore_keepsMatchers (lane : Nat) (s : State) : KeepsMatchers s (ruleRestore lane s).1 :=
  withLane_keepsMatchers (fun i => setLane_keepsMatchers s i _) lane

/-- R72: a load of FC moves the targets, the rings and the histories alone. -/
theorem ruleSetFrameClock_keepsMatchers (value : FrameCount) (s : State) : KeepsMatchers s (ruleSetFrameClock value s).1 := by
  have hshift : ∀ shift, KeepsMatchers s (s.shiftFrameClock shift) := fun shift h => by
    have hunit : ∀ v, (s.shiftFrameClock shift).unit v = { s.unit v with history := shiftRing (s.unit v).history shift } := fun v =>
      Table.get_map ..
    have hcirc : ∀ d, (s.shiftFrameClock shift).circuit d =
        { s.circuit d with context := (s.circuit d).context.map fun x => { x with target := x.target.map (· + shift) } } := fun d =>
      Table.get_map ..
    exact h.congr rfl (fun v => by rw [hunit]) (fun v => by rw [hunit])
      fun d => by rw [hcirc]; exact mapContexts_matcherPlace _ _ fun _ => rfl
  exact (hshift _).trans (setLanes_keepsMatchers _ _)

theorem ruleAddTrunk_keepsMatchers (code : TrunkCode) (circuit : Nat) (pinned : Option Bool) (s : State) :
    KeepsMatchers s (ruleAddTrunk code circuit pinned s).1 := by
  have hadd : ∀ (c : CircuitNo) (flag : Bool), KeepsMatchers s (s.addTrunk code c flag).1 := fun c flag => by
    unfold State.addTrunk
    repeat' split
    · exact .refl s
    · exact .refl s
    · exact .refl s
    · exact (setDirectory_keepsMatchers s _).trans (setCode_keepsMatchers _ _ _)
    · exact .refl s
  unfold ruleAddTrunk
  repeat' split
  · exact .refl s
  · exact .refl s
  · exact hadd _ _
  · exact .refl s

theorem ruleAddRange_keepsMatchers (port : Port) (tag : Byte) (e : RangeEntry) (s : State) :
    KeepsMatchers s (ruleAddRange port tag e s).1 := by
  unfold ruleAddRange
  repeat' split
  case h_2 => exact setDirectory_keepsMatchers s _
  all_goals exact .refl s

theorem ruleRemoveTrunk_keepsMatchers (port : Port) (code : TrunkCode) (s : State) : KeepsMatchers s (ruleRemoveTrunk port code s).1 := by
  refine withTrunk_keepsMatchers (fun b w e => ?_) _ _ _ _
  split
  · exact .refl s
  · exact removeTrunkAt_keepsMatchers s b w e

theorem ruleRemoveRange_keepsMatchers (index : Nat) (s : State) : KeepsMatchers s (ruleRemoveRange index s).1 := by
  unfold ruleRemoveRange
  repeat' split
  · exact .refl s
  · exact .refl s
  · exact (setDirectory_keepsMatchers s _).trans (setCodes_keepsMatchers _ (fun _ => none) _)
  · exact .refl s
  · exact .refl s

theorem rulePurge_keepsMatchers (port : Port) (tag : Byte) (s : State) : KeepsMatchers s (rulePurge port tag s).1 := by
  unfold rulePurge
  split
  · exact .refl s
  · exact setDirectory_keepsMatchers s _

theorem rulePin_keepsMatchers (port : Port) (type : Byte) (code : TrunkCode) (flag : Bool) (s : State) :
    KeepsMatchers s (rulePin port type code flag s).1 :=
  withTrunk_keepsMatchers (fun _ _ _ => setDirectory_keepsMatchers s _) _ _ _ _

theorem ruleLookup_keepsMatchers (port : Port) (operand : LookupOperand) (s : State) : KeepsMatchers s (ruleLookup port operand s).1 := by
  have hcode : ∀ code, KeepsMatchers s (s.lookupCode port code).1 := fun code => by
    unfold State.lookupCode
    simp only
    repeat' split
    · exact .refl s
    · exact .refl s
    · exact recordMiss_keepsMatchers s _ _ _
  unfold ruleLookup
  split
  · exact .refl s
  · split
    · exact .refl s
    · exact hcode _
  all_goals
    repeat' split
    all_goals exact .refl s

theorem ruleQueryMiss_keepsMatchers (clear : Bool) (s : State) : KeepsMatchers s (ruleQueryMiss clear s).1 := by
  cases clear
  · exact .refl s
  · exact setDirectory_keepsMatchers s _

theorem ruleLinkStatus_keepsMatchers (clear : Bool) (s : State) : KeepsMatchers s (ruleLinkStatus clear s).1 := by
  cases clear
  · exact .refl s
  · exact setLinks_keepsMatchers s _

/-! ### Every row -/

/-- R57: what every command and every event does. -/
theorem exec_keepsMatchers (i : Instr) (s : State) : Answers (KeepsMatchers s) (exec i s) := by
  cases i with
  | powerOnReset primary craft => exact powerOnReset_keepsMatchers primary craft s
  | startUpEnd => exact startUpEnd_keepsMatchers s
  | siteFrame switch => exact siteFrame_keepsMatchers switch s
  | targetReached c => exact targetReached_keepsMatchers c s
  | switchLineConditionChange c => exact switchLineConditionChange_keepsMatchers c s
  | spanFrameReceived n f => exact spanFrameReceived_keepsMatchers n f s
  | frameAlignmentFound n => exact frameAlignmentFound_keepsMatchers n s
  | multiframeHuntLoss n => exact multiframeHuntLoss_keepsMatchers n s
  | spanUp n => exact spanUp_keepsMatchers n s
  | spanLossOfSignal n => exact spanLossOfSignal_keepsMatchers n s
  | spanBadAlignment n => exact spanBadAlignment_keepsMatchers n s
  | laneFrameReceived i f => exact laneFrameReceived_keepsMatchers i f s
  | slotLineConditionChange n => exact slotLineConditionChange_keepsMatchers n s
  | bridgeFlagRecognised n => exact bridgeFlagRecognised_keepsMatchers n s
  | laneUp i => exact laneUp_keepsMatchers i s
  | laneLossOfLight i => exact laneLossOfLight_keepsMatchers i s
  | laneAlignmentLoss i => exact laneAlignmentLoss_keepsMatchers i s
  | laneDegraded i => exact laneDegraded_keepsMatchers i s
  | errorIntervalEnd i => exact errorIntervalEnd_keepsMatchers i s
  | holdOffExpiry => exact holdOffExpiry_keepsMatchers s
  | duplicateWindowExpiry => exact duplicateWindowExpiry_keepsMatchers s
  | matcherStart => exact matcherStart_keepsMatchers s
  | primingComplete v => exact primingComplete_keepsMatchers v s
  | windowEnd v => exact windowEnd_keepsMatchers v s
  | matchOutcome v => exact matchOutcome_keepsMatchers v s
  | servicePauseEnd => exact servicePauseEnd_keepsMatchers s
  | responseTimerExpiry c => exact responseTimerExpiry_keepsMatchers c s
  | retryBackoffExpiry c => exact retryBackoffExpiry_keepsMatchers c s
  | bridgeLimitExpiry c => exact bridgeLimitExpiry_keepsMatchers c s
  | deferLimitExpiry c => exact deferLimitExpiry_keepsMatchers c s
  | fallbackHoldExpiry c => exact fallbackHoldExpiry_keepsMatchers c s
  | drainEnd c => exact drainEnd_keepsMatchers c s
  | helloTimerExpiry => exact helloTimerExpiry_keepsMatchers s
  | silenceExpiry => exact silenceExpiry_keepsMatchers s
  | receivedHello node mode => exact receivedHello_keepsMatchers node mode s
  | receivedPropose code slot number => exact receivedPropose_keepsMatchers code slot number s
  | receivedAccept code slot number => exact received_keepsMatchers _ code (fun c s => takeAccept_keepsMatchers c slot number s) s
  | receivedDecline code number reason =>
    exact received_keepsMatchers _ code (fun c s => takeDecline_keepsMatchers c code number reason s) s
  | receivedConfirm code number => exact received_keepsMatchers _ code (fun c s => takeConfirm_keepsMatchers c number s) s
  | receivedSpliced code => exact received_keepsMatchers _ code takeSpliced_keepsMatchers s
  | receivedAbandon code reason => exact received_keepsMatchers _ code (fun c s => takeAbandon_keepsMatchers c code reason s) s
  | receivedRevert code =>
    exact takeMessage_keepsMatchers _ (dispatch_keepsMatchers _ _ (fun s => sendDecline_keepsMatchers s _ _ _)
      fun c s => takeRevert_keepsMatchers c code s) s
  | receivedRevertDone code => exact received_keepsMatchers _ code takeRevertDone_keepsMatchers s
  | receivedRelease code => exact received_keepsMatchers _ code takeRelease_keepsMatchers s
  | attach port tag circuit copper fibre => exact runCommand_keepsMatchers (ruleAttach_keepsMatchers circuit copper fibre) _ port s
  | detach port tag circuit copper fibre => exact runCommand_keepsMatchers (ruleDetach_keepsMatchers circuit copper fibre) _ port s
  | activate port tag circuit => exact runCommand_keepsMatchers (ruleActivate_keepsMatchers circuit) _ port s
  | setCircuit port tag circuit notify autoRelease hold inhibit =>
    exact runCommand_keepsMatchers (ruleSetCircuit_keepsMatchers circuit notify autoRelease hold inhibit) _ port s
  | queryCircuit port tag circuit clear => exact runCommand_keepsMatchers (ruleQueryCircuit_keepsMatchers circuit clear) _ port s
  | migrate port tag circuit => exact runCommand_keepsMatchers (ruleMigrate_keepsMatchers port circuit) _ port s
  | abandon port tag circuit => exact runCommand_keepsMatchers (ruleAbandon_keepsMatchers port circuit) _ port s
  | revert port tag circuit => exact runCommand_keepsMatchers (ruleRevert_keepsMatchers port circuit) _ port s
  | release port tag circuit => exact runCommand_keepsMatchers (ruleRelease_keepsMatchers port circuit) _ port s
  | resume port tag circuit => exact runCommand_keepsMatchers (ruleResume_keepsMatchers port circuit) _ port s
  | setNode port tag settings => exact runCommand_keepsMatchers (ruleSetNode_keepsMatchers settings) _ port s
  | queryAlignment port tag circuit first => exact runCommand_keepsMatchers (ruleQueryAlignment_keepsMatchers circuit first) _ port s
  | setSpan port tag span settings => exact runCommand_keepsMatchers (ruleSetSpan_keepsMatchers span settings) _ port s
  | spanStatus port tag span => exact runCommand_keepsMatchers (ruleSpanStatus_keepsMatchers span) _ port s
  | restartSpan port tag span => exact runCommand_keepsMatchers (ruleRestartSpan_keepsMatchers span) _ port s
  | retireSpan port tag span => exact runCommand_keepsMatchers (ruleRetireSpan_keepsMatchers span) _ port s
  | laneControlSelect port tag lane => exact runCommand_keepsMatchers (ruleSelect_keepsMatchers lane) _ port s
  | laneControlLockout port tag lane => exact runCommand_keepsMatchers (ruleLockout_keepsMatchers lane) _ port s
  | laneControlClear port tag lane => exact runCommand_keepsMatchers (ruleClear_keepsMatchers lane) _ port s
  | laneControlShut port tag lane => exact runCommand_keepsMatchers (ruleShut_keepsMatchers lane) _ port s
  | laneControlRestore port tag lane => exact runCommand_keepsMatchers (ruleRestore_keepsMatchers lane) _ port s
  | laneControlHoldOff port tag seconds => exact runCommand_keepsMatchers (fun s => setLanes_keepsMatchers s _) _ port s
  | laneStatus port tag => exact runCommand_keepsMatchers (fun s => .refl s) _ port s
  | setFrameClock port tag value => exact runCommand_keepsMatchers (ruleSetFrameClock_keepsMatchers value) _ port s
  | peerStatus port tag clear => exact runCommand_keepsMatchers (rulePeerStatus_keepsMatchers clear) _ port s
  | addTrunk port tag code circuit pinned => exact runCommand_keepsMatchers (ruleAddTrunk_keepsMatchers code circuit pinned) _ port s
  | addRange port tag route member size base =>
    exact runCommand_keepsMatchers (ruleAddRange_keepsMatchers port tag ⟨route, member, size, base⟩) _ port s
  | rangeCheckBucket => exact rangeCheckBucket_keepsMatchers s
  | rangeCheckComplete => exact rangeCheckComplete_keepsMatchers s
  | removeTrunk port tag code => exact runCommand_keepsMatchers (ruleRemoveTrunk_keepsMatchers port code) _ port s
  | removeRange port tag index => exact runCommand_keepsMatchers (ruleRemoveRange_keepsMatchers index) _ port s
  | pin port tag code => exact runCommand_keepsMatchers (rulePin_keepsMatchers port _ code true) _ port s
  | unpin port tag code => exact runCommand_keepsMatchers (rulePin_keepsMatchers port _ code false) _ port s
  | purge port tag => exact runCommand_keepsMatchers (rulePurge_keepsMatchers port tag) _ port s
  | purgeBucket => exact purgeBucketRow_keepsMatchers s
  | purgeComplete => exact purgeComplete_keepsMatchers s
  | lookup port tag operand => exact runCommand_keepsMatchers (ruleLookup_keepsMatchers port operand) _ port s
  | queryMiss port tag clear => exact runCommand_keepsMatchers (ruleQueryMiss_keepsMatchers clear) _ port s
  | openBatch port tag batch mode limit entries =>
    exact runCommand_keepsMatchers (ruleOpenBatch_keepsMatchers port tag batch mode limit entries) _ port s
  | cancelBatch port tag batch => exact runCommand_keepsMatchers (ruleCancelBatch_keepsMatchers batch) _ port s
  | batchStatus port tag batch => exact runCommand_keepsMatchers (ruleBatchStatus_keepsMatchers batch) _ port s
  | setWatch port tag watch settings => exact runCommand_keepsMatchers (ruleSetWatch_keepsMatchers watch settings) _ port s
  | watchStatus port tag clear => exact runCommand_keepsMatchers (ruleWatchStatus_keepsMatchers clear) _ port s
  | exchange port tag kind a stateA b stateB => exact runCommand_keepsMatchers (ruleExchange_keepsMatchers kind a stateA b stateB) _ port s
  | linkStatus port tag clear => exact runCommand_keepsMatchers (ruleLinkStatus_keepsMatchers clear) _ port s
  | reset port tag => exact runCommand_keepsMatchers (fun s => .refl s) _ port s
  | managementFrameReceived port bytes => exact managementFrameReceived_keepsMatchers port bytes s
  | interByteTimeout port => exact interByteTimeout_keepsMatchers port s
  | frameTransmitStart port => exact frameTransmitStart_keepsMatchers port s
  | frameTransmitEnd port => exact frameTransmitEnd_keepsMatchers port s
  | laneLightReturn i => exact laneLightReturn_keepsMatchers i s
  | spanSignalReturn n => exact spanSignalReturn_keepsMatchers n s

/-- Settles O12: the law of the matchers holds on in every row, from a state of which it holds. -/
theorem matcherLawKept : Obligations.MatcherLawKept := by
  intro s t hs hstep
  unfold step at hstep
  split at hstep
  next i rest _ =>
    have hrest : KeepsMatchers s (s.setPending rest) := .rest rfl rfl
    exact answers_of_eq (exec_keepsMatchers i _) hstep (hrest hs.matchers)
  next =>
    cases hstep
    exact hs.matchers

end Sys2Proof.Machine
end

section
/-! SUPPORT. The reach test across the wrap of FC, and a circuit at its splice target (R41, R71). -/

namespace Sys2Proof.Machine

variable {s : State} {c : CircuitNo}

/-- R71: the frames from one FC to another, across the wrap. -/
theorem frames_between (fc : FrameCount) (n m : Nat) :
    ((fc + BitVec.ofNat 32 n) - (fc + BitVec.ofNat 32 m)).toNat = (n % 2 ^ 32 + (2 ^ 32 - m % 2 ^ 32)) % 2 ^ 32 := by
  simp only [BitVec.toNat_sub, BitVec.toNat_add, BitVec.toNat_ofNat]
  omega

theorem reached_iff (fc target : FrameCount) : reached fc target = true ↔ (fc - target).toNat < 2147483648 := decide_eq_true_iff

/-- R71, R73: a target that lies a lead ahead is first reached when the whole lead has passed. -/
theorem reached_ahead_iff {fc : FrameCount} {lead n : Nat} (hlead : lead ≤ 64) (hn : n ≤ lead) :
    reached (fc + BitVec.ofNat 32 n) (fc + BitVec.ofNat 32 lead) = true ↔ n = lead := by
  rw [reached_iff, frames_between]
  omega

/-- R41, R71: an ALIGNED circuit with a target. -/
theorem targetReached_aligned {x : Context} {S : FrameCount} (hst : (s.circuit c).state = .aligned)
    (hx : (s.circuit c).context = some x) (hS : x.target = some S) :
    exec (.targetReached c) s = if reached s.fc S then .next (s.atTarget c) else .next s := by
  show execTargetReached c s = _
  unfold execTargetReached
  rw [hst, hx, Option.bind_some, hS]

theorem atTarget_present (h : s.flagPresent c = true) : s.atTarget c = s.spliceAligned c .spliced := if_pos h

theorem atTarget_absent (h : s.flagPresent c = false) : s.atTarget c = s.enterBridgeWait c := if_neg (by simp [h])

/-- Settles O38: the arithmetic of the reach test, and the two ways on from a target that is reached. -/
theorem targetReached : Obligations.TargetReached := by
  refine ⟨⟨reached_iff, fun fc lead n _ hlead hn => reached_ahead_iff hlead hn⟩, fun s c x S d hs hst hx hS hd => ?_⟩
  rw [targetReached_aligned hst hx hS]
  refine ⟨fun hr => if_neg (by simp [hr]), fun hr hf => ?_, fun hr hf => ?_⟩
  · obtain ⟨m, j, hm, hj, hspliced⟩ := spliceAligned_spec hs.sound hx hd (code := .spliced) rfl
    exact ⟨m, j, _, by rw [if_pos hr, atTarget_present hf], hm, hj, hspliced⟩
  · obtain ⟨hrecord, hframe⟩ := enterBridgeWait_absent hx hf
    exact ⟨_, by rw [targetReached_aligned hst hx hS, if_pos hr, atTarget_absent hf], hframe, hrecord⟩

end Sys2Proof.Machine
end

section
/-! SUPPORT. QUERY ALIGNMENT: what the reply says of the unit and of one circuit (R75, R76). -/

namespace Sys2Proof.Machine

variable {s : State} {c : CircuitNo} {port : Port} {q : QueuedCommand} {rest : List QueuedCommand}

/-- R76: the place in a reply is one that the circuit holds, and it holds none when the reply names none. -/
structure PlaceHeld (s : State) (c : CircuitNo) (place : AlignmentPlace) : Prop where
  unit : ∀ u, place = .unit u → (s.unit u).circuit = some c
  queue : ∀ i kind, place = .queue i kind → s.align.queue[i]? = some ⟨c, kind⟩
  nowhere : place = .nowhere → (∀ u, (s.unit u).circuit ≠ some c) ∧ ∀ e ∈ s.align.queue, e.circuit ≠ c

/-- R76: the units are searched before the queue. -/
theorem alignmentPlace_held (s : State) (c : CircuitNo) : PlaceHeld s c (s.alignmentPlace c) := by
  unfold State.alignmentPlace
  split
  next u hu =>
    have hheld : (s.unit u).circuit = some c := by simpa using List.find?_some hu
    exact ⟨fun v hv => by cases hv; exact hheld, nofun, nofun⟩
  next hu =>
    have hfree : ∀ u, (s.unit u).circuit ≠ some c := fun u => by simpa using List.find?_eq_none.mp hu u (List.mem_finRange u)
    split
    next e i he =>
      have hentry : s.align.queue[i]? = some e := List.mk_mem_zipIdx_iff_getElem?.mp (List.mem_of_find?_eq_some he)
      have hc : e.circuit = c := by simpa using List.find?_some he
      refine ⟨nofun, fun j kind hj => ?_, nofun⟩
      cases hj
      rw [hentry, ← hc]
    next he =>
      refine ⟨nofun, nofun, fun _ => ⟨hfree, fun e hmem => ?_⟩⟩
      obtain ⟨i, hi⟩ := List.mem_iff_getElem?.mp hmem
      simpa using List.find?_eq_none.mp he (e, i) (List.mk_mem_zipIdx_iff_getElem?.mpr hi)

theorem kept_iff (r : Circuit) : r.kept = true ↔ r.state = .fibre ∧ r.context.isSome := by simp [Circuit.kept]

/-- Settles O20: the reply is read off the state that the request found, and taking the request touches the port alone. -/
theorem queryAlignment : Obligations.QueryAlignment := by
  intro s port tag q rest
  refine ⟨fun first h => ?_, fun n first h => ⟨fun hn => ?_, fun c hc => ?_⟩⟩
  · have hauth := h.authority (by nofun)
    split
    next hfirst => exact refuses_of_rule rfl h hauth (by rw [ruleQueryAlignment, if_pos hfirst])
    next hfirst =>
      refine refuses_of_rule rfl h hauth ?_
      rw [ruleQueryAlignment, if_neg hfirst]
      have hunits : s.align.units.map Matcher.view = .ofFn fun u => (s.unit u).view := Table.ext_get fun u => by simp [State.unit]
      exact congrArg (fun units => answered (s.takeHead port q rest) .ok
        (.alignmentUnit s.align.pause.left units s.align.queue.length ((s.align.queue.drop (first.getD 0)).take 64))) hunits
  · exact refuses_of_rule rfl h (h.authority (by nofun)) (by rw [ruleQueryAlignment, circuitOf_none hn])
  · subst hc
    obtain ⟨hunit, hqueue, hnowhere⟩ := alignmentPlace_held s c
    refine ⟨s.alignmentPlace c, ⟨hunit, hqueue, hnowhere⟩, _, revertOffset_spec (s.takeHead port q rest) (s.circuit c), ?_⟩
    refine refuses_of_rule rfl h (h.authority (by nofun)) ?_
    rw [if_congr (kept_iff (s.circuit c)).symm rfl rfl, ruleQueryAlignment, circuitOf_val]
    rfl

end Sys2Proof.Machine
end

section
/-! SUPPORT. The matcher units: the service of the queue, the candidate set of a start, and the outcome of a window's end
(R58 to R64). -/

namespace Sys2Proof.Machine

variable {s t : State} {c : CircuitNo}

/-! ### The candidate set (R59) -/

/-- R59: the values of a window, counted up from its lower limit. -/
theorem windowCandidates_eq (wlo whi : Int) :
    windowCandidates wlo whi = (List.range (whi - wlo + 1).toNat).map fun i : Nat => wlo + (i : Int) := by
  simp [windowCandidates, ← List.map_eq_flatMap]

theorem mem_windowCandidates {wlo whi k : Int} : k ∈ windowCandidates wlo whi ↔ wlo ≤ k ∧ k ≤ whi := by
  simp only [windowCandidates_eq, List.mem_map, List.mem_range]
  constructor
  · rintro ⟨i, hi, rfl⟩
    omega
  · rintro ⟨hlo, hhi⟩
    exact ⟨(k - wlo).toNat, by omega, by omega⟩

theorem windowCandidates_nodup (wlo whi : Int) : (windowCandidates wlo whi).Nodup := by
  rw [windowCandidates_eq]
  exact List.nodup_range.map fun i j h => by simpa using h

/-- R59: a CONFIRM of a VALID record whose Δ lies in the window. -/
theorem candidateSet_confirm {wlo whi : Int} {m : DelayMeasure} (hlo : wlo ≤ m.delta) (hhi : m.delta ≤ whi) :
    candidateSet .confirm wlo whi (.valid m) = (.confirm, [m.delta]) := if_pos ⟨hlo, hhi⟩

/-- R59: every other search is FULL. -/
theorem candidateSet_full {kind : SearchKind} {wlo whi : Int} {record : DelayRecord}
    (h : ∀ m, kind = .confirm → record = .valid m → ¬ (wlo ≤ m.delta ∧ m.delta ≤ whi)) :
    candidateSet kind wlo whi record = (.full, windowCandidates wlo whi) := by
  cases kind with
  | full => rfl
  | confirm =>
    cases record with
    | valid m => exact if_neg (h m rfl rfl)
    | stale m => rfl
    | invalid => rfl

theorem recordOf_attached {p : CopperPosition} (hp : (s.circuit c).copper = some p) : s.recordOf c = (s.span p.span).record := by
  simp [State.recordOf, hp]

/-- R59: what a unit captures for a circuit with a copper attachment. -/
theorem startedUnit_attached {u : UnitNo} {e : QueueEntry} {p : CopperPosition} (hp : (s.circuit e.circuit).copper = some p) :
    s.startedUnit u e =
      { s.unit u with
        state := .priming, circuit := some e.circuit
        kind := (candidateSet e.kind (s.span p.span).wlo (s.span p.span).whi (s.span p.span).record).1
        wlo := (s.span p.span).wlo, whi := (s.span p.span).whi, length := s.node.window
        candidates := (candidateSet e.kind (s.span p.span).wlo (s.span p.span).whi (s.span p.span).record).2
        count := 0, outcome := none } := by
  simp only [State.startedUnit, hp, recordOf_attached hp]

/-! ### The service of the queue (R58) -/

theorem freeUnit_eq_some {u : UnitNo} (hu : (s.unit u).state = .free) (hlow : ∀ v, v < u → (s.unit v).state ≠ .free) :
    s.freeUnit = some u := by
  refine List.find?_eq_some_iff_getElem.mpr ⟨by simpa using hu, u.val, by simp, by simp, fun j hj => ?_⟩
  simpa using hlow ⟨j, by omega⟩ hj

/-- R58, R59: the head entry goes to the lowest FREE unit. -/
theorem matcherStart_serves {e : QueueEntry} {rest : List QueueEntry} {u : UnitNo} (hq : s.align.queue = e :: rest)
    (hpause : s.align.pause.left = 0) (hu : s.freeUnit = some u) :
    exec .matcherStart s = .next
      (((s.setAlign { s.align with queue := rest }).setUnit u (s.startedUnit u e)).setMatching e.circuit) := by
  show execMatcherStart s = _
  simp only [execMatcherStart, hq, hu, hpause, if_true]
  rfl

/-- R58: no entry, a service pause, or no FREE unit. -/
theorem matcherStart_idle (h : s.align.queue = [] ∨ s.align.pause.left ≠ 0 ∨ ∀ u, (s.unit u).state ≠ .free) :
    exec .matcherStart s = .next s := by
  show execMatcherStart s = _
  unfold execMatcherStart
  split
  next e rest u hq hu =>
    refine if_neg fun hpause => ?_
    rcases h with hempty | hrun | hbusy
    · simp [hempty] at hq
    · exact hrun hpause
    · exact hbusy u (freeUnit_free hu)
  next => rfl

/-! ### A window's end (R63, R64) -/

/-- R63: of the spans, only that of the circuit takes the record, and only when it is UP. -/
theorem writeMatch_span {p : CopperPosition} (hp : (s.circuit c).copper = some p) (d : Int) (n : SpanNo) :
    (s.writeMatch c d).span n =
      if n = p.span ∧ (s.span n).state = .up then { s.span n with record := .valid ⟨d, c, s.fc⟩ } else s.span n := by
  unfold State.writeMatch
  rw [hp]
  by_cases hn : p.span = n
  · subst hn
    simp [Span.matched]
  · simp [State.setSpan_span_ne _ _ hn, Ne.symm hn]

theorem writeMatch_frame (s : State) (c : CircuitNo) (d : Int) : SameBut [.spans] s (s.writeMatch c d) := by
  unfold State.writeMatch
  split
  · exact setSpan_frame s _ _
  · exact .refl _ s

/-- R63: the record that a decided outcome writes: that of the circuit's span for a MATCH, and none for any other. -/
def State.recordResult (s : State) (c : CircuitNo) : MatchResult → State
  | .matched d => s.writeMatch c d
  | _ => s

theorem recordResult_frame (s : State) (c : CircuitNo) (result : MatchResult) : SameBut [.spans] s (s.recordResult c result) := by
  cases result with
  | matched d => exact writeMatch_frame s c d
  | _ => exact .refl _ s

theorem recordResult_unit (s : State) (c : CircuitNo) (result : MatchResult) (u : UnitNo) :
    (s.recordResult c result).unit u = s.unit u := by
  have h : (s.recordResult c result).align.units = s.align.units := recordResult_frame s c result .matchers (by decide)
  simp only [State.unit, h]

/-- The unit at its window's end. -/
theorem windowEnd_decides {u : UnitNo} (hstate : (s.unit u).state = .window) (hcount : (s.unit u).count = (s.unit u).length)
    (hc : (s.unit u).circuit = some c) :
    exec (.windowEnd u) s = .next
      ((s.setUnit u { s.unit u with state := .done, outcome := some (s.unit u).decide }).recordResult c (s.unit u).decide) := by
  show execWindowEnd u s = _
  unfold execWindowEnd
  simp only
  rw [if_pos ⟨hstate, hcount⟩, hc]
  cases (s.unit u).decide <;> rfl

/-- R63: the outcome of a full search, by the number of the candidates left. -/
theorem decide_full {m : Matcher} (h : m.kind = .full) :
    (∀ k, m.candidates = [k] → m.decide = .matched k) ∧ (m.candidates = [] → m.decide = .noMatch) ∧
      (2 ≤ m.candidates.length → m.decide = .ambiguous) := by
  refine ⟨fun k hk => by simp [Matcher.decide, h, hk], fun hk => by simp [Matcher.decide, h, hk], fun hlen => ?_⟩
  unfold Matcher.decide
  rw [h]
  match m.candidates, hlen with
  | _ :: _ :: _, _ => rfl

/-- R64: the outcome of a confirm search. -/
theorem decide_confirm {m : Matcher} (h : m.kind = .confirm) :
    (∀ k, m.candidates = [k] → m.decide = .confirmed k) ∧ (m.candidates = [] → m.decide = .confirmFailed) :=
  ⟨fun k hk => by simp [Matcher.decide, h, hk], fun hk => by simp [Matcher.decide, h, hk]⟩

/-! ### The rows -/

theorem matcherStart_effect {e : QueueEntry} {rest : List QueueEntry} {u : UnitNo} (hs : Lawful s)
    (hq : s.align.queue = e :: rest) (hpause : s.align.pause.left = 0) (hu : (s.unit u).state = .free)
    (hlow : ∀ v, v < u → (s.unit v).state ≠ .free) :
    Happens s .matcherStart [.circuits, .matchers, .matcherQueue] fun t =>
      t.align.queue = rest ∧ (∀ v, v ≠ u → t.unit v = s.unit v) ∧
      (∃ x, (s.circuit e.circuit).context = some x ∧ TakesContext e.circuit { x with sub := some .matching } s t) ∧
      t.unit u = s.startedUnit u e := by
  obtain ⟨x, hstate, hx, hsub⟩ := hs.matchers.queuedContext (e := e) (by simp [hq])
  set m := (s.setAlign { s.align with queue := rest }).setUnit u (s.startedUnit u e) with hm
  have hrest : SameBut [.matcherQueue] s (s.setAlign { s.align with queue := rest }) :=
    .of_forall fun b => by cases b <;> simp [Block.same, State.setAlign]
  have htake : m.setMatching e.circuit = m.putContext e.circuit { x with sub := some .matching } :=
    setMatching_queued (s := m) hstate hx hsub
  refine ⟨m.putContext e.circuit { x with sub := some .matching }, ?_, ?_, rfl, fun v hv => ?_,
    ⟨x, hx, putContext_takes m e.circuit { x with sub := some .matching }⟩, ?_⟩
  · rw [matcherStart_serves hq hpause (freeUnit_eq_some hu hlow), ← hm, htake]
  · exact ((hrest.mono (by decide)).trans ((setUnit_frame _ u _).mono (by decide))).trans
      ((putContext_frame m e.circuit _).mono (by decide))
  · exact State.setUnit_unit_ne _ _ hv.symm
  · exact State.setUnit_unit_eq ..

theorem primingComplete_effect {u : UnitNo} (hstate : (s.unit u).state = .priming) (hcount : (s.unit u).count = 128) :
    Happens s (.primingComplete u) [.matchers] fun t =>
      t.unit u = { s.unit u with state := .window, count := 0 } ∧ ∀ v, v ≠ u → t.unit v = s.unit v :=
  ⟨_, if_pos ⟨hstate, hcount⟩, setUnit_frame s u _, State.setUnit_unit_eq .., fun _ hv => State.setUnit_unit_ne _ _ hv.symm⟩

theorem servicePauseEnd_effect (h : s.align.pause.due = true) :
    Happens s .servicePauseEnd [.pause] fun t => t.align.pause = ⟨0, false⟩ :=
  ⟨_, if_pos h, .of_forall fun b => by cases b <;> simp [Block.same, State.setAlign], rfl⟩

theorem windowEnd_effect {u : UnitNo} {p : CopperPosition} (hstate : (s.unit u).state = .window)
    (hcount : (s.unit u).count = (s.unit u).length) (hc : (s.unit u).circuit = some c) (hp : (s.circuit c).copper = some p) :
    Happens s (.windowEnd u) [.matchers, .spans] fun t =>
      (∀ v, v ≠ u → t.unit v = s.unit v) ∧
      t.unit u = { s.unit u with state := .done, outcome := some (s.unit u).decide } ∧
      ∀ n, t.span n =
        match (s.unit u).decide with
        | .matched d => if n = p.span ∧ (s.span n).state = .up then { s.span n with record := .valid ⟨d, c, s.fc⟩ } else s.span n
        | _ => s.span n := by
  set m := s.setUnit u { s.unit u with state := .done, outcome := some (s.unit u).decide } with hm
  refine ⟨_, windowEnd_decides hstate hcount hc, ?_, fun v hv => ?_, ?_, fun n => ?_⟩
  · exact ((setUnit_frame s u _).mono (by decide)).trans ((recordResult_frame m c _).mono (by decide))
  · rw [recordResult_unit]; exact State.setUnit_unit_ne _ _ hv.symm
  · rw [recordResult_unit]; exact State.setUnit_unit_eq ..
  · cases (s.unit u).decide with
    | matched d => exact writeMatch_span (s := s.setUnit u _) hp d n
    | _ => rfl

/-- Settles O36: each row by its effect, with the candidate set of a start and the outcome of a window spelled out. -/
theorem matcherUnits : Obligations.MatcherUnits := by
  refine ⟨⟨fun s e rest u p hs hq hpause hu hlow hp => ?_, fun s => matcherStart_idle, fun s u => primingComplete_effect,
    fun s => servicePauseEnd_effect⟩, fun s u c p hstate hcount hc hp => ?_⟩
  · obtain ⟨t, hexec, hframe, hrest, hothers, htakes, hunit⟩ := matcherStart_effect hs hq hpause hu hlow
    refine ⟨t, hexec, hframe, hrest, hothers, htakes, _, _, hunit.trans (startedUnit_attached hp), fun m hkind hrecord hlo hhi => ?_,
      fun hnone => ?_⟩
    · rw [hkind, hrecord, candidateSet_confirm hlo hhi]
      exact ⟨rfl, rfl⟩
    · rw [candidateSet_full hnone]
      exact ⟨rfl, fun k => mem_windowCandidates, windowCandidates_nodup _ _⟩
  · obtain ⟨t, hexec, hframe, hothers, hunit, hspans⟩ := windowEnd_effect hstate hcount hc hp
    exact ⟨t, hexec, hframe, hothers, _, hunit, decide_full, decide_confirm, hspans⟩

end Sys2Proof.Machine
end

section
/-! SUPPORT. SPAN STATUS, LANE STATUS, BATCH STATUS and WATCH STATUS (R94, R115, R164, R170). -/

namespace Sys2Proof

/-- The entries of a table that meet a test, counted by their indexes. -/
theorem Table.filter_data_length {α : Type} {n : Nat} (t : Table n α) (p : α → Bool) :
    (t.data.filter p).length = ((List.finRange n).filter fun i => p (t.get i)).length := by
  obtain ⟨data, rfl⟩ := t
  conv_lhs => rw [← List.map_getElem_finRange data, List.filter_map, List.length_map]
  rfl

end Sys2Proof

namespace Sys2Proof.Machine

variable {s t : State} {port : Port} {q : QueuedCommand} {rest : List QueuedCommand}

/-! ### Operands in and out of their ranges -/

theorem spanOf_none {n : Nat} (h : 16 ≤ n) : spanOf n = none := by simp [spanOf, h]

@[simp] theorem spanOf_val (n : SpanNo) : spanOf n.val = some n := by simp [spanOf]

theorem batchOf_none {n : Nat} (h : 8 ≤ n) : batchOf n = none := by simp [batchOf, h]

@[simp] theorem batchOf_val (id : Fin 8) : batchOf id.val = some id := by simp [batchOf]

/-! ### The views -/

theorem occupiedEntries_eq (s : State) (n : SpanNo) :
    s.occupiedEntries n = ((List.finRange 31).filter fun i => (s.timeslotOwner ⟨n, i⟩).isSome).length :=
  Table.filter_data_length ..

theorem occupantsInFibre_eq (s : State) (n : SpanNo) : s.occupantsInFibre n =
    ((List.finRange 31).filter fun i => (s.timeslotOwner ⟨n, i⟩).any fun c => decide ((s.circuit c).state = .fibre)).length := by
  refine (Table.filter_data_length ..).trans (congrArg List.length (List.filter_congr fun i _ => ?_))
  change (match s.timeslotOwner ⟨n, i⟩ with
    | some c => (s.circuit c).state == PathState.fibre
    | none => false) = _
  cases s.timeslotOwner ⟨n, i⟩ <;> rfl

/-- R115: what LANE STATUS carries of one lane. -/
theorem LaneRecord.view_fields (l : LaneRecord) :
    l.view.state = l.state ∧ l.view.lossOfLight = l.lossOfLight ∧ l.view.lockout = l.lockout ∧ l.view.shutdown = l.shutdown ∧
      (l.state ≠ .down → l.view.errors = l.errors ∧ l.view.interval = l.interval.map Countdown.left) ∧
      (l.state = .down → l.view.errors = none ∧ l.view.interval = none) := by
  refine ⟨rfl, rfl, rfl, rfl, fun h => ?_, fun h => ?_⟩
  all_goals cases hs : l.state <;> simp_all [LaneRecord.view, LaneRecord.framed]

/-- R170, R188: which watches a clearing byte below 4 clears. -/
theorem WatchUnit.cleared_eq (u : WatchUnit) {clear : Nat} (h : clear < 4) : u.cleared clear =
    { u with
      first := if clear = 1 ∨ clear = 3 then { u.first with hit := false, hits := 0, lastHit := none } else u.first
      second := if clear = 2 ∨ clear = 3 then { u.second with hit := false, hits := 0, lastHit := none } else u.second } := by
  have hfirst : clear % 2 = 1 ↔ clear = 1 ∨ clear = 3 := by omega
  have hsecond : 2 ≤ clear ↔ clear = 2 ∨ clear = 3 := by omega
  simp only [WatchUnit.cleared, hfirst, hsecond]
  rfl

/-! ### The commands -/

theorem spanStatus_spec (s : State) (port : Port) (tag : Byte) (n : Nat) (q : QueuedCommand) (rest : List QueuedCommand)
    (h : Heads s port (.spanStatus port tag n) q rest) :
    (16 ≤ n → Refuses s (.spanStatus port tag n) port q rest .range .empty) ∧
    ∀ k : SpanNo, k.val = n →
      exec (.spanStatus port tag n) s = .next (s.answerHead port q rest .ok (.spanStatus (s.spanView k))) := by
  have hauth := h.authority (by nofun)
  refine ⟨fun hn => refuses_of_rule rfl h hauth (by rw [ruleSpanStatus, spanOf_none hn]), fun k hk => ?_⟩
  subst hk
  exact refuses_of_rule rfl h hauth (by rw [ruleSpanStatus, spanOf_val]; rfl)

theorem batchStatus_spec (s : State) (port : Port) (tag : Byte) (n : Nat) (q : QueuedCommand) (rest : List QueuedCommand)
    (h : Heads s port (.batchStatus port tag n) q rest) :
    (8 ≤ n → Refuses s (.batchStatus port tag n) port q rest .range .empty) ∧
    ∀ id : Fin 8, id.val = n →
      exec (.batchStatus port tag n) s = .next (s.answerHead port q rest .ok
        (.batchStatus ((s.batch id).map fun b => (b, b.statusCounts)))) := by
  have hauth := h.authority (by nofun)
  refine ⟨fun hn => refuses_of_rule rfl h hauth (by rw [ruleBatchStatus, batchOf_none hn]), fun id hid => ?_⟩
  subst hid
  exact refuses_of_rule rfl h hauth (by rw [ruleBatchStatus, batchOf_val]; rfl)

theorem watchStatus_spec (s : State) (port : Port) (tag : Byte) (clear : Nat) (q : QueuedCommand) (rest : List QueuedCommand)
    (h : Heads s port (.watchStatus port tag clear) q rest) :
    (4 ≤ clear → Refuses s (.watchStatus port tag clear) port q rest .range .empty) ∧
    (clear < 4 → Completes s (.watchStatus port tag clear) port q rest .ok (.watches s.watches) [.watches] fun t =>
      t.watches = s.watches.cleared clear) := by
  have hauth := h.authority (by nofun)
  refine ⟨fun hc => refuses_of_rule rfl h hauth (if_pos hc), fun hc => ?_⟩
  exact completes_of_rule rfl h hauth (if_neg (by omega)) (setWatches_frame _ _) (by decide) fun u hu => hu.sameWatches (by decide)

/-- Settles O21: each reply by the view that it carries, and the watches by the bits of the clearing byte. -/
theorem statusReplies : Obligations.StatusReplies := by
  refine ⟨fun s port tag n q rest h => ?_, fun s port tag q rest h => ?_, fun s port tag n q rest h => ?_,
    fun s port tag clear q rest h => ?_⟩
  · obtain ⟨hrange, hok⟩ := spanStatus_spec s port tag n q rest h
    refine ⟨hrange, fun k hk => (hok k hk).trans ?_⟩
    rw [State.spanView, occupiedEntries_eq, occupantsInFibre_eq]
  · refine ⟨s.lanes.a.view, s.lanes.b.view, fun i v hv => ?_, refuses_of_rule rfl h (h.authority (by nofun)) rfl⟩
    rcases hv with ⟨rfl, rfl⟩ | ⟨rfl, rfl⟩
    all_goals exact LaneRecord.view_fields _
  · exact batchStatus_spec s port tag n q rest h
  · obtain ⟨hrange, hok⟩ := watchStatus_spec s port tag clear q rest h
    refine ⟨hrange, fun hc => ?_⟩
    obtain ⟨t, hexec, hanswer, hframe, hwatches⟩ := hok hc
    have hcleared := hwatches.trans (WatchUnit.cleared_eq _ hc)
    exact ⟨t, hexec, hanswer, hframe, (congrArg WatchUnit.joint hcleared :),
      congrArg WatchUnit.first hcleared, congrArg WatchUnit.second hcleared⟩

end Sys2Proof.Machine
end

section
/-! SUPPORT. The commands on a span: SET SPAN, RETIRE SPAN and RESTART SPAN (R90, R92, R93), and a span that goes UP or DOWN or hunts
(R78 to R82). -/

namespace Sys2Proof.Machine

variable {s t u : State} {port : Port} {q : QueuedCommand} {rest : List QueuedCommand} {n : SpanNo}

/-! ### One span written -/

theorem setSpan_spansBut (s : State) (n : SpanNo) (x : Span) : SpansBut n s (s.setSpan n x) :=
  fun _ hm => State.setSpan_span_ne _ _ (Ne.symm hm)

theorem SpansBut.of_frame {l : List Block} (h : SpansBut n s t) (hf : SameBut l t u) (hb : Block.spans ∉ l) : SpansBut n s u :=
  fun m hm => (hf.sameSpan hb m).trans (h m hm)

/-- A step that writes the unit of one span alone. -/
theorem happens_setSpan {c : Instr} {x : Span} {effect : State → Prop} (he : exec c s = .next (s.setSpan n x))
    (heff : ∀ t, t.span n = x → SpansBut n s t → effect t) : Happens s c [.spans] effect :=
  ⟨_, he, setSpan_frame s n x, heff _ (State.setSpan_span_eq ..) (setSpan_spansBut s n x)⟩

@[simp] theorem State.setSpan_setSpan (s : State) (n : SpanNo) (x y : Span) : (s.setSpan n x).setSpan n y = s.setSpan n y := by
  simp only [State.setSpan, State.setSpans_spans, Table.set_set_eq]
  rfl

/-! ### SET SPAN (R93) -/

theorem clampInt_eq {lo hi : Int} (h : lo ≤ hi) (z : Int) : clampInt lo hi z = max lo (min hi z) := by
  unfold clampInt
  split_ifs <;> omega

theorem noSpanSettings_iff {p : SpanSettings} : noSpanSettings p = true ↔ p = ⟨none, none, none, none, none⟩ := by
  obtain ⟨wlo, whi, tolerance, slipReports, autoRetire⟩ := p
  simp [noSpanSettings, and_assoc]

/-- R93: the unit with the settings given: a pair that would cross is left as it was, and every other value comes to the nearest of its
range. -/
theorem Span.applySettings_eq (u : Span) (p : SpanSettings) : u.applySettings p = { u with
    wlo := if decide (p.whi.getD u.whi < p.wlo.getD u.wlo) then u.wlo else (p.wlo.map fun z => max (-127) (min 0 z)).getD u.wlo
    whi := if decide (p.whi.getD u.whi < p.wlo.getD u.wlo) then u.whi else (p.whi.map fun z => max 0 (min 127 z)).getD u.whi
    tolerance := (p.tolerance.map fun z => min 8 z).getD u.tolerance
    slipReports := p.slipReports.getD u.slipReports
    autoRetire := p.autoRetire.getD u.autoRetire } := by
  obtain ⟨wlo, whi, tolerance, slipReports, autoRetire⟩ := p
  have htolerance : ∀ z, clampNat 0 8 z = min 8 z := fun z => (clampNat_eq (Nat.zero_le 8) z).trans (Nat.zero_max _)
  have hwlo : ∀ w : Int, (wlo.isSome → wlo = some w) → (if wlo.isSome then clampInt (-127) 0 w else u.wlo) =
      (wlo.map fun z => max (-127) (min 0 z)).getD u.wlo := fun w hw => by
    cases wlo with
    | none => rfl
    | some z => obtain rfl := Option.some.inj (hw rfl); exact clampInt_eq (by decide) z
  have hwhi : ∀ w : Int, (whi.isSome → whi = some w) → (if whi.isSome then clampInt 0 127 w else u.whi) =
      (whi.map fun z => max 0 (min 127 z)).getD u.whi := fun w hw => by
    cases whi with
    | none => rfl
    | some z => obtain rfl := Option.some.inj (hw rfl); exact clampInt_eq (by decide) z
  unfold Span.applySettings windowPair
  by_cases hcross : whi.getD u.whi < wlo.getD u.wlo
  · simp only [hcross, decide_true, if_true]
    cases tolerance with
    | none => rfl
    | some z => simp only [htolerance]; rfl
  · simp only [hcross, decide_false, Bool.false_eq_true, if_false]
    rw [hwlo _ fun h => by obtain ⟨z, rfl⟩ := Option.isSome_iff_exists.mp h; rfl,
      hwhi _ fun h => by obtain ⟨z, rfl⟩ := Option.isSome_iff_exists.mp h; rfl]
    cases tolerance with
    | none => rfl
    | some z => simp only [htolerance]; rfl

theorem setSpan_command (s : State) (port : Port) (tag : Byte) (n : Nat) (p : SpanSettings) (q : QueuedCommand)
    (rest : List QueuedCommand) (h : Takes s port (.setSpan port tag n p) q rest) :
    if 16 ≤ n then Refuses s (.setSpan port tag n p) port q rest .range .empty
    else if p = ⟨none, none, none, none, none⟩ then Refuses s (.setSpan port tag n p) port q rest .format .empty
    else ∀ k : SpanNo, k.val = n →
      Completes s (.setSpan port tag n p) port q rest .ok (((s.span k).applySettings p).settingsReply k) [.spans] fun t =>
        t.span k = (s.span k).applySettings p ∧ SpansBut k s t := by
  have hauth := h.authority
  refine ite_prop_iff_and.mpr ⟨fun hn => refuses_of_rule rfl h.toHeads hauth (by rw [ruleSetSpan, spanOf_none hn]), fun hn => ?_⟩
  have hrule : ∀ (k : SpanNo) (s : State), ruleSetSpan k.val p s = if noSpanSettings p then answered s .format .empty
      else answered (s.setSpan k ((s.span k).applySettings p)) .ok (((s.span k).applySettings p).settingsReply k) := fun k s => by
    rw [ruleSetSpan, spanOf_val]
    simp only [State.setSpan_span_eq]
  refine ite_prop_iff_and.mpr ⟨fun hnone => refuses_of_rule rfl h.toHeads hauth ?_, fun hnone k hk => ?_⟩
  · rw [show n = (⟨n, by omega⟩ : SpanNo).val from rfl, hrule, if_pos (noSpanSettings_iff.mpr hnone)]
  · subst hk
    have htake := takeHead_frame s port q rest
    refine completes_of_rule rfl h.toHeads hauth ((hrule k _).trans (if_neg fun h => hnone (noSpanSettings_iff.mp h)))
      (setSpan_frame _ k _) (by decide) fun u hu => ⟨?_, ?_⟩
    · rw [hu.sameSpan (by decide), State.setSpan_span_eq, htake.sameSpan (by decide)]
    · exact SpansBut.of_frame (s := s) (setSpan_spansBut (s.takeHead port q rest) k _) hu (by decide)

/-! ### RETIRE SPAN (R90) -/

/-- Conditioning does not rest on a span without circuits (R17). -/
theorem evaluateAll_setSpan (hev : AllEvaluated s) (hfree : ∀ c i, (s.circuit c).copper ≠ some ⟨n, i⟩) (x : Span) :
    (s.setSpan n x).evaluateAll = s.setSpan n x := by
  have hcircuits : (s.setSpan n x).circuits.map (evaluated (s.setSpan n x).spans (s.setSpan n x).lanes) = (s.setSpan n x).circuits := by
    apply Table.ext_get
    intro c
    rw [Table.get_map]
    exact (evaluated_setSpan x (hfree c)).trans (hev c)
  rw [State.evaluateAll, hcircuits]
  rfl

/-- R90: a span without circuits retires: its unit and its report. -/
theorem retireSpan_free (hev : AllEvaluated s) (hown : CopperOwned s) (hfree : s.occupiedEntries n = 0) :
    s.retireSpan n = (s.setSpan n (s.span n).retired).handReport (.span n .retired) := by
  have hno : ∀ c i, (s.circuit c).copper ≠ some ⟨n, i⟩ := fun c i hc => by
    have := hown c _ hc
    rw [(occupied_none s n).mp hfree i] at this
    cases this
  rw [State.retireSpan, evaluateAll_setSpan hev hno]

theorem retireSpan_command (s : State) (port : Port) (tag : Byte) (n : Nat) (q : QueuedCommand) (rest : List QueuedCommand)
    (hlaw : Lawful s) (h : Takes s port (.retireSpan port tag n) q rest) :
    (16 ≤ n → Refuses s (.retireSpan port tag n) port q rest .range .empty) ∧
    ∀ k : SpanNo, k.val = n →
      if (s.span k).state = .retired then Refuses s (.retireSpan port tag n) port q rest .state .empty
      else if s.occupiedEntries k ≠ 0 then
        Refuses s (.retireSpan port tag n) port q rest .state (.occupiedEntries (s.occupiedEntries k))
      else Completes s (.retireSpan port tag n) port q rest .ok .empty [.spans, .reports] fun t =>
        SpansBut k s t ∧ Reported [.span k .retired] s t ∧ t.span k = (s.span k).retired := by
  have hauth := h.authority
  refine ⟨fun hn => refuses_of_rule rfl h.toHeads hauth (by rw [ruleRetireSpan, spanOf_none hn]), fun k hk => ?_⟩
  subst hk
  have hrule : ∀ s, ruleRetireSpan k.val s = if (s.span k).state = .retired then answered s .state .empty
      else if s.occupiedEntries k ≠ 0 then answered s .state (.occupiedEntries (s.occupiedEntries k))
      else answered (s.retireSpan k) .ok .empty := fun s => by rw [ruleRetireSpan, spanOf_val]
  refine ite_prop_iff_and.mpr ⟨fun hret => refuses_of_rule rfl h.toHeads hauth ((hrule _).trans (if_pos hret)), fun hret => ?_⟩
  refine ite_prop_iff_and.mpr ⟨fun hocc => refuses_of_rule rfl h.toHeads hauth
    ((hrule _).trans ((if_neg hret).trans (if_pos hocc))), fun hocc => ?_⟩
  have htake := takeHead_frame s port q rest
  have hsound : Sound (s.takeHead port q rest) := hlaw.sound.of_frame htake (by decide) (by decide) (by decide) (by decide) (by decide)
  have hset := setSpan_frame (s.takeHead port q rest) k ((s.takeHead port q rest).span k).retired
  have hreport := handReport_frame ((s.takeHead port q rest).setSpan k ((s.takeHead port q rest).span k).retired) (.span k .retired)
  have hfree := retireSpan_free hsound.conditioned hsound.copper (n := k) (not_not.mp hocc)
  refine completes_of_rule (t := (s.takeHead port q rest).retireSpan k) rfl h.toHeads hauth
    ((hrule _).trans ((if_neg hret).trans (if_neg hocc))) ?_ (by decide) fun u hu => ?_
  · rw [hfree]
    exact (hset.mono (by decide)).trans (hreport.mono (by decide))
  · rw [hfree] at hu
    refine ⟨?_, ?_, ?_⟩
    · exact (SpansBut.of_frame (s := s) (setSpan_spansBut (s.takeHead port q rest) k _) hreport (by decide)).of_frame hu (by decide)
    · exact (((handReport_reported _ _).of_frame hu (by decide)).after_frame hset (by decide) (by decide)).after_frame htake
        (by decide) (by decide)
    · rw [hu.sameSpan (by decide), hreport.sameSpan (by decide), State.setSpan_span_eq, htake.sameSpan (by decide)]

/-! ### A span that goes DOWN (R82) -/

/-- The loss of a span rests on no port. -/
theorem SpanGoesDown.withPortsOf {cause : SpanDownCause} (h : SpanGoesDown n cause s t) (a b : State) :
    SpanGoesDown n cause (s.withPortsOf a) (t.withPortsOf b) := by
  have hs := (withPortsOf_frame s a).symm
  have ht := withPortsOf_frame t b
  obtain ⟨bodies, hlost, hreported, hretired, hhunts⟩ := h
  obtain ⟨messages, hsent, hmessages, halone⟩ := hlost.handedOn.sent
  obtain ⟨events, hwitnessed, hevents, hstarted⟩ := hlost.handedOn.events
  refine ⟨bodies, ⟨hlost.rescued, hlost.withdrawn, hlost.others, ⟨hlost.matchers.queue, hlost.matchers.units⟩,
    ⟨⟨messages, ?_, hmessages, halone⟩, ⟨events, hwitnessed, hevents, hstarted⟩⟩, hlost.timeslots, hlost.slots, hlost.spans⟩, ?_,
    hretired, hhunts⟩
  · exact (hsent.of_frame ht (by decide)).after_frame hs (by decide)
  · exact (hreported.of_frame ht (by decide)).after_frame hs (by decide) (by decide)

theorem SpanGoesDown.past_ports {cause : SpanDownCause} {s' t' : State} (hs : SameBut [.ports] s' s) (ht : SameBut [.ports] t t')
    (h : SpanGoesDown n cause s t) : SpanGoesDown n cause s' t' := by
  rw [hs.symm.eq_withPortsOf, ht.eq_withPortsOf]
  exact h.withPortsOf s' t'

theorem spanLowered_frame (s : State) (n : SpanNo) (cause : SpanDownCause) : SameBut releaseBlocks s (s.spanLowered n cause) :=
  ((((setSpan_frame s n _).mono (by decide)).trans (spanLost_frame _ n _)).trans ((setSpan_frame _ n _).mono (by decide))).trans
    ((handReport_frame _ _).mono (by decide))

/-- A loss leaves the indication of its span's receiver, whether the span hunts or retires. -/
theorem spanLowered_lossOfSignal (hb : BatchLaw s) (hc : CopperOwned s) (n : SpanNo) (cause : SpanDownCause) :
    ((s.spanLowered n cause).span n).lossOfSignal = (s.span n).lossOfSignal := by
  have hlow : ((s.setSpan n (s.span n).lowered).span n).state ≠ .retired := by
    rw [State.setSpan_span_eq]; nofun
  obtain ⟨⟨bodies, -, -, hretired, hkept⟩, -⟩ := spanLost_spec (hb.setSpan n (s.span n).lowered) (hc.setSpan n _) n (s.span n).record hlow
  rw [State.setSpan_span_eq] at hretired hkept
  obtain ⟨v, hv⟩ : ∃ v, v = (s.setSpan n (s.span n).lowered).spanLost n (s.span n).record := ⟨_, rfl⟩
  have hfin : s.spanLowered n cause = (v.setSpan n { v.span n with record := .invalid }).handReport (.span n (.down cause (s.span n).record)) := by
    rw [hv]; rfl
  rw [← hv] at hretired hkept
  have hlost : (v.span n).lossOfSignal = (s.span n).lossOfSignal := by
    by_cases hr : RetiresAtLoss n (s.setSpan n (s.span n).lowered) v
    · rw [(hretired hr).1]; rfl
    · rw [hkept hr]; rfl
  rw [hfin, (handReport_frame _ _).sameSpan (by decide), State.setSpan_span_eq]
  exact hlost

/-- R78, R79, R82, R92: the unit of a span that hunts, and what its hunt leaves of the record. -/
theorem hunt_spanHunts (u : Span) : SpanHunts u u.hunt :=
  ⟨rfl, rfl, rfl, rfl, rfl, rfl, rfl, rfl, rfl, rfl, rfl, rfl, rfl, rfl, rfl, rfl⟩

theorem restartSpan_command (s : State) (port : Port) (tag : Byte) (n : Nat) (q : QueuedCommand) (rest : List QueuedCommand)
    (hlaw : Lawful s) (h : Heads s port (.restartSpan port tag n) q rest) :
    (16 ≤ n → Refuses s (.restartSpan port tag n) port q rest .range .empty) ∧
    ∀ k : SpanNo, k.val = n →
      Completes s (.restartSpan port tag n) port q rest .ok .empty releaseBlocks fun t =>
        ((s.span k).state = .up → SpanGoesDown k .command s t) ∧
        ((s.span k).state ≠ .up → SpanHunts (s.span k) (t.span k) ∧ (t.span k).record = (s.span k).record ∧
          SpansBut k s t ∧ SameBut [.ports, .spans] s t) := by
  have hauth := h.authority (by nofun)
  refine ⟨fun hn => refuses_of_rule rfl h hauth (by rw [ruleRestartSpan, spanOf_none hn]), fun k hk => ?_⟩
  subst hk
  have hrule : ∀ s, ruleRestartSpan k.val s = answered (s.restart k) .ok .empty := fun s => by rw [ruleRestartSpan, spanOf_val]
  have htake := takeHead_frame s port q rest
  obtain ⟨v, hv⟩ : ∃ v, v = s.takeHead port q rest := ⟨_, rfl⟩
  rw [← hv] at htake
  have hspan : v.span k = s.span k := htake.sameSpan (by decide) k
  have hup : (s.span k).state = .up → v.restart k = v.spanLowered k .command := fun h => by
    rw [State.restart, hspan, h]
  have hnot : (s.span k).state ≠ .up → v.restart k = v.setSpan k (s.span k).hunt := fun h => by
    rw [State.restart, hspan]
    cases hst : (s.span k).state with
    | up => exact absurd hst h
    | down => rfl
    | retired => rfl
  refine completes_of_rule (t := v.restart k) rfl h hauth (by rw [hrule, hv]) ?_ (by decide) fun u hu => ⟨fun hst => ?_, fun hst => ?_⟩
  · rw [← hv]
    by_cases hst : (s.span k).state = .up
    · rw [hup hst]; exact spanLowered_frame v k _
    · rw [hnot hst]; exact (setSpan_frame v k _).mono (by decide)
  · rw [hup hst] at hu
    have hsound : Sound v := hlaw.sound.of_frame htake (by decide) (by decide) (by decide) (by decide) (by decide)
    exact (spanLowered_spec hsound.batches hsound.copper k .command).past_ports htake hu
  · rw [hnot hst] at hu
    have hset := setSpan_frame v k (s.span k).hunt
    have huk : u.span k = (s.span k).hunt := by rw [hu.sameSpan (by decide), State.setSpan_span_eq]
    refine ⟨by rw [huk]; exact hunt_spanHunts _, by rw [huk]; rfl, fun m hm => ?_, ?_⟩
    · rw [hu.sameSpan (by decide), State.setSpan_span_ne _ _ hm.symm, htake.sameSpan (by decide)]
    · exact ((htake.mono (by decide)).trans (hset.mono (by decide))).trans (hu.mono (by decide))

/-- Settles O39: each command by its checks and its effect, with the settings, the retired unit and the count of occupied timeslots
spelled out. -/
theorem spanCommands : Obligations.SpanCommands := by
  refine ⟨fun s port tag n p q rest h => ?_, fun s port tag n q rest hlaw h => ?_, fun s port tag n q rest hlaw h => ?_⟩
  · have hset := setSpan_command s port tag n p q rest h
    intro i
    split_ifs at hset ⊢
    · exact hset
    · exact hset
    · intro k hk
      have hk := hset k hk
      rw [Span.applySettings_eq] at hk
      exact hk
  · obtain ⟨hrange, hretire⟩ := retireSpan_command s port tag n q rest hlaw h
    refine ⟨hrange, fun k hk => ?_⟩
    have hk := hretire k hk
    intro occupied
    have hocc : s.occupiedEntries k = occupied := occupiedEntries_eq s k
    rw [hocc] at hk
    split_ifs at hk ⊢
    · exact hk
    · exact hk
    · obtain ⟨t, hexec, hanswer, hframe, hothers, hreported, hspan⟩ := hk
      refine ⟨t, hexec, hanswer, hframe, hothers, hreported, ?_⟩
      rw [hspan]
      exact ⟨rfl, rfl, rfl, rfl, rfl, rfl, rfl, fun j => ⟨Table.get_fill .., Table.get_fill ..⟩, rfl, rfl, rfl, rfl, rfl, rfl, rfl, rfl⟩
  · exact restartSpan_command s port tag n q rest hlaw h

/-! ### The rows -/

/-- R78, R79, R81: the indication of a loss, and what the span makes of it by its state. -/
theorem spanLossOfSignal_up (hlaw : Lawful s) (hst : (s.span n).state = .up) :
    Happens s (.spanLossOfSignal n) releaseBlocks fun t =>
      SpanGoesDown n .signal (s.setSpan n { s.span n with lossOfSignal := true }) t ∧ (t.span n).lossOfSignal = true := by
  obtain ⟨m, hm⟩ : ∃ m, m = s.setSpan n { s.span n with lossOfSignal := true } := ⟨_, rfl⟩
  have hmn : m.span n = { s.span n with lossOfSignal := true } := by rw [hm, State.setSpan_span_eq]
  have hexec : exec (.spanLossOfSignal n) s = .next (m.spanLowered n .signal) := by
    show Host.Outcome.next ((s.setSpan n { s.span n with lossOfSignal := true }).signalLost n) = _
    rw [← hm, State.signalLost, hmn]
    simp only [hst]
  have hb : BatchLaw m := hm ▸ hlaw.batches.setSpan n _
  have hc : CopperOwned m := hm ▸ hlaw.sound.copper.setSpan n _
  refine ⟨_, hexec, ?_, by rw [← hm]; exact spanLowered_spec hb hc n .signal, ?_⟩
  · exact (hm ▸ (setSpan_frame s n _).mono (by decide) : SameBut releaseBlocks s m).trans (spanLowered_frame m n _)
  · rw [spanLowered_lossOfSignal hb hc, hmn]

theorem spanLossOfSignal_down (hst : (s.span n).state = .down) :
    exec (.spanLossOfSignal n) s = .next ((s.setSpan n { s.span n with lossOfSignal := true }).setSpan n
      ({ s.span n with lossOfSignal := true } : Span).hunt) := by
  show Host.Outcome.next ((s.setSpan n { s.span n with lossOfSignal := true }).signalLost n) = _
  rw [State.signalLost, State.setSpan_span_eq]
  simp only [hst]

theorem spanLossOfSignal_retired (hst : (s.span n).state = .retired) :
    exec (.spanLossOfSignal n) s = .next (s.setSpan n { s.span n with lossOfSignal := true }) := by
  show Host.Outcome.next ((s.setSpan n { s.span n with lossOfSignal := true }).signalLost n) = _
  rw [State.signalLost, State.setSpan_span_eq]
  simp only [hst]

theorem spanLossOfSignal_notUp (hst : (s.span n).state ≠ .up) :
    Happens s (.spanLossOfSignal n) [.spans] fun t =>
      SpansBut n s t ∧ (t.span n).lossOfSignal = true ∧
      ((s.span n).state = .down → SpanHunts (s.span n) (t.span n) ∧ (t.span n).record = (s.span n).record) ∧
      ((s.span n).state = .retired → t.span n = { s.span n with lossOfSignal := true }) := by
  cases hs : (s.span n).state with
  | up => exact absurd hs hst
  | down =>
    have hexec := spanLossOfSignal_down hs
    rw [State.setSpan_setSpan] at hexec
    refine happens_setSpan hexec fun t ht hothers => ⟨hothers, by rw [ht]; rfl, fun _ => ?_, nofun⟩
    rw [ht]
    exact ⟨hunt_spanHunts { s.span n with lossOfSignal := true }, rfl⟩
  | retired => exact happens_setSpan (spanLossOfSignal_retired hs) fun t ht hothers => ⟨hothers, by rw [ht], nofun, fun _ => ht⟩

/-- R80: a span goes UP with the two frames in its store. -/
theorem spanUp_spec {older newer : SpanSamples} (hst : (s.span n).state = .down) (hdue : (s.span n).upDue = true)
    (hrecent : (s.span n).recent = [older, newer]) :
    Happens s (.spanUp n) [.spans, .circuits, .reports] fun t =>
      SpansBut n s t ∧ t.span n = (s.span n).raised ∧ (∀ c, t.circuit c = evaluated t.spans t.lanes (s.circuit c)) ∧
        Reported [.span n (.up 2)] s t := by
  obtain ⟨v, hv⟩ : ∃ v, v = (s.setSpan n (s.span n).raised).evaluateAll := ⟨_, rfl⟩
  have hset := setSpan_frame s n (s.span n).raised
  have heval := evaluateAll_frame (s.setSpan n (s.span n).raised)
  rw [← hv] at heval
  have hvn : v.span n = (s.span n).raised := by rw [heval.sameSpan (by decide), State.setSpan_span_eq]
  have hfill : (v.span n).store.length = 2 := by rw [hvn]; exact congrArg List.length hrecent
  have hexec : exec (.spanUp n) s = .next (v.handReport (.span n (.up 2))) := by
    show execSpanUp n s = _
    rw [execSpanUp, if_pos ⟨hst, hdue⟩, ← hfill, hv]
    rfl
  have hreport := handReport_frame v (.span n (.up 2))
  refine ⟨_, hexec, ?_, ?_, ?_, fun c => ?_, ?_⟩
  · exact ((hset.mono (by decide)).trans (heval.mono (by decide))).trans (hreport.mono (by decide))
  · exact ((setSpan_spansBut s n _).of_frame heval (by decide)).of_frame hreport (by decide)
  · rw [hreport.sameSpan (by decide), hvn]
  · rw [hreport.sameCircuit (by decide), hreport.evaluated_eq (by decide) (by decide), hv, State.evaluateAll_circuit]
    rfl
  · exact ((handReport_reported v _).after_frame heval (by decide) (by decide)).after_frame hset (by decide) (by decide)

/-- Settles O40: each row by its effect, the losses of an UP span by `spanLowered_spec`. -/
theorem spanTransitions : Obligations.SpanTransitions := by
  refine ⟨⟨fun s n => spanLossOfSignal_up, fun s n => spanLossOfSignal_notUp, fun s n hlaw hst hdue => ?_, fun s n => ?_⟩,
    fun s n hst hphase hfound => ?_, fun s n hst hphase hdue => ?_, fun s n older newer hst hdue hrecent => ?_⟩
  · exact ⟨_, if_pos ⟨hst, hdue⟩, spanLowered_frame s n _, spanLowered_spec hlaw.batches hlaw.sound.copper n .alignment⟩
  · exact happens_setSpan rfl fun t ht hothers => ⟨hothers, ht⟩
  · refine happens_setSpan (if_pos ⟨hst, hphase, hfound⟩) fun t ht hothers => ⟨hothers, ?_⟩
    rw [ht]
    exact ⟨rfl, rfl, rfl, rfl, rfl, rfl, rfl⟩
  · exact happens_setSpan (if_pos ⟨hst, hphase, hdue⟩) fun t ht hothers => ⟨hothers, by rw [ht]; exact hunt_spanHunts _⟩
  · obtain ⟨t, hexec, hframe, hothers, hspan, hcircuits, hreported⟩ := spanUp_spec hst hdue hrecent
    refine ⟨t, hexec, hframe, hothers, ?_⟩
    rw [hspan]
    exact ⟨rfl, rfl, hrecent, rfl, rfl, rfl, fun i => Table.get_fill .., rfl, rfl, rfl, hcircuits, hreported⟩

end Sys2Proof.Machine
end

section
/-! SUPPORT. One circuit at a slip: what becomes of its measured Δ in MEASURING, ALIGNED and FIBRE-KEPT (R37, R65, R69). -/

namespace Sys2Proof.Machine

variable {s t u w : State} {n : SpanNo} {c : CircuitNo} {r : Circuit}

/-! ### What is handed on, one step after another -/

theorem HandedOn.trans {a b : List CircuitNo} {m m' : List PeerMessage} {e e' : List (CircuitNo × EventClass)} (h : HandedOn a m e s t)
    (k : HandedOn b m' e' t u) (hl : t.peer.state = s.peer.state) (hc : t.fc = s.fc)
    (hb : ∀ d, (t.circuit d).batch.isSome = true → (s.circuit d).batch.isSome = true) :
    HandedOn (a ++ b) (m ++ m') (e ++ e') s u := by
  obtain ⟨x, hx, hx', hx''⟩ := h.sent
  obtain ⟨y, hy, hy', hy''⟩ := k.sent
  obtain ⟨v, hv, hv', hv''⟩ := h.events
  obtain ⟨w, hw, hw', hw''⟩ := k.events
  have hnone : ∀ d, (s.circuit d).batch = none → (t.circuit d).batch = none := fun d hd => by
    have := mt (hb d)
    simpa [hd] using this
  refine ⟨⟨x ++ y, hx.trans hy, by rw [List.filter_append, hx', hy'], fun g => ?_⟩,
    ⟨v ++ w, hv.trans hw hc, by rw [List.filter_append, hv', hw'], fun d hd hm => ?_⟩⟩
  · rw [hx'' (g.imp (fun g d hd => g d (List.mem_append_left _ hd)) id),
      hy'' (g.imp (fun g d hd => hnone d (g d (List.mem_append_right _ hd))) fun g => by rwa [hl])]
  · rcases List.mem_append.mp hd with hd | hd
    · exact hv'' d hd hm
    · exact ⟨hl ▸ (hw'' d hd hm).1, hb _ (hw'' d hd hm).2⟩

/-- A step that touches neither the messages nor the watches hands nothing on. -/
theorem SameBut.handedOn {l : List Block} (h : SameBut l s t) (ho : Block.overhead ∉ l) (hw : Block.watches ∉ l) :
    HandedOn [] [] [] s t :=
  ⟨⟨[], h.sentNone ho, rfl, fun _ => rfl⟩, [], h.witnessed hw, rfl, nofun⟩

theorem HandedOn.after_frame {l : List Block} {a : List CircuitNo} {m : List PeerMessage} {e : List (CircuitNo × EventClass)}
    (h : HandedOn a m e t u) (hf : SameBut l s t) (ho : Block.overhead ∉ l) (hw : Block.watches ∉ l) (hl : Block.link ∉ l)
    (hc : Block.clock ∉ l) (hb : ∀ d, (t.circuit d).batch = (s.circuit d).batch) : HandedOn a m e s u :=
  (hf.handedOn ho hw).trans h (hf.sameLink hl) (hf.sameClock hc) fun d hd => by rwa [← hb]

/-! ### A record written -/

theorem Becomes.batch (h : Becomes c r s w) (hb : r.batch = (s.circuit c).batch) (d : CircuitNo) :
    (w.circuit d).batch = (s.circuit d).batch := by
  by_cases hd : d = c
  · subst hd; rw [h.1, evaluated_batch, hb]
  · rw [h.2 d (by simpa using hd)]

theorem Sound.becomes (hs : Sound s) (h : Becomes c r s w) (hf : SameBut [.circuits] s w) (hb : r.batch = (s.circuit c).batch)
    (hc : r.copper = (s.circuit c).copper) : Sound w := by
  refine ⟨hs.batches.of_frame hf (by decide) (h.batch hb), fun d => ?_, fun d p hp => ?_⟩
  · by_cases hd : d = c
    · subst hd; rw [h.1, evaluated_evaluated]
    · rw [h.2 d (by simpa using hd), hf.evaluated_eq (by decide) (by decide), hs.conditioned d]
  · rw [hf.sameTimeslotOwner (by decide)]
    refine hs.copper d p ?_
    by_cases hd : d = c
    · subst hd; rwa [h.1, evaluated_copper, hc] at hp
    · rwa [h.2 d (by simpa using hd)] at hp

/-! ### One circuit's part in a slip -/

/-- Circuit `c`'s part in a slip: the record that it ends with, the reason with which it is abandoned, if it is, and what joins the
matcher queue; every other circuit ends as it was, but for its batch. -/
structure Slid (c : CircuitNo) (r : Circuit) (reason : Option Reason) (joins : List QueueEntry) (s t : State) : Prop where
  ends : Ends c r (if reason.isSome then none else s.peer.response.get c) s t
  passed : ∀ d, d ≠ c → Ends d (s.circuit d) (s.peer.response.get d) s t
  member : ∀ d, (t.circuit d).batch.isSome = true → (s.circuit d).batch.isSome = true
  handedOn : HandedOn (reason.toList.map fun _ => c)
    (reason.toList.flatMap fun reason => (s.circuit c).messages fun code => .abandon code reason)
    (reason.toList.map fun _ => (c, .abandon)) s t
  reports : ∃ bodies, Reported bodies s t ∧ (reason.isSome = true → OutcomesReported c (s.circuit c) r.outcome.toList bodies)
  queue : t.align.queue = s.align.queue ++ joins
  units : ∀ v, t.unit v = s.unit v
  frame : SameBut turnBlocks s t
  sound : Sound t

/-- A record written, and no more. -/
theorem Slid.of_write (hs : Sound s) (h : Becomes c r s t) (hf : SameBut [.circuits] s t) (hb : r.batch = (s.circuit c).batch)
    (hc : r.copper = (s.circuit c).copper) : Slid c r none [] s t where
  ends := ⟨r.batch, _, .inl rfl, .inl ⟨h.1, by rw [hf.sameResponse (by decide)]; rfl⟩⟩
  passed d hd := .same (h.2 d (by simpa using hd)) (by rw [hf.sameResponse (by decide)])
  member d := by rw [h.batch hb]; exact id
  handedOn := hf.handedOn (by decide) (by decide)
  reports := ⟨[], hf.reported (by decide), nofun⟩
  queue := by rw [hf.sameQueue (by decide), List.append_nil]
  units := hf.sameUnit (by decide)
  frame := hf.mono (by decide)
  sound := hs.becomes h hf hb hc

/-- A circuit that joins the matcher queue after its record has been written. -/
theorem Slid.join {reason : Option Reason} (h : Slid c r reason [] s t) (kind : SearchKind) :
    Slid c r reason [⟨c, kind⟩] s (t.joinQueue c kind) :=
  have hf := joinQueue_frame t c kind
  { ends := h.ends
    passed := h.passed
    member := h.member
    handedOn := ⟨h.handedOn.sent, h.handedOn.events⟩
    reports := h.reports
    queue := by
      show t.align.queue ++ [⟨c, kind⟩] = _
      rw [h.queue, List.append_nil]
    units := h.units
    frame := h.frame.trans (hf.mono (by decide))
    sound := h.sound.of_frame hf (by decide) (by decide) (by decide) (by decide) (by decide) }

/-- A circuit that stands nowhere in the Path Alignment Unit gives nothing up there. -/
theorem GivenUp.still (h : GivenUp c s t) (hc : Unplaced c s) : t.align.queue = s.align.queue ∧ ∀ v, t.unit v = s.unit v := by
  obtain ⟨hqueue, hunits⟩ := h
  refine ⟨?_, fun v => ?_⟩
  · rw [hqueue, List.filter_eq_self]
    intro e he
    simp only [ne_eq, decide_eq_true_eq]
    rintro rfl
    exact hc.unqueued (List.mem_map_of_mem he)
  · rw [hunits, if_neg fun hv => hc.unmatched ⟨v, hv⟩]

/-- R42: a record written, and the abandonment of its circuit. -/
theorem Slid.of_abandon (hs : Sound s) (hw : Becomes c r s w) (hf : SameBut [.circuits] s w) (hb : r.batch = (s.circuit c).batch)
    (hc : r.copper = (s.circuit c).copper) (hn : r.notify = (s.circuit c).notify) (hcode : r.code = (s.circuit c).code)
    (hfree : Unplaced c w) {reason : Reason} (hsends : ¬ (reason = .peerDeclined ∨ reason = .peerAbandoned)) :
    Slid c (r.abandonedRecord reason none s.fc) (some reason) [] s (w.abandon c reason none) := by
  have hsound := hs.becomes hw hf hb hc
  obtain ⟨bodies, hl, hnote, hresp, hgiven⟩ := abandon_loud hsound.batches c reason none
  have hfr := abandon_frame w c reason none
  have hmessages : (w.circuit c).messages (fun code => .abandon code reason) = (s.circuit c).messages fun code => .abandon code reason := by
    rw [Circuit.messages, hw.1, evaluated_code, hcode, ← Circuit.messages]
  have htaken := (hl.turn fun o ho hn => hnote hn o ho).taken (outs := ((w.circuit c).abandonedRecord reason none w.fc).outcome.toList)
    (gone := true) hsound.batches rfl (fun m hm => by
      simp only [if_neg hsends, Circuit.messages, List.nil_append] at hm
      obtain ⟨code, -, rfl⟩ := List.mem_map.mp hm; rfl) hl.passed rfl
    ⟨bodies, hl.reports, fun hn o ho => hnote hn o (by simpa using ho), .of_spans (hfr.sameSpans (by decide)) _⟩
    (by simpa using hgiven.all) (hfr.mono (by decide)) (abandon_sound hsound c _ _)
  obtain ⟨hqueue, hunits⟩ := hgiven.still hfree
  have hbatch := hw.batch hb
  have hpassed : ∀ d, d ≠ c → Ends d (s.circuit d) (s.peer.response.get d) s (w.abandon c reason none) := fun d hd => by
    have := (htaken.passed d hd).of_start (hf.sameLink (by decide)) (hf.sameNode (by decide))
    rwa [hw.2 d (by simpa using hd), hf.sameResponse (by decide)] at this
  refine ⟨?_, hpassed, fun d hd => ?_, ?_, ⟨bodies, hl.reports.after_frame hf (by decide) (by decide), fun _ hnot o ho => ?_⟩, ?_, fun v => ?_,
    (hf.mono (by decide)).trans hfr, htaken.sound⟩
  · have hrecord := hl.record
    rw [hw.1, hf.sameClock (by decide)] at hrecord
    rcases hrecord with h | ⟨-, h⟩
    · exact ⟨_, _, .inl rfl, .inl ⟨h, hresp⟩⟩
    · exact ⟨none, _, .inr rfl, .inl ⟨h, hresp⟩⟩
  · by_cases hdc : d = c
    · subst hdc
      rw [← hbatch]; exact htaken.member hd
    · rcases (hpassed d hdc).kept.2.2.2 with h | h
      · rwa [← h]
      · rw [h] at hd; cases hd
  · have := htaken.handedOn
    simp only [if_neg hsends, hmessages, List.nil_append] at this
    simpa using this.after_frame hf (by decide) (by decide) (by decide) (by decide) hbatch
  · have hnote := hnote (by rw [hw.1, evaluated_notify, hn]; exact hnot) o (by
      rw [hw.1, hf.sameClock (by decide)]
      exact Option.mem_toList.mp ho)
    rwa [hw.1, evaluated_code, hcode] at hnote
  · rw [hqueue, hf.sameQueue (by decide), List.append_nil]
  · rw [hunits, hf.sameUnit (by decide)]

/-! ### What a slip makes of a record -/

/-- R37, R69: the record with which a slip that adds `step` to Δ leaves a circuit: abandoned for the reason named, back in MEASURING
when `requeues` says so, or with the adjusted Δ, which is evaluated anew in ALIGNED. -/
def Circuit.slipped (r : Circuit) (step : Int) (reason : Option Reason) (requeues : Bool) (beyond : Int → Bool) (target fc : FrameCount) :
    Circuit :=
  match r.context, r.delta with
  | some x, some d =>
    match reason with
    | some reason => ({ r with context := some { x with delta := slippedDelta step d } } : Circuit).abandonedRecord reason none fc
    | none =>
      if requeues then r.requeuedRecord { x with attempts := x.attempts - 1 }
      else if r.state = .aligned then
        { r with
          buildOut := (-(d + step)).toNat
          context := some (Context.judged { x with delta := some (d + step) } (beyond (d + step)) target) }
      else { r with context := some { x with delta := slippedDelta step d } }
  | _, _ => r

/-- A slip does not look at the membership and the conditioning of a record. -/
theorem Circuit.slipped_near (r : Circuit) (b : Option (Fin 8)) (k : Bool) (step : Int) (reason : Option Reason) (requeues : Bool)
    (beyond : Int → Bool) (target fc : FrameCount) :
    ({ r with batch := b, conditioning := k } : Circuit).slipped step reason requeues beyond target fc =
      { r.slipped step reason requeues beyond target fc with batch := b, conditioning := k } ∧
    (r.slipped step reason requeues beyond target fc).batch = r.batch := by
  have hdelta : ({ r with batch := b, conditioning := k } : Circuit).delta = r.delta := rfl
  unfold Circuit.slipped
  rw [hdelta]
  cases hx : r.context with
  | none => simp [hx]
  | some x =>
    cases r.delta with
    | none => simp [hx]
    | some d =>
      cases reason with
      | some reason => exact ⟨rfl, rfl⟩
      | none =>
        cases requeues with
        | true => exact ⟨rfl, rfl⟩
        | false => by_cases hstate : r.state = .aligned <;> simp [hstate]

/-- R37, R69: the record with which a slip of span `n` that adds `step` to Δ leaves circuit `c`. -/
def State.slippedRecord (s : State) (n : SpanNo) (step : Int) (c : CircuitNo) : Circuit :=
  (s.circuit c).slipped step (s.slipAbandons n step c) (s.slipRequeues n step c) (fun d => s.overAt c d (s.span n).tolerance)
    (s.fc + BitVec.ofNat 32 s.node.lead) s.fc

/-- R37: what joins the matcher queue at a slip. -/
def State.slipJoins (s : State) (n : SpanNo) (step : Int) (c : CircuitNo) : List QueueEntry :=
  if s.slipRequeues n step c then [⟨c, .full⟩] else []

theorem keepDelta_slipped (step d : Int) : keepDelta (d + step) = slippedDelta step d := by
  simp [keepDelta, slippedDelta, inDeltaRange]

section
variable {x : Context} {d step : Int}

theorem Circuit.delta_of (hx : r.context = some x) : r.delta = x.delta := by simp [Circuit.delta, hx]

theorem slippedRecord_of (hx : (s.circuit c).context = some x) (hd : x.delta = some d) : s.slippedRecord n step c =
    match s.slipAbandons n step c with
    | some reason =>
      ({ s.circuit c with context := some { x with delta := slippedDelta step d } } : Circuit).abandonedRecord reason none s.fc
    | none =>
      if s.slipRequeues n step c then (s.circuit c).requeuedRecord { x with attempts := x.attempts - 1 }
      else if (s.circuit c).state = .aligned then
        { s.circuit c with
          buildOut := (-(d + step)).toNat
          context := some (Context.judged { x with delta := some (d + step) } (s.overAt c (d + step) (s.span n).tolerance)
            (s.fc + BitVec.ofNat 32 s.node.lead)) }
      else { s.circuit c with context := some { x with delta := slippedDelta step d } } := by
  have hdelta : (s.circuit c).delta = some d := (Circuit.delta_of hx).trans hd
  simp only [State.slippedRecord, Circuit.slipped, hx, hdelta]

theorem slipAbandons_of (hx : (s.circuit c).context = some x) (hd : x.delta = some d) : s.slipAbandons n step c =
    if (s.circuit c).spanNo = some n ∧ (s.circuit c).state = .aligned then
      if s.slipsWithin n step d = true then
        if x.runsOut (s.overAt c (d + step) (s.span n).tolerance) = true then some .deferLimit else none
      else if x.attempts = 0 then some .outOfWindow else none
    else none := by
  unfold State.slipAbandons
  rw [Circuit.delta_of hx, hx, hd]

theorem slipRequeues_of (hx : (s.circuit c).context = some x) (hd : x.delta = some d) : s.slipRequeues n step c =
    (decide ((s.circuit c).spanNo = some n ∧ (s.circuit c).state = .aligned) && !s.slipsWithin n step d && decide (0 < x.attempts)) := by
  unfold State.slipRequeues
  rw [Circuit.delta_of hx, hx, hd]

/-- A slip abandons and requeues ALIGNED circuits alone. -/
theorem slipAbandons_elsewhere (h : (s.circuit c).state ≠ .aligned) : s.slipAbandons n step c = none := by
  unfold State.slipAbandons
  split
  · rw [if_neg fun k => h k.2]
  · rfl

theorem slipRequeues_elsewhere (h : (s.circuit c).state ≠ .aligned) : s.slipRequeues n step c = false := by
  unfold State.slipRequeues
  split
  · simp [h]
  · rfl

end

end Sys2Proof.Machine
end

section
/-! SUPPORT. The slip at one circuit (R37, R65, R69): each case of the model's step, as a `Slid`. -/

namespace Sys2Proof.Machine

variable {s t u : State} {n : SpanNo} {c : CircuitNo} {x : Context} {d : Int} {p : CopperPosition}

/-! ### The evaluation of an ALIGNED circuit, as an equation -/

/-- R35: the ALIGNED evaluation writes the judged context, and abandons the migration when its defer limit has run out. -/
theorem alignedEvaluation_eq (hx : (s.circuit c).context = some x) (hd : x.delta = some d) (hp : (s.circuit c).copper = some p) :
    s.alignedEvaluation c =
      if x.runsOut (s.overAt c d (s.span p.span).tolerance) = true then
        (s.putContext c (x.judged (s.overAt c d (s.span p.span).tolerance) (s.fc + BitVec.ofNat 32 s.node.lead))).abandon c .deferLimit none
      else s.putContext c (x.judged (s.overAt c d (s.span p.span).tolerance) (s.fc + BitVec.ofNat 32 s.node.lead)) := by
  unfold State.alignedEvaluation Context.runsOut Context.judged
  simp only [hx, overTolerance_eq hd hp]
  cases x.held
  · cases s.overAt c d (s.span p.span).tolerance <;> simp [Countdown.stop]
  · simp [Countdown.stop]

/-- A Δ in the window that a slip leaves of an ALIGNED circuit is a Δ that its context keeps. -/
theorem slippedDelta_within {step : Int} (hlo : -127 ≤ (s.span n).wlo) (hhi : (s.span n).whi ≤ 127) (h : s.slipsWithin n step d = true) :
    slippedDelta step d = some (d + step) := by
  simp only [State.slipsWithin, decide_eq_true_eq] at h
  exact if_pos ⟨by omega, by omega⟩

theorem Context.judged_kept (x : Context) (beyond : Bool) (S : FrameCount) : (x.judged beyond S).delta = x.delta ∧
    (x.judged beyond S).retryLimit = x.retryLimit ∧ (x.judged beyond S).attempts = x.attempts := by
  unfold Context.judged
  split
  · exact ⟨rfl, rfl, rfl⟩
  · split <;> exact ⟨rfl, rfl, rfl⟩

/-- A circuit without a place in the Path Alignment Unit has none after a write of its record. -/
theorem MatcherLaw.unplaced_write (h : MatcherLaw s) (hc : (s.circuit c).matcherPlace = none) {r : Circuit} (hw : Becomes c r s t)
    (hf : SameBut [.circuits] s t) : Unplaced c t where
  toPlacedBut := (h.unplaced hc).congr (hf.sameQueue (by decide)) (fun v => by rw [hf.sameUnit (by decide)])
    (fun v => by rw [hf.sameUnit (by decide)]) fun e he => by rw [hw.2 e (by simpa using he)]
  unqueued := by rw [State.inQueue, hf.sameQueue (by decide)]; exact (h.unplaced hc).unqueued
  unmatched := by simp only [State.inUnit, hf.sameUnit (show Block.matchers ∉ [Block.circuits] by decide)]; exact (h.unplaced hc).unmatched

/-! ### The cases -/

/-- R69: a circuit in MEASURING or FIBRE-KEPT keeps its adjusted Δ. -/
theorem keepsDelta_slid (hs : Sound s) {step : Int} (hx : (s.circuit c).context = some x) (hd : x.delta = some d)
    (hstate : (s.circuit c).state ≠ .aligned) :
    Slid c (s.slippedRecord n step c) (s.slipAbandons n step c) (s.slipJoins n step c) s
      (s.putContext c { x with delta := keepDelta (d + step) }) := by
  have hrecord : s.slippedRecord n step c = { s.circuit c with context := some { x with delta := slippedDelta step d } } := by
    rw [slippedRecord_of hx hd, slipAbandons_elsewhere hstate, slipRequeues_elsewhere hstate, if_neg hstate]
    rfl
  rw [hrecord, slipAbandons_elsewhere hstate, State.slipJoins, slipRequeues_elsewhere hstate, keepDelta_slipped]
  exact .of_write hs (putContext_takes s c _) (putContext_frame s c _) rfl rfl

section
variable (hs : Sound s) (hm : MatcherLaw s) {step : Int} (hx : (s.circuit c).context = some x) (hd : x.delta = some d)
  (hp : (s.circuit c).copper = some p) (hstate : (s.circuit c).state = .aligned)
include hs hm hx hd hp hstate

/-- R37: an ALIGNED circuit whose adjusted Δ stays in the window takes it, and is evaluated anew. -/
theorem stays_slid (hlo : -127 ≤ (s.span p.span).wlo) (hhi : (s.span p.span).whi ≤ 127) (hin : s.slipsWithin p.span step d = true) :
    Slid c (s.slippedRecord p.span step c) (s.slipAbandons p.span step c) (s.slipJoins p.span step c) s
      ((s.putCircuit c { s.circuit c with
        buildOut := buildOutOf (d + step)
        context := some { x with delta := some (d + step) } }).alignedEvaluation c) := by
  have hspan : (s.circuit c).spanNo = some p.span := by simp [Circuit.spanNo, hp]
  have hrequeues : s.slipRequeues p.span step c = false := by simp [slipRequeues_of hx hd, hin]
  set z : Context := { x with delta := some (d + step) } with hz
  set r : Circuit := { s.circuit c with buildOut := buildOutOf (d + step), context := some z } with hr
  set m := s.putCircuit c r with hmid
  have hput : Becomes c r s m := putCircuit_becomes s c r
  have hf : SameBut [.circuits] s m := putCircuit_frame s c r
  have hover : m.overAt c (d + step) (m.span p.span).tolerance = s.overAt c (d + step) (s.span p.span).tolerance := by
    rw [State.overAt, State.overAt, hf.sameSpan (by decide), hf.sameBusy (by decide) (by decide) (by decide) (by rw [hput.1]; rfl)
      (by rw [hput.1]; rfl) (by rw [hput.1]; rfl)]
  rw [alignedEvaluation_eq (x := z) (d := d + step) (p := p) (by rw [hput.1]; rfl) rfl (by rw [hput.1]; exact hp), hover,
    hf.sameClock (by decide), hf.sameNode (by decide)]
  set beyond := s.overAt c (d + step) (s.span p.span).tolerance with hoverdef
  set y := z.judged beyond (s.fc + BitVec.ofNat 32 s.node.lead) with hy
  have hwrite : Becomes c { r with context := some y } s (m.putContext c y) :=
    (hput.trans (putContext_takes m c y)).congr fun _ _ => by rw [hput.1]; rfl
  have hfwrite : SameBut [.circuits] s (m.putContext c y) := hf.trans (putContext_frame m c y)
  have houts : z.runsOut beyond = x.runsOut beyond := rfl
  rw [houts, slippedRecord_of hx hd, State.slipJoins, hrequeues, slipAbandons_of hx hd, if_pos ⟨hspan, hstate⟩, if_pos hin]
  by_cases hrun : x.runsOut beyond = true
  · rw [if_pos hrun, if_pos hrun]
    have hunplaced := hm.unplaced_write (Circuit.matcherPlace_elsewhere (by simp [hstate])) hwrite hfwrite
    have habandon := Slid.of_abandon hs hwrite hfwrite rfl rfl rfl rfl hunplaced (reason := .deferLimit) (by simp)
    obtain ⟨hdelta, hlimit, hattempts⟩ := z.judged_kept beyond (s.fc + BitVec.ofNat 32 s.node.lead)
    have hrecord : ({ r with context := some y } : Circuit).abandonedRecord .deferLimit none s.fc =
        ({ s.circuit c with context := some { x with delta := slippedDelta step d } } : Circuit).abandonedRecord .deferLimit none s.fc := by
      rw [slippedDelta_within hlo hhi hin]
      simp [Circuit.abandonedRecord, Circuit.delta, Circuit.attemptsUsed, r, y, hdelta, hlimit, hattempts, z]
    rw [hrecord] at habandon
    exact habandon
  · rw [if_neg hrun, if_neg hrun]
    show Slid c (if false = true then _ else if (s.circuit c).state = .aligned then _ else _) none [] s _
    rw [if_neg Bool.false_ne_true, if_pos hstate]
    exact .of_write hs hwrite hfwrite rfl rfl

/-- R37: an ALIGNED circuit whose adjusted Δ leaves the window is abandoned, or goes back to MEASURING with an attempt less. -/
theorem leaves_slid (hout : s.slipsWithin p.span step d = false) :
    Slid c (s.slippedRecord p.span step c) (s.slipAbandons p.span step c) (s.slipJoins p.span step c) s
      ((s.putContext c { x with delta := keepDelta (d + step) }).consumeAttempt c .outOfWindow fun s => s.requeueFull c) := by
  have hspan : (s.circuit c).spanNo = some p.span := by simp [Circuit.spanNo, hp]
  rw [slippedRecord_of hx hd, State.slipJoins, slipRequeues_of hx hd, slipAbandons_of hx hd, if_pos ⟨hspan, hstate⟩, hout,
    keepDelta_slipped]
  set y : Context := { x with delta := slippedDelta step d } with hy
  set m := s.putContext c y with hmid
  have hwrite : TakesContext c y s m := putContext_takes s c y
  have hf : SameBut [.circuits] s m := putContext_frame s c y
  have hctx : (m.circuit c).context = some y := by rw [hwrite.1]; rfl
  unfold State.consumeAttempt
  rw [hctx]
  by_cases hleft : x.attempts = 0
  · simp only [show y.attempts = 0 from hleft, hleft, if_true, Bool.false_eq_true, if_false, lt_irrefl, decide_false, Bool.and_false]
    have hunplaced := hm.unplaced_write (Circuit.matcherPlace_elsewhere (by simp [hstate])) hwrite hf
    exact Slid.of_abandon hs hwrite hf rfl rfl rfl rfl hunplaced (by simp)
  · have hpos : 0 < x.attempts := Nat.pos_of_ne_zero hleft
    simp only [show ¬ y.attempts = 0 from hleft, hleft, if_false, Bool.false_eq_true, hspan, hstate, hpos, and_self, decide_true,
      Bool.not_false, Bool.and_self, if_true]
    set z : Context := { y with attempts := y.attempts - 1 } with hz
    set m' := m.putContext c z with hmid'
    have hwrite' : TakesContext c z s m' := (hwrite.trans (putContext_takes m c z)).congr fun _ _ => by rw [hwrite.1]; rfl
    have hf' : SameBut [.circuits] s m' := hf.trans (putContext_frame m c z)
    unfold State.requeueFull
    rw [show (m'.circuit c).context = some z by rw [hwrite'.1]; rfl]
    set q := (m'.putContext c { z with delta := none }).enterMeasuring c .queued with hq
    have hlast : TakesContext c { z with delta := none } m' (m'.putContext c { z with delta := none }) := putContext_takes ..
    have hrecord : Becomes c ((s.circuit c).requeuedRecord { x with attempts := x.attempts - 1 }) s q :=
      ((hwrite'.trans hlast).trans (enterMeasuring_becomes (x := { z with delta := none }) (by rw [hlast.1]; rfl) .queued)).congr
        fun _ _ => by rw [hlast.1, hwrite'.1]; rfl
    have hfq : SameBut [.circuits] s q := (hf'.trans (putContext_frame m' c _)).trans (enterMeasuring_frame _ c _)
    exact (Slid.of_write hs hrecord hfq rfl rfl).join .full

end

/-- R37: what an ALIGNED circuit makes of a slipped Δ, in the window and out of it. -/
theorem takeSlippedDelta_eq (hx : (s.circuit c).context = some x) (hp : (s.circuit c).copper = some p) (δ : Int) :
    s.takeSlippedDelta c δ = if (s.span p.span).wlo ≤ δ ∧ δ ≤ (s.span p.span).whi then
      (s.putCircuit c { s.circuit c with buildOut := buildOutOf δ, context := some { x with delta := some δ } }).alignedEvaluation c
    else (s.putContext c { x with delta := keepDelta δ }).consumeAttempt c .outOfWindow fun s => s.requeueFull c := by
  unfold State.takeSlippedDelta
  rw [hx, hp]

/-- R37, R65, R69: the slip at a circuit of the span that holds a measured Δ. -/
theorem slipCircuit_slid (kind : SlipKind) (hs : Sound s) (hm : MatcherLaw s) (hlo : -127 ≤ (s.span n).wlo) (hhi : (s.span n).whi ≤ 127)
    (hspan : (s.circuit c).spanNo = some n) (hmeasured : (s.circuit c).delta.isSome = true)
    (hstate : (s.circuit c).state = .measuring ∨ (s.circuit c).state = .aligned ∨ (s.circuit c).state = .fibre) :
    Slid c (s.slippedRecord n (slipDelta kind) c) (s.slipAbandons n (slipDelta kind) c) (s.slipJoins n (slipDelta kind) c) s
      (State.slipCircuit kind s c) := by
  obtain ⟨d, hdelta⟩ := Option.isSome_iff_exists.mp hmeasured
  obtain ⟨x, hx, hd⟩ := Option.bind_eq_some_iff.mp hdelta
  obtain ⟨p, hp, rfl⟩ := Option.map_eq_some_iff.mp hspan
  unfold State.slipCircuit
  simp only [hx, hd]
  rcases hstate with h | h | h
  · rw [h]; exact keepsDelta_slid hs hx hd (by simp [h])
  · rw [h]
    simp only [takeSlippedDelta_eq hx hp]
    split
    next hin => exact stays_slid hs hm hx hd hp h hlo hhi (decide_eq_true hin)
    next hout => exact leaves_slid hs hm hx hd hp h (decide_eq_false hout)
  · rw [h]; exact keepsDelta_slid hs hx hd (by simp [h])

end Sys2Proof.Machine
end

section
/-! SUPPORT. The slip at one circuit after another (R69, R87): what each comes to, said of the state in which the first is taken. -/

namespace Sys2Proof.Machine

variable {s t u : State} {n : SpanNo} {c : CircuitNo} {step : Int}

/-! ### What a slip makes of a circuit rests on -/

/-- What a slip of span `n` makes of circuit `c` rests on the same things in both states. -/
structure SlipsAlike (n : SpanNo) (c : CircuitNo) (s u : State) : Prop where
  carried : Carried c s u
  wlo : (u.span n).wlo = (s.span n).wlo
  whi : (u.span n).whi = (s.span n).whi
  tolerance : (u.span n).tolerance = (s.span n).tolerance
  busy : u.busy c = s.busy c
  clock : u.fc = s.fc
  node : u.node = s.node

theorem SlipsAlike.of_turn (h : Carried c s u) (hf : SameBut turnBlocks s u) : SlipsAlike n c s u where
  carried := h
  wlo := by rw [hf.sameSpan (by decide)]
  whi := by rw [hf.sameSpan (by decide)]
  tolerance := by rw [hf.sameSpan (by decide)]
  busy := by
    obtain ⟨b, k, -, hrecord, -⟩ := h
    exact hf.sameBusy (by decide) (by decide) (by decide) (by rw [hrecord]) (by rw [hrecord]) (by rw [hrecord])
  clock := hf.sameClock (by decide)
  node := hf.sameNode (by decide)

section
variable (h : SlipsAlike n c s u)
include h

theorem SlipsAlike.within (d : Int) : u.slipsWithin n step d = s.slipsWithin n step d := by
  simp only [State.slipsWithin, h.wlo, h.whi]

theorem SlipsAlike.over (d : Int) (tol : Nat) : u.overAt c d tol = s.overAt c d tol := by
  simp only [State.overAt, h.busy]

theorem SlipsAlike.abandons : u.slipAbandons n step c = s.slipAbandons n step c := by
  obtain ⟨b, k, -, hrecord, -⟩ := h.carried
  simp only [State.slipAbandons, h.within, h.over, h.tolerance]
  rw [hrecord]
  rfl

theorem SlipsAlike.requeues : u.slipRequeues n step c = s.slipRequeues n step c := by
  obtain ⟨b, k, -, hrecord, -⟩ := h.carried
  simp only [State.slipRequeues, h.within]
  rw [hrecord]
  rfl

theorem SlipsAlike.joins : u.slipJoins n step c = s.slipJoins n step c := by
  rw [State.slipJoins, h.requeues, State.slipJoins]

/-- The records differ in the membership of a closed batch and the conditioning alone. -/
theorem SlipsAlike.record : ∃ b k, (b = (s.slippedRecord n step c).batch ∨ b = none) ∧
    u.slippedRecord n step c = { s.slippedRecord n step c with batch := b, conditioning := k } := by
  obtain ⟨b, k, hb, hrecord, -⟩ := h.carried
  have heq : u.slippedRecord n step c = ({ s.circuit c with batch := b, conditioning := k } : Circuit).slipped step (s.slipAbandons n step c)
      (s.slipRequeues n step c) (fun d => s.overAt c d (s.span n).tolerance) (s.fc + BitVec.ofNat 32 s.node.lead) s.fc := by
    simp only [State.slippedRecord, h.abandons, h.requeues, h.over, h.tolerance, h.clock, h.node, hrecord]
  obtain ⟨hnear, hbatch⟩ := (s.circuit c).slipped_near b k step (s.slipAbandons n step c) (s.slipRequeues n step c)
    (fun d => s.overAt c d (s.span n).tolerance) (s.fc + BitVec.ofNat 32 s.node.lead) s.fc
  exact ⟨b, k, by rwa [State.slippedRecord, hbatch], heq.trans hnear⟩

/-- A record that is reached from the later state is reached from the earlier one. -/
theorem SlipsAlike.ends {v w : State} {timer : Option Countdown} (k : Ends c (u.slippedRecord n step c) timer v w) :
    Ends c (s.slippedRecord n step c) timer v w := by
  obtain ⟨b, k', hb, heq⟩ := h.record (step := step)
  rw [heq] at k
  exact k.of_near hb

theorem SlipsAlike.code : (u.circuit c).code = (s.circuit c).code := by
  obtain ⟨b, k, -, hrecord, -⟩ := h.carried
  rw [hrecord]

theorem SlipsAlike.notify : (u.circuit c).notify = (s.circuit c).notify := by
  obtain ⟨b, k, -, hrecord, -⟩ := h.carried
  rw [hrecord]

theorem SlipsAlike.outcome : (u.slippedRecord n step c).outcome = (s.slippedRecord n step c).outcome := by
  obtain ⟨b, k, -, heq⟩ := h.record (step := step)
  rw [heq]

end

/-! ### One circuit after another -/

/-- R42: the message of a circuit that a slip abandons. -/
def State.slipMessages (s : State) (n : SpanNo) (step : Int) (c : CircuitNo) : List PeerMessage :=
  (s.slipAbandons n step c).toList.flatMap fun reason => (s.circuit c).messages fun code => .abandon code reason

/-- The circuits that a slip of span `n` abandons, of a list. -/
def State.slipAbandoned (s : State) (n : SpanNo) (step : Int) (l : List CircuitNo) : List CircuitNo :=
  l.filter fun c => (s.slipAbandons n step c).isSome

/-- The circuits of the list `l` have taken their parts in the slip, in its order. -/
structure SlidAll (n : SpanNo) (step : Int) (l : List CircuitNo) (s t : State) : Prop where
  ends : ∀ c ∈ l, Ends c (s.slippedRecord n step c) (if (s.slipAbandons n step c).isSome then none else s.peer.response.get c) s t
  others : ∀ c, c ∉ l → Ends c (s.circuit c) (s.peer.response.get c) s t
  member : ∀ d, (t.circuit d).batch.isSome = true → (s.circuit d).batch.isSome = true
  handedOn : HandedOn (s.slipAbandoned n step l) (l.flatMap fun c => s.slipMessages n step c)
    ((s.slipAbandoned n step l).map fun c => (c, .abandon)) s t
  reports : ∃ bodies, Reported bodies s t ∧ ∀ c ∈ l, (s.slipAbandons n step c).isSome = true →
    OutcomesReported c (s.circuit c) (s.slippedRecord n step c).outcome.toList bodies
  queue : t.align.queue = s.align.queue ++ l.flatMap fun c => s.slipJoins n step c
  units : ∀ v, t.unit v = s.unit v
  frame : SameBut turnBlocks s t
  sound : Sound t

/-- A circuit that a slip of span `n` concerns: it is on the span, and holds a measured Δ in MEASURING, ALIGNED or FIBRE-KEPT (R69). -/
structure Measured (n : SpanNo) (r : Circuit) : Prop where
  spanNo : r.spanNo = some n
  delta : r.delta.isSome = true
  state : r.state = .measuring ∨ r.state = .aligned ∨ r.state = .fibre

theorem Measured.carried (h : Measured n (s.circuit c)) (k : Carried c s u) : Measured n (u.circuit c) := by
  obtain ⟨b, k, -, hrecord, -⟩ := k
  rw [hrecord]
  exact ⟨h.spanNo, h.delta, h.state⟩

/-- The list after its first circuit. -/
theorem SlidAll.cons {a : CircuitNo} {l : List CircuitNo} (ha : a ∉ l)
    (h : Slid a (s.slippedRecord n step a) (s.slipAbandons n step a) (s.slipJoins n step a) s t) (k : SlidAll n step l t u)
    (halike : ∀ c ∈ l, SlipsAlike n c s t) : SlidAll n step (a :: l) s u := by
  have hlink : t.peer.state = s.peer.state := h.frame.sameLink (by decide)
  have hnode : t.node = s.node := h.frame.sameNode (by decide)
  have hclock : t.fc = s.fc := h.frame.sameClock (by decide)
  have hfilter : t.slipAbandoned n step l = s.slipAbandoned n step l :=
    List.filter_congr fun c hc => by rw [(halike c hc).abandons]
  have hmessages : (l.flatMap fun c => t.slipMessages n step c) = l.flatMap fun c => s.slipMessages n step c :=
    List.flatMap_congr fun c hc => by
      simp only [State.slipMessages, (halike c hc).abandons, Circuit.messages, (halike c hc).code]
  have hjoins : (l.flatMap fun c => t.slipJoins n step c) = l.flatMap fun c => s.slipJoins n step c :=
    List.flatMap_congr fun c hc => (halike c hc).joins
  obtain ⟨bodies, hreported, hnotes⟩ := h.reports
  obtain ⟨bodies', hreported', hnotes'⟩ := k.reports
  refine ⟨fun c hc => ?_, fun c hc => ?_, fun d hd => h.member d (k.member d hd), ?_,
    ⟨bodies ++ bodies', hreported.trans hreported' hclock, fun c hc hsome hnotify o ho => ?_⟩, ?_,
    fun v => (k.units v).trans (h.units v), h.frame.trans k.frame, k.sound⟩
  · rcases List.mem_cons.mp hc with rfl | hc
    · exact h.ends.trans (k.others c ha) hlink hnode
    · have hends := (halike c hc).ends ((k.ends c hc).of_start hlink hnode)
      obtain ⟨-, -, -, -, hresponse⟩ := (halike c hc).carried
      rwa [(halike c hc).abandons, hresponse] at hends
  · obtain ⟨hca, hcl⟩ := not_or.mp (mt List.mem_cons.mpr hc)
    exact (h.passed c hca).trans (k.others c hcl) hlink hnode
  · have hall := h.handedOn.trans k.handedOn hlink hclock h.member
    rw [hfilter, hmessages] at hall
    rw [State.slipAbandoned, List.filter_cons, List.flatMap_cons]
    unfold State.slipMessages at hall ⊢
    cases hreason : s.slipAbandons n step a with
    | none => simpa [hreason, State.slipAbandoned] using hall
    | some reason => simpa [hreason, State.slipAbandoned] using hall
  · rcases List.mem_cons.mp hc with rfl | hc
    · exact List.mem_append_left _ (hnotes hsome hnotify o ho)
    · have hlisted := hnotes' c hc (by rwa [(halike c hc).abandons]) (by rwa [(halike c hc).notify]) o
        (by rwa [(halike c hc).outcome])
      rw [(halike c hc).code] at hlisted
      exact List.mem_append_right _ hlisted
  · rw [k.queue, h.queue, hjoins, List.flatMap_cons, List.append_assoc]

/-- R69: the slip at the circuits of a list. -/
theorem slipCircuits_slid (kind : SlipKind) : ∀ (l : List CircuitNo) (s : State), l.Nodup → Sound s → MatcherLaw s →
    -127 ≤ (s.span n).wlo → (s.span n).whi ≤ 127 → (∀ c ∈ l, Measured n (s.circuit c)) →
    SlidAll n (slipDelta kind) l s (l.foldl (State.slipCircuit kind) s)
  | [], s, _, hs, _, _, _, _ => ⟨nofun, fun _ _ => .same rfl rfl, fun _ => id, (SameBut.refl [] s).handedOn (by simp) (by simp),
      ⟨[], .refl s, nofun⟩, (List.append_nil _).symm, fun _ => rfl, .refl _ s, hs⟩
  | a :: l, s, hn, hs, hm, hlo, hhi, hc => by
    obtain ⟨ha, hn⟩ := List.nodup_cons.mp hn
    have hfirst := hc a List.mem_cons_self
    have h := slipCircuit_slid kind hs hm hlo hhi hfirst.spanNo hfirst.delta hfirst.state
    have hmember : ∀ c ∈ l, Measured n (s.circuit c) := fun c hcl => hc c (List.mem_cons_of_mem a hcl)
    have hcarried : ∀ c ∈ l, Carried c s (State.slipCircuit kind s a) := fun c hcl =>
      (h.passed c (by rintro rfl; exact ha hcl)).carried (by rcases (hmember c hcl).state with g | g | g <;> simp [g])
    have hspan : (State.slipCircuit kind s a).span n = s.span n := h.frame.sameSpan (by decide) n
    exact .cons ha h (slipCircuits_slid kind l _ hn h.sound (slipCircuit_keepsMatchers kind s a hm) (hspan ▸ hlo) (hspan ▸ hhi)
      fun c hcl => (hmember c hcl).carried (hcarried c hcl)) fun c hcl => .of_turn (hcarried c hcl) h.frame

end Sys2Proof.Machine
end

section
/-! The slip step (O42): its stages, what they hand on, and the step as a whole (R87, R88, R69, R65, R37). -/

namespace Sys2Proof.Machine

variable {s t u v : State} {n : SpanNo} {c : CircuitNo} {kind : SlipKind} {fill : Nat}

/-! ### The span unit and its delay record (R87, R88) -/

theorem inDeltaRange_iff (d : Int) : inDeltaRange d = true ↔ -127 ≤ d ∧ d ≤ 127 := by simp [inDeltaRange]

theorem slipDelta_eq (kind : SlipKind) : slipDelta kind = match kind with | .deletion => 1 | .repetition => -1 := by cases kind <;> rfl

/-- R88: a measured record takes the slip, or leaves the range and is INVALID. -/
theorem DelayRecord.slip_valid (m : DelayMeasure) (kind : SlipKind) :
    (-127 ≤ m.delta + slipDelta kind ∧ m.delta + slipDelta kind ≤ 127 →
      (DelayRecord.valid m).slip kind = .valid { m with delta := m.delta + slipDelta kind }) ∧
    (¬ (-127 ≤ m.delta + slipDelta kind ∧ m.delta + slipDelta kind ≤ 127) → (DelayRecord.valid m).slip kind = .invalid) := by
  rw [← inDeltaRange_iff]
  exact ⟨fun h => if_pos h, fun h => if_neg h⟩

theorem DelayRecord.slip_stale (m : DelayMeasure) (kind : SlipKind) :
    (-127 ≤ m.delta + slipDelta kind ∧ m.delta + slipDelta kind ≤ 127 →
      (DelayRecord.stale m).slip kind = .stale { m with delta := m.delta + slipDelta kind }) ∧
    (¬ (-127 ≤ m.delta + slipDelta kind ∧ m.delta + slipDelta kind ≤ 127) → (DelayRecord.stale m).slip kind = .invalid) := by
  rw [← inDeltaRange_iff]
  exact ⟨fun h => if_pos h, fun h => if_neg h⟩

/-- R87: of a span unit a slip changes its counts and its record. -/
theorem Span.slipped_eq (x : Span) (kind : SlipKind) : x.slipped kind = { x with
    deletions := if kind = .deletion then raise x.deletions else x.deletions
    repetitions := if kind = .repetition then raise x.repetitions else x.repetitions
    record := x.record.slip kind } := by
  cases kind <;> rfl

/-! ### The units (R65) -/

theorem Matcher.slip_unitSlips (m : Matcher) (kind : SlipKind) (record : DelayRecord) :
    UnitSlips (slipDelta kind) record m (m.slip kind record) where
  restarted h := by
    rw [← Matcher.restart_eq]
    unfold Matcher.slip
    rcases h with h | h <;> rw [h]
  pending d h := by
    unfold Matcher.slip
    simp only [h]
    exact ⟨fun ho => by simp [ho, MatchResult.slip], fun ho => by simp [ho, MatchResult.slip]⟩
  unmoved h ho := by
    obtain ⟨state⟩ := m
    obtain rfl : state = .done := h
    rcases ho with rfl | rfl | rfl <;> rfl

theorem slipUnits_unit (s : State) (n : SpanNo) (kind : SlipKind) (w : UnitNo) :
    (s.slipUnits n kind).unit w = s.slipUnit n kind (s.unit w) := Table.get_map ..

theorem slipUnit_on {m : Matcher} (hm : m.circuit = some c) (hc : (s.circuit c).spanNo = some n) :
    s.slipUnit n kind m = m.slip kind (s.span n).record := by
  unfold State.slipUnit
  rw [hm]
  exact if_pos hc

theorem slipUnit_off {m : Matcher} (h : ∀ c, m.circuit = some c → (s.circuit c).spanNo ≠ some n) : s.slipUnit n kind m = m := by
  unfold State.slipUnit
  split
  next c hc => exact if_neg (h c hc)
  next => rfl

theorem slipUnits_frame (s : State) (n : SpanNo) (kind : SlipKind) : SameBut [.matchers] s (s.slipUnits n kind) :=
  .of_forall fun b => by cases b <;> simp [Block.same, State.slipUnits]

/-! ### The stages of the slip step -/

/-- The report of a slip, where the step hands it. -/
def State.slipBodies (s : State) (n : SpanNo) (kind : SlipKind) (fill : Nat) (here : Bool) : List ReportBody :=
  if here && (s.span n).slipReports then [.span n (.slip kind fill ((s.span n).slipped kind).record)] else []

/-- Whether the SLIP report comes before those of the circuits (assumption 12). -/
def State.slipEarly (s : State) (n : SpanNo) : Bool := s.slipOrderOpen n && Config.slipReportFirst s.freeCount

theorem slipReport_frame (s : State) (n : SpanNo) (kind : SlipKind) (fill : Nat) (record : DelayRecord) :
    SameBut [.reports] s (s.slipReport n kind fill record) := by
  unfold State.slipReport
  split
  · exact handReport_frame s _
  · exact .refl _ s

theorem slipReport_reported (h : (t.span n).slipReports = (s.span n).slipReports) (here : Bool) :
    Reported (s.slipBodies n kind fill here) t (if here then t.slipReport n kind fill ((s.span n).slipped kind).record else t) := by
  unfold State.slipBodies State.slipReport
  rw [h]
  cases here <;> cases (s.span n).slipReports
  · exact .refl t
  · exact .refl t
  · exact .refl t
  · exact handReport_reported t _

/-- The slip step up to the Path Alignment Unit's part. -/
def State.slipOpened (s : State) (n : SpanNo) (kind : SlipKind) (fill : Nat) : State :=
  let x := (if s.slipOrderOpen n then s.drawn else s).setSpan n ((s.span n).slipped kind)
  if s.slipEarly n then x.slipReport n kind fill ((s.span n).slipped kind).record else x

/-- The slip step up to the circuits. -/
def State.slipBegun (s : State) (n : SpanNo) (kind : SlipKind) (fill : Nat) : State := (s.slipOpened n kind fill).slipUnits n kind

/-- What holds where the slip step takes the first circuit. -/
structure SlipBegins (n : SpanNo) (kind : SlipKind) (fill : Nat) (s v : State) : Prop where
  frame : SameBut [.freeValues, .spans, .reports, .matchers] s v
  spans : SpansBut n s v
  span : v.span n = (s.span n).slipped kind
  unitOn : ∀ w c, (s.unit w).circuit = some c → (s.circuit c).spanNo = some n →
    v.unit w = (s.unit w).slip kind ((s.span n).slipped kind).record
  unitOff : ∀ w, (∀ c, (s.unit w).circuit = some c → (s.circuit c).spanNo ≠ some n) → v.unit w = s.unit w
  reports : Reported (s.slipBodies n kind fill (s.slipEarly n)) s v

theorem slipBegun_begins (s : State) (n : SpanNo) (kind : SlipKind) (fill : Nat) : SlipBegins n kind fill s (s.slipBegun n kind fill) := by
  unfold State.slipBegun State.slipOpened
  set w := if s.slipOrderOpen n then s.drawn else s with hw
  have hdrawn : SameBut [.freeValues] s w := by
    rw [hw]
    split
    · exact drawn_frame s
    · exact .refl _ s
  set x := w.setSpan n ((s.span n).slipped kind) with hx
  have hset : SameBut [.freeValues, .spans] s x := (hdrawn.mono (by decide)).trans ((setSpan_frame w n _).mono (by decide))
  have hspan : x.span n = (s.span n).slipped kind := State.setSpan_span_eq ..
  have hbut : SpansBut n s x := fun m hm => (setSpan_spansBut w n _ m hm).trans (hdrawn.sameSpan (by decide) m)
  have hreports : (x.span n).slipReports = (s.span n).slipReports := by rw [hspan]; cases kind <;> rfl
  have hreported := slipReport_reported (kind := kind) (fill := fill) hreports (s.slipEarly n)
  set y := if s.slipEarly n then x.slipReport n kind fill ((s.span n).slipped kind).record else x with hy
  have hreport : SameBut [.reports] x y := by
    rw [hy]
    split
    · exact slipReport_frame x n kind fill _
    · exact .refl _ x
  have hfy : SameBut [.freeValues, .spans, .reports] s y := (hset.mono (by decide)).trans (hreport.mono (by decide))
  have hunits := slipUnits_frame y n kind
  have hyspan : ∀ m, (y.slipUnits n kind).span m = x.span m := fun m => (hunits.sameSpan (by decide) m).trans (hreport.sameSpan (by decide) m)
  refine ⟨(hfy.mono (by decide)).trans (hunits.mono (by decide)), fun m hm => (hyspan m).trans (hbut m hm), (hyspan n).trans hspan,
    fun m d hm hd => ?_, fun m hoff => ?_, ?_⟩
  · rw [slipUnits_unit, hfy.sameUnit (by decide), slipUnit_on hm (by rw [hfy.sameCircuit (by decide)]; exact hd),
      hreport.sameSpan (by decide), hspan]
  · rw [slipUnits_unit, hfy.sameUnit (by decide), slipUnit_off fun d hd => by rw [hfy.sameCircuit (by decide)]; exact hoff d hd]
  · exact (hreported.after_frame hset (by decide) (by decide)).of_frame hunits (by decide)

theorem SameBut.sameMeasuredOn {l : List Block} (h : SameBut l s t) (hc : Block.circuits ∉ l) : t.measuredOn n = s.measuredOn n := by
  simp only [State.measuredOn, h.sameCircuit hc]

/-- The slip step: the span unit and its units, the circuits in turn, the SLIP events, and the report where it comes last. -/
theorem slipStep_eq (s : State) (n : SpanNo) (kind : SlipKind) (fill : Nat) :
    let w := (s.bridgedOn n).foldl (fun s c => s.watchEvent c .slip none)
      ((s.measuredOn n).foldl (State.slipCircuit kind) (s.slipBegun n kind fill))
    s.slipStep n kind fill = if !s.slipEarly n then w.slipReport n kind fill ((s.span n).slipped kind).record else w := by
  have hspan : ((if s.slipOrderOpen n then s.drawn else s).span n).slipped kind = (s.span n).slipped kind := by split <;> rfl
  have hrecord : ∀ w : State, ((w.setSpan n ((s.span n).slipped kind)).span n).record = ((s.span n).slipped kind).record := fun w => by
    rw [State.setSpan_span_eq]
  have hmeasured : ∀ w : State, w.measuredOn n = s.measuredOn n → (w.slipAlign n kind) =
      (s.measuredOn n).foldl (State.slipCircuit kind) (w.slipUnits n kind) := fun w hw => by rw [State.slipAlign, hw]
  have hopened : (s.slipOpened n kind fill).measuredOn n = s.measuredOn n := by
    rw [← (slipBegun_begins s n kind fill).frame.sameMeasuredOn (by decide), State.slipBegun,
      (slipUnits_frame _ n kind).sameMeasuredOn (by decide)]
  unfold State.slipStep
  simp only [hspan, hrecord]
  rw [show (s.slipOrderOpen n && Config.slipReportFirst s.freeCount) = s.slipEarly n from rfl]
  change (if s.slipEarly n then List.foldl _ ((s.slipOpened n kind fill).slipAlign n kind) _
    else State.slipReport (List.foldl _ ((s.slipOpened n kind fill).slipAlign n kind) _) n kind fill _) = _
  rw [hmeasured _ hopened]
  cases s.slipEarly n <;> rfl

/-! ### Where the circuits begin -/

section
variable (h : SlipBegins n kind fill s v)
include h

/-- The span unit's settings and recognised conditions are as they were. -/
theorem SlipBegins.alike (c : CircuitNo) : SlipsAlike n c s v := by
  have hcircuit : v.circuit c = s.circuit c := h.frame.sameCircuit (by decide) c
  have hspan : v.span n = (s.span n).slipped kind := h.span
  rw [Span.slipped_eq] at hspan
  have hconditions : ∀ m, (v.span m).conditions = (s.span m).conditions := fun m => by
    by_cases hm : m = n
    · rw [hm, hspan]
    · rw [h.spans m hm]
  have hchannels : v.highway.channels = s.highway.channels := h.frame .channels (by decide)
  have hslots : v.lanes.slots = s.lanes.slots := (h.frame .slots (by decide)).1
  refine ⟨⟨_, _, .inl rfl, hcircuit, by rw [h.frame.sameResponse (by decide)]⟩, by rw [hspan], by rw [hspan], by rw [hspan], ?_,
    h.frame.sameClock (by decide), h.frame.sameNode (by decide)⟩
  simp only [State.busy, State.switchCondition, State.farCondition, State.farBy, State.copperCondition, State.slotCondition, hcircuit,
    hchannels, hslots, hconditions]

theorem SlipBegins.sound (hs : Sound s) : Sound v where
  batches := hs.batches.of_frame h.frame (by decide) fun c => by rw [h.frame.sameCircuit (by decide)]
  conditioned := hs.conditioned.congr (h.frame.sameCircuits (by decide)) (fun m => by
    by_cases hm : m = n
    · rw [hm, h.span, Span.slipped_eq]
    · rw [h.spans m hm]) (by
        have hlanes := h.frame .laneRecords (by decide)
        exact LaneInterface.anyUp_congr (by rw [hlanes.1]) (by rw [hlanes.2]))
  copper d p hd := by
    rw [h.frame.sameCircuit (by decide)] at hd
    rw [State.timeslotOwner, (h.frame.sameOwner (by decide)).1]
    exact hs.copper d p hd

end

theorem slipBegun_keepsMatchers (s : State) (n : SpanNo) (kind : SlipKind) (fill : Nat) : KeepsMatchers s (s.slipBegun n kind fill) := by
  have hdrawn : KeepsMatchers s (if s.slipOrderOpen n then s.drawn else s) := .ite _ (fun _ => .quiet (drawn_frame s)) fun _ => .refl s
  have hset := hdrawn.trans (setSpan_keepsMatchers _ n ((s.span n).slipped kind))
  have hopened : KeepsMatchers s (s.slipOpened n kind fill) :=
    hset.trans (.ite _ (fun _ => slipReport_keepsMatchers _ n kind fill _) fun _ => .refl _)
  exact hopened.trans (slipUnits_keepsMatchers _ n kind)

/-! ### The step as a whole -/

theorem Ends.of_frame {l : List Block} {d : CircuitNo} {r : Circuit} {x : Option Countdown} (h : Ends d r x s t) (hf : SameBut l t u)
    (hc : Block.circuits ∉ l) (hr : Block.responses ∉ l) : Ends d r x s u := by
  unfold Ends at h ⊢
  rwa [hf.sameCircuit hc, hf.sameResponse hr]

theorem measuredOn_iff : c ∈ s.measuredOn n ↔ Measured n (s.circuit c) := by
  simp only [State.measuredOn, allCircuits, List.mem_filter, List.mem_finRange, true_and, decide_eq_true_eq]
  refine ⟨fun ⟨hspan, hstate, hdelta⟩ => ⟨hspan, hdelta, ?_⟩, fun h => ⟨h.spanNo, ?_, h.delta⟩⟩
  · rcases hstate with h | h
    · revert h
      unfold Circuit.bridgedState
      cases (s.circuit c).state <;> simp
    · exact .inr (.inr (by simpa [Circuit.kept] using (Bool.and_eq_true_iff.mp h).1))
  · rcases h.state with hs | hs | hs
    · exact .inl (by simp [Circuit.bridgedState, hs])
    · exact .inl (by simp [Circuit.bridgedState, hs])
    · have hdelta := h.delta
      unfold Circuit.delta at hdelta
      refine .inr ?_
      cases hx : (s.circuit c).context with
      | none => simp [hx] at hdelta
      | some x => simp [Circuit.kept, hs, hx]

/-- What the slip step does, its circuits said of the state in which it begins. -/
structure SlipDone (n : SpanNo) (kind : SlipKind) (fill : Nat) (s t : State) : Prop where
  ends : ∀ c, Measured n (s.circuit c) → EndsAs c (s.slippedRecord n (slipDelta kind) c)
    (if (s.slipAbandons n (slipDelta kind) c).isSome then none else s.peer.response.get c) s t
  others : ∀ c, ¬ Measured n (s.circuit c) → EndsAs c (s.circuit c) (s.peer.response.get c) s t
  handedOn : HandedOn (s.slipAbandoned n (slipDelta kind) (s.measuredOn n))
    ((s.measuredOn n).flatMap fun c => s.slipMessages n (slipDelta kind) c)
    (((s.slipAbandoned n (slipDelta kind) (s.measuredOn n)).map fun c => (c, .abandon)) ++ (s.bridgedOn n).map fun c => (c, .slip)) s t
  reports : ∃ bodies, Reported (s.slipBodies n kind fill (s.slipEarly n) ++ bodies ++ s.slipBodies n kind fill (!s.slipEarly n)) s t ∧
    ∀ c, Measured n (s.circuit c) → (s.slipAbandons n (slipDelta kind) c).isSome = true →
      OutcomesReported c (s.circuit c) (s.slippedRecord n (slipDelta kind) c).outcome.toList bodies
  queue : t.align.queue = s.align.queue ++ (s.measuredOn n).flatMap fun c => s.slipJoins n (slipDelta kind) c
  begins : ∃ v, SlipBegins n kind fill s v ∧ (∀ w, t.unit w = v.unit w) ∧ ∀ m, t.span m = v.span m
  frame : SameBut releaseBlocks s t
  timeslots : t.timeslots = s.timeslots
  slotOwners : t.slotOwners = s.slotOwners

theorem slipStep_done (hlaw : Lawful s) (n : SpanNo) (kind : SlipKind) (fill : Nat) : SlipDone n kind fill s (s.slipStep n kind fill) := by
  set v := s.slipBegun n kind fill with hv
  have hbegins : SlipBegins n kind fill s v := slipBegun_begins s n kind fill
  obtain ⟨hwlo, -, -, hwhi, -⟩ := hlaw.delays.windows n
  set y := (s.measuredOn n).foldl (State.slipCircuit kind) v with hy
  have hall : SlidAll n (slipDelta kind) (s.measuredOn n) v y :=
    slipCircuits_slid kind (s.measuredOn n) v ((List.nodup_finRange 512).filter _) (hbegins.sound hlaw.sound)
      (slipBegun_keepsMatchers s n kind fill hlaw.matchers) ((hbegins.alike 0).wlo ▸ hwlo) ((hbegins.alike 0).whi ▸ hwhi)
      fun c hc => (measuredOn_iff.mp hc).carried (hbegins.alike c).carried
  set w := (s.bridgedOn n).foldl (fun s c => s.watchEvent c .slip none) y with hw
  have hwatch : SameBut [.watches, .reports] y w := watchEvents_frame (s.bridgedOn n) .slip y
  obtain ⟨told, htold⟩ := watchEvents_reported (s.bridgedOn n) .slip y
  have heq : s.slipStep n kind fill = if !s.slipEarly n then w.slipReport n kind fill ((s.span n).slipped kind).record else w :=
    slipStep_eq s n kind fill
  rw [heq]
  set t := if !s.slipEarly n then w.slipReport n kind fill ((s.span n).slipped kind).record else w with ht
  have hreport : SameBut [.reports] w t := by
    rw [ht]
    split
    · exact slipReport_frame w n kind fill _
    · exact .refl _ w
  have hlast : SameBut [.watches, .reports] y t := (hwatch.mono (by decide)).trans (hreport.mono (by decide))
  have hfv := hbegins.frame
  have hspans : ∀ m, t.span m = v.span m := fun m => (hlast.sameSpan (by decide) m).trans (hall.frame.sameSpan (by decide) m)
  have hlink : v.peer.state = s.peer.state := hfv.sameLink (by decide)
  have hnode : v.node = s.node := hfv.sameNode (by decide)
  have hcircuit : ∀ c, v.circuit c = s.circuit c := hfv.sameCircuit (by decide)
  have hresponse : v.peer.response = s.peer.response := hfv.sameResponse (by decide)
  have hsound : Sound t := hall.sound.of_frame hlast (by decide) (by decide) (by decide) (by decide) (by decide)
  have habandoned : v.slipAbandoned n (slipDelta kind) (s.measuredOn n) = s.slipAbandoned n (slipDelta kind) (s.measuredOn n) :=
    List.filter_congr fun c _ => by rw [(hbegins.alike c).abandons]
  have hmessages : (fun c => v.slipMessages n (slipDelta kind) c) = fun c => s.slipMessages n (slipDelta kind) c := by
    funext c
    rw [State.slipMessages, (hbegins.alike c).abandons, hcircuit, State.slipMessages]
  have hjoins : (fun c => v.slipJoins n (slipDelta kind) c) = fun c => s.slipJoins n (slipDelta kind) c := by
    funext c
    rw [(hbegins.alike c).joins]
  refine ⟨fun c hc => ?_, fun c hc => ?_, ?_, ?_, ?_, ⟨v, hbegins, fun m => (hlast.sameUnit (by decide) m).trans (hall.units m), hspans⟩,
    ((hfv.mono (by decide)).trans (hall.frame.mono (by decide))).trans (hlast.mono (by decide)), ?_, ?_⟩
  · have hends := (hbegins.alike c).ends (hall.ends c (measuredOn_iff.mpr hc))
    rw [(hbegins.alike c).abandons, hresponse] at hends
    exact ((hends.of_start hlink hnode).of_frame hlast (by decide) (by decide)).settled hsound.conditioned
  · have hends := hall.others c (mt measuredOn_iff.mp hc)
    rw [hcircuit, hresponse] at hends
    exact ((hends.of_start hlink hnode).of_frame hlast (by decide) (by decide)).settled hsound.conditioned
  · have hslips : HandedOn [] [] ((s.bridgedOn n).map fun c => (c, .slip)) y t := by
      refine ⟨⟨[], hlast.sentNone (by decide), rfl, fun _ => rfl⟩, (s.bridgedOn n).map fun c => (c, .slip), ?_, ?_, ?_⟩
      · simpa using (watchEvents_witnessed (s.bridgedOn n) .slip y).trans (hreport.witnessed (by decide)) (hwatch.sameClock (by decide))
      · rw [List.filter_eq_self]
        intro e he
        obtain ⟨c, -, rfl⟩ := List.mem_map.mp he
        rfl
      · intro e he hstart
        obtain ⟨c, -, rfl⟩ := List.mem_map.mp he
        cases hstart
    have hboth := hall.handedOn.trans hslips (hall.frame.sameLink (by decide)) (hall.frame.sameClock (by decide)) hall.member
    rw [habandoned, hmessages, List.append_nil, List.append_nil] at hboth
    exact hboth.after_frame hfv (by decide) (by decide) (by decide) (by decide) fun d => by rw [hcircuit]
  · obtain ⟨bodies, hbodies, hnotes⟩ := hall.reports
    have hslip : (w.span n).slipReports = (s.span n).slipReports := by
      rw [hwatch.sameSpan (by decide), hall.frame.sameSpan (by decide), hbegins.span, Span.slipped_eq]
    have hend : Reported (s.slipBodies n kind fill (!s.slipEarly n)) w t := slipReport_reported hslip _
    have hfirst := (hbegins.reports.trans hbodies (hfv.sameClock (by decide))).trans htold
      ((hall.frame.sameClock (by decide)).trans (hfv.sameClock (by decide)))
    refine ⟨bodies ++ told, ?_, fun c hc hsome hnotify o ho => ?_⟩
    · rw [← List.append_assoc]
      exact hfirst.trans hend ((hwatch.sameClock (by decide)).trans
        ((hall.frame.sameClock (by decide)).trans (hfv.sameClock (by decide))))
    · have hlisted := hnotes c (measuredOn_iff.mpr hc) (by rwa [(hbegins.alike c).abandons]) (by rwa [hcircuit]) o
        (by rwa [(hbegins.alike c).outcome])
      rw [hcircuit] at hlisted
      exact List.mem_append_left _ hlisted
  · rw [hlast.sameQueue (by decide), hall.queue, hfv.sameQueue (by decide), hjoins]
  · rw [(hlast.sameOwner (by decide)).1, (hall.frame.sameOwner (by decide)).1, (hfv.sameOwner (by decide)).1]
  · rw [(hlast.sameOwner (by decide)).2, (hall.frame.sameOwner (by decide)).2, (hfv.sameOwner (by decide)).2]

/-! ### What the statement says of the circuits -/

/-- A slip abandons and requeues none but a circuit that holds a measured Δ on the span. -/
theorem slipAbandons_measured {step : Int} (h : (s.slipAbandons n step c).isSome = true) : Measured n (s.circuit c) := by
  unfold State.slipAbandons at h
  split at h
  next x d hx hd =>
    split at h
    next hspan => exact ⟨hspan.1, by rw [hd]; rfl, .inr (.inl hspan.2)⟩
    next => cases h
  next => cases h

theorem slipRequeues_measured {step : Int} (h : s.slipRequeues n step c = true) :
    Measured n (s.circuit c) ∧ s.slipAbandons n step c = none := by
  unfold State.slipRequeues at h
  split at h
  next x d hx hd =>
    simp only [Bool.and_eq_true, decide_eq_true_eq, Bool.not_eq_true'] at h
    obtain ⟨⟨⟨hspan, hstate⟩, hout⟩, hleft⟩ := h
    have hdelta : x.delta = some d := (Circuit.delta_of hx).symm.trans hd
    refine ⟨⟨hspan, by rw [hd]; rfl, .inr (.inl hstate)⟩, ?_⟩
    rw [slipAbandons_of hx hdelta, if_pos ⟨hspan, hstate⟩, hout, if_neg Bool.false_ne_true, if_neg (Nat.pos_iff_ne_zero.mp hleft)]
  next => cases h

/-- A part of the circuits that holds none but those of the list is the same part of the list. -/
theorem filter_measuredOn {p : CircuitNo → Bool} (hp : ∀ c, p c = true → Measured n (s.circuit c)) :
    (s.measuredOn n).filter p = allCircuits.filter p := by
  unfold State.measuredOn
  rw [List.filter_filter]
  refine List.filter_congr fun c hc => ?_
  have hmem := (measuredOn_iff (s := s) (n := n) (c := c)).mpr
  cases h : p c with
  | false => rfl
  | true => simpa [State.measuredOn, hc] using hmem (hp c h)

theorem flatMap_measuredOn {β : Type} {f : CircuitNo → List β} (hf : ∀ c, f c ≠ [] → Measured n (s.circuit c)) :
    (s.measuredOn n).flatMap f = allCircuits.flatMap f := by
  have h := filter_measuredOn (s := s) (n := n) (p := fun c => !(f c).isEmpty) fun c hc => hf c (by simpa using hc)
  have hall : ∀ l : List CircuitNo, (l.filter fun c => !(f c).isEmpty).flatMap f = l.flatMap f := fun l => by
    rw [filter_flatMap]
    refine List.flatMap_congr fun c _ => ?_
    cases hc : f c <;> simp
  rw [← hall, h, hall]

theorem slipJoins_flatMap (s : State) (n : SpanNo) (step : Int) : ∀ l : List CircuitNo,
    (l.flatMap fun c => s.slipJoins n step c) = (l.filter fun c => s.slipRequeues n step c).map fun c => ⟨c, .full⟩
  | [] => rfl
  | a :: l => by
    rw [List.flatMap_cons, slipJoins_flatMap s n step l, State.slipJoins, List.filter_cons]
    cases s.slipRequeues n step a <;> rfl

theorem bridgedOn_eq (s : State) (n : SpanNo) : s.bridgedOn n = allCircuits.filter fun c => (s.circuit c).spanNo = some n ∧
    ((s.circuit c).state = .measuring ∨ (s.circuit c).state = .aligned) := by
  unfold State.bridgedOn
  refine List.filter_congr fun c _ => ?_
  unfold Circuit.bridgedState
  cases (s.circuit c).state <;> simp

/-- R87, step 3: the circuits after the slip step. -/
theorem SlipDone.circuits (h : SlipDone n kind fill s t) : CircuitsSlip n (slipDelta kind) s t where
  measured c x d hspan hx hd hstate := by
    have hnot : (s.circuit c).state ≠ .aligned := by rcases hstate with h | h <;> simp [h]
    have hends := h.ends c ⟨hspan, by rw [Circuit.delta_of hx, hd]; rfl, hstate.imp id .inr⟩
    rw [slippedRecord_of hx hd, slipAbandons_elsewhere hnot, slipRequeues_elsewhere hnot] at hends
    simpa only [Bool.false_eq_true, if_false, if_neg hnot, Option.isSome_none] using hends
  stays c x d hspan hx hd hstate hin hstay := by
    have hends := h.ends c ⟨hspan, by rw [Circuit.delta_of hx, hd]; rfl, .inr (.inl hstate)⟩
    have hrequeues : s.slipRequeues n (slipDelta kind) c = false := by simp [slipRequeues_of hx hd, hin]
    rw [slippedRecord_of hx hd, hstay, hrequeues] at hends
    simpa only [Bool.false_eq_true, if_false, if_pos hstate, Option.isSome_none] using hends
  requeued c x hrequeues hx := by
    obtain ⟨hmeasured, hstay⟩ := slipRequeues_measured hrequeues
    obtain ⟨d, hdelta⟩ := Option.isSome_iff_exists.mp hmeasured.delta
    have hends := h.ends c hmeasured
    rw [slippedRecord_of hx ((Circuit.delta_of hx).symm.trans hdelta), hstay, hrequeues] at hends
    exact hends
  abandoned c x d reason hreason hx hd := by
    have hends := h.ends c (slipAbandons_measured (by rw [hreason]; rfl))
    rw [slippedRecord_of hx hd, hreason] at hends
    exact hends
  others c hc := h.others c fun hm => by
    rcases hc with hspan | hdelta | ⟨hmeasuring, haligned, hfibre⟩
    · exact hspan hm.spanNo
    · have := hm.delta
      rw [hdelta] at this
      cases this
    · rcases hm.state with h | h | h
      · exact hmeasuring h
      · exact haligned h
      · exact hfibre h
  queue := by
    rw [h.queue, slipJoins_flatMap, filter_measuredOn fun c hc => (slipRequeues_measured hc).1]
  handedOn := by
    have hall := h.handedOn
    rw [State.slipAbandoned, filter_measuredOn fun c hc => slipAbandons_measured hc, flatMap_measuredOn fun c hc => ?_, bridgedOn_eq] at hall
    · exact hall
    · refine slipAbandons_measured (step := slipDelta kind) ?_
      cases hreason : s.slipAbandons n (slipDelta kind) c with
      | none => exact absurd (by simp [State.slipMessages, hreason]) hc
      | some reason => rfl

/-- Settles O42: the stages of the step are the span unit, the units, the circuits of the span in turn (`slipCircuits_slid`), and the
events; the SLIP report comes before or after the circuits' reports. -/
theorem slipStep : Obligations.SlipStep := by
  intro s n kind fill hlaw hup step moved fits t
  have hstep : slipDelta kind = step := slipDelta_eq kind
  have hdone : SlipDone n kind fill s t := slipStep_done hlaw n kind fill
  obtain ⟨v, hbegins, hunits, hspans⟩ := hdone.begins
  have hspan : t.span n = (s.span n).slipped kind := (hspans n).trans hbegins.span
  have hrecord : (t.span n).record = (s.span n).record.slip kind := by rw [hspan, Span.slipped_eq]
  rw [hrecord]
  refine ⟨hdone.frame, hdone.timeslots, hdone.slotOwners, fun m hm => (hspans m).trans (hbegins.spans m hm),
    hspan.trans (Span.slipped_eq _ kind), fun m hm => ?_, fun m hm => ?_, fun hm => ?_, hstep ▸ hdone.circuits, ?_,
    fun w c hc hon => ?_, fun w hoff => (hunits w).trans (hbegins.unitOff w hoff)⟩
  · rw [hm]; exact hstep ▸ DelayRecord.slip_valid m kind
  · rw [hm]; exact hstep ▸ DelayRecord.slip_stale m kind
  · rw [hm]; rfl
  · obtain ⟨bodies, hbodies, hnotes⟩ := hdone.reports
    refine ⟨_, hbodies, fun hon => ?_, fun c x d reason hreason hx hd hnotify o ho => ?_⟩
    · simp only [List.mem_append, State.slipBodies, hon, Bool.and_true, Span.slipped_eq]
      cases s.slipEarly n <;> simp
    · rw [← hstep] at hreason ho
      have hlisted := hnotes c (slipAbandons_measured (by rw [hreason]; rfl)) (by rw [hreason]; rfl) hnotify o
      rw [slippedRecord_of hx hd, hreason] at hlisted
      exact List.mem_append_left _ (List.mem_append_right _ (hlisted ho))
  · rw [hunits, hbegins.unitOn w c hc hon, Span.slipped_eq, ← hstep]
    exact Matcher.slip_unitSlips _ kind _

end Sys2Proof.Machine
end

section
/-! SUPPORT. A span frame at the span unit (R78, R79, R81, R83): the alignment word, the multiframe, and the codes of timeslot 0. -/

namespace Sys2Proof.Machine

variable {s t u : State} {n : SpanNo} {f : SpanFrame}

/-! ### The alignment word in the bit stream (R78) -/

theorem byteOfBits_eq_spanWord : ∀ a b c d e f g h : Bool, byteOfBits [a, b, c, d, e, f, g, h] = spanWord ↔
    [a, b, c, d, e, f, g, h] = [false, false, true, false, true, true, false, true] := by decide

/-- The window holds the alignment word. -/
theorem lastWord_eq_spanWord (window : List Bool) :
    lastWord window = some spanWord ↔ window = [false, false, true, false, true, true, false, true] := by
  unfold lastWord
  by_cases hlen : window.length = 8
  · obtain ⟨a, b, c, d, e, f, g, h, rfl⟩ : ∃ a b c d e f g h, window = [a, b, c, d, e, f, g, h] := by
      match window, hlen with
      | [a, b, c, d, e, f, g, h], _ => exact ⟨a, b, c, d, e, f, g, h, rfl⟩
    rw [if_pos hlen, Option.some.injEq]
    exact byteOfBits_eq_spanWord a b c d e f g h
  · rw [if_neg hlen]
    exact ⟨nofun, fun h => absurd (congrArg List.length h) hlen⟩

/-- The window after one bit. -/
def WordSearch.windowAfter (w : WordSearch) (b : Bool) : List Bool := (w.window ++ [b]).drop (w.window.length + 1 - 8)

theorem WordSearch.bit_window (w : WordSearch) (b : Bool) :
    (w.bit b).window = w.windowAfter b ∧ (w.bit b).next = (w.next + 1) % 512 := by
  unfold WordSearch.bit WordSearch.windowAfter
  cases w.candidate with
  | none =>
    simp only
    split <;> exact ⟨rfl, rfl⟩
  | some c =>
    simp only
    repeat' split
    all_goals exact ⟨rfl, rfl⟩

/-- With no candidate the word makes one. -/
theorem WordSearch.bit_none {w : WordSearch} (hc : w.candidate = none) (b : Bool) :
    (w.bit b).found = w.found ∧ (w.bit b).candidate =
      if w.windowAfter b = [false, false, true, false, true, true, false, true] then some ⟨(w.next + 505) % 512, 1, 512⟩ else none := by
  have hiff := lastWord_eq_spanWord ((w.window ++ [b]).drop (w.window.length + 1 - 8))
  unfold WordSearch.windowAfter WordSearch.bit
  rw [hc]
  simp only
  by_cases hword : lastWord ((w.window ++ [b]).drop (w.window.length + 1 - 8)) = some spanWord
  · rw [if_pos hword, if_pos (hiff.mp hword)]; exact ⟨rfl, rfl⟩
  · rw [if_neg hword, if_neg (mt hiff.mpr hword)]; exact ⟨rfl, rfl⟩

/-- With a candidate only the check that is due is made. -/
theorem WordSearch.bit_some {w : WordSearch} {c : AlignmentCandidate} (hc : w.candidate = some c) (b : Bool) :
    (1 < c.wait → (w.bit b).found = w.found ∧ (w.bit b).candidate = some { c with wait := c.wait - 1 }) ∧
    (c.wait ≤ 1 → w.windowAfter b = [false, false, true, false, true, true, false, true] → c.count < 2 →
      (w.bit b).found = w.found ∧ (w.bit b).candidate = some ⟨c.position, c.count + 1, 512⟩) ∧
    (c.wait ≤ 1 → w.windowAfter b = [false, false, true, false, true, true, false, true] → 2 ≤ c.count → (w.bit b).found = true) ∧
    (c.wait ≤ 1 → w.windowAfter b ≠ [false, false, true, false, true, true, false, true] →
      (w.bit b).found = w.found ∧ (w.bit b).candidate = none) := by
  unfold WordSearch.bit
  rw [hc]
  simp only [lastWord_eq_spanWord]
  rw [show (w.window ++ [b]).drop (w.window.length + 1 - 8) = w.windowAfter b from rfl]
  refine ⟨fun hwait => ?_, fun hwait hword hcount => ?_, fun hwait hword hcount => ?_, fun hwait hword => ?_⟩
  · rw [if_neg (by omega)]; exact ⟨rfl, rfl⟩
  · rw [if_pos hwait, if_pos hword, if_pos (by omega)]; exact ⟨rfl, rfl⟩
  · rw [if_pos hwait, if_pos hword, if_neg (by omega)]
  · rw [if_pos hwait, if_neg hword]; exact ⟨rfl, rfl⟩

/-- Nothing more is examined once alignment is found. -/
theorem WordSearch.feed_found {w : WordSearch} (h : w.found = true) : ∀ bits, w.feed bits = w
  | [] => rfl
  | b :: bits => by
    show WordSearch.feed (if w.found then w else w.bit b) bits = w
    rw [if_pos h]
    exact WordSearch.feed_found h bits

theorem WordSearch.feed_cons {w : WordSearch} (h : w.found = false) (b : Bool) (bits : List Bool) :
    w.feed (b :: bits) = (w.bit b).feed bits := by
  show WordSearch.feed (if w.found then w else w.bit b) bits = _
  rw [h]; rfl

/-! ### The bits of a frame (R190) -/

theorem byteBits_length (b : Byte) : (byteBits b).length = 8 := rfl

theorem byteBits_get (b : Byte) (j : Fin 8) : (byteBits b)[j.val]? = some (b.getLsbD (7 - j.val)) := by
  fin_cases j <;> rfl

/-- Eight bits for every byte, in order. -/
theorem flatten_byteBits_get : ∀ (l : List Byte) (i : Nat) (j : Fin 8),
    (l.map byteBits).flatten[8 * i + j.val]? = l[i]?.map fun b => b.getLsbD (7 - j.val)
  | [], i, j => by simp
  | b :: l, 0, j => by
    rw [List.map_cons, List.flatten_cons, List.getElem?_append_left (by rw [byteBits_length]; omega)]
    simpa using byteBits_get b j
  | b :: l, i + 1, j => by
    rw [List.map_cons, List.flatten_cons, List.getElem?_append_right (by rw [byteBits_length]; omega), byteBits_length,
      show 8 * (i + 1) + j.val - 8 = 8 * i + j.val by omega, flatten_byteBits_get l i j]
    simp

theorem frameBits_length (f : SpanFrame) : (frameBits f).length = 256 := by
  have h : ∀ l : List Byte, (l.map byteBits).flatten.length = 8 * l.length := fun l => by
    induction l with
    | nil => rfl
    | cons b l ih => rw [List.map_cons, List.flatten_cons, List.length_append, ih, byteBits_length, List.length_cons]; omega
  rw [frameBits, h, f.size]

theorem frameBits_get (f : SpanFrame) (i : Fin 32) (j : Fin 8) :
    (frameBits f)[8 * i.val + j.val]? = some ((f.get i).getLsbD (7 - j.val)) := by
  rw [frameBits, flatten_byteBits_get, List.getElem?_eq_getElem (by rw [f.size]; exact i.isLt)]
  rfl

/-! ### Timeslot 0 (R79, R83) -/

theorem signalCode_eq (b : Byte) (i : Nat) : signalCode b i = codeAt b i := by
  unfold signalCode codeAt
  cases b.getLsbD (2 * i + 1) <;> cases b.getLsbD (2 * i) <;> rfl

theorem signalCodes_eq (b : Byte) : signalCodes b = fourCodes b := by simp [signalCodes, fourCodes, signalCode_eq]

/-- R79, R81: the word check of an even frame. -/
theorem Span.checkWord_eq (x : Span) (f : SpanFrame) :
    (f.get 0 = 0x2D → x.checkWord f = { x with badWords := 0, badDue := false }) ∧
    (f.get 0 ≠ 0x2D → x.badWords < 3 → x.checkWord f = { x with badWords := x.badWords + 1 }) ∧
    (f.get 0 ≠ 0x2D → 3 ≤ x.badWords → x.checkWord f = { x with badDue := true }) := by
  unfold Span.checkWord slotZero spanWord
  exact ⟨fun h => if_pos h, fun h hlt => by rw [if_neg h, if_pos (by omega)], fun h hle => by rw [if_neg h, if_neg (by omega)]⟩

/-- The word check touches the bad words alone. -/
theorem Span.checkWord_frame (x : Span) (f : SpanFrame) :
    x.checkWord f = { x with badWords := (x.checkWord f).badWords, badDue := (x.checkWord f).badDue } := by
  unfold Span.checkWord
  split
  · rfl
  · split <;> rfl

/-- R83: the multiframe of a frame that is not its last. -/
theorem Multiframe.take_advance {m : Multiframe} (h : m.next < 15) (f : SpanFrame) :
    ((m.take f).advance).next = m.next + 1 ∧ ((m.take f).advance).expect = m.expect ∧
    (m.next = 1 → signalMarker (f.get 0) = some m.expect →
      ((m.take f).advance).codes = some [signalCode (f.get 0) 2, signalCode (f.get 0) 1, signalCode (f.get 0) 0]) ∧
    (m.next = 1 → signalMarker (f.get 0) ≠ some m.expect → ((m.take f).advance).codes = none) ∧
    (m.next % 2 = 1 → m.next ≠ 1 → ((m.take f).advance).codes = m.codes.map fun l => l ++ signalCodes (f.get 0)) ∧
    (m.next % 2 = 0 → ((m.take f).advance).codes = m.codes) := by
  have hkeep : (m.take f).next = m.next ∧ (m.take f).expect = m.expect := by
    unfold Multiframe.take
    repeat' split
    all_goals exact ⟨rfl, rfl⟩
  have hadvance : (m.take f).advance = { m.take f with next := (m.take f).next + 1 } := if_neg (by omega)
  rw [hadvance]
  refine ⟨by rw [hkeep.1], hkeep.2, fun h1 hm => ?_, fun h1 hm => ?_, fun hodd h1 => ?_, fun heven => ?_⟩
  · have hread : readMarker (slotZero f) = some m.expect := hm
    simp only [Multiframe.take, if_pos h1, if_pos hread, signalCode_eq]
    rfl
  · have hread : readMarker (slotZero f) ≠ some m.expect := hm
    simp only [Multiframe.take, if_pos h1, if_neg hread]
  · simp only [Multiframe.take, if_neg h1, if_pos hodd, slotZero, signalCodes_eq]
  · simp only [Multiframe.take, if_neg (show ¬ m.next = 1 by omega), if_neg (show ¬ m.next % 2 = 1 by omega)]

/-- R81, R83: the signalling of a frame that is not the last of its multiframe, whatever becomes of the store beside. -/
theorem signalFrame_signalled {x : Span} (h : x.multiframe.next < 15) (f : SpanFrame) (store : List SpanSamples) :
    SpanSignalled (f.get 0) x { x.signalFrame f with store := store } := by
  obtain ⟨hnext, hexpect, hfirst, hwrong, hmore, heven⟩ := Multiframe.take_advance h f
  obtain ⟨hgood, hbad, hfourth⟩ := x.checkWord_eq f
  unfold Span.signalFrame
  refine ⟨⟨hnext, hexpect⟩, fun hpar hword => ?_, fun hpar hword hlt => ?_, fun hpar hword hle => ?_, fun hpar => ?_, hfirst, hwrong, hmore,
    heven, ?_⟩
  · simp only [if_pos hpar, hgood hword, and_self]
  · simp only [if_pos hpar, hbad hword hlt, and_self]
  · simp only [if_pos hpar, hfourth hword hle, and_self]
  · simp only [if_neg (show ¬ x.multiframe.next % 2 = 0 by omega), and_self]
  · simp only
    split
    · rw [x.checkWord_frame f]
    · rfl

/-- R83: the codes of a multiframe that a frame ends, and the multiframe after it. -/
theorem signalFrame_last {x : Span} (h : x.multiframe.next = 15) (f : SpanFrame) :
    x.endedCodes f = some (x.multiframe.codes.map fun l => l ++ signalCodes (f.get 0)) ∧
    x.signalFrame f = { x with multiframe := ⟨0, (match x.multiframe.expect with | .first => .second | .second => .first), none⟩ } := by
  have htake : x.multiframe.take f = { x.multiframe with codes := x.multiframe.codes.map fun l => l ++ signalCodes (f.get 0) } := by
    unfold Multiframe.take
    rw [if_neg (by omega), if_pos (by omega), signalCodes_eq]
    rfl
  constructor
  · rw [Span.endedCodes, if_pos h, htake]
  · unfold Span.signalFrame Multiframe.advance
    rw [if_neg (by omega), htake]
    simp only [if_pos h]
    cases x.multiframe.expect <;> rfl

theorem endedCodes_within {x : Span} (h : x.multiframe.next < 15) (f : SpanFrame) : x.endedCodes f = none := if_neg (by omega)

/-! ### A frame in MULTIFRAME (R79) -/

/-- The unit as a frame in MULTIFRAME finds it: its samples kept, a marker that is due looked for again, the wait of the candidate run. -/
def Span.hunting (x : Span) (f : SpanFrame) : Span :=
  { x with
    recent := (x.recent ++ [spanSamples f]).drop (x.recent.length + 1 - 2)
    marker := (if x.upDue = true then none else x.marker).map fun c => { c with wait := c.wait - 1 }
    upDue := false }

theorem huntFrame_eq (x : Span) (f : SpanFrame) : x.huntFrame f =
    { (if x.nextEven then (x.hunting f).checkWord f else (x.hunting f).checkMarker f) with nextEven := !x.nextEven } := by
  have hwait : ∀ y : Span, y.waitMarker = { y with marker := y.marker.map fun c => { c with wait := c.wait - 1 } } := fun y => by
    obtain ⟨_, _, _, _ | c⟩ := y <;> rfl
  unfold Span.huntFrame
  simp only [hwait]
  rfl

/-- R79: the marker check of an odd frame in MULTIFRAME. -/
theorem Span.checkMarker_eq (x : Span) (f : SpanFrame) :
    (x.marker = none → x.checkMarker f = { x with marker := (signalMarker (f.get 0)).map fun v => ⟨v, 16⟩ }) ∧
    ∀ c, x.marker = some c → (0 < c.wait → x.checkMarker f = x) ∧
      (c.wait = 0 → signalMarker (f.get 0) = some (otherMarker c.marker) → x.checkMarker f = { x with upDue := true }) ∧
      (c.wait = 0 → signalMarker (f.get 0) ≠ some (otherMarker c.marker) → x.checkMarker f = { x with marker := none }) := by
  unfold Span.checkMarker
  refine ⟨fun h => by rw [h]; rfl, fun c h => ?_⟩
  rw [h]
  exact ⟨fun hwait => if_neg (Nat.pos_iff_ne_zero.mp hwait), fun hwait hseen => (if_pos hwait).trans (if_pos hseen),
    fun hwait hseen => (if_pos hwait).trans (if_neg hseen)⟩

/-- The marker check touches the marker alone. -/
theorem Span.checkMarker_frame (x : Span) (f : SpanFrame) :
    x.checkMarker f = { x with marker := (x.checkMarker f).marker, upDue := (x.checkMarker f).upDue } := by
  unfold Span.checkMarker
  repeat' split
  all_goals rfl

end Sys2Proof.Machine
end

section
/-! SUPPORT. The codes of a multiframe at the timeslots of a span (R16, R84, R91). -/

namespace Sys2Proof.Machine

variable {s t u : State} {n : SpanNo} {c : CircuitNo}

/-! ### What leaves the spans that do not retire by themselves -/

/-- Every span whose automatic retirement is off is as it was (R91). -/
def SpansLast (s t : State) : Prop := ∀ m, (s.span m).autoRetire = false → t.span m = s.span m

theorem SpansLast.refl (s : State) : SpansLast s s := fun _ _ => rfl

theorem SpansLast.trans (h : SpansLast s t) (k : SpansLast t u) : SpansLast s u := fun m hm =>
  (k m (by rw [h m hm]; exact hm)).trans (h m hm)

theorem SameBut.spansLast {l : List Block} (h : SameBut l s t) (hs : Block.spans ∉ l := by decide) : SpansLast s t :=
  fun m _ => h.sameSpan hs m

theorem autoRetire_spansLast (s : State) (n : SpanNo) : SpansLast s (s.autoRetire n) := by
  unfold State.autoRetire
  split
  next h =>
    intro m hm
    have hmn : m ≠ n := by rintro rfl; rw [h.1] at hm; cases hm
    unfold State.retireSpan
    rw [(handReport_frame _ _).sameSpan (by decide), (evaluateAll_frame _).sameSpan (by decide)]
    exact State.setSpan_span_ne _ _ (Ne.symm hmn)
  next => exact .refl s

theorem releaseFallback_spansLast (s : State) (c : CircuitNo) (reason : Reason) : SpansLast s (s.releaseFallback c reason) := by
  unfold State.releaseFallback
  simp only
  have hwritten := fun o => ((markCopper_frame s (s.circuit c).copper none).spansLast.trans
    (putCircuit_frame _ c { s.circuit c with copper := none, copperTransmit := false, context := none }).spansLast).trans
    (writeOutcome_frame _ c o).spansLast
  have hsent : ∀ (p : Prop) [Decidable p] (t : State), SpansLast t (if p then t else t.sendFor c .release) := fun p _ t => by
    split
    · exact .refl t
    · exact (sendFor_frame t c _).spansLast
  have hall := fun o => (hwritten o).trans (hsent (reason = .peerReleased) _)
  split
  · exact (hall _).trans (autoRetire_spansLast _ _)
  · exact hall _

theorem releaseTest_spansLast (s : State) (c : CircuitNo) : SpansLast s (s.releaseTest c) := by
  unfold State.releaseTest
  split
  · exact releaseFallback_spansLast s c _
  · exact .refl s

theorem splice_spansLast (s : State) (c : CircuitNo) (code : OutcomeCode) (b : Nat) (d : Option Int) (j : Option SampleOffset) :
    SpansLast s (s.splice c code b d j) := by
  unfold State.splice
  simp only
  split
  · exact (((((releaseMatcher_frame s c).spansLast.trans (putCircuit_frame _ c _).spansLast).trans (sendFor_frame _ c _).spansLast).trans
      (writeOutcome_frame _ c _).spansLast).trans (releaseTest_spansLast _ c)).trans (collapseTest_frame _ c).spansLast
  · exact .refl s

theorem bridgeWaitTest_spansLast (s : State) (c : CircuitNo) : SpansLast s (s.bridgeWaitTest c) := by
  unfold State.bridgeWaitTest
  repeat' split
  · exact splice_spansLast s c _ _ _ _
  · exact splice_spansLast s c _ _ _ _
  · exact (queueForMatch_frame s c _).spansLast
  all_goals exact .refl s

theorem becameIdle_spansLast (s : State) (c : CircuitNo) : SpansLast s (s.becameIdle c) := by
  unfold State.becameIdle
  split
  · exact bridgeWaitTest_spansLast s c
  · split
    · split
      · unfold State.spliceAligned
        split
        · exact (spliceOffset_frame s _).spansLast.trans (splice_spansLast _ c _ _ _ _)
        · exact splice_spansLast s c _ _ _ _
      · exact (enterMeasuring_frame s c _).spansLast.trans (bridgeWaitTest_spansLast _ c)
    · exact .refl s
  · exact (collapseTest_frame s c).spansLast
  · exact .refl s

theorem inputChanged_spansLast (s : State) (c : CircuitNo) (wasBusy : Bool) : SpansLast s (s.inputChanged c wasBusy) := by
  unfold State.inputChanged
  have hline : SpansLast s (if lineWatched (s.circuit c).state then s.watchEvent c .line none else s) := by
    split
    · exact (watchEvent_frame s c _ _).spansLast
    · exact .refl s
  have hresult : ∀ v : State, SpansLast v (if wasBusy ∧ v.busy c = false then v.becameIdle c
      else if wasBusy = false ∧ v.busy c = true then v.becameBusy c else v) := fun v => by
    split
    · exact becameIdle_spansLast v c
    · split
      · exact (becameBusy_frame v c).spansLast
      · exact .refl v
  exact hline.trans (hresult _)

/-! ### One timeslot's code (R84) -/

section
variable {i : TimeslotNo} {code : LineCondition}

/-- The span unit after one timeslot's code. -/
def State.codeTaken (s : State) (n : SpanNo) (i : TimeslotNo) (code : LineCondition) : State :=
  s.setSpan n ((s.span n).setCondition i ((s.span n).afterCode (i, code)))

/-- R84: a code other than the recognised one, seen in two multiframes running, is a change. -/
def Span.codeChanges (x : Span) (i : TimeslotNo) (code : LineCondition) : Prop :=
  code ≠ x.conditions.get i ∧ x.candidates.get i = some code

theorem afterCode_changed {x : Span} (h : x.codeChanges i code) : x.afterCode (i, code) = (code, none) := by
  obtain ⟨hnew, hcandidate⟩ := h
  unfold Span.afterCode copperTake
  rw [if_neg hnew, if_pos hcandidate]

theorem afterCode_still {x : Span} (h : ¬ x.codeChanges i code) :
    x.afterCode (i, code) = (x.conditions.get i, if code = x.conditions.get i then none else some code) := by
  unfold Span.afterCode copperTake
  by_cases hnew : code = x.conditions.get i
  · rw [if_pos hnew, if_pos hnew]
  · rw [if_neg hnew, if_neg hnew, if_neg fun hcandidate => h ⟨hnew, hcandidate⟩]

/-- R84: the recognised condition and the candidate, by the candidate before. -/
theorem afterCode_eq (x : Span) (i : TimeslotNo) (code : LineCondition) : x.afterCode (i, code) =
    (if x.candidates.get i = some code then code else x.conditions.get i,
      if code = x.conditions.get i ∨ x.candidates.get i = some code then none else some code) := by
  by_cases hcandidate : x.candidates.get i = some code
  · rw [if_pos hcandidate, if_pos (.inr hcandidate)]
    by_cases hnew : code = x.conditions.get i
    · rw [afterCode_still fun h => h.1 hnew, if_pos hnew, ← hnew]
    · exact afterCode_changed ⟨hnew, hcandidate⟩
  · rw [if_neg hcandidate, afterCode_still fun h => hcandidate h.2]
    simp only [hcandidate, or_false]

theorem afterCode_changes_iff (x : Span) (i : TimeslotNo) (code : LineCondition) :
    (x.afterCode (i, code)).1 ≠ x.conditions.get i ↔ x.codeChanges i code := by
  by_cases h : x.codeChanges i code
  · rw [afterCode_changed h]
    exact ⟨fun _ => h, fun h => h.1⟩
  · rw [afterCode_still h]
    exact ⟨fun k => absurd rfl k, fun k => absurd k h⟩

theorem codeTaken_span (s : State) (n : SpanNo) (i : TimeslotNo) (code : LineCondition) :
    (s.codeTaken n i code).span n = (s.span n).setCondition i ((s.span n).afterCode (i, code)) := State.setSpan_span_eq ..

theorem codeTaken_frame (s : State) (n : SpanNo) (i : TimeslotNo) (code : LineCondition) : SameBut [.spans] s (s.codeTaken n i code) :=
  setSpan_frame s n _

theorem Sound.codeTaken (h : Sound s) (n : SpanNo) (i : TimeslotNo) (code : LineCondition) : Sound (s.codeTaken n i code) where
  batches := h.batches.setSpan n _
  conditioned := h.conditioned.congr rfl (fun m => by
    by_cases hm : m = n
    · rw [hm, codeTaken_span]; rfl
    · rw [State.codeTaken, State.setSpan_span_ne _ _ (Ne.symm hm)]) rfl
  copper := h.copper.setSpan n _

/-- R16: a circuit that receives from fibre, and a VACANT one, is not concerned. -/
theorem onCopper_iff (p : PathState) : onCopper p = true ↔ p ≠ .vacant ∧ p ≠ .fibre := by cases p <;> simp [onCopper]

theorem takeCopperCode_down (h : (s.span n).state ≠ .up) (x : TimeslotNo × LineCondition) : s.takeCopperCode n x = s := if_neg h

/-- R84: no change, or a timeslot that no circuit receives from. -/
theorem takeCopperCode_quiet (h : (s.span n).state = .up)
    (hquiet : ∀ c, s.timeslotOwner ⟨n, i⟩ = some c → ¬ ((s.span n).codeChanges i code ∧ onCopper (s.circuit c).state = true)) :
    s.takeCopperCode n (i, code) = s.codeTaken n i code := by
  unfold State.takeCopperCode
  rw [if_pos h]
  simp only
  split
  next c hc => exact if_neg fun k => hquiet c hc ⟨(afterCode_changes_iff ..).mp k.1, k.2⟩
  next => rfl

/-- R16, R84: a change is an event of the circuit that receives from the timeslot. -/
theorem takeCopperCode_changed (h : (s.span n).state = .up) (hc : s.timeslotOwner ⟨n, i⟩ = some c)
    (hchange : (s.span n).codeChanges i code) (hcopper : onCopper (s.circuit c).state = true) :
    s.takeCopperCode n (i, code) = (s.codeTaken n i code).inputChanged c (s.busy c) := by
  unfold State.takeCopperCode
  rw [if_pos h]
  simp only [hc]
  exact if_pos ⟨(afterCode_changes_iff ..).mpr hchange, hcopper⟩

/-- A VACANT circuit makes nothing of an input. -/
theorem InputJudged.vacant (h : (s.circuit c).state = .vacant) (wasBusy : Bool) : InputJudged c wasBusy s s := by
  refine ⟨s, by rw [if_pos (.inl h)], ?_⟩
  have hidle : BecomesIdle c s s := by unfold BecomesIdle; rw [h]
  have hbusy : BecomesBusy c s s := by simp [BecomesBusy, h]
  split
  · exact hidle
  · split
    · exact hbusy
    · rfl

end

/-! ### The codes of a multiframe, one after another (R83, R84) -/

/-- What codes make of a span unit: each timeslot takes its own. -/
structure CodesTaken (codes : List (TimeslotNo × LineCondition)) (x y : Span) : Prop where
  taken : ∀ i code, (i, code) ∈ codes → (y.conditions.get i, y.candidates.get i) = x.afterCode (i, code)
  others : ∀ i, i ∉ codes.map Prod.fst → y.conditions.get i = x.conditions.get i ∧ y.candidates.get i = x.candidates.get i
  rest : y = { x with conditions := y.conditions, candidates := y.candidates }

theorem takeCopperCode_frame (n : SpanNo) (s : State) (x : TimeslotNo × LineCondition) :
    SameBut releaseBlocks s (s.takeCopperCode n x) := by
  have hset := fun y => (setSpan_frame s n y).mono (show ∀ b ∈ [Block.spans], b ∈ releaseBlocks by decide)
  unfold State.takeCopperCode
  simp only
  repeat' split
  · exact (hset _).trans (inputChanged_frame _ _ _)
  · exact hset _
  · exact hset _
  · exact .refl _ s

/-- A span that does not retire by itself takes a code, whatever comes of its circuits. -/
theorem takeCopperCode_span (h : (s.span n).state = .up) (hlast : (s.span n).autoRetire = false) (i : TimeslotNo) (code : LineCondition) :
    (s.takeCopperCode n (i, code)).span n = (s.span n).setCondition i ((s.span n).afterCode (i, code)) := by
  have htaken := codeTaken_span s n i code
  by_cases hquiet : ∀ c, s.timeslotOwner ⟨n, i⟩ = some c → ¬ ((s.span n).codeChanges i code ∧ onCopper (s.circuit c).state = true)
  · rw [takeCopperCode_quiet h hquiet, htaken]
  · push Not at hquiet
    obtain ⟨c, hc, hchange, hcopper⟩ := hquiet
    rw [takeCopperCode_changed h hc hchange hcopper, inputChanged_spansLast _ c _ n (by rw [htaken]; exact hlast), htaken]

theorem takeCopperCodes_span : ∀ (codes : List (TimeslotNo × LineCondition)) (s : State), (codes.map Prod.fst).Nodup →
    (s.span n).state = .up → (s.span n).autoRetire = false → CodesTaken codes (s.span n) ((codes.foldl (State.takeCopperCode n) s).span n)
  | [], s, _, _, _ => ⟨nofun, fun _ _ => ⟨rfl, rfl⟩, rfl⟩
  | (i, code) :: codes, s, hn, hup, hlast => by
    obtain ⟨hi, hn⟩ := List.nodup_cons.mp hn
    have hfirst := takeCopperCode_span hup hlast i code
    set v := s.takeCopperCode n (i, code) with hv
    have hrest := takeCopperCodes_span codes v hn (by rw [hfirst]; exact hup) (by rw [hfirst]; exact hlast)
    have hother : ∀ j, i ≠ j → (v.span n).conditions.get j = (s.span n).conditions.get j ∧
        (v.span n).candidates.get j = (s.span n).candidates.get j := fun j hj => by
      rw [hfirst]
      exact ⟨Table.get_set_ne _ _ hj, Table.get_set_ne _ _ hj⟩
    refine ⟨fun j code' hj => ?_, fun j hj => ?_, ?_⟩
    · rcases List.mem_cons.mp hj with heq | hj
      · obtain ⟨rfl, rfl⟩ := Prod.mk.injEq .. ▸ heq
        obtain ⟨hcondition, hcandidate⟩ := hrest.others j hi
        rw [List.foldl_cons, hcondition, hcandidate, hfirst]
        exact Prod.ext (Table.get_set_eq ..) (Table.get_set_eq ..)
      · have hne : i ≠ j := by rintro rfl; exact hi (List.mem_map.mpr ⟨_, hj, rfl⟩)
        obtain ⟨hcondition, hcandidate⟩ := hother j hne
        rw [List.foldl_cons, hrest.taken j code' hj]
        simp only [Span.afterCode, hcondition, hcandidate]
    · obtain ⟨hji, hj⟩ := not_or.mp (mt List.mem_cons.mpr hj)
      obtain ⟨hcondition, hcandidate⟩ := hother j (Ne.symm hji)
      obtain ⟨hcondition', hcandidate'⟩ := hrest.others j hj
      exact ⟨hcondition'.trans hcondition, hcandidate'.trans hcandidate⟩
    · rw [List.foldl_cons]
      conv_lhs => rw [hrest.rest, hfirst]
      rfl

end Sys2Proof.Machine
end

section
/-! The row of a received span frame (O41): UP, SEARCH, MULTIFRAME, and the spans that take nothing (R78, R79, R81, R83, R84, R86, R87). -/

namespace Sys2Proof.Machine

variable {s t u : State} {n : SpanNo} {f : SpanFrame}

/-! ### The row by the state of the span -/

section
variable (hrun : s.running = true) (hlos : (s.span n).lossOfSignal = false)
include hrun hlos

theorem spanFrame_up (h : (s.span n).state = .up) (f : SpanFrame) : exec (.spanFrameReceived n f) s = .next (s.upFrame n f) := by
  change execSpanFrameReceived n f s = _
  rw [execSpanFrameReceived, if_pos ⟨hrun, hlos⟩]
  simp only [h]

theorem spanFrame_search (h : (s.span n).state = .down) (hphase : (s.span n).phase = some .search) (f : SpanFrame) :
    exec (.spanFrameReceived n f) s = .next (s.setSpan n { s.span n with search := (s.span n).search.feed (frameBits f) }) := by
  change execSpanFrameReceived n f s = _
  rw [execSpanFrameReceived, if_pos ⟨hrun, hlos⟩]
  simp only [h, hphase]

theorem spanFrame_multiframe (h : (s.span n).state = .down) (hphase : (s.span n).phase = some .multiframe) (f : SpanFrame) :
    exec (.spanFrameReceived n f) s = .next (s.setSpan n ((s.span n).huntFrame f)) := by
  change execSpanFrameReceived n f s = _
  rw [execSpanFrameReceived, if_pos ⟨hrun, hlos⟩]
  simp only [h, hphase]

end

theorem spanFrame_nothing (h : s.running = false ∨ (s.span n).lossOfSignal = true ∨ (s.span n).state = .retired) (f : SpanFrame) :
    exec (.spanFrameReceived n f) s = .next s := by
  change execSpanFrameReceived n f s = _
  unfold execSpanFrameReceived
  split
  next hrun =>
    have hret : (s.span n).state = .retired := by
      rcases h with h | h | h
      · rw [h] at hrun; cases hrun.1
      · rw [h] at hrun; cases hrun.2
      · exact h
    rw [hret]
  next => rfl

/-! ### A frame of an UP span (R81, R83, R86) -/

theorem storeFrame_open (h : (s.span n).state = .up) (hlen : (s.span n).store.length < 4) (f : SpanFrame) :
    s.storeFrame n f = s.setSpan n { s.span n with store := (s.span n).store ++ [spanSamples f] } := by
  unfold State.storeFrame Span.write storeDepth
  rw [if_pos h, if_pos hlen]
  rfl

theorem storeFrame_full (h : (s.span n).state = .up) (hlen : (s.span n).store.length = 4) (f : SpanFrame) :
    s.storeFrame n f =
      (s.setSpan n { s.span n with store := (s.span n).store.drop 1 ++ [spanSamples f] }).slipStep n .deletion 4 := by
  have hwrite : (s.span n).write (spanSamples f) = ({ s.span n with store := (s.span n).store.drop 1 ++ [spanSamples f] }, true) :=
    if_neg (show ¬ (s.span n).store.length < 4 by omega)
  have hfill : ((s.span n).store.drop 1 ++ [spanSamples f]).length = 4 := by
    rw [List.length_append, List.length_drop, hlen, List.length_singleton]
  unfold State.storeFrame
  rw [if_pos h]
  simp only [hwrite, hfill, if_true]

/-- The signalling of a frame keeps the store and the state. -/
theorem signalFrame_kept (x : Span) (f : SpanFrame) : (x.signalFrame f).store = x.store ∧ (x.signalFrame f).state = x.state := by
  refine ⟨?_, signalFrame_state x f⟩
  unfold Span.signalFrame
  simp only
  split
  · rw [x.checkWord_frame f]
  · rfl

theorem upFrame_within (h : (s.span n).multiframe.next < 15) (f : SpanFrame) :
    s.upFrame n f = (s.setSpan n ((s.span n).signalFrame f)).storeFrame n f := by
  unfold State.upFrame State.signalFrame
  simp only [endedCodes_within h]

/-- R81, R83, R86: a frame that is not the last of its multiframe joins the store. -/
theorem spanFrame_stored (hrun : s.running = true) (hlos : (s.span n).lossOfSignal = false) (hup : (s.span n).state = .up)
    (hnext : (s.span n).multiframe.next < 15) (hlen : (s.span n).store.length < 4) (f : SpanFrame) :
    Happens s (.spanFrameReceived n f) [.spans] fun t =>
      SpansBut n s t ∧ (t.span n).store = (s.span n).store ++ [.ofFn fun i => f.get i.succ] ∧
      SpanSignalled (f.get 0) (s.span n) (t.span n) := by
  obtain ⟨hstore, hstate⟩ := signalFrame_kept (s.span n) f
  have hexec := spanFrame_up hrun hlos hup f
  rw [upFrame_within hnext, storeFrame_open (by rw [State.setSpan_span_eq, hstate, hup])
    (by rw [State.setSpan_span_eq, hstore]; exact hlen), State.setSpan_setSpan, State.setSpan_span_eq] at hexec
  refine happens_setSpan hexec fun t ht hbut => ⟨hbut, ?_, ?_⟩
  · rw [ht, ← hstore]; rfl
  · rw [ht]; exact signalFrame_signalled hnext f _

/-- R87: with four frames unread the oldest is discarded, and the write slips. -/
theorem spanFrame_slips (hrun : s.running = true) (hlos : (s.span n).lossOfSignal = false) (hup : (s.span n).state = .up)
    (hnext : (s.span n).multiframe.next < 15) (hlen : (s.span n).store.length = 4) (f : SpanFrame) :
    ∃ m t, exec (.spanFrameReceived n f) s = .next t ∧ SameBut [.spans] s m ∧ SpansBut n s m ∧
      (m.span n).store = (s.span n).store.drop 1 ++ [.ofFn fun i => f.get i.succ] ∧
      SpanSignalled (f.get 0) (s.span n) (m.span n) ∧ t = m.slipStep n .deletion 4 := by
  obtain ⟨hstore, hstate⟩ := signalFrame_kept (s.span n) f
  have hexec := spanFrame_up hrun hlos hup f
  rw [upFrame_within hnext, storeFrame_full (by rw [State.setSpan_span_eq, hstate, hup])
    (by rw [State.setSpan_span_eq, hstore]; exact hlen), State.setSpan_setSpan, State.setSpan_span_eq] at hexec
  refine ⟨_, _, hexec, setSpan_frame s n _, setSpan_spansBut s n _, ?_, ?_, rfl⟩
  · rw [State.setSpan_span_eq, ← hstore]; rfl
  · rw [State.setSpan_span_eq]; exact signalFrame_signalled hnext f _

/-! ### The last frame of a multiframe (R83, R84) -/

/-- The span unit after the signalling of the last frame of a multiframe. -/
def State.multiframeEnded (s : State) (n : SpanNo) : State := s.setSpan n { s.span n with
  multiframe := ⟨0, (match (s.span n).multiframe.expect with | .first => .second | .second => .first), none⟩ }

theorem upFrame_taken {l : List LineCondition} (h : (s.span n).multiframe.next = 15) (hcodes : (s.span n).multiframe.codes = some l)
    (f : SpanFrame) : s.upFrame n f =
      (((List.finRange 31).zip (l ++ signalCodes (f.get 0))).foldl (State.takeCopperCode n) (s.multiframeEnded n)).storeFrame n f := by
  obtain ⟨hended, hsignal⟩ := signalFrame_last h f
  unfold State.upFrame State.signalFrame
  simp only [hended, hsignal, hcodes, Option.map_some]
  rfl

/-- A timeslot stands once among the codes of a multiframe. -/
theorem zip_codes_nodup {codes : List LineCondition} (h : codes.length = 31) : (((List.finRange 31).zip codes).map Prod.fst).Nodup := by
  rw [List.map_fst_zip (by rw [h, List.length_finRange])]
  exact List.nodup_finRange 31

theorem mem_zip_codes {codes : List LineCondition} {i : TimeslotNo} {code : LineCondition} (h : codes[i.val]? = some code) :
    (i, code) ∈ (List.finRange 31).zip codes := by
  refine List.mem_iff_getElem?.mpr ⟨i.val, List.getElem?_zip_eq_some.mpr ⟨?_, h⟩⟩
  simp

/-- R84: the codes of a multiframe at a span that does not retire by itself. -/
theorem spanFrame_codes {l : List LineCondition} (hrun : s.running = true) (hlos : (s.span n).lossOfSignal = false)
    (hup : (s.span n).state = .up) (hlast : (s.span n).autoRetire = false) (hnext : (s.span n).multiframe.next = 15)
    (hcodes : (s.span n).multiframe.codes = some l) (hl : l.length = 27) (hlen : (s.span n).store.length < 4) (f : SpanFrame) :
    Happens s (.spanFrameReceived n f) releaseBlocks fun t =>
      (t.span n).store = (s.span n).store ++ [.ofFn fun i => f.get i.succ] ∧ (t.span n).multiframe.next = 0 ∧
      ∀ (i : TimeslotNo) code, (l ++ signalCodes (f.get 0))[i.val]? = some code →
        (t.span n).conditions.get i =
          (if (s.span n).candidates.get i = some code then code else (s.span n).conditions.get i) ∧
        (t.span n).candidates.get i =
          (if code = (s.span n).conditions.get i ∨ (s.span n).candidates.get i = some code then none else some code) := by
  have hexec := spanFrame_up hrun hlos hup f
  set k := s.multiframeEnded n with hk
  have hkspan : k.span n = { s.span n with
      multiframe := ⟨0, (match (s.span n).multiframe.expect with | .first => .second | .second => .first), none⟩ } := State.setSpan_span_eq ..
  set v := ((List.finRange 31).zip (l ++ signalCodes (f.get 0))).foldl (State.takeCopperCode n) k with hv
  have htaken : CodesTaken ((List.finRange 31).zip (l ++ signalCodes (f.get 0))) (k.span n) (v.span n) :=
    takeCopperCodes_span _ k (zip_codes_nodup (by rw [List.length_append, hl]; rfl)) (by rw [hkspan]; exact hup) (by rw [hkspan]; exact hlast)
  have hvstore : (v.span n).store = (s.span n).store := by rw [htaken.rest, hkspan]
  have hframe : SameBut releaseBlocks s v :=
    ((setSpan_frame s n _).mono (by decide)).trans (SameBut.foldl (takeCopperCode_frame n) _ k)
  rw [upFrame_taken hnext hcodes, ← hk, ← hv, storeFrame_open (by rw [htaken.rest, hkspan]; exact hup) (by rw [hvstore]; exact hlen)] at hexec
  refine ⟨_, hexec, hframe.trans ((setSpan_frame v n _).mono (by decide)), ?_⟩
  beta_reduce
  rw [State.setSpan_span_eq]
  refine ⟨by rw [← hvstore]; rfl, ?_, fun i code hcode => ?_⟩
  · show (v.span n).multiframe.next = 0
    rw [htaken.rest, hkspan]
  · have hafter := htaken.taken i code (mem_zip_codes hcode)
    rw [hkspan, afterCode_eq] at hafter
    exact Prod.mk.injEq .. ▸ hafter

/-- R83: a multiframe that is not taken leaves the conditions, and removes the candidates. -/
theorem spanFrame_untaken (hrun : s.running = true) (hlos : (s.span n).lossOfSignal = false) (hup : (s.span n).state = .up)
    (hnext : (s.span n).multiframe.next = 15) (hcodes : (s.span n).multiframe.codes = none) (hlen : (s.span n).store.length < 4)
    (f : SpanFrame) :
    Happens s (.spanFrameReceived n f) [.spans] fun t =>
      SpansBut n s t ∧ (t.span n).conditions = (s.span n).conditions ∧ (∀ i, (t.span n).candidates.get i = none) ∧
      (t.span n).store = (s.span n).store ++ [.ofFn fun i => f.get i.succ] := by
  obtain ⟨hended, hsignal⟩ := signalFrame_last hnext f
  have hexec := spanFrame_up hrun hlos hup f
  unfold State.upFrame State.signalFrame State.endMultiframe at hexec
  simp only [hended, hsignal, hcodes, Option.map_none, State.setSpan_setSpan, State.setSpan_span_eq] at hexec
  rw [storeFrame_open (by rw [State.setSpan_span_eq]; exact hup) (by rw [State.setSpan_span_eq]; exact hlen), State.setSpan_setSpan,
    State.setSpan_span_eq] at hexec
  exact happens_setSpan hexec fun t ht hbut => by
    rw [ht]
    exact ⟨hbut, rfl, Table.get_fill none, rfl⟩

/-! ### One timeslot's code, as the statement says it -/

theorem takeCopperCode_spec (hup : (s.span n).state = .up) (hlaw : Lawful s) (i : TimeslotNo) (code : LineCondition) :
    let changed : Prop := code ≠ (s.span n).conditions.get i ∧ (s.span n).candidates.get i = some code
    ∃ m, SameBut [.spans] s m ∧ SpansBut n s m ∧
      m.span n = { s.span n with
        conditions := (s.span n).conditions.set i ((m.span n).conditions.get i)
        candidates := (s.span n).candidates.set i ((m.span n).candidates.get i) } ∧
      (changed → (m.span n).conditions.get i = code ∧ (m.span n).candidates.get i = none) ∧
      (¬ changed → (m.span n).conditions.get i = (s.span n).conditions.get i ∧
        (m.span n).candidates.get i = if code = (s.span n).conditions.get i then none else some code) ∧
      (¬ changed → s.takeCopperCode n (i, code) = m) ∧
      (s.timeslotOwner ⟨n, i⟩ = none → s.takeCopperCode n (i, code) = m) ∧
      ∀ c, changed → s.timeslotOwner ⟨n, i⟩ = some c →
        ((s.circuit c).state = .fibre → s.takeCopperCode n (i, code) = m) ∧
        ((s.circuit c).state ≠ .fibre → InputJudged c (s.busy c) m (s.takeCopperCode n (i, code))) := by
  intro changed
  have hspan := codeTaken_span s n i code
  have hget : ((s.codeTaken n i code).span n).conditions.get i = ((s.span n).afterCode (i, code)).1 ∧
      ((s.codeTaken n i code).span n).candidates.get i = ((s.span n).afterCode (i, code)).2 := by
    rw [hspan]
    exact ⟨Table.get_set_eq .., Table.get_set_eq ..⟩
  have hsound : Sound (s.codeTaken n i code) := hlaw.sound.codeTaken n i code
  refine ⟨s.codeTaken n i code, codeTaken_frame s n i code, setSpan_spansBut s n _, by rw [hget.1, hget.2, hspan]; rfl, fun hc => ?_,
    fun hc => ?_, fun hc => takeCopperCode_quiet hup fun _ _ k => hc k.1, fun hnone => takeCopperCode_quiet hup fun c hc => ?_,
    fun c hc howner => ⟨fun hfibre => takeCopperCode_quiet hup fun d hd k => ?_, fun hfibre => ?_⟩⟩
  · rw [hget.1, hget.2, afterCode_changed hc]; exact ⟨rfl, rfl⟩
  · rw [hget.1, hget.2, afterCode_still hc]; exact ⟨rfl, rfl⟩
  · rw [hnone] at hc; cases hc
  · obtain rfl : c = d := Option.some.inj (howner.symm.trans hd)
    exact ((onCopper_iff _).mp k.2).2 hfibre
  · by_cases hvacant : (s.circuit c).state = .vacant
    · rw [takeCopperCode_quiet hup fun d hd k => by
        obtain rfl : c = d := Option.some.inj (howner.symm.trans hd)
        exact ((onCopper_iff _).mp k.2).1 hvacant]
      exact InputJudged.vacant (s := s.codeTaken n i code) hvacant _
    · rw [takeCopperCode_changed hup howner hc ((onCopper_iff _).mpr ⟨hvacant, hfibre⟩)]
      exact inputChanged_spec hsound c _

/-! ### A frame in MULTIFRAME (R79) -/

/-- The check of a frame keeps what the hunt has kept of it. -/
theorem huntFrame_kept (x : Span) (f : SpanFrame) : (x.huntFrame f).state = x.state ∧ (x.huntFrame f).phase = x.phase ∧
    (x.huntFrame f).store = x.store ∧ (x.huntFrame f).nextEven = (!x.nextEven) ∧
    (x.huntFrame f).recent = (x.recent ++ [spanSamples f]).drop (x.recent.length + 1 - 2) := by
  rw [huntFrame_eq]
  cases x.nextEven
  · rw [if_neg Bool.false_ne_true, Span.checkMarker_frame]
    exact ⟨rfl, rfl, rfl, rfl, rfl⟩
  · rw [if_pos rfl, Span.checkWord_frame]
    exact ⟨rfl, rfl, rfl, rfl, rfl⟩

/-- R79: an even frame in MULTIFRAME is checked for the word. -/
theorem huntFrame_even {x : Span} (h : x.nextEven = true) (f : SpanFrame) :
    (x.huntFrame f).upDue = false ∧
    (x.huntFrame f).marker = (if x.upDue = true then none else x.marker).map (fun c => { c with wait := c.wait - 1 }) ∧
    (f.get 0 = 0x2D → (x.huntFrame f).badWords = 0 ∧ (x.huntFrame f).badDue = false) ∧
    (f.get 0 ≠ 0x2D → 3 ≤ x.badWords → (x.huntFrame f).badDue = true) ∧
    (f.get 0 ≠ 0x2D → x.badWords < 3 → (x.huntFrame f).badWords = x.badWords + 1 ∧ (x.huntFrame f).badDue = x.badDue) := by
  obtain ⟨hgood, hbad, hfourth⟩ := (x.hunting f).checkWord_eq f
  rw [huntFrame_eq, if_pos h]
  refine ⟨?_, ?_, fun hword => ?_, fun hword hle => ?_, fun hword hlt => ?_⟩
  · rw [Span.checkWord_frame]; rfl
  · rw [Span.checkWord_frame]; rfl
  · rw [hgood hword]; exact ⟨rfl, rfl⟩
  · rw [hfourth hword hle]
  · rw [hbad hword hlt]; exact ⟨rfl, rfl⟩

/-- R79: an odd frame in MULTIFRAME is checked for the marker. -/
theorem huntFrame_odd {x : Span} (h : x.nextEven = false) (f : SpanFrame) :
    (x.huntFrame f).badWords = x.badWords ∧ (x.huntFrame f).badDue = x.badDue ∧
    ((if x.upDue = true then none else x.marker) = none →
      (x.huntFrame f).upDue = false ∧ (x.huntFrame f).marker = (signalMarker (f.get 0)).map fun v => ⟨v, 16⟩) ∧
    ∀ c, (if x.upDue = true then none else x.marker) = some c →
      (1 < c.wait → (x.huntFrame f).upDue = false ∧ (x.huntFrame f).marker = some { c with wait := c.wait - 1 }) ∧
      (c.wait ≤ 1 → signalMarker (f.get 0) = some (otherMarker c.marker) → (x.huntFrame f).upDue = true) ∧
      (c.wait ≤ 1 → signalMarker (f.get 0) ≠ some (otherMarker c.marker) →
        (x.huntFrame f).upDue = false ∧ (x.huntFrame f).marker = none) := by
  obtain ⟨hnone, hsome⟩ := (x.hunting f).checkMarker_eq f
  rw [huntFrame_eq, h, if_neg Bool.false_ne_true]
  have hmarker : (x.hunting f).marker = (if x.upDue = true then none else x.marker).map fun c => { c with wait := c.wait - 1 } := rfl
  refine ⟨by rw [Span.checkMarker_frame]; rfl, by rw [Span.checkMarker_frame]; rfl, fun hheld => ?_, fun c hheld => ?_⟩
  · rw [hheld] at hmarker
    rw [hnone hmarker]
    exact ⟨rfl, rfl⟩
  · rw [hheld] at hmarker
    obtain ⟨hwaits, hpaired, hdropped⟩ := hsome _ hmarker
    refine ⟨fun hwait => ?_, fun hwait hseen => ?_, fun hwait hseen => ?_⟩
    · rw [hwaits (by simp only; omega)]
      exact ⟨rfl, hmarker⟩
    · rw [hpaired (by simp only; omega) hseen]
    · rw [hdropped (by simp only; omega) hseen]
      exact ⟨rfl, rfl⟩

/-- Settles O41: each clause is the row at one state of the span, or a step of it, said by the lemma named for it. -/
theorem spanFrames : Obligations.SpanFrames := by
  refine ⟨fun s n f hrun hlos hup hnext => ⟨fun hlen => spanFrame_stored hrun hlos hup hnext hlen f,
      fun hlen => spanFrame_slips hrun hlos hup hnext hlen f⟩,
    fun s n f l _ hrun hlos hup hlast hnext hcodes hl hlen => spanFrame_codes hrun hlos hup hlast hnext hcodes hl hlen f,
    fun s n f hrun hlos hup hnext hcodes hlen => spanFrame_untaken hrun hlos hup hnext hcodes hlen f,
    fun s n f l hrun hlos hup hnext hcodes => ?_,
    fun s n i code => ⟨fun hup => takeCopperCode_down hup _, fun hup hlaw => takeCopperCode_spec hup hlaw i code⟩,
    fun s n f hrun hlos hdown hphase =>
      happens_setSpan (spanFrame_search hrun hlos hdown hphase f) fun t ht hbut => ⟨hbut, ht⟩,
    ⟨fun f => ⟨frameBits_length f, frameBits_get f⟩,
      fun w b rest => ⟨rfl, fun hfound => WordSearch.feed_found hfound _, fun hfound => WordSearch.feed_cons hfound b rest⟩,
      fun w b => ?_⟩,
    fun s n f hrun hlos hdown hphase => ?_, fun s n f hnothing => spanFrame_nothing hnothing f⟩
  · refine ⟨s.multiframeEnded n, setSpan_frame s n _, setSpan_spansBut s n _, State.setSpan_span_eq .., ?_⟩
    rw [spanFrame_up hrun hlos hup f, upFrame_taken hnext hcodes]
  · obtain ⟨hwindow, hnext⟩ := w.bit_window b
    refine ⟨hwindow, hnext, fun hnone => ?_, fun c hsome => WordSearch.bit_some hsome b⟩
    obtain ⟨hfound, hcandidate⟩ := WordSearch.bit_none hnone b
    exact ⟨hfound, fun hword => hcandidate.trans (if_pos hword), fun hword => hcandidate.trans (if_neg hword)⟩
  · refine happens_setSpan (spanFrame_multiframe hrun hlos hdown hphase f) fun t ht hbut => ?_
    obtain ⟨hstate, hphase', hstore, heven, hrecent⟩ := huntFrame_kept (s.span n) f
    rw [ht]
    exact ⟨hbut, hstate.trans hdown, hphase'.trans hphase, hstore, heven, hrecent, fun h => huntFrame_even h f,
      fun h => huntFrame_odd h f⟩

end Sys2Proof.Machine
end

section
/-! SUPPORT. The commands of the Lane Interface: SELECT, LOCKOUT and CLEAR (R104, R105, R107, R108), SHUT, RESTORE and HOLD-OFF (R106,
R109), and SET FRAME CLOCK (R72, R114). -/

namespace Sys2Proof.Machine

variable {s t u : State} {port : Port} {q : QueuedCommand} {rest : List QueuedCommand}

/-! ### The working lane, seen past the ports (R104, R105, R178) -/

/-- A state put back to the ports of one that differs from it in the ports alone. -/
theorem SameBut.withPortsOf_eq (h : SameBut [.ports] s t) : s.withPortsOf t = t := h.eq_withPortsOf.symm

/-- A change of the working lane rests on no port. -/
theorem WorkingChanged.withPortsOf {cause : WorkingCause} (h : WorkingChanged cause s t) (u : State) :
    WorkingChanged cause (s.withPortsOf u) (t.withPortsOf u) := by
  have hs := (withPortsOf_frame s u).symm
  have ht := withPortsOf_frame t u
  refine ⟨h.working, h.holdOff, h.duplicate, h.slots, h.before, h.timing, h.records, h.pause, h.working_units, h.other_units,
    h.aligned, h.removed, h.others, h.queue, ?_, ?_⟩
  · exact (h.report.of_frame ht (by decide)).after_frame hs (by decide) (by decide)
  · exact SameBut.withPortsOf (s := s.withPortsOf u) ((hs.mono (by decide)).trans (h.frame.mono (by decide)))

/-- The working-lane test rests on no port. -/
theorem Tested.withPortsOf {cause : WorkingCause} (h : Tested cause s t) (u : State) :
    Tested cause (s.withPortsOf u) (t.withPortsOf u) :=
  ⟨fun hmust => (h.1 hmust).withPortsOf u, fun hmust => by rw [h.2 hmust]⟩

theorem Tested.frame {cause : WorkingCause} (h : Tested cause s t) : SameBut workingBlocks s t := by
  by_cases hmust : s.lanes.mustChange
  · exact (h.1 hmust).frame
  · rw [h.2 hmust]; exact .refl _ s

/-! ### Lanes in and out of their range -/

theorem laneOfCode_none {n : Nat} (h : 2 ≤ n) : laneOfCode n = none := by
  unfold laneOfCode
  split
  · omega
  · omega
  · rfl

theorem laneOfCode_lane {n : Nat} {i : Lane} (h : n = (match i with | .a => 0 | .b => 1)) : laneOfCode n = some i := by
  cases i <;> subst h <;> rfl

theorem withLane_none {n : Nat} (h : 2 ≤ n) (s : State) (rule : Lane → Handled) : withLane s n rule = answered s .format .empty := by
  rw [withLane, laneOfCode_none h]

theorem withLane_lane {n : Nat} {i : Lane} (h : n = (match i with | .a => 0 | .b => 1)) (s : State) (rule : Lane → Handled) :
    withLane s n rule = rule i := by
  rw [withLane, laneOfCode_lane h]

/-! ### SELECT (R107) -/

theorem laneControlSelect_command (s : State) (tag : Byte) {lane : Nat} {i : Lane} (hi : lane = (match i with | .a => 0 | .b => 1))
    (h : Heads s port (.laneControlSelect port tag lane) q rest) :
    if s.lanes.working = i then
      exec (.laneControlSelect port tag lane) s = .next (s.answerHead port q rest .ok .empty)
    else if (s.lane i).state ≠ .up ∨ (s.lane i).lockout = true then
      Refuses s (.laneControlSelect port tag lane) port q rest .state .empty
    else if 0 < s.lanes.holdOff.left then
      Refuses s (.laneControlSelect port tag lane) port q rest .holdOff (.holdOffLeft s.lanes.holdOff.left)
    else Completes s (.laneControlSelect port tag lane) port q rest .ok .empty workingBlocks fun t =>
      ∃ k, WorkingChanged .select s k ∧ SameBut [.ports] k t := by
  have hauth := h.authority (by nofun)
  have hrule : ruleSelect lane (s.takeHead port q rest) =
      if s.lanes.working = i then answered (s.takeHead port q rest) .ok .empty
      else if (s.lane i).state ≠ .up then answered (s.takeHead port q rest) .state .empty
      else if (s.lane i).lockout then answered (s.takeHead port q rest) .state .empty
      else if 0 < s.lanes.holdOff.left then answered (s.takeHead port q rest) .holdOff (.holdOffLeft s.lanes.holdOff.left)
      else answered ((s.takeHead port q rest).changeWorking .select) .ok .empty := withLane_lane hi _ _
  split
  next hworking => exact refuses_of_rule rfl h hauth (hrule.trans (if_pos hworking))
  next hworking =>
    rw [if_neg hworking] at hrule
    split
    next hstate =>
      refine refuses_of_rule rfl h hauth (hrule.trans ?_)
      split
      · rfl
      next hup => rw [if_pos (hstate.resolve_left hup)]
    next hstate =>
      obtain ⟨hup, hlockout⟩ := not_or.mp hstate
      rw [if_neg hup, if_neg hlockout] at hrule
      split
      next hoff => exact refuses_of_rule rfl h hauth (hrule.trans (if_pos hoff))
      next hoff =>
        have hchanged := changeWorking_spec .select (s.takeHead port q rest)
        refine completes_of_rule rfl h hauth (hrule.trans (if_neg hoff)) hchanged.frame (by decide) fun u hu => ?_
        have hpast := hchanged.withPortsOf s
        rw [(takeHead_frame s port q rest).symm.withPortsOf_eq] at hpast
        exact ⟨_, hpast, (withPortsOf_frame _ s).symm.trans hu⟩

/-! ### LOCKOUT and CLEAR (R108) -/

/-- R108: a rule that writes a lockout flag, makes the working-lane test and answers with the selection. -/
theorem completes_setLockout {c : Instr} {rule : State → Handled} (he : exec c s = runCommand c port rule s)
    (h : Heads s port c q rest) (hauth : lacksAuthority port q.type = false) (i : Lane) (flag : Bool) (cause : WorkingCause)
    (hrule : rule (s.takeHead port q rest) = answered ((s.takeHead port q rest).setLockout i flag cause) .ok
      ((s.takeHead port q rest).setLockout i flag cause).selection) :
    ∃ k, Tested cause (s.setLane i { s.lane i with lockout := flag }) k ∧
      Completes s c port q rest .ok (.laneSelection k.lanes.working k.lanes.a.lockout k.lanes.b.lockout k.lanes.holdOff.left)
        (.laneRecords :: workingBlocks) (SameBut [.ports] k) := by
  have htest : Tested cause ((s.takeHead port q rest).setLane i { s.lane i with lockout := flag })
      ((s.takeHead port q rest).setLockout i flag cause) := workingTest_spec cause _
  have hset : ((s.takeHead port q rest).setLane i { s.lane i with lockout := flag }).withPortsOf s =
      s.setLane i { s.lane i with lockout := flag } := by cases port <;> rfl
  refine ⟨((s.takeHead port q rest).setLockout i flag cause).withPortsOf s, hset ▸ htest.withPortsOf s, ?_⟩
  refine completes_of_rule he h hauth hrule ?_ (by decide) fun u hu => (withPortsOf_frame _ s).symm.trans hu
  exact ((setLane_frame _ i _).mono (by decide)).trans (htest.frame.mono (by decide))

theorem laneControlLockout_command (s : State) (tag : Byte) {lane : Nat} {i : Lane} (hi : lane = (match i with | .a => 0 | .b => 1))
    (h : Heads s port (.laneControlLockout port tag lane) q rest) :
    if (s.lane i).lockout = true then
      exec (.laneControlLockout port tag lane) s = .next (s.answerHead port q rest .ok s.selection)
    else if (s.lane (otherLane i)).lockout = true then
      Refuses s (.laneControlLockout port tag lane) port q rest .state .empty
    else ∃ k, Tested .lockout (s.setLane i { s.lane i with lockout := true }) k ∧
      Completes s (.laneControlLockout port tag lane) port q rest .ok
        (.laneSelection k.lanes.working k.lanes.a.lockout k.lanes.b.lockout k.lanes.holdOff.left) (.laneRecords :: workingBlocks)
        (SameBut [.ports] k) := by
  have hauth := h.authority (by nofun)
  have hrule : ruleLockout lane (s.takeHead port q rest) =
      if (s.lane i).lockout then answered (s.takeHead port q rest) .ok s.selection
      else if (s.lane (otherLane i)).lockout then answered (s.takeHead port q rest) .state .empty
      else answered ((s.takeHead port q rest).setLockout i true .lockout) .ok
        ((s.takeHead port q rest).setLockout i true .lockout).selection := withLane_lane hi _ _
  split
  next hown => exact refuses_of_rule rfl h hauth (hrule.trans (if_pos hown))
  next hown =>
    rw [if_neg hown] at hrule
    split
    next hother => exact refuses_of_rule rfl h hauth (hrule.trans (if_pos hother))
    next hother => exact completes_setLockout rfl h hauth i true .lockout (hrule.trans (if_neg hother))

theorem laneControlClear_command (s : State) (tag : Byte) {lane : Nat} {i : Lane} (hi : lane = (match i with | .a => 0 | .b => 1))
    (h : Heads s port (.laneControlClear port tag lane) q rest) :
    if (s.lane i).lockout = false then
      exec (.laneControlClear port tag lane) s = .next (s.answerHead port q rest .ok s.selection)
    else ∃ k, Tested .automatic (s.setLane i { s.lane i with lockout := false }) k ∧
      Completes s (.laneControlClear port tag lane) port q rest .ok
        (.laneSelection k.lanes.working k.lanes.a.lockout k.lanes.b.lockout k.lanes.holdOff.left) (.laneRecords :: workingBlocks)
        (SameBut [.ports] k) := by
  have hauth := h.authority (by nofun)
  have hrule : ruleClear lane (s.takeHead port q rest) =
      if (s.lane i).lockout then answered ((s.takeHead port q rest).setLockout i false .automatic) .ok
        ((s.takeHead port q rest).setLockout i false .automatic).selection
      else answered (s.takeHead port q rest) .ok s.selection := withLane_lane hi _ _
  split
  next hclear => exact refuses_of_rule rfl h hauth (hrule.trans (if_neg (by simp [hclear])))
  next hclear =>
    exact completes_setLockout rfl h hauth i false .automatic (hrule.trans (if_pos (Bool.not_eq_false _ ▸ hclear)))

/-- Settles O43: the lane named out of its range, and then each command by its rule, with the change of the working lane and the
working-lane test seen past the ports. -/
theorem laneSelection : Obligations.LaneSelection := by
  intro s port tag lane q rest _
  refine ⟨fun c hc h hlane => ?_, fun i hi => ⟨laneControlSelect_command s tag hi, laneControlLockout_command s tag hi,
    laneControlClear_command s tag hi⟩⟩
  simp only [List.mem_cons, List.not_mem_nil, or_false] at hc
  obtain rfl | rfl | rfl := hc
  all_goals exact refuses_of_rule rfl h (h.authority (by nofun)) (withLane_none hlane _ _)

end Sys2Proof.Machine
end

section
/-! SUPPORT. SHUT, RESTORE and HOLD-OFF (R106, R109), and SET FRAME CLOCK, which moves the rings with the load (R72, R114). -/

namespace Sys2Proof.Machine

variable {s t u : State} {port : Port} {q : QueuedCommand} {rest : List QueuedCommand}

/-! ### Transmit shutdown (R109) -/

theorem setShutdown_self {i : Lane} {flag : Bool} (h : (s.lane i).shutdown = flag) : s.setShutdown i flag = s := by
  subst h; cases i <;> rfl

/-- R109: what the reply says of the two flags once one of them is written. -/
theorem shutdownFlags_setShutdown (s : State) (i : Lane) (flag : Bool) : (s.setShutdown i flag).shutdownFlags =
    (match i with | .a => .shutdowns flag s.lanes.b.shutdown | .b => .shutdowns s.lanes.a.shutdown flag) := by
  cases i <;> rfl

theorem otherLane_ne (i : Lane) : otherLane i ≠ i := by cases i <;> decide

/-- R109: a rule that writes a shutdown flag and answers with both. -/
theorem completes_setShutdown {c : Instr} {rule : State → Handled} (he : exec c s = runCommand c port rule s)
    (h : Takes s port c q rest) (i : Lane) (flag : Bool)
    (hrule : rule (s.takeHead port q rest) = answered ((s.takeHead port q rest).setShutdown i flag) .ok
      ((s.takeHead port q rest).setShutdown i flag).shutdownFlags) :
    Completes s c port q rest .ok (s.setShutdown i flag).shutdownFlags [.laneRecords] fun t =>
      t.lane i = { s.lane i with shutdown := flag } ∧ t.lane (otherLane i) = s.lane (otherLane i) := by
  have hbody : ((s.takeHead port q rest).setShutdown i flag).shutdownFlags = (s.setShutdown i flag).shutdownFlags := by
    cases i <;> rfl
  refine completes_of_rule he h.toHeads h.authority (hbody ▸ hrule) (setLane_frame _ i _) (by decide) fun u hu => ?_
  have hlane : ∀ j, u.lane j = ((s.takeHead port q rest).setShutdown i flag).lane j := fun j =>
    congrArg (fun l => l.lane j) hu.sameLanes
  rw [hlane, hlane]
  exact ⟨State.setLane_lane_eq .., State.setLane_lane_ne _ _ (otherLane_ne i).symm⟩

theorem laneControlShut_command (s : State) (tag : Byte) {lane : Nat} {i : Lane} (hi : lane = (match i with | .a => 0 | .b => 1))
    (h : Takes s port (.laneControlShut port tag lane) q rest) :
    if (s.lane i).shutdown = false ∧ (s.lane (otherLane i)).shutdown = true then
      Refuses s (.laneControlShut port tag lane) port q rest .state .empty
    else Completes s (.laneControlShut port tag lane) port q rest .ok (s.setShutdown i true).shutdownFlags [.laneRecords] fun t =>
      t.lane i = { s.lane i with shutdown := true } ∧ t.lane (otherLane i) = s.lane (otherLane i) := by
  have hrule : ruleShut lane (s.takeHead port q rest) =
      if (s.lane i).shutdown then answered (s.takeHead port q rest) .ok (s.takeHead port q rest).shutdownFlags
      else if (s.lane (otherLane i)).shutdown then answered (s.takeHead port q rest) .state .empty
      else answered ((s.takeHead port q rest).setShutdown i true) .ok ((s.takeHead port q rest).setShutdown i true).shutdownFlags :=
    withLane_lane hi _ _
  split
  next hrefused =>
    obtain ⟨hown, hother⟩ := hrefused
    exact refuses_of_rule rfl h.toHeads h.authority (hrule.trans ((if_neg (by simp [hown])).trans (if_pos hother)))
  next hallowed =>
    refine completes_setShutdown rfl h i true (hrule.trans ?_)
    split
    next hown => rw [setShutdown_self (s := s.takeHead port q rest) hown]
    next hown => exact if_neg fun hother => hallowed ⟨Bool.eq_false_iff.mpr hown, hother⟩

theorem laneControlRestore_command (s : State) (tag : Byte) {lane : Nat} {i : Lane}
    (hi : lane = (match i with | .a => 0 | .b => 1)) (h : Takes s port (.laneControlRestore port tag lane) q rest) :
    Completes s (.laneControlRestore port tag lane) port q rest .ok (s.setShutdown i false).shutdownFlags [.laneRecords] fun t =>
      t.lane i = { s.lane i with shutdown := false } ∧ t.lane (otherLane i) = s.lane (otherLane i) :=
  completes_setShutdown rfl h i false (withLane_lane hi _ _)

/-! ### The hold-off setting (R106) -/

theorem laneControlHoldOff_command (s : State) (tag : Byte) (seconds : Nat)
    (h : Takes s port (.laneControlHoldOff port tag seconds) q rest) :
    Completes s (.laneControlHoldOff port tag seconds) port q rest .ok (.holdOffSetting (min seconds 60)) [.selection] fun t =>
      t.lanes.holdOffSeconds = min seconds 60 ∧ t.lanes.holdOff = s.lanes.holdOff ∧ t.lanes.working = s.lanes.working ∧
      t.lanes.timing = s.lanes.timing := by
  refine completes_of_rule rfl h.toHeads h.authority rfl (.of_forall fun b => ?_) (by decide) fun u hu => ?_
  · cases b <;> simp [Block.same]
  · rw [hu.sameLanes]
    exact ⟨rfl, rfl, rfl, rfl⟩

/-! ### A load of FC (R72, R114) -/

/-- R72: the cell of a frame before the load is the cell that the moved ring holds for the frame's new count. -/
theorem cellOf_shifted (f shift : FrameCount) : cellOf (BitVec.ofNat 32 (ringCell (f + shift)).val - shift) = ringCell f := by
  apply Fin.ext
  simp only [cellOf, ringCell, BitVec.toNat_sub, BitVec.toNat_ofNat, BitVec.toNat_add]
  omega

theorem shiftRing_get (ring : Table 128 Byte) (f shift : FrameCount) :
    (shiftRing ring shift).get (ringCell (f + shift)) = ring.get (ringCell f) := by
  rw [shiftRing, Table.get_ofFn, cellOf_shifted]

theorem loadFrameClock_frame (s : State) (value : FrameCount) :
    SameBut [.clock, .circuits, .rings, .matchers] s (s.loadFrameClock value) :=
  .of_forall fun b => by cases b <;> simp [Block.same, State.loadFrameClock, State.shiftFrameClock]

theorem loadFrameClock_circuit (s : State) (value : FrameCount) (c : CircuitNo) : (s.loadFrameClock value).circuit c =
    { s.circuit c with
      context := (s.circuit c).context.map fun x => { x with target := x.target.map fun S => S + (value - s.fc) } } :=
  Table.get_map ..

theorem loadFrameClock_ring (s : State) (value : FrameCount) (c : CircuitNo) :
    (s.loadFrameClock value).ring c = shiftRing (s.ring c) (value - s.fc) := Table.get_map ..

theorem loadFrameClock_unit (s : State) (value : FrameCount) (v : UnitNo) :
    (s.loadFrameClock value).unit v = { s.unit v with history := shiftRing (s.unit v).history (value - s.fc) } := Table.get_map ..

theorem setFrameClock_command (s : State) (tag : Byte) (value : FrameCount) (h : Takes s port (.setFrameClock port tag value) q rest) :
    Completes s (.setFrameClock port tag value) port q rest .ok (.frameClock s.fc value)
      [.clock, .circuits, .rings, .matchers] fun t =>
      t.fc = value ∧
      (∀ c, t.circuit c = { s.circuit c with
        context := (s.circuit c).context.map fun x => { x with target := x.target.map fun S => S + (value - s.fc) } }) ∧
      (∀ c (f : FrameCount), (t.ring c).get (ringCell (f + (value - s.fc))) = (s.ring c).get (ringCell f)) ∧
      ∀ u, t.unit u = { s.unit u with history := (t.unit u).history } ∧
        ∀ f : FrameCount, (t.unit u).history.get (ringCell (f + (value - s.fc))) = (s.unit u).history.get (ringCell f) := by
  refine completes_of_rule rfl h.toHeads h.authority rfl (loadFrameClock_frame _ value) (by decide) fun u hu => ?_
  refine ⟨hu.sameClock (by decide), fun c => ?_, fun c f => ?_, fun v => ?_⟩
  · rw [hu.sameCircuit (by decide)]
    exact loadFrameClock_circuit ..
  · rw [hu.sameRing (by decide), loadFrameClock_ring]
    exact shiftRing_get ..
  · rw [hu.sameUnit (by decide), loadFrameClock_unit]
    exact ⟨rfl, fun f => shiftRing_get ..⟩

/-- Settles O44: the lane named out of its range, and then each command by its rule. -/
theorem laneSettings : Obligations.LaneSettings := by
  intro s port tag q rest
  refine ⟨fun c lane hc h hlane => ?_, fun i lane hi => ⟨fun h => ?_, fun h => ?_⟩,
    laneControlHoldOff_command s tag, setFrameClock_command s tag⟩
  · simp only [List.mem_cons, List.not_mem_nil, or_false] at hc
    obtain rfl | rfl := hc
    all_goals exact refuses_of_rule rfl h.toHeads h.authority (withLane_none hlane _ _)
  · have hshut := laneControlShut_command s tag hi h
    rwa [shutdownFlags_setShutdown] at hshut
  · have hrestore := laneControlRestore_command s tag hi h
    rwa [shutdownFlags_setShutdown] at hrestore

end Sys2Proof.Machine
end

section
/-! SUPPORT. The overhead channel: the bodies of peer messages (R189), the bytes sent for a message (R111), and the receiver at a frame
behind any fill (R112). -/

namespace Sys2Proof.Machine

/-! ### Fields of a message's body (R186, R189) -/

theorem num2_two {n : Nat} (h : n < 65536) : num2 (byteOf (n / 256)) (byteOf n) = n := by
  simp only [num2, byteOf, BitVec.toNat_ofNat]
  omega

theorem readCode_codeBytes {code : TrunkCode} (h : code.inRange = true) :
    readCode (byteOf (code.route / 256)) (byteOf code.route) (byteOf code.member) = some code := by
  obtain ⟨hroute, hmember⟩ : code.route < 4096 ∧ code.member < 256 := by simpa [TrunkCode.inRange, fits1] using h
  rw [readCode, num2_two (by omega), if_pos hroute, byteOf, BitVec.toNat_ofNat, Nat.mod_eq_of_lt hmember]

theorem readSlot_two (slot : SlotNo) : readSlot (byteOf (slot.val / 256)) (byteOf slot.val) = some slot := by
  have hslot := slot.isLt
  simp [readSlot, num2_two (show slot.val < 65536 by omega)]

theorem modeOfCode_byte (mode : HandshakeMode) : modeOfCode (byteOf (modeCode mode)).toNat = some mode := by cases mode <;> rfl

theorem declineOfCode_byte (reason : DeclineReason) : declineOfCode (byteOf (declineCode reason).val).toNat = some reason := by
  cases reason <;> rfl

theorem reasonOfCode_byte (reason : Reason) : reasonOfCode (byteOf (reasonCode reason)).toNat = some reason := by
  cases reason <;> rfl

/-! ### The body of each message -/

theorem parseMessage_hello {node : Nat} (h : node < 65536) (mode : HandshakeMode) :
    parseMessage (messageBody (.hello node mode)) = some (.hello node mode) := by
  change readHello (messageContent (.hello node mode)) = _
  simp only [messageContent, two, readHello, List.cons_append, List.nil_append, modeOfCode_byte, num2_two h, Option.map_some]

section
variable {code : TrunkCode} (h : code.inRange = true)
include h

/-- A body of the code alone. -/
theorem readCodeMessage_codeBytes (mk : TrunkCode → PeerMessage) : readCodeMessage mk (codeBytes code) = some (mk code) := by
  simp only [codeBytes, two, readCodeMessage, List.cons_append, List.nil_append, readCode_codeBytes h, Option.map_some]

/-- A body of the code, a slot and a proposal number. -/
theorem readSlotMessage_bytes (mk : TrunkCode → SlotNo → Byte → PeerMessage) (slot : SlotNo) (number : Byte) :
    readSlotMessage mk (codeBytes code ++ two slot.val ++ [number]) = some (mk code slot number) := by
  simp only [codeBytes, two, readSlotMessage, List.cons_append, List.nil_append, readCode_codeBytes h, readSlot_two]

theorem parseMessage_decline (number : Byte) (reason : DeclineReason) :
    parseMessage (messageBody (.decline code number reason)) = some (.decline code number reason) := by
  change readDecline (messageContent (.decline code number reason)) = _
  simp only [messageContent, codeBytes, two, readDecline, List.cons_append, List.nil_append, readCode_codeBytes h, declineOfCode_byte]

theorem parseMessage_confirm (number : Byte) : parseMessage (messageBody (.confirm code number)) = some (.confirm code number) := by
  change readConfirm (messageContent (.confirm code number)) = _
  simp only [messageContent, codeBytes, two, readConfirm, List.cons_append, List.nil_append, readCode_codeBytes h, Option.map_some]

theorem parseMessage_abandon (reason : Reason) : parseMessage (messageBody (.abandon code reason)) = some (.abandon code reason) := by
  change readAbandon (messageContent (.abandon code reason)) = _
  simp only [messageContent, codeBytes, two, readAbandon, List.cons_append, List.nil_append, readCode_codeBytes h, reasonOfCode_byte]

end

/-! ### The bytes sent (R111) -/

theorem nextByte_last {l : LaneInterface} {b : Byte} {m : PeerMessage} {rest : List PeerMessage} (hsending : l.sending = [b])
    (hqueue : l.queue = m :: rest) : l.nextByte = (b, { l with sending := [], queue := rest }) := by
  simp [LaneInterface.nextByte, hsending, hqueue]

theorem nextByte_more {l : LaneInterface} {b c : Byte} {bytes : List Byte} (hsending : l.sending = b :: c :: bytes) :
    l.nextByte = (b, { l with sending := c :: bytes }) := by
  simp [LaneInterface.nextByte, hsending]

theorem nextByte_sync {l : LaneInterface} {m : PeerMessage} {rest : List PeerMessage} (hsending : l.sending = [])
    (hqueue : l.queue = m :: rest) :
    l.nextByte = (0xC3, { l with sending := (overheadFrame l.sequence m).drop 1, sequence := l.sequence + 1 }) := by
  simp [LaneInterface.nextByte, hsending, hqueue]

/-- The bytes left of a message go out one after another, and the message leaves the queue with the last of them. -/
theorem nextBytes_sending (bytes : List Byte) {m : PeerMessage} {rest : List PeerMessage} : ∀ {b : Byte} {l : LaneInterface},
    l.sending = b :: bytes → l.queue = m :: rest →
    l.nextBytes (bytes.length + 1) = (b :: bytes, { l with sending := [], queue := rest }) := by
  induction bytes with
  | nil =>
    intro b l hsending hqueue
    rw [LaneInterface.nextBytes, nextByte_last hsending hqueue]
    rfl
  | cons c bytes ih =>
    intro b l hsending hqueue
    have hrest := ih (l := { l with sending := c :: bytes }) rfl hqueue
    rw [LaneInterface.nextBytes, nextByte_more hsending, List.length_cons, hrest]

/-- A message goes out as its frame, with the sequence at its sync byte. -/
theorem nextBytes_message {l : LaneInterface} {m : PeerMessage} {rest : List PeerMessage} (hsending : l.sending = [])
    (hqueue : l.queue = m :: rest) : l.nextBytes (overheadFrame l.sequence m).length =
      (overheadFrame l.sequence m, { l with queue := rest, sending := [], sequence := l.sequence + 1 }) := by
  obtain ⟨b, bytes, hframe⟩ : ∃ b bytes, overheadFrame l.sequence m = 0xC3 :: b :: bytes := ⟨_, _, rfl⟩
  have hsync := nextByte_sync hsending hqueue
  rw [hframe] at hsync
  have hrest := nextBytes_sending bytes (l := { l with sending := b :: bytes, sequence := l.sequence + 1 }) rfl hqueue
  rw [hframe, List.length_cons, LaneInterface.nextBytes, hsync]
  exact congrArg (fun x : List Byte × LaneInterface => (0xC3 :: x.1, x.2)) hrest

/-- With nothing to send, fill goes out. -/
theorem nextBytes_fill {l : LaneInterface} (hsending : l.sending = []) (hqueue : l.queue = []) :
    ∀ n, l.nextBytes n = (List.replicate n 0, l)
  | 0 => rfl
  | n + 1 => by
    have hbyte : l.nextByte = (0, l) := by rw [LaneInterface.nextByte, hsending, hqueue]
    rw [LaneInterface.nextBytes, hbyte, nextBytes_fill hsending hqueue n, List.replicate_succ]

/-! ### The receiver (R112) -/

theorem crcBytes_length (bytes : List Byte) : (crcBytes bytes).length = 2 := rfl

theorem messageBody_length (m : PeerMessage) : 1 ≤ (messageBody m).length ∧ (messageBody m).length ≤ 48 := by
  cases m <;> simp [messageBody, messageContent, codeBytes, two]

/-- In HUNT a byte other than the sync byte is skipped. -/
theorem scanOverhead_fill (fuel : Nat) {b : Byte} (h : b ≠ 0xC3) (bytes : List Byte) :
    scanOverhead (fuel + 1) (b :: bytes) = scanOverhead fuel bytes := by
  simp only [scanOverhead, ne_eq, h, not_false_eq_true, if_true]

/-- A frame whose length lies in its range and whose CRC checks is delivered, and the receiver goes on behind it. -/
theorem scanOverhead_good (fuel : Nat) {length sequence : Byte} {body : List Byte} (hlength : length.toNat = body.length)
    (hrange : 1 ≤ body.length ∧ body.length ≤ 48) (after : List Byte) :
    scanOverhead (fuel + 1) (0xC3 :: (length :: sequence :: body ++ crcBytes (length :: sequence :: body)) ++ after) =
      ⟨(sequence, body) :: (scanOverhead fuel after).messages, (scanOverhead fuel after).errors, (scanOverhead fuel after).rest⟩ := by
  obtain ⟨covered, hcovered⟩ : ∃ covered, covered = length :: sequence :: body := ⟨_, rfl⟩
  have hsize : covered.length = length.toNat + 2 := by rw [hcovered, hlength]; rfl
  have hcrc := crcBytes_length covered
  have hframe : length :: sequence :: body ++ crcBytes (length :: sequence :: body) ++ after = covered ++ (crcBytes covered ++ after) := by
    rw [hcovered, List.append_assoc]
  have htake : (covered ++ (crcBytes covered ++ after)).take (length.toNat + 2) = covered := by rw [← hsize, List.take_left]
  have hcheck : ((covered ++ (crcBytes covered ++ after)).drop (length.toNat + 2)).take 2 = crcBytes covered := by
    rw [← hsize, List.drop_left, ← hcrc, List.take_left]
  have hbehind : (covered ++ (crcBytes covered ++ after)).drop (length.toNat + 4) = after := by
    rw [show length.toNat + 4 = covered.length + 2 by omega, ← List.drop_drop, List.drop_left, ← hcrc, List.drop_left]
  have hlong : ¬ (covered ++ (crcBytes covered ++ after)).length < length.toNat + 4 := by
    simp only [List.length_append, hsize, hcrc]; omega
  have hinside : ¬ (length.toNat = 0 ∨ 48 < length.toNat) := by omega
  have hhead : covered ++ (crcBytes covered ++ after) = length :: (sequence :: body ++ (crcBytes covered ++ after)) := by
    rw [hcovered]; rfl
  rw [List.cons_append, hframe]
  simp only [scanOverhead]
  rw [hhead]
  simp only [if_neg hinside]
  rw [← hhead, htake, hcheck, hbehind, if_neg hlong, hcovered]
  simp

/-- The frame of a message behind any fill. -/
theorem scanOverhead_message (m : PeerMessage) (sequence : Byte) (fuel : Nat) (after : List Byte) : ∀ fill : Nat,
    scanOverhead (fill + fuel + 1) (List.replicate fill 0 ++ overheadFrame sequence m ++ after) =
      ⟨(sequence, messageBody m) :: (scanOverhead fuel after).messages, (scanOverhead fuel after).errors,
        (scanOverhead fuel after).rest⟩
  | 0 => by
    have hrange := messageBody_length m
    have hlength : (byteOf (messageBody m).length).toNat = (messageBody m).length := by
      rw [byteOf, BitVec.toNat_ofNat, Nat.mod_eq_of_lt (by omega)]
    rw [Nat.zero_add]
    exact scanOverhead_good fuel hlength hrange after
  | fill + 1 => by
    rw [show fill + 1 + fuel + 1 = (fill + fuel + 1) + 1 by omega, List.replicate_succ, List.cons_append, List.cons_append,
      scanOverhead_fill _ (by decide), scanOverhead_message m sequence fuel after fill]

/-- Settles O8: the body of each message read field by field, the bytes of a message one after another, and the receiver through the
fill and over the frame. -/
theorem overheadChannel : Obligations.OverheadChannel := by
  refine ⟨⟨fun node mode hnode => parseMessage_hello hnode mode, fun code hcode => ?_⟩,
    fun l m rest => nextBytes_message, fun l => nextBytes_fill,
    fun m sequence fill fuel after => scanOverhead_message m sequence fuel after fill⟩
  exact ⟨readSlotMessage_bytes hcode .propose, readSlotMessage_bytes hcode .accept, parseMessage_decline hcode,
    parseMessage_confirm hcode, readCodeMessage_codeBytes hcode .spliced, readCodeMessage_codeBytes hcode .revert,
    readCodeMessage_codeBytes hcode .revertDone, parseMessage_abandon hcode, readCodeMessage_codeBytes hcode .release⟩

end Sys2Proof.Machine
end

section
/-! SUPPORT. A received lane frame: the hunt and the alignment check (R97, R98), the overhead bytes and their errors (R99, R112), and what
a valid message does (R112, R124). -/

namespace Sys2Proof.Machine

variable {s t u : State}

/-! ### One lane's frame (R97, R98, R99, R101) -/

theorem laneWord_iff (w : Table 4 Byte) : (w == laneWord) = true ↔ w.data = [0xB1, 0x4E, 0x27, 0xD8] := by
  obtain ⟨data, size⟩ := w
  simp [laneWord]

theorem framed_iff (l : LaneRecord) : l.framed = true ↔ l.state ≠ .down := by
  cases hstate : l.state <;> simp [LaneRecord.framed, hstate]

/-- R98: the alignment check writes the count of bad frames and its mark alone. -/
theorem LaneRecord.checkFrame_rest (l : LaneRecord) (good : Bool) :
    l.checkFrame good = { l with badFrames := (l.checkFrame good).badFrames, badDue := (l.checkFrame good).badDue } := by
  unfold LaneRecord.checkFrame
  repeat' split
  all_goals rfl

theorem LaneRecord.checkFrame_good (l : LaneRecord) : l.checkFrame true = { l with badFrames := 0, badDue := false } := rfl

theorem LaneRecord.checkFrame_bad {l : LaneRecord} (h : l.badFrames < 3) :
    l.checkFrame false = { l with badFrames := l.badFrames + 1 } :=
  if_pos (show l.badFrames + 1 < 4 by omega)

theorem LaneRecord.checkFrame_fourth {l : LaneRecord} (h : l.badFrames = 3) : l.checkFrame false = { l with badDue := true } :=
  if_neg (show ¬ l.badFrames + 1 < 4 by omega)

theorem LaneRecord.huntFrame_bad (l : LaneRecord) : l.huntFrame false = { l with candidate := none, upDue := false } := rfl

theorem LaneRecord.huntFrame_word {l : LaneRecord} (h : l.candidate.getD 0 < 7) :
    l.huntFrame true = { l with candidate := some (l.candidate.getD 0 + 1), upDue := false } :=
  if_pos (show l.candidate.getD 0 + 1 < 8 by omega)

theorem LaneRecord.huntFrame_eighth {l : LaneRecord} (h : l.candidate.getD 0 = 7) : l.huntFrame true = { l with upDue := true } :=
  if_neg (show ¬ l.candidate.getD 0 + 1 < 8 by omega)

/-- What the overhead receiver of a lane makes of a frame (R112). -/
def LaneRecord.scanned (l : LaneRecord) (f : LaneFrame) : OverheadScan :=
  scanOverhead ((l.receiver ++ f.overhead.data).length + 1) (l.receiver ++ f.overhead.data)

/-- The record of a framed lane after a frame: its check, its content, its errors and what its receiver keeps. -/
def LaneRecord.afterFrame (l : LaneRecord) (f : LaneFrame) : LaneRecord :=
  { ({ l.checkFrame (f.word == laneWord) with content := frameContent f } : LaneRecord).countErrors (l.scanned f).errors with
    receiver := (l.scanned f).rest }

theorem LaneRecord.afterFrame_rest (l : LaneRecord) (f : LaneFrame) : l.afterFrame f =
    { l with
      content := frameContent f
      badFrames := (l.checkFrame (f.word == laneWord)).badFrames
      badDue := (l.checkFrame (f.word == laneWord)).badDue
      errors := l.errors.map fun e => min (e + (l.scanned f).errors) 65535
      receiver := (l.scanned f).rest } := by
  rw [LaneRecord.afterFrame, l.checkFrame_rest]
  rfl

@[simp] theorem State.setLane_setLane (s : State) (i : Lane) (x y : LaneRecord) : (s.setLane i x).setLane i y = s.setLane i y := by
  cases i <;> rfl

/-- Whether a lane is UP rests on the two states. -/
theorem setLane_anyUp {i : Lane} {x : LaneRecord} (h : x.state = (s.lane i).state) : (s.setLane i x).lanes.anyUp = s.lanes.anyUp := by
  cases i
  · exact LaneInterface.anyUp_congr h rfl
  · exact LaneInterface.anyUp_congr rfl h

theorem setLane_working (s : State) (i : Lane) (x : LaneRecord) : (s.setLane i x).lanes.working = s.lanes.working := by
  cases i <;> rfl

theorem anyUp_iff (l : LaneInterface) : l.anyUp = true ↔ l.a.state = .up ∨ l.b.state = .up := by
  simp [LaneInterface.anyUp]

/-- R112: the row of a framed lane: its record, and then the messages of the frame. -/
theorem laneFrameReceived_framed {i : Lane} (hrun : s.running = true) (hlight : (s.lane i).lossOfLight = false)
    (hstate : (s.lane i).state ≠ .down) (f : LaneFrame) : exec (.laneFrameReceived i f) s = .next
      (if s.lanes.working = i ∧ (s.lanes.a.state = .up ∨ s.lanes.b.state = .up) then
        ((s.lane i).scanned f).messages.foldl (fun u m => u.deliver m.1 m.2) (s.setLane i ((s.lane i).afterFrame f))
      else s.setLane i ((s.lane i).afterFrame f)) := by
  have hreceiver : ({ (s.lane i).checkFrame (f.word == laneWord) with content := frameContent f } : LaneRecord).receiver =
      (s.lane i).receiver := by rw [LaneRecord.checkFrame_rest]
  have hkept : ((s.lane i).afterFrame f).state = (s.lane i).state := by rw [LaneRecord.afterFrame_rest]
  have hexec : exec (.laneFrameReceived i f) s = .next
      ((s.setLane i { (s.lane i).checkFrame (f.word == laneWord) with content := frameContent f }).receiveOverhead i f.overhead.data) := by
    change execLaneFrameReceived i f s = _
    rw [execLaneFrameReceived, if_pos ⟨hrun, hlight⟩, if_pos ((framed_iff _).mpr hstate)]
  rw [hexec, State.receiveOverhead, State.setLane_lane_eq, hreceiver]
  simp only [State.setLane_setLane]
  change Host.Outcome.next (if (s.setLane i ((s.lane i).afterFrame f)).lanes.working = i ∧
    (s.setLane i ((s.lane i).afterFrame f)).lanes.anyUp = true then _ else _) = _
  simp only [setLane_working, setLane_anyUp hkept, anyUp_iff]
  rfl

/-! ### What a valid message does (R112, R124) -/

theorem duplicateSequence_iff (l : LaneInterface) (sequence : Byte) : l.duplicateSequence sequence = true ↔
    ∃ last, l.lastSequence = some last ∧ 0 < l.duplicate.left ∧ (sequence = last ∨ 128 ≤ (sequence - last).toNat) := by
  unfold LaneInterface.duplicateSequence
  cases l.lastSequence <;> simp

theorem typeIndex_iff (type : Byte) (i : Fin 10) : typeIndex type = some i ↔ type = BitVec.ofNat 8 (i.val + 1) := by
  have hi := i.isLt
  have htype := type.isLt
  rw [← BitVec.toNat_inj, BitVec.toNat_ofNat, Nat.mod_eq_of_lt (by omega)]
  unfold typeIndex
  split
  next h => rw [Option.some.injEq, Fin.ext_iff]; simp only; omega
  next h => simp only [reduceCtorEq, false_iff]; omega

/-- R124, case 1: a malformed message raises the count of its type, when it has one, and the MALFORMED count. -/
theorem countMalformed_eq (p : PeerEngine) (body : List Byte) :
    p.countMalformed body = { p with
      received := (p.countMalformed body).received
      discards := { p.discards with malformed := raise p.discards.malformed } } ∧
    ∀ i : Fin 10, (p.countMalformed body).received.get i =
      if body.head? = some (BitVec.ofNat 8 (i.val + 1)) then raise (p.received.get i) else p.received.get i := by
  unfold PeerEngine.countMalformed
  cases hindex : body.head?.bind typeIndex with
  | none =>
    refine ⟨rfl, fun i => (if_neg fun hhead => ?_).symm⟩
    rw [hhead, Option.bind_some, (typeIndex_iff _ i).mpr rfl] at hindex
    cases hindex
  | some j =>
    obtain ⟨type, hhead, htype⟩ := Option.bind_eq_some_iff.mp hindex
    refine ⟨rfl, fun i => ?_⟩
    have hsame : type = BitVec.ofNat 8 (i.val + 1) ↔ j = i := by rw [← typeIndex_iff, htype, Option.some.injEq]
    simp only [Table.get_modify, hhead, Option.some.injEq, hsame]
    split
    next h => rw [h]
    next => rfl

theorem deliver_old {sequence : Byte} (h : s.lanes.duplicateSequence sequence = true) (body : List Byte) :
    s.deliver sequence body = s := if_pos h

theorem deliver_message {sequence : Byte} (h : s.lanes.duplicateSequence sequence ≠ true) {body : List Byte} {m : PeerMessage}
    (hm : parseMessage body = some m) : s.deliver sequence body =
      (s.setLanes { s.lanes with lastSequence := some sequence }).setPeer { s.peer with inbox := s.peer.inbox ++ [m] } := by
  rw [State.deliver, if_neg h]
  simp only [hm]
  rfl

theorem deliver_malformed {sequence : Byte} (h : s.lanes.duplicateSequence sequence ≠ true) {body : List Byte}
    (hm : parseMessage body = none) : s.deliver sequence body =
      (s.setLanes { s.lanes with lastSequence := some sequence }).setPeer (s.peer.countMalformed body) := by
  rw [State.deliver, if_neg h]
  simp only [hm]
  rfl

/-- R112: a message that has not been delivered before is. -/
theorem deliver_new {sequence : Byte} (h : s.lanes.duplicateSequence sequence ≠ true) (body : List Byte) :
    SameBut [.reception, .inbox, .peerCounts] s (s.deliver sequence body) ∧
    (s.deliver sequence body).lanes = { s.lanes with lastSequence := some sequence } := by
  cases hm : parseMessage body with
  | some m =>
    rw [deliver_message h hm]
    exact ⟨.of_forall fun b => by cases b <;> simp [Block.same], rfl⟩
  | none =>
    rw [deliver_malformed h hm, (countMalformed_eq s.peer body).1]
    exact ⟨.of_forall fun b => by cases b <;> simp [Block.same], rfl⟩

/-- Settles O45: the record of a framed lane and its messages, what a message does, the record of a lane that hunts, and the rows that
take nothing. -/
theorem laneFrames : Obligations.LaneFrames := by
  refine ⟨fun s i f hrun hlight hstate => ?_, fun s sequence body => ?_, fun s i f hrun hlight hstate => ?_, fun s i f hnothing => ?_⟩
  · refine ⟨s.setLane i ((s.lane i).afterFrame f), setLane_frame s i _, State.setLane_lane_ne _ _ (otherLane_ne i).symm, ?_⟩
    rw [State.setLane_lane_eq, LaneRecord.afterFrame_rest]
    refine ⟨fun n => Table.get_ofFn .., fun hword => ?_, fun hword hbad => ?_, fun hword hbad => ?_, rfl, rfl, rfl,
      LaneRecord.afterFrame_rest (s.lane i) f ▸ laneFrameReceived_framed hrun hlight hstate f⟩
    · rw [(laneWord_iff _).mpr hword]; exact ⟨rfl, rfl⟩
    · rw [Bool.eq_false_iff.mpr fun h => hword ((laneWord_iff _).mp h), LaneRecord.checkFrame_bad hbad]; exact ⟨rfl, rfl⟩
    · rw [Bool.eq_false_iff.mpr fun h => hword ((laneWord_iff _).mp h), LaneRecord.checkFrame_fourth hbad]
  · refine ⟨fun hold => deliver_old ((duplicateSequence_iff _ _).mpr hold) body, fun hold => ?_⟩
    have hnew := mt (duplicateSequence_iff s.lanes sequence).mp hold
    obtain ⟨hframe, hlanes⟩ := deliver_new hnew body
    refine ⟨hframe, by rw [hlanes], by rw [hlanes], fun m hm => by rw [deliver_message hnew hm]; rfl, fun hm => ?_⟩
    obtain ⟨hpeer, hcounts⟩ := countMalformed_eq s.peer body
    exact ⟨_, (congrArg State.peer (deliver_malformed hnew hm)).trans hpeer, hcounts⟩
  · refine ⟨s.setLane i { (s.lane i).huntFrame (f.word == laneWord) with content := frameContent f }, ?_, setLane_frame s i _,
      State.setLane_lane_ne _ _ (otherLane_ne i).symm, ?_⟩
    · change execLaneFrameReceived i f s = _
      rw [execLaneFrameReceived, if_pos ⟨hrun, hlight⟩, if_neg fun h => (framed_iff _).mp h hstate]
    have hkept := ((s.lane i).huntFrame_state (f.word == laneWord)).trans hstate
    rw [State.setLane_lane_eq]
    refine ⟨hkept, fun hword => ?_, fun hword hless => ?_, fun hword heighth => ?_⟩
    · rw [Bool.eq_false_iff.mpr fun h => hword ((laneWord_iff _).mp h)]; exact ⟨rfl, rfl⟩
    · rw [(laneWord_iff _).mpr hword, LaneRecord.huntFrame_word hless]; exact ⟨rfl, rfl⟩
    · rw [(laneWord_iff _).mpr hword, LaneRecord.huntFrame_eighth heighth]
  · change execLaneFrameReceived i f s = _
    rw [execLaneFrameReceived, if_neg fun h => ?_]
    obtain ⟨hrun, hlight⟩ := h
    rcases hnothing with hstopped | hdark
    · rw [hrun] at hstopped; cases hstopped
    · rw [hlight] at hdark; cases hdark

end Sys2Proof.Machine
end

section
/-! SUPPORT. The rows of a lane's state: UP, loss of light and of alignment, DEGRADED and the error interval (R97 to R100), and the expiries
of the hold-off and of the duplicate window (R106, R112). -/

namespace Sys2Proof.Machine

variable {s t u : State}

/-! ### A lane goes UP (R97) -/

/-- R100: while a lane is UP no fibre is lost, so that what follows rests on no law. -/
theorem availability_up (h : s.lanes.anyUp = true) (wasUp : Bool) : Availability wasUp s.lanes.anyUp s (s.availability wasUp) := by
  unfold Availability State.availability
  simp only [h, Bool.true_eq_false, and_false, if_false, and_true]
  split
  · exact ⟨State.evaluateAll_circuit s, evaluateAll_frame s⟩
  · rfl

theorem anyUp_of_lane {i : Lane} (h : (s.lane i).state = .up) : s.lanes.anyUp = true := by
  cases i
  · exact (anyUp_iff _).mpr (.inl h)
  · exact (anyUp_iff _).mpr (.inr h)

/-- R97: a lane goes UP: its record, the working-lane test, and fibre that may have become available. -/
theorem laneRaised_spec (s : State) (i : Lane) : ∃ m k, LaneTakes i (s.lane i).raised .aligned s m ∧ Tested .automatic m k ∧
    Availability s.lanes.anyUp k.lanes.anyUp k (s.laneRaised i) := by
  have htakes := laneState_spec i (s.lane i).raised .aligned s
  refine ⟨_, _, htakes, workingTest_spec .automatic _, availability_up ?_ _⟩
  rw [workingTest_anyUp]
  exact anyUp_of_lane (congrArg LaneRecord.state htakes.record.1)

/-! ### A lane goes DOWN (R98) -/

/-- A lane's record written before its change of state leaves that change as it is. -/
theorem LaneTakes.after_setLane {i : Lane} {x after : LaneRecord} {cause : LaneCause} (h : LaneTakes i after cause (s.setLane i x) t)
    (hx : x.state = (s.lane i).state) : LaneTakes i after cause s t := by
  have hset := setLane_frame s i x
  obtain ⟨hrecord, hother⟩ := h.record
  obtain ⟨hworking, hoff, hseconds⟩ := h.selection
  obtain ⟨working, timing, hreported, hselected⟩ := h.report
  refine ⟨⟨hrecord, hother.trans (State.setLane_lane_ne _ _ (otherLane_ne i).symm)⟩, h.timing, ?_, ⟨working, timing, ?_⟩, ?_⟩
  · obtain ⟨hw, hs, ho, -⟩ := hset .selection (by decide)
    exact ⟨hworking.trans hw, hoff.trans ho, hseconds.trans hs⟩
  · rw [State.setLane_lane_eq, hx] at hreported
    exact ⟨hreported.after_frame hset (by decide) (by decide), hselected⟩
  · exact (hset.mono (by decide)).trans h.frame

theorem LaneGoesDown.after_setLane {i : Lane} {x after : LaneRecord} {cause : LaneCause}
    (h : LaneGoesDown i after cause (s.setLane i x) t) (hx : x.state = (s.lane i).state) : LaneGoesDown i after cause s t := by
  obtain ⟨m, k, j, htakes, hidle, havailable, htested⟩ := h
  rw [setLane_working] at hidle
  rw [setLane_anyUp hx] at havailable
  exact ⟨m, k, j, htakes.after_setLane hx, hidle, havailable, htested⟩

/-- R98: an indication of loss of light takes a framed lane DOWN. -/
theorem laneLossOfLight_framed (h : Sound s) {i : Lane} (hstate : (s.lane i).state ≠ .down) :
    ∃ t, exec (.laneLossOfLight i) s = .next t ∧ LaneGoesDown i { (s.lane i).lowered with lossOfLight := true } .light s t := by
  have hset := setLane_frame s i { s.lane i with lossOfLight := true }
  have hsound : Sound (s.setLane i { s.lane i with lossOfLight := true }) := by
    have hevaluated : AllEvaluated _ := h.conditioned.congr (hset.sameCircuits (by decide))
      (fun n => by rw [hset.sameSpan (by decide)]) (setLane_anyUp rfl)
    exact ⟨h.batches.of_frame hset (by decide) fun c => by rw [hset.sameCircuit (by decide)], hevaluated, h.copper⟩
  have hdown := laneLowered_spec hsound i .light
  rw [State.setLane_lane_eq] at hdown
  exact ⟨_, if_pos ((framed_iff _).mpr hstate), hdown.after_setLane rfl⟩

theorem laneLossOfLight_down (s : State) {i : Lane} (hstate : (s.lane i).state = .down) :
    Happens s (.laneLossOfLight i) [.laneRecords] fun t =>
      t.lane i = { s.lane i with lossOfLight := true, candidate := none, upDue := false } ∧
      t.lane (otherLane i) = s.lane (otherLane i) := by
  refine ⟨s.setLane i { s.lane i with lossOfLight := true, candidate := none, upDue := false }, ?_, setLane_frame s i _,
    State.setLane_lane_eq .., State.setLane_lane_ne _ _ (otherLane_ne i).symm⟩
  change execLaneLossOfLight i s = _
  rw [execLaneLossOfLight, if_neg fun h => (framed_iff _).mp h hstate, State.setLane_lane_eq, State.setLane_setLane]

/-! ### The error interval (R99) -/

theorem errorIntervalEnd_due {i : Lane} {x : Countdown} (hstate : (s.lane i).state ≠ .down) (hx : (s.lane i).interval = some x)
    (hdue : x.due = true) : exec (.errorIntervalEnd i) s =
      if (s.lane i).endInterval.state = (s.lane i).state then .next (s.setLane i (s.lane i).endInterval)
      else .next (s.laneGraded i (s.lane i).endInterval .cleared) := by
  change execErrorIntervalEnd i s = _
  rw [execErrorIntervalEnd, if_pos ⟨(framed_iff _).mpr hstate, by rw [hx, Option.map_some, hdue]⟩]

theorem errorIntervalEnd_spec (h : Sound s) {i : Lane} {x : Countdown} (hstate : (s.lane i).state ≠ .down)
    (hx : (s.lane i).interval = some x) (hdue : x.due = true) :
    if (s.lane i).state = .degraded ∧ (s.lane i).errors = some 0 then
      ∃ t, exec (.errorIntervalEnd i) s = .next t ∧
        LaneGraded i { s.lane i with state := .up, interval := some ⟨8000, false⟩, errors := some 0 } .cleared s t
    else Happens s (.errorIntervalEnd i) [.laneRecords] fun t =>
      t.lane i = { s.lane i with interval := some ⟨8000, false⟩, errors := some 0 } ∧ t.lane (otherLane i) = s.lane (otherLane i) := by
  have hrow := errorIntervalEnd_due hstate hx hdue
  split
  next hclear =>
    have hend : (s.lane i).endInterval = { s.lane i with state := .up, interval := some ⟨8000, false⟩, errors := some 0 } := by
      rw [LaneRecord.endInterval, if_pos hclear]; rfl
    rw [if_neg (by rw [hend, hclear.1]; nofun)] at hrow
    exact ⟨_, hrow, hend ▸ laneGraded_spec h i _ .cleared⟩
  next hclear =>
    have hend : (s.lane i).endInterval = { s.lane i with interval := some ⟨8000, false⟩, errors := some 0 } := by
      rw [LaneRecord.endInterval, if_neg hclear]; rfl
    rw [if_pos (by rw [hend])] at hrow
    exact ⟨_, hrow, setLane_frame s i _, hend ▸ State.setLane_lane_eq .., State.setLane_lane_ne _ _ (otherLane_ne i).symm⟩

/-- Settles O46: the rows of a lane by its state and by what is due, and the two expiries. -/
theorem laneTransitions : Obligations.LaneTransitions := by
  refine ⟨fun s i _ hstate hdue => ?_, fun s i hlaw hstate => ⟨laneLossOfLight_framed hlaw.sound hstate, fun hbad => ?_,
      fun hup herrors => ?_, fun x => errorIntervalEnd_spec hlaw.sound hstate⟩,
    fun s i => laneLossOfLight_down s, fun s i => ?_, fun s hdue => ?_, fun s hdue => ?_⟩
  · obtain ⟨m, k, htakes, htested, havailable⟩ := laneRaised_spec s i
    exact ⟨m, k, _, if_pos ⟨hstate, hdue⟩, htakes, htested, havailable⟩
  · exact ⟨_, if_pos ⟨(framed_iff _).mpr hstate, hbad⟩, laneLowered_spec hlaw.sound i .alignment⟩
  · exact ⟨_, if_pos ⟨hup, herrors⟩, laneGraded_spec hlaw.sound i _ .errors⟩
  · exact ⟨_, rfl, setLane_frame s i _, State.setLane_lane_eq .., State.setLane_lane_ne _ _ (otherLane_ne i).symm⟩
  · exact ⟨_, if_pos hdue, .of_forall fun b => by cases b <;> simp [Block.same], rfl, rfl, rfl, rfl⟩
  · exact ⟨_, if_pos hdue, .of_forall fun b => by cases b <;> simp [Block.same], rfl, rfl⟩

end Sys2Proof.Machine
end

section
/-! SUPPORT. What the part sends in a frame: the overhead bytes (R111), the span frames (R6, R83, R85) and the lane frames (R7, R109,
R110). -/

namespace Sys2Proof.Machine

variable {s p r k : State} {switch : Table 512 ChannelInput}

/-- Two states agree on their lanes' records when a frame does not name them. -/
theorem SameBut.sameLane {l : List Block} (h : SameBut l s r) (hb : Block.laneRecords ∉ l) (i : Lane) : r.lane i = s.lane i := by
  obtain ⟨ha, hb⟩ : r.lanes.a = s.lanes.a ∧ r.lanes.b = s.lanes.b := h _ hb
  cases i
  exacts [ha, hb]

/-! ### The overhead bytes of a frame (R111) -/

/-- What the overhead bytes of a frame are taken from: the bytes of the message begun, the queue and the sequence. -/
def LaneInterface.outgoing (l : LaneInterface) : List Byte × List PeerMessage × Byte := (l.sending, l.queue, l.sequence)

theorem nextByte_rest (l : LaneInterface) : l.nextByte.2 =
    { l with sending := l.nextByte.2.sending, queue := l.nextByte.2.queue, sequence := l.nextByte.2.sequence } := by
  unfold LaneInterface.nextByte
  split <;> rfl

theorem nextBytes_rest : ∀ (n : Nat) (l : LaneInterface), (l.nextBytes n).2 =
    { l with sending := (l.nextBytes n).2.sending, queue := (l.nextBytes n).2.queue, sequence := (l.nextBytes n).2.sequence }
  | 0, _ => rfl
  | n + 1, l => by
    rw [LaneInterface.nextBytes]
    dsimp only
    rw [nextBytes_rest n, nextByte_rest l]

theorem nextByte_congr {l m : LaneInterface} (h : l.outgoing = m.outgoing) :
    l.nextByte.1 = m.nextByte.1 ∧ l.nextByte.2.outgoing = m.nextByte.2.outgoing := by
  simp only [LaneInterface.outgoing, Prod.mk.injEq] at h
  obtain ⟨hsending, hqueue, hsequence⟩ := h
  unfold LaneInterface.nextByte
  rw [hsending, hqueue, hsequence]
  split <;> simp [LaneInterface.outgoing, *]

theorem nextBytes_congr : ∀ (n : Nat) {l m : LaneInterface}, l.outgoing = m.outgoing →
    (l.nextBytes n).1 = (m.nextBytes n).1 ∧ (l.nextBytes n).2.outgoing = (m.nextBytes n).2.outgoing
  | 0, _, _, h => ⟨rfl, h⟩
  | n + 1, l, m, h => by
    obtain ⟨hbyte, hnext⟩ := nextByte_congr h
    obtain ⟨hbytes, hlast⟩ := nextBytes_congr n hnext
    exact ⟨by rw [LaneInterface.nextBytes, LaneInterface.nextBytes, hbyte, hbytes], hlast⟩

theorem nextBytes_length : ∀ (n : Nat) (l : LaneInterface), (l.nextBytes n).1.length = n
  | 0, _ => rfl
  | n + 1, l => by rw [LaneInterface.nextBytes, List.length_cons, nextBytes_length n]

theorem overheadTable_data {bytes : List Byte} (h : bytes.length = 16) : (overheadTable bytes).data = bytes := by
  apply List.ext_getElem ((overheadTable bytes).size.trans h.symm)
  intro i hi hb
  have hget : (overheadTable bytes).get ⟨i, h ▸ hb⟩ = bytes[i] := by
    rw [overheadTable, Table.get_ofFn, List.getD_eq_getElem _ _ hb]
  exact hget

/-! ### The bits of a timeslot and of a slot (R6, R7) -/

theorem timeslotOut_eq (s : State) (switch : Table 512 ChannelInput) (x : CopperPosition) : s.timeslotOut switch x =
    (match s.sentOnCopper x with
      | some c => ⟨(switch.get c).sample, (s.highway.channels.get c).shown⟩
      | none => ⟨s.node.idleCode, .blocked⟩) := by
  unfold State.timeslotOut State.sentOnCopper
  cases s.timeslotOwner x with
  | none => rfl
  | some c => cases hsent : (s.circuit c).copperTransmit <;> simp [Option.filter, hsent, State.outbound]

theorem slotOut_eq (s : State) (switch : Table 512 ChannelInput) (n : SlotNo) : s.slotOut switch n =
    (match s.sentOnFibre n with
      | some c => ⟨(switch.get c).sample, (s.highway.channels.get c).shown, true⟩
      | none => .idle s.node.idleCode) := by
  unfold State.slotOut State.sentOnFibre
  cases s.slotOwner n with
  | none => rfl
  | some c => cases hsent : (s.circuit c).fibreTransmit <;> simp [Option.filter, hsent, State.outbound]

/-! ### The frames sent (R85, R110) -/

theorem spanOut_sent (s : State) (switch : Table 512 ChannelInput) (n : SpanNo) : SpanSent s s s.fc switch n (s.spanOut switch n) := by
  unfold State.spanOut
  refine ⟨fun hretired i => ?_, fun hretired i => ?_, fun hretired => ?_⟩
  · rw [if_pos hretired, Table.get_fill]
  · rw [if_neg hretired, Table.get_ofFn, dif_neg (by simp), timeslotOut_eq]
    simp only [Fin.pred_succ]
    cases s.sentOnCopper ⟨n, i⟩ <;> rfl
  · rw [if_neg hretired, Table.get_ofFn, dif_pos (by rfl)]
    congr 1
    funext i
    rw [timeslotOut_eq]
    cases s.sentOnCopper ⟨n, i⟩ <;> rfl

theorem laneOut_sent (s : State) (switch : Table 512 ChannelInput) {overhead : List Byte} (h : overhead.length = 16) :
    LaneSent s s switch overhead (s.laneOut switch overhead) := by
  refine ⟨rfl, overheadTable_data h, fun n => ?_, fun n => ?_⟩
  · rw [State.laneOut, Table.get_ofFn, slotOut_eq]
    cases s.sentOnFibre n <;> rfl
  · rw [State.laneOut, Table.get_ofFn, slotOut_eq]
    cases s.sentOnFibre n <;> rfl

/-- The codes sent are the conditions from the switch as the frame's codes leave them (R14). -/
theorem SpanSent.congr {fc : FrameCount} {n : SpanNo} {f : SpanFrame} (h : SpanSent s r fc switch n f)
    (hk : k.highway.channels = r.highway.channels) : SpanSent s k fc switch n f :=
  ⟨h.retired, h.samples, by rw [hk]; exact h.signalling⟩

theorem LaneSent.congr {overhead : List Byte} {f : LaneFrame} (h : LaneSent s r switch overhead f)
    (hk : k.highway.channels = r.highway.channels) : LaneSent s k switch overhead f :=
  ⟨h.word, h.overhead, h.samples, by rw [hk]; exact h.control⟩

/-- R109: a lane with its shutdown flag set sends no light. -/
theorem LaneRecord.send_eq (l : LaneRecord) (f : LaneFrame) :
    (l.shutdown = true → (l.send f).transmit = none) ∧ (l.shutdown ≠ true → (l.send f).transmit = some f) :=
  ⟨fun h => if_pos h, fun h => if_neg h⟩

theorem transmitFrame_lanes (s : State) (switch : Table 512 ChannelInput) : (s.transmitFrame switch).lanes =
    { s.lanes with
      a := s.lanes.a.send (s.laneOut switch (s.lanes.nextBytes 16).1)
      b := s.lanes.b.send (s.laneOut switch (s.lanes.nextBytes 16).1)
      queue := (s.lanes.nextBytes 16).2.queue
      sending := (s.lanes.nextBytes 16).2.sending
      sequence := (s.lanes.nextBytes 16).2.sequence } :=
  congrArg (fun l : LaneInterface => { l with
    a := l.a.send (s.laneOut switch (s.lanes.nextBytes 16).1)
    b := l.b.send (s.laneOut switch (s.lanes.nextBytes 16).1) }) (nextBytes_rest 16 s.lanes)

theorem transmitFrame_lane (s : State) (switch : Table 512 ChannelInput) (i : Lane) : (s.transmitFrame switch).lane i =
    (s.lane i).send (s.laneOut switch (s.lanes.nextBytes 16).1) := by
  rw [State.lane, transmitFrame_lanes]
  cases i <;> rfl

theorem transmitFrame_span (s : State) (switch : Table 512 ChannelInput) (n : SpanNo) :
    (s.transmitFrame switch).span n = { s.span n with transmit := some (s.spanOut switch n) } := Table.get_mapIdx ..

theorem transmitFrame_frame (s : State) (switch : Table 512 ChannelInput) :
    SameBut [.spans, .laneRecords, .overhead, .sending] s (s.transmitFrame switch) := by
  refine .of_forall fun b => ?_
  cases b <;> simp [Block.same, transmitFrame_lanes] <;> simp [State.transmitFrame]

/-- R85, R109, R110, R111: the transmit side of a frame. -/
theorem transmitFrame_spec (s : State) (switch : Table 512 ChannelInput) : Transmitted switch s.fc s (s.transmitFrame switch) := by
  refine ⟨fun n => ⟨_, congrArg Span.transmit (transmitFrame_span s switch n), (spanOut_sent s switch n).congr rfl⟩, fun i => ?_,
    rfl, by rw [transmitFrame_lanes], rfl, rfl⟩
  obtain ⟨hdark, hlit⟩ := (s.lane i).send_eq (s.laneOut switch (s.lanes.nextBytes 16).1)
  rw [transmitFrame_lane]
  split
  next hshut => exact hdark hshut
  next hshut => exact ⟨_, hlit hshut, (laneOut_sent s switch (nextBytes_length 16 _)).congr rfl⟩

/-! ### What is sent, seen from the frame's beginning and from its end -/

/-- What is sent rests on the routes, the node, the shutdown flags and the overhead queue of the state before it. -/
theorem Transmitted.of_start {fc : FrameCount} (h : Transmitted switch fc p r) (hspan : ∀ n, (p.span n).state = (s.span n).state)
    (hcopper : ∀ x, p.sentOnCopper x = s.sentOnCopper x) (hfibre : ∀ n, p.sentOnFibre n = s.sentOnFibre n) (hnode : p.node = s.node)
    (hshut : ∀ i, (p.lane i).shutdown = (s.lane i).shutdown) (hout : p.lanes.outgoing = s.lanes.outgoing)
    (hlost : p.lanes.lost = s.lanes.lost) : Transmitted switch fc s r := by
  obtain ⟨hbytes, hnext⟩ := nextBytes_congr 16 hout
  simp only [LaneInterface.outgoing, Prod.mk.injEq] at hnext
  obtain ⟨hsending, hqueue, hsequence⟩ := hnext
  refine ⟨fun n => ?_, fun i => ?_, ?_⟩
  · obtain ⟨f, hf, hretired, hsamples, hsignalling⟩ := h.spans n
    rw [hspan] at hretired hsamples hsignalling
    simp only [hcopper, hnode] at hsamples hsignalling
    exact ⟨f, hf, hretired, hsamples, hsignalling⟩
  · have hlane := h.lanes i
    rw [hshut, hbytes] at hlane
    split at hlane
    next hset => rw [if_pos hset]; exact hlane
    next hset =>
      obtain ⟨f, hf, hword, hoverhead, hsamples, hcontrol⟩ := hlane
      simp only [hfibre, hnode] at hsamples hcontrol
      rw [if_neg hset]
      exact ⟨f, hf, hword, hoverhead, hsamples, hcontrol⟩
  · obtain ⟨hq, hl, hs, hn⟩ := h.overhead
    exact ⟨hq.trans hqueue, hl.trans hlost, hs.trans hsending, hn.trans hsequence⟩

/-- What is sent stands in the state after it: the frames sent, the conditions from the switch, and the overhead queue. -/
theorem Transmitted.of_end {fc : FrameCount} {l : List Block} (h : Transmitted switch fc s r) (hf : SameBut l r k)
    (hspan : ∀ n, (k.span n).transmit = (r.span n).transmit) (hchannels : Block.channels ∉ l) (hlanes : Block.laneRecords ∉ l)
    (hoverhead : Block.overhead ∉ l) (hsending : Block.sending ∉ l) : Transmitted switch fc s k := by
  have hch : k.highway.channels = r.highway.channels := hf _ hchannels
  refine ⟨fun n => ?_, fun i => ?_, ?_⟩
  · obtain ⟨f, hsent, hf⟩ := h.spans n
    exact ⟨f, (hspan n).trans hsent, hf.congr hch⟩
  · have hsent := h.lanes i
    rw [hf.sameLane hlanes]
    split at hsent
    next hset => rw [if_pos hset]; exact hsent
    next hset =>
      obtain ⟨f, htransmit, hf⟩ := hsent
      rw [if_neg hset]
      exact ⟨f, htransmit, hf.congr hch⟩
  · obtain ⟨hq, hl⟩ := hf _ hoverhead
    obtain ⟨hs, hn⟩ := hf _ hsending
    rw [hq, hl, hs, hn]
    exact h.overhead

end Sys2Proof.Machine
end

section
/-! SUPPORT. The counts of a frame (R7, R28, R32, R33, R36, R45), and the matcher units in it (R60, R61, R62, R65). -/

namespace Sys2Proof.Machine

variable {s h k : State}

/-! ### Counts -/

/-- One frame of a count. -/
theorem Countdown.tick_counted (x : Countdown) : Counted x x.tick := by
  obtain ⟨left, due⟩ := x
  unfold Countdown.tick
  refine ⟨fun hmore => if_neg (by simp only at hmore ⊢; omega), fun hlast => ?_, fun hended => ?_⟩
  · simp only at hlast; subst hlast; rfl
  · simp only at hended; subst hended; rfl

theorem map_tick_counted (x : Option Countdown) : CountedIfAny x (x.map Countdown.tick) := by
  cases x with
  | none => exact ⟨fun _ => rfl, nofun⟩
  | some a => exact ⟨nofun, fun b hb => ⟨_, rfl, Option.some.inj hb ▸ a.tick_counted⟩⟩

/-- The counts of a context that run in its circuit's state. -/
theorem Context.tick_counted (x : Context) (state : PathState) :
    x.tick state = { x with backoff := (x.tick state).backoff, bridgeLimit := (x.tick state).bridgeLimit,
                            deferLimit := (x.tick state).deferLimit, hold := (x.tick state).hold } ∧
    (state = .proposing ∨ state = .measuring → CountedIfAny x.backoff (x.tick state).backoff) ∧
    (state ≠ .proposing → state ≠ .measuring → (x.tick state).backoff = x.backoff) ∧
    (state = .measuring → Counted x.bridgeLimit (x.tick state).bridgeLimit) ∧
    (state ≠ .measuring → (x.tick state).bridgeLimit = x.bridgeLimit) ∧
    (state = .aligned ∧ x.deferred = true → Counted x.deferLimit (x.tick state).deferLimit) ∧
    (¬ (state = .aligned ∧ x.deferred = true) → (x.tick state).deferLimit = x.deferLimit) ∧
    (state = .fibre → CountedIfAny x.hold (x.tick state).hold) ∧ (state ≠ .fibre → (x.tick state).hold = x.hold) := by
  have hrest : x.tick state = { x with
      backoff := (x.tick state).backoff, bridgeLimit := (x.tick state).bridgeLimit, deferLimit := (x.tick state).deferLimit,
      hold := (x.tick state).hold } := by
    unfold Context.tick
    repeat' split
    all_goals rfl
  refine ⟨hrest, ?_⟩
  have hbackoff := map_tick_counted x.backoff
  have hbridge := x.bridgeLimit.tick_counted
  have hdefer := x.deferLimit.tick_counted
  have hhold := map_tick_counted x.hold
  cases state
  case aligned => cases hd : x.deferred <;> simp [Context.tick, hd, hdefer]
  all_goals simp [Context.tick, hbackoff, hbridge, hhold]

/-- R7, R28, R32, R33, R36, R45: a circuit's counts in one frame. -/
theorem Circuit.tick_counted (r : Circuit) : CircuitCounted r r.tick := by
  refine ⟨rfl, ⟨fun a ha => ⟨a.tick, ?_, a.tick_counted⟩, fun hidle => ?_⟩, fun hnone => ?_, fun x hx => ⟨x.tick r.state, ?_, ?_⟩⟩
  · rw [Circuit.tick, ha]; rfl
  · rw [Circuit.tick]
    cases ht : r.fibreTransmit <;> simp [Circuit.draining, ht, FibreTransmit.tick] at hidle ⊢
  · rw [Circuit.tick, hnone]; rfl
  · rw [Circuit.tick, hx]; rfl
  · exact x.tick_counted r.state

theorem FibreTransmit.tick_off (x : FibreTransmit) : x.tick = .off ↔ x = .off := by cases x <;> simp [FibreTransmit.tick]

/-! ### The units of a frame (R60, R61, R62, R65) -/

/-- R65: a unit at work on a circuit restarts by the flag of that circuit's slot. -/
theorem flagClearUnit_eq {m : Matcher} {c : CircuitNo} (hc : m.circuit = some c) (hm : m.state = .priming ∨ m.state = .window)
    (content : SlotNo → SlotContent) : s.flagClearUnit content m =
      (match (s.circuit c).fibre with
        | some n => if (content n).flag then m else m.restarted (s.recordOf c)
        | none => m) := by
  unfold State.flagClearUnit
  rcases hm with hm | hm <;> simp only [hm, hc, Matcher.restart_eq] <;> rfl

theorem flagClearUnit_present {m : Matcher} {c : CircuitNo} (hc : m.circuit = some c) (hm : m.state = .priming ∨ m.state = .window)
    {content : SlotNo → SlotContent} (hflag : ∀ n, (s.circuit c).fibre = some n → (content n).flag = true) :
    s.flagClearUnit content m = m := by
  rw [flagClearUnit_eq hc hm]
  cases hn : (s.circuit c).fibre with
  | none => rfl
  | some n => exact if_pos (hflag n hn)

theorem flagClearUnit_clear {m : Matcher} {c : CircuitNo} (hc : m.circuit = some c) (hm : m.state = .priming ∨ m.state = .window)
    {content : SlotNo → SlotContent} {n : SlotNo} (hn : (s.circuit c).fibre = some n) (hflag : (content n).flag = false) :
    s.flagClearUnit content m = m.restarted (s.recordOf c) := by
  rw [flagClearUnit_eq hc hm, hn]
  exact if_neg (by simp [hflag])

/-- The frame of a unit keeps what a restart rests on, and a restart keeps the history. -/
theorem Matcher.restarted_history {m v : Matcher} (hkind : v.kind = m.kind) (hwlo : v.wlo = m.wlo) (hwhi : v.whi = m.whi)
    (hcircuit : v.circuit = m.circuit) (hlength : v.length = m.length) (record : DelayRecord) :
    v.restarted record = { m.restarted record with history := v.history } := by
  unfold Matcher.restarted Matcher.restartedFull
  rw [hkind, hwlo, hwhi, hcircuit, hlength]
  split
  · split
    · rfl
    · rfl
  all_goals rfl

theorem Matcher.restarted_fields (m : Matcher) (record : DelayRecord) : (m.restarted record).history = m.history ∧
    (m.restarted record).circuit = m.circuit ∧ (m.restarted record).wlo = m.wlo ∧ (m.restarted record).whi = m.whi ∧
    (m.restarted record).length = m.length := by
  unfold Matcher.restarted Matcher.restartedFull
  repeat' split
  all_goals exact ⟨rfl, rfl, rfl, rfl, rfl⟩

theorem Matcher.frame_resting {m : Matcher} (hm : m.state = .free ∨ m.state = .done) (fc : FrameCount) (sample : Byte)
    (ring : Table 128 Byte) : m.frame fc sample ring = m := by
  rcases hm with hm | hm <;> rw [Matcher.frame, hm]

theorem Matcher.frame_priming {m : Matcher} (hm : m.state = .priming) (fc : FrameCount) (sample : Byte) (ring : Table 128 Byte) :
    m.frame fc sample ring =
      { m with history := m.history.set (ringCell fc) sample, count := if m.count < 128 then m.count + 1 else m.count } := by
  rw [Matcher.frame, hm]
  rfl

theorem Matcher.frame_window {m : Matcher} (hm : m.state = .window) (hcount : m.count < m.length) (fc : FrameCount) (sample : Byte)
    (ring : Table 128 Byte) : m.frame fc sample ring =
      { m with
        history := m.history.set (ringCell fc) sample
        candidates := m.candidates.filter fun d => survives (m.history.set (ringCell fc) sample) ring fc d
        count := m.count + 1 } := by
  rw [Matcher.frame, hm]
  exact if_pos hcount

theorem Matcher.frame_waiting {m : Matcher} (hm : m.state = .window) (hcount : ¬ m.count < m.length) (fc : FrameCount)
    (sample : Byte) (ring : Table 128 Byte) :
    m.frame fc sample ring = { m with history := m.history.set (ringCell fc) sample } := by
  rw [Matcher.frame, hm]
  exact if_neg hcount

/-- R60: the frame of a unit at work writes one cell of its history and keeps its circuit, its kind and its window. -/
theorem Matcher.frame_kept {m : Matcher} (hm : m.state = .priming ∨ m.state = .window) (fc : FrameCount) (sample : Byte)
    (ring : Table 128 Byte) :
    (m.frame fc sample ring).history = m.history.set (ringCell fc) sample ∧ (m.frame fc sample ring).state = m.state ∧
    (m.frame fc sample ring).circuit = m.circuit ∧ (m.frame fc sample ring).kind = m.kind ∧ (m.frame fc sample ring).wlo = m.wlo ∧
    (m.frame fc sample ring).whi = m.whi ∧ (m.frame fc sample ring).length = m.length := by
  rcases hm with hm | hm
  · rw [Matcher.frame_priming hm]
    exact ⟨rfl, rfl, rfl, rfl, rfl, rfl, rfl⟩
  · by_cases hcount : m.count < m.length
    · rw [Matcher.frame_window hm hcount]
      exact ⟨rfl, rfl, rfl, rfl, rfl, rfl, rfl⟩
    · rw [Matcher.frame_waiting hm hcount]
      exact ⟨rfl, rfl, rfl, rfl, rfl, rfl, rfl⟩

/-- R62: which candidates survive a frame. -/
theorem survives_iff (history ring : Table 128 Byte) (fc : FrameCount) (d : Int) : survives history ring fc d = true ↔
    if 0 ≤ d then ring.get (ringCell fc) = history.get (ringCell (fc - BitVec.ofNat 32 d.toNat))
    else history.get (ringCell fc) = ring.get (ringCell (fc - BitVec.ofNat 32 (-d).toNat)) := by
  unfold survives
  split <;> exact beq_iff_eq

/-- R86: the copper sample of a circuit. -/
theorem copperSampleOf_eq (s : State) (c : CircuitNo) : s.copperSampleOf c = s.heardOnCopper c := by
  unfold State.copperSampleOf State.heardOnCopper
  cases (s.circuit c).copper <;> rfl

/-- R60, R61, R62, R65: a unit's part in a frame, from the state `h` in which the frame's samples stand. -/
theorem frameUnit_spec {content : SlotNo → SlotContent} {m : Matcher} {c : CircuitNo} (hc : m.circuit = some c)
    (hclock : h.fc = k.fc) (hcopper : h.heardOnCopper c = k.heardOnCopper c) (hring : h.ring c = k.ring c)
    (hfibre : (h.circuit c).fibre = (s.circuit c).fibre) (hrecord : h.recordOf c = s.recordOf c)
    (hcontent : ∀ n, content n = s.heardOnSlot n) :
    UnitFrame s k c m (h.frameUnits.flagClearUnit content (h.frameUnit m)) := by
  obtain ⟨sample, hsample⟩ : ∃ sample, sample = k.heardOnCopper c := ⟨_, rfl⟩
  have hframe : h.frameUnit m = m.frame k.fc sample (k.ring c) := by
    rw [State.frameUnit, hc, hsample, ← hcopper, ← copperSampleOf_eq, ← hclock, ← hring]
  obtain ⟨v, hv⟩ : ∃ v, v = m.frame k.fc sample (k.ring c) := ⟨_, rfl⟩
  have hfibre' : (h.frameUnits.circuit c).fibre = (s.circuit c).fibre := hfibre
  have hrecord' : h.frameUnits.recordOf c = s.recordOf c := hrecord
  rw [hframe, ← hv]
  have hpresent : m.state = .priming ∨ m.state = .window → (∀ n, (s.circuit c).fibre = some n → (s.heardOnSlot n).flag = true) →
      h.frameUnits.flagClearUnit content v = v := fun hm hflag => by
    obtain ⟨-, hstate, hcircuit, -⟩ := Matcher.frame_kept hm k.fc sample (k.ring c)
    exact flagClearUnit_present (hv ▸ hcircuit.trans hc) (by rw [hv, hstate]; exact hm)
      fun n hn => by rw [hcontent]; exact hflag n (hfibre' ▸ hn)
  have hclear : m.state = .priming ∨ m.state = .window → (∃ n, (s.circuit c).fibre = some n ∧ (s.heardOnSlot n).flag = false) →
      h.frameUnits.flagClearUnit content v = { m.restarted (s.recordOf c) with history := v.history } := fun hm ⟨n, hn, hflag⟩ => by
    obtain ⟨-, hstate, hcircuit, hkind, hwlo, hwhi, hlength⟩ := Matcher.frame_kept hm k.fc sample (k.ring c)
    rw [← hv] at hstate hcircuit hkind hwlo hwhi hlength
    rw [flagClearUnit_clear (hcircuit.trans hc) (by rw [hstate]; exact hm) (hfibre'.trans hn) (by rw [hcontent]; exact hflag), hrecord',
      Matcher.restarted_history hkind hwlo hwhi hcircuit hlength]
  have hresult : m.state = .priming ∨ m.state = .window → h.frameUnits.flagClearUnit content v = v ∨
      h.frameUnits.flagClearUnit content v = { m.restarted (s.recordOf c) with history := v.history } := fun hm => by
    by_cases hflag : ∀ n, (s.circuit c).fibre = some n → (s.heardOnSlot n).flag = true
    · exact .inl (hpresent hm hflag)
    · obtain ⟨n, hn⟩ := not_forall.mp hflag
      obtain ⟨hn, hflag⟩ := Classical.not_imp.mp hn
      exact .inr (hclear hm ⟨n, hn, Bool.eq_false_iff.mpr hflag⟩)
  refine ⟨fun hm => ?_, fun hm => ?_, fun hm hflag => ?_, fun hm hflag => ?_, fun hm hcount hflag => ?_⟩
  · rw [hv, Matcher.frame_resting hm]
    exact flagClearUnit_resting _ (.inr hm)
  · obtain ⟨hhistory, -, hcircuit, -, hwlo, hwhi, hlength⟩ := Matcher.frame_kept hm k.fc sample (k.ring c)
    rw [← hv] at hhistory hcircuit hwlo hwhi hlength
    obtain ⟨-, rcircuit, rwlo, rwhi, rlength⟩ := m.restarted_fields (s.recordOf c)
    have hwritten : ∀ j, v.history.get j = if j = ringCell k.fc then k.heardOnCopper c else m.history.get j := fun j => by
      rw [hhistory, Table.get_set, hsample]; simp only [eq_comm]
    rcases hresult hm with hu | hu <;> rw [hu]
    · exact ⟨hwritten, hcircuit, hwlo, hwhi, hlength⟩
    · exact ⟨hwritten, rcircuit, rwlo, rwhi, rlength⟩
  · rw [hclear hm hflag]
  · rw [hpresent (.inl hm) hflag, hv, Matcher.frame_priming hm]
    exact ⟨hm, rfl, rfl, rfl, rfl⟩
  · rw [hpresent (.inr hm) hflag, hv, Matcher.frame_window hm hcount]
    refine ⟨hm, rfl, rfl, rfl, fun d => ?_⟩
    rw [List.mem_filter, survives_iff]

end Sys2Proof.Machine
end

section
/-! SUPPORT. The site frame: the work of a running part's frame, the frame of start-up, and the end of start-up (R113, R175, R8, R14, R54,
R56, R86, R101 to R103, R178). -/

namespace Sys2Proof.Machine

variable {s t u : State} {switch : Table 512 ChannelInput}

/-! ### The stages of a running part's frame (R113) -/

/-- The part once FC has advanced and the counts are lowered. -/
def State.counted (s : State) : State := s.advanceClock.tickAll

/-- The part once the switch's codes are taken and the frame is sent. -/
def State.frameSent (s : State) (switch : Table 512 ChannelInput) : State := (s.counted.takeSwitchCodes switch).transmitFrame switch

/-- The part once the stores are read, the slots heard and the rings written. -/
def State.frameHeard (s : State) (switch : Table 512 ChannelInput) : State := (s.frameSent switch).readStores.takeSlots.writeRings

theorem frameWork_eq (s : State) (switch : Table 512 ChannelInput) : s.frameWork switch =
    ((s.frameHeard switch).frameUnits.flagClearUnits (s.frameHeard switch).slotNow).selectRoutes := rfl

/-! ### What each stage may change -/

theorem counted_frame (s : State) : SameBut [.circuits, .clock, .laneRecords, .selection, .reception, .pause, .link, .responses, .walk,
    .ports] s s.counted :=
  .of_forall fun b => by
    cases b <;> simp [Block.same, State.counted, State.tickAll, State.advanceClock, LaneInterface.tick, PeerEngine.tick, Links.tickBytes]

theorem takeSwitchCodes_frame (s : State) (switch : Table 512 ChannelInput) :
    SameBut [.channels, .routes] s (s.takeSwitchCodes switch) :=
  .of_forall fun b => by cases b <;> simp [Block.same, State.takeSwitchCodes]

theorem takeSwitchCodes_channel (s : State) (switch : Table 512 ChannelInput) (c : CircuitNo) :
    (s.takeSwitchCodes switch).highway.channels.get c = (s.highway.channels.get c).take (switch.get c).code := by
  rw [State.takeSwitchCodes, State.setHighway_highway, Table.get_mapIdx]

theorem takeSwitchCodes_routes (s : State) (switch : Table 512 ChannelInput) :
    (s.takeSwitchCodes switch).highway.route = s.highway.route ∧
    (s.takeSwitchCodes switch).highway.fibreRoute = s.highway.fibreRoute ∧
    (s.takeSwitchCodes switch).highway.idleCode = s.node.idleCode := by
  simp only [State.takeSwitchCodes, State.setHighway_highway, and_self]

theorem readStores_frame (s : State) : SameBut [.spans] s s.readStores :=
  .of_forall fun b => by cases b <;> simp [Block.same, State.readStores]

theorem takeSlots_frame (s : State) : SameBut [.slots] s s.takeSlots :=
  .of_forall fun b => by cases b <;> simp [Block.same, State.takeSlots]

theorem writeRings_frame (s : State) : SameBut [.rings] s s.writeRings := by
  unfold State.writeRings
  split
  · exact .of_forall fun b => by cases b <;> simp [Block.same]
  · exact .refl _ s

theorem frameUnits_frame (s : State) : SameBut [.matchers] s s.frameUnits :=
  .of_forall fun b => by cases b <;> simp [Block.same, State.frameUnits]

theorem selectRoutes_frame (s : State) : SameBut [.routes] s s.selectRoutes :=
  .of_forall fun b => by cases b <;> simp [Block.same, State.selectRoutes]

theorem frameSent_frame (s : State) (switch : Table 512 ChannelInput) :
    SameBut [.channels, .routes, .spans, .laneRecords, .overhead, .sending] s.counted (s.frameSent switch) :=
  ((takeSwitchCodes_frame s.counted switch).mono (by decide)).trans ((transmitFrame_frame _ switch).mono (by decide))

theorem frameHeard_stores (s : State) (switch : Table 512 ChannelInput) :
    SameBut [.slots, .rings] (s.frameSent switch).readStores (s.frameHeard switch) :=
  ((takeSlots_frame _).mono (by decide)).trans ((writeRings_frame _).mono (by decide))

theorem frameHeard_frame (s : State) (switch : Table 512 ChannelInput) :
    SameBut [.spans, .slots, .rings] (s.frameSent switch) (s.frameHeard switch) :=
  ((readStores_frame _).mono (by decide)).trans ((frameHeard_stores s switch).mono (by decide))

/-- What follows the frame's samples. -/
theorem frameWork_heard (s : State) (switch : Table 512 ChannelInput) :
    SameBut [.matchers, .routes] (s.frameHeard switch) (s.frameWork switch) :=
  (((frameUnits_frame _).mono (by decide)).trans ((flagClearUnits_frame _ _).mono (by decide))).trans
    ((selectRoutes_frame _).mono (by decide))

/-- What follows the sending of a frame. -/
theorem frameWork_sent (s : State) (switch : Table 512 ChannelInput) :
    SameBut [.spans, .slots, .rings, .matchers, .routes] (s.frameSent switch) (s.frameWork switch) :=
  ((frameHeard_frame s switch).mono (by decide)).trans ((frameWork_heard s switch).mono (by decide))

/-- What follows the lowering of the counts. -/
theorem frameWork_counted (s : State) (switch : Table 512 ChannelInput) :
    SameBut [.channels, .routes, .spans, .laneRecords, .overhead, .sending, .slots, .rings, .matchers] s.counted (s.frameWork switch) :=
  ((frameSent_frame s switch).mono (by decide)).trans ((frameWork_sent s switch).mono (by decide))

theorem frameWork_frame (s : State) (switch : Table 512 ChannelInput) : SameBut frameBlocks s (s.frameWork switch) :=
  ((counted_frame s).mono (by decide)).trans ((frameWork_counted s switch).mono (by decide))

/-! ### Records, lanes and ports with their counts lowered -/

theorem counted_circuit (s : State) (c : CircuitNo) : s.counted.circuit c = (s.circuit c).tick := Table.get_map ..

theorem counted_lane (s : State) (i : Lane) :
    s.counted.lane i = { s.lane i with interval := (s.lane i).interval.map Countdown.tick } := by cases i <;> rfl

theorem counted_port (s : State) (p : Port) :
    s.counted.port p = { s.port p with interByte := (s.port p).interByte.map Countdown.tick } := by cases p <;> rfl

theorem frameWork_circuit (s : State) (switch : Table 512 ChannelInput) (c : CircuitNo) :
    (s.frameWork switch).circuit c = (s.circuit c).tick :=
  ((frameWork_counted s switch).sameCircuit (by decide) c).trans (counted_circuit s c)

theorem frameSent_lane (s : State) (switch : Table 512 ChannelInput) (i : Lane) : ∃ f, (s.frameSent switch).lane i =
    { s.lane i with interval := (s.lane i).interval.map Countdown.tick, transmit := f } := by
  have hcounted := ((takeSwitchCodes_frame s.counted switch).sameLane (by decide) i).trans (counted_lane s i)
  rw [State.frameSent, transmitFrame_lane, hcounted]
  exact ⟨_, rfl⟩

/-! ### The stores (R86) -/

theorem readStores_span (s : State) (n : SpanNo) : s.readStores.span n =
    if (s.span n).state = .up then ((s.span n).read s.node.idleCode).1 else s.span n := Table.get_map ..

theorem frameSent_span (s : State) (switch : Table 512 ChannelInput) (n : SpanNo) :
    ∃ f, (s.frameSent switch).span n = { s.span n with transmit := f } := by
  rw [State.frameSent, transmitFrame_span, (takeSwitchCodes_frame _ switch).sameSpan (by decide), (counted_frame s).sameSpan (by decide)]
  exact ⟨_, rfl⟩

/-- R86: the read of an UP span's store gives its oldest frame, or without one the last frame again. -/
theorem frameHeard_span (s : State) (switch : Table 512 ChannelInput) (n : SpanNo) : (s.frameHeard switch).span n =
    { (if (s.span n).state = .up then
        (match (s.span n).store with
          | frame :: rest => { s.span n with store := rest, last := some frame, current := frame }
          | [] => { s.span n with current := (s.span n).last.getD (.fill s.node.idleCode) })
      else s.span n) with transmit := ((s.frameSent switch).span n).transmit } := by
  obtain ⟨f, hf⟩ := frameSent_span s switch n
  have hnode : (s.frameSent switch).node = s.node :=
    ((frameSent_frame s switch).sameNode (by decide)).trans ((counted_frame s).sameNode (by decide))
  rw [(frameHeard_stores s switch).sameSpan (by decide), readStores_span, hf, hnode]
  split
  · unfold Span.read
    dsimp only
    cases (s.span n).store <;> rfl
  · rfl

theorem frameHeard_record (s : State) (switch : Table 512 ChannelInput) (n : SpanNo) :
    ((s.frameHeard switch).span n).record = (s.span n).record := by
  rw [frameHeard_span]
  dsimp only
  split
  · split <;> rfl
  · rfl

theorem frameHeard_transmit (s : State) (switch : Table 512 ChannelInput) (n : SpanNo) :
    ((s.frameHeard switch).span n).transmit = ((s.frameSent switch).span n).transmit := by
  rw [frameHeard_span]

/-- R6, R7, R85, R109 to R111: what a running part sends in a frame. -/
theorem frameWork_transmitted (s : State) (switch : Table 512 ChannelInput) :
    Transmitted switch (s.fc + 1) s (s.frameWork switch) := by
  have hcodes := takeSwitchCodes_frame s.counted switch
  have hcircuit := fun c => (hcodes.sameCircuit (by decide) c).trans (counted_circuit s c)
  have hsent : Transmitted switch (s.fc + 1) s (s.frameSent switch) := by
    refine (transmitFrame_spec (s.counted.takeSwitchCodes switch) switch).of_start (fun _ => rfl) (fun x => ?_) (fun n => ?_) rfl
      (fun i => ?_) rfl rfl
    · simp only [State.sentOnCopper, hcircuit]; rfl
    · simp only [State.sentOnFibre, hcircuit, Circuit.tick, ne_eq, FibreTransmit.tick_off]; rfl
    · rw [hcodes.sameLane (by decide), counted_lane]
  refine hsent.of_end (frameWork_sent s switch) (fun n => ?_) (by decide) (by decide) (by decide) (by decide)
  rw [(frameWork_heard s switch).sameSpan (by decide), frameHeard_transmit]

/-! ### The slots and the rings (R54, R101 to R103) -/

theorem slotNow_eq (s : State) (n : SlotNo) : s.slotNow n = s.heardOnSlot n := by
  unfold State.slotNow State.heardOnSlot
  by_cases hdown : (s.lane s.lanes.working).state = .down
  · rw [if_pos hdown, if_neg fun h => (framed_iff _).mp h hdown]
    rfl
  · rw [if_neg hdown, if_pos ((framed_iff _).mpr hdown)]

/-- What is heard on a slot rests on the working lane, the states and contents of the lanes, and the idle code. -/
theorem heardOnSlot_congr (hworking : t.lanes.working = s.lanes.working) (hnode : t.node = s.node)
    (hlane : ∀ i, (t.lane i).state = (s.lane i).state ∧ (t.lane i).content = (s.lane i).content) (n : SlotNo) :
    t.heardOnSlot n = s.heardOnSlot n := by
  obtain ⟨hstate, hcontent⟩ := hlane s.lanes.working
  rw [State.heardOnSlot, hworking, hstate, hcontent, hnode]
  rfl

/-- The frame's content of a slot and the states of the lanes stand after the frame is sent as it found them. -/
theorem frameSent_content {l : List Block} (hf : SameBut l (s.frameSent switch) t) (hlanes : Block.laneRecords ∉ l)
    (hselection : Block.selection ∉ l) (hnode : Block.node ∉ l) :
    (∀ n, t.heardOnSlot n = s.heardOnSlot n) ∧ (t.lanes.anyUp = true ↔ s.fibreUp) := by
  have hsent : SameBut _ s.counted (s.frameSent switch) := frameSent_frame s switch
  have hlane : ∀ i, (t.lane i).state = (s.lane i).state ∧ (t.lane i).content = (s.lane i).content := fun i => by
    obtain ⟨f, hlane⟩ := frameSent_lane s switch i
    rw [hf.sameLane hlanes, hlane]
    exact ⟨rfl, rfl⟩
  have hworking : t.lanes.working = s.lanes.working := (hf _ hselection).1.trans (hsent .selection (by decide)).1
  have hidle : t.node = s.node :=
    (hf.sameNode hnode).trans ((hsent.sameNode (by decide)).trans ((counted_frame s).sameNode (by decide)))
  refine ⟨heardOnSlot_congr hworking hidle hlane, ?_⟩
  rw [anyUp_iff, State.fibreUp]
  exact iff_of_eq (congrArg₂ (fun x y => x = LaneState.up ∨ y = LaneState.up) (hlane .a).1 (hlane .b).1)

theorem takeSlots_slots (s : State) : s.takeSlots.lanes.slotsBefore = s.lanes.slots ∧
    (s.lanes.anyUp = true → ∀ n, s.takeSlots.lanes.slots.get n = (s.lanes.slots.get n).hear (s.heardOnSlot n)) ∧
    (s.lanes.anyUp ≠ true → s.takeSlots.lanes.slots = s.lanes.slots) := by
  refine ⟨rfl, fun hup n => ?_, fun hup => if_neg hup⟩
  have hslots : s.takeSlots.lanes.slots = s.lanes.slots.mapIdx fun n r => r.hear (s.slotNow n) := if_pos hup
  rw [hslots, Table.get_mapIdx, slotNow_eq]

/-- R54: one cell of the ring of each circuit with a fibre attachment, while a lane is UP. -/
theorem writeRings_ring (s : State) (c : CircuitNo) : (s.writeRings).ring c =
    if s.lanes.anyUp = true then
      (match (s.circuit c).fibre with
        | some n => (s.ring c).set (ringCell s.fc) (s.heardOnSlot n).sample
        | none => s.ring c)
    else s.ring c := by
  unfold State.writeRings
  split
  · simp only [State.ring, State.setAlign_align, Table.get_mapIdx, slotNow_eq]
    rfl
  · rfl

theorem frameWork_slots (s : State) (switch : Table 512 ChannelInput) :
    (s.frameWork switch).lanes.slotsBefore = s.lanes.slots ∧
    (s.fibreUp → ∀ n, (s.frameWork switch).lanes.slots.get n = (s.lanes.slots.get n).hear (s.heardOnSlot n)) ∧
    (¬ s.fibreUp → (s.frameWork switch).lanes.slots = s.lanes.slots) := by
  obtain ⟨hcontent, hup⟩ := frameSent_content (readStores_frame (s.frameSent switch)) (by decide) (by decide) (by decide)
  have hfound : (s.frameSent switch).readStores.lanes.slots = s.lanes.slots :=
    ((readStores_frame _) .slots (by decide)).1.trans
      (((frameSent_frame s switch) .slots (by decide)).1.trans ((counted_frame s) .slots (by decide)).1)
  have hlast : SameBut [.rings, .matchers, .routes] (s.frameSent switch).readStores.takeSlots (s.frameWork switch) :=
    ((writeRings_frame _).mono (by decide)).trans ((frameWork_heard s switch).mono (by decide))
  obtain ⟨hslots, hbefore⟩ := hlast .slots (by decide)
  obtain ⟨htaken, hheard, hkept⟩ := takeSlots_slots (s.frameSent switch).readStores
  simp only [hcontent, hfound] at htaken hheard hkept
  rw [hslots, hbefore]
  exact ⟨htaken, fun h => hheard (hup.mpr h), fun h => hkept fun hu => h (hup.mp hu)⟩

theorem frameHeard_ring (s : State) (switch : Table 512 ChannelInput) (c : CircuitNo) :
    (∀ n, s.fibreUp → (s.circuit c).fibre = some n →
      (s.frameHeard switch).ring c = (s.ring c).set (ringCell (s.fc + 1)) (s.heardOnSlot n).sample) ∧
    (¬ s.fibreUp ∨ (s.circuit c).fibre = none → (s.frameHeard switch).ring c = s.ring c) := by
  have hslots : SameBut [.spans, .slots] (s.frameSent switch) (s.frameSent switch).readStores.takeSlots :=
    ((readStores_frame _).mono (by decide)).trans ((takeSlots_frame _).mono (by decide))
  have hcounted : SameBut [.channels, .routes, .spans, .laneRecords, .overhead, .sending, .slots] s.counted
      (s.frameSent switch).readStores.takeSlots := ((frameSent_frame s switch).mono (by decide)).trans (hslots.mono (by decide))
  obtain ⟨hcontent, hup⟩ := frameSent_content hslots (by decide) (by decide) (by decide)
  have hring := writeRings_ring (s.frameSent switch).readStores.takeSlots c
  rw [hcounted.sameCircuit (by decide), counted_circuit, hcounted.sameRing (by decide), (counted_frame s).sameRing (by decide),
    hcounted.sameClock (by decide)] at hring
  simp only [hcontent] at hring
  refine ⟨fun n hfibre hn => hring.trans ?_, fun hnone => hring.trans ?_⟩
  · rw [if_pos (hup.mpr hfibre), show (s.circuit c).tick.fibre = some n from hn]
    rfl
  · rcases hnone with hdark | hnone
    · exact if_neg fun h => hdark (hup.mp h)
    · rw [show (s.circuit c).tick.fibre = none from hnone]
      exact ite_self _

/-! ### The units (R60 to R62, R65) -/

theorem frameWork_unit (s : State) (switch : Table 512 ChannelInput) (v : UnitNo) : (s.frameWork switch).unit v =
    (s.frameHeard switch).frameUnits.flagClearUnit (s.frameHeard switch).slotNow ((s.frameHeard switch).frameUnit (s.unit v)) := by
  have hunits : (s.frameHeard switch).align.units = s.align.units :=
    (frameHeard_frame s switch .matchers (by decide)).trans
      ((frameSent_frame s switch .matchers (by decide)).trans (counted_frame s .matchers (by decide)))
  rw [frameWork_eq, (selectRoutes_frame _).sameUnit (by decide)]
  simp only [State.flagClearUnits, State.frameUnits, State.setAlign_unit, State.setAlign_align, Table.get_map, hunits]
  rfl

theorem frameWork_units (s : State) (switch : Table 512 ChannelInput) (v : UnitNo) :
    ((s.unit v).circuit = none → (s.frameWork switch).unit v = s.unit v) ∧
    ∀ c, (s.unit v).circuit = some c → UnitFrame s (s.frameWork switch) c (s.unit v) ((s.frameWork switch).unit v) := by
  rw [frameWork_unit]
  refine ⟨fun hnone => ?_, fun c hc => ?_⟩
  · rw [State.frameUnit, hnone]
    exact flagClearUnit_resting _ (.inl hnone)
  · have hheard := frameWork_heard s switch
    have hcircuit : (s.frameHeard switch).circuit c = (s.circuit c).tick :=
      ((frameHeard_frame s switch).sameCircuit (by decide) c).trans
        (((frameSent_frame s switch).sameCircuit (by decide) c).trans (counted_circuit s c))
    obtain ⟨hcontent, -⟩ := frameSent_content (frameHeard_frame s switch) (by decide) (by decide) (by decide)
    refine frameUnit_spec hc (hheard.sameClock (by decide)).symm ?_ (hheard.sameRing (by decide) c).symm
      (by rw [hcircuit]; rfl) ?_ fun n => (slotNow_eq _ n).trans (hcontent n)
    · simp only [State.heardOnCopper, hheard.sameCircuit (show Block.circuits ∉ [.matchers, .routes] by decide),
        hheard.sameSpan (show Block.spans ∉ [.matchers, .routes] by decide),
        hheard.sameNode (show Block.node ∉ [.matchers, .routes] by decide)]
    · simp only [State.recordOf, hcircuit, frameHeard_record]
      rfl

/-! ### The routes (R8, R15, R56) -/

theorem selectRoutes_route (s : State) (c : CircuitNo) : s.selectRoutes.highway.route.get c = s.routeOf c := by
  simp only [State.selectRoutes, State.setHighway_highway, Table.get_ofFn]

theorem selectRoutes_fibreRoute (s : State) (c : CircuitNo) :
    s.selectRoutes.highway.fibreRoute.get c = (s.circuit c).fibreRoute := by
  simp only [State.selectRoutes, State.setHighway_highway, Table.get_ofFn]

theorem fibreRoute_eq (r : Circuit) : r.fibreRoute =
    (match r.state, r.fibre with
      | .fibre, some n => some ⟨n, r.buildOut⟩
      | _, _ => none) := by
  unfold Circuit.fibreRoute
  cases r.state <;> cases r.fibre <;> rfl

/-- The far-end condition shown rests on the spans and the slots, and on the state and the attachments of the record. -/
theorem farShown_congr {r q : Circuit} (hspan : ∀ n, t.span n = s.span n) (hslots : t.lanes.slots = s.lanes.slots)
    (hstate : r.state = q.state) (hfibre : r.fibre = q.fibre) (hcopper : r.copper = q.copper) : t.farShown r = s.farShown q := by
  simp only [State.farShown, State.farBy, State.copperCondition, hspan, hslots, hstate, hfibre, hcopper]

theorem heardOnCopper_congr {c : CircuitNo} (hspan : ∀ n, t.span n = s.span n) (hcircuit : t.circuit c = s.circuit c)
    (hnode : t.node = s.node) : t.heardOnCopper c = s.heardOnCopper c := by
  simp only [State.heardOnCopper, hspan, hcircuit, hnode]

/-- R8, R15, R56: the route selected for a circuit, told by the state with its routes selected. -/
theorem selectRoutes_eq (s : State) (c : CircuitNo) : s.selectRoutes.highway.route.get c =
    (match (s.circuit c).state with
      | .vacant => ⟨s.node.idleCode, .blocked⟩
      | .fibre => ⟨(s.selectRoutes.ring c).get (ringCell (s.selectRoutes.fc - BitVec.ofNat 32 (s.circuit c).buildOut)),
          s.selectRoutes.farShown (s.circuit c)⟩
      | .copper | .proposing | .awaiting | .measuring | .aligned =>
        ⟨s.selectRoutes.heardOnCopper c, s.selectRoutes.farShown (s.circuit c)⟩) := by
  have hroutes := selectRoutes_frame s
  have hspan := hroutes.sameSpan (by decide)
  have hcopper : s.selectRoutes.heardOnCopper c = s.copperSampleOf c :=
    (heardOnCopper_congr hspan (hroutes.sameCircuit (by decide) c) (hroutes.sameNode (by decide))).trans (copperSampleOf_eq s c).symm
  rw [selectRoutes_route, State.routeOf, farShown_congr hspan (hroutes .slots (by decide)).1 rfl rfl rfl, hcopper,
    hroutes.sameRing (by decide), hroutes.sameClock (by decide)]
  cases (s.circuit c).state <;> rfl

theorem frameWork_routes (s : State) (switch : Table 512 ChannelInput) (c : CircuitNo) :
    (s.frameWork switch).highway.route.get c =
      (match (s.circuit c).state with
        | .vacant => ⟨s.node.idleCode, .blocked⟩
        | .fibre => ⟨((s.frameWork switch).ring c).get (ringCell ((s.frameWork switch).fc - BitVec.ofNat 32 (s.circuit c).buildOut)),
            (s.frameWork switch).farShown (s.circuit c)⟩
        | .copper | .proposing | .awaiting | .measuring | .aligned =>
          ⟨(s.frameWork switch).heardOnCopper c, (s.frameWork switch).farShown (s.circuit c)⟩) ∧
    (s.frameWork switch).highway.fibreRoute.get c =
      (match (s.circuit c).state, (s.circuit c).fibre with
        | .fibre, some n => some ⟨n, (s.circuit c).buildOut⟩
        | _, _ => none) := by
  have hcircuit := frameWork_circuit s switch c
  have hnode := (frameWork_frame s switch).sameNode (by decide)
  rw [frameWork_eq] at hcircuit hnode ⊢
  rw [(selectRoutes_frame _).sameCircuit (by decide)] at hcircuit
  rw [(selectRoutes_frame _).sameNode (by decide)] at hnode
  have hshown : ∀ k : State, k.farShown (s.circuit c).tick = k.farShown (s.circuit c) := fun k =>
    farShown_congr (fun _ => rfl) rfl rfl rfl rfl
  rw [selectRoutes_eq, selectRoutes_fibreRoute, fibreRoute_eq, hcircuit, hnode, hshown]
  exact ⟨rfl, rfl⟩

/-! ### What a site frame of a running part does (R113) -/

theorem frameWork_channels (s : State) (switch : Table 512 ChannelInput) : (s.frameWork switch).highway.channels =
    s.highway.channels.mapIdx fun c r => r.take (switch.get c).code :=
  (frameWork_sent s switch .channels (by decide)).trans (transmitFrame_frame (s.counted.takeSwitchCodes switch) switch .channels (by decide))

theorem frameWork_idleCode (s : State) (switch : Table 512 ChannelInput) : (s.frameWork switch).highway.idleCode = s.node.idleCode := by
  have hsent := (transmitFrame_frame (s.counted.takeSwitchCodes switch) switch .routes (by decide)).2.2
  have hheard := (frameHeard_frame s switch .routes (by decide)).2.2
  have hunits := (frameUnits_frame (s.frameHeard switch) .routes (by decide)).2.2
  have hflags := (flagClearUnits_frame (s.frameHeard switch).frameUnits (s.frameHeard switch).slotNow .routes (by decide)).2.2
  rw [frameWork_eq, State.selectRoutes, State.setHighway_highway, hflags, hunits, hheard]
  exact hsent.trans (congrArg (·.idleCode) ((counted_frame s).sameNode (by decide)))

/-- The counts of the lanes, the matcher pause and the peer link in a frame, and what stands beside them. -/
theorem frameWork_counts (s : State) (switch : Table 512 ChannelInput) :
    (s.frameWork switch).lanes.holdOff = s.lanes.holdOff.tick ∧ (s.frameWork switch).lanes.duplicate = s.lanes.duplicate.tick ∧
    (s.frameWork switch).align.pause = s.align.pause.tick ∧ (s.frameWork switch).peer.hello = s.peer.hello.map Countdown.tick ∧
    (s.frameWork switch).peer.silence = s.peer.silence.map Countdown.tick ∧
    (s.frameWork switch).peer.response = s.peer.response.map fun t => t.map Countdown.tick := by
  have hcounted := frameWork_counted s switch
  obtain ⟨-, -, hholdOff, -⟩ := hcounted .selection (by decide)
  obtain ⟨-, hduplicate⟩ := hcounted .reception (by decide)
  obtain ⟨-, hhello, hsilence, -, -⟩ := hcounted .link (by decide)
  exact ⟨hholdOff, hduplicate, hcounted .pause (by decide), hhello, hsilence, hcounted .responses (by decide)⟩

theorem frameWork_untimed (s : State) (switch : Table 512 ChannelInput) :
    (s.frameWork switch).lanes.working = s.lanes.working ∧ (s.frameWork switch).lanes.timing = s.lanes.timing ∧
    (s.frameWork switch).lanes.holdOffSeconds = s.lanes.holdOffSeconds ∧
    (s.frameWork switch).lanes.lastSequence = s.lanes.lastSequence ∧ (s.frameWork switch).peer.state = s.peer.state ∧
    (s.frameWork switch).peer.heard = s.peer.heard ∧ (s.frameWork switch).peer.qualified = s.peer.qualified := by
  have hcounted := frameWork_counted s switch
  obtain ⟨hworking, hseconds, -, htiming⟩ := hcounted .selection (by decide)
  obtain ⟨hsequence, -⟩ := hcounted .reception (by decide)
  obtain ⟨hstate, -, -, hheard, hqualified⟩ := hcounted .link (by decide)
  exact ⟨hworking, htiming, hseconds, hsequence, hstate, hheard, hqualified⟩

/-- R86: the stores of a frame. -/
theorem frameWork_span (s : State) (switch : Table 512 ChannelInput) (n : SpanNo) : ∃ f, (s.frameWork switch).span n =
    { (if (s.span n).state = .up then
        (match (s.span n).store with
          | frame :: rest => { s.span n with store := rest, last := some frame, current := frame }
          | [] => { s.span n with current := (s.span n).last.getD (.fill s.node.idleCode) })
      else s.span n) with transmit := f } :=
  ⟨_, ((frameWork_heard s switch).sameSpan (by decide) n).trans (frameHeard_span s switch n)⟩

theorem frameWork_lane (s : State) (switch : Table 512 ChannelInput) (i : Lane) :
    CountedIfAny (s.lane i).interval ((s.frameWork switch).lane i).interval ∧ (s.frameWork switch).lane i =
      { s.lane i with interval := ((s.frameWork switch).lane i).interval, transmit := ((s.frameWork switch).lane i).transmit } := by
  obtain ⟨f, hlane⟩ := frameSent_lane s switch i
  rw [(frameWork_sent s switch).sameLane (by decide), hlane]
  exact ⟨map_tick_counted _, rfl⟩

theorem frameWork_port (s : State) (switch : Table 512 ChannelInput) (p : Port) :
    CountedIfAny (s.port p).interByte ((s.frameWork switch).port p).interByte ∧
    (s.frameWork switch).port p = { s.port p with interByte := ((s.frameWork switch).port p).interByte } := by
  rw [(frameWork_counted s switch).samePort (by decide), counted_port]
  exact ⟨map_tick_counted _, rfl⟩

theorem frameWork_ring (s : State) (switch : Table 512 ChannelInput) (c : CircuitNo) :
    (∀ n, s.fibreUp → (s.circuit c).fibre = some n → ∀ j, ((s.frameWork switch).ring c).get j =
      if j = ringCell (s.frameWork switch).fc then (s.heardOnSlot n).sample else (s.ring c).get j) ∧
    (¬ s.fibreUp ∨ (s.circuit c).fibre = none → (s.frameWork switch).ring c = s.ring c) := by
  obtain ⟨hwritten, hkept⟩ := frameHeard_ring s switch c
  rw [(frameWork_heard s switch).sameRing (by decide), (frameWork_counted s switch).sameClock (by decide)]
  refine ⟨fun n hup hn j => ?_, hkept⟩
  rw [hwritten n hup hn, Table.get_set]
  simp only [eq_comm]
  rfl

/-- R148, R153: the directory's bucket of the frame. -/
theorem Walk.tick_eq (w : Walk) : w.tick =
    (match w with
      | .rangeCheck next _ port tag e found => .rangeCheck next (decide (next < 128)) port tag e found
      | .purge next _ port tag removed => .purge next (decide (next < 128)) port tag removed
      | .idle => .idle) := by cases w <;> rfl

/-! ### What a site frame of a running part does (R113) -/

/-- R113: the work of a site frame of a running part. -/
theorem frameTaken (s : State) (switch : Table 512 ChannelInput) : FrameTaken switch s (s.frameWork switch) where
  clock := (frameWork_counted s switch).sameClock (by decide)
  circuits c := (frameWork_circuit s switch c).symm ▸ (s.circuit c).tick_counted
  sent := frameWork_transmitted s switch
  channels c := by
    rw [frameWork_channels, Table.get_mapIdx]
    exact take_heard ..
  stores := frameWork_span s switch
  lanes := frameWork_lane s switch
  timers := by
    obtain ⟨hholdOff, hduplicate, hpause, hhello, hsilence, hresponse⟩ := frameWork_counts s switch
    simp only [hholdOff, hduplicate, hpause, hhello, hsilence, hresponse, Table.get_map]
    exact ⟨Countdown.tick_counted _, Countdown.tick_counted _, Countdown.tick_counted _, map_tick_counted _, map_tick_counted _,
      fun c => map_tick_counted _⟩
  untimed := frameWork_untimed s switch
  slots := by
    obtain ⟨hbefore, hheard, hkept⟩ := frameWork_slots s switch
    refine ⟨fun hup n => ?_, hkept, hbefore⟩
    rw [hheard hup n]
    exact ⟨take_heard .., take_flagHeard ..⟩
  rings := frameWork_ring s switch
  units := frameWork_units s switch
  routes c := (frameWork_routes s switch c).1
  fibreRoutes c := (frameWork_routes s switch c).2
  idle := frameWork_idleCode s switch
  walk := (frameWork_counted s switch .walk (by decide)).trans (Walk.tick_eq _)
  ports := frameWork_port s switch
  frame := frameWork_frame s switch

/-! ### The empty stores of a frame (R86) -/

theorem read_repeats (u : Span) (idle : Byte) : (u.read idle).2 = true ↔ u.store = [] := by
  unfold Span.read
  cases u.store <;> simp

theorem repeating_eq (s : State) :
    s.repeating = (List.finRange 16).filter fun n => (s.span n).state = .up ∧ (s.span n).store = [] := by
  simp only [State.repeating, read_repeats]

/-! ### A frame of start-up (R175, R14) -/

theorem startUpFrame_frame (s : State) : SameBut [.startUp, .ports] s s.startUpFrame :=
  .of_forall fun b => by cases b <;> simp [Block.same, State.startUpFrame, Links.tickBytes]

theorem startUpFrame_port (s : State) (p : Port) :
    s.startUpFrame.port p = { s.port p with interByte := (s.port p).interByte.map Countdown.tick } := by cases p <;> rfl

theorem execSiteFrame_startUp (h : s.running = false) (switch : Table 512 ChannelInput) :
    exec (.siteFrame switch) s = .next
      (if s.startUpFrame.links.startUp.due then s.startUpFrame.takeSwitchCodes switch else s.startUpFrame) := by
  change execSiteFrame switch s = _
  rw [execSiteFrame, h, if_neg Bool.false_ne_true]
  split <;> rfl

/-- R175: start-up remaining and the inter-byte timers run in a frame of start-up, whose last takes the switch's codes (R14). -/
theorem siteFrame_startUp (h : s.running = false) (switch : Table 512 ChannelInput) :
    Happens s (.siteFrame switch) [.startUp, .ports, .channels, .routes] fun t =>
      Counted s.links.startUp t.links.startUp ∧ t.links.resetCause = s.links.resetCause ∧
      (t.links.startUp.due = false → t.highway = s.highway) ∧
      (t.links.startUp.due = true → t.highway.route = s.highway.route ∧ t.highway.fibreRoute = s.highway.fibreRoute ∧
        t.highway.idleCode = s.node.idleCode ∧
        ∀ c, Heard (switch.get c).code (s.highway.channels.get c) (t.highway.channels.get c)) ∧
      ∀ p, CountedIfAny (s.port p).interByte (t.port p).interByte ∧
        t.port p = { s.port p with interByte := (t.port p).interByte } := by
  have hports : ∀ p, CountedIfAny (s.port p).interByte (s.startUpFrame.port p).interByte ∧
      s.startUpFrame.port p = { s.port p with interByte := (s.startUpFrame.port p).interByte } := fun p => by
    rw [startUpFrame_port]
    exact ⟨map_tick_counted _, rfl⟩
  refine ⟨_, execSiteFrame_startUp h switch, ?_⟩
  by_cases hdue : s.startUpFrame.links.startUp.due = true
  · rw [if_pos hdue]
    have hcodes := takeSwitchCodes_frame s.startUpFrame switch
    obtain ⟨hstartUp, hcause⟩ := hcodes .startUp (by decide)
    obtain ⟨hroute, hfibreRoute, hidle⟩ := takeSwitchCodes_routes s.startUpFrame switch
    have hhighway : s.startUpFrame.highway = s.highway := rfl
    refine ⟨((startUpFrame_frame s).mono (by decide)).trans (hcodes.mono (by decide)), ?_⟩
    simp only [hstartUp, hcause, hcodes.samePort (show Block.ports ∉ [.channels, .routes] by decide), takeSwitchCodes_channel, hroute,
      hfibreRoute, hidle, hhighway]
    exact ⟨s.links.startUp.tick_counted, rfl, fun hnot => absurd hdue (by simp [hnot]),
      fun _ => ⟨trivial, trivial, rfl, fun c => take_heard ..⟩, hports⟩
  · rw [if_neg hdue]
    exact ⟨(startUpFrame_frame s).mono (by decide), s.links.startUp.tick_counted, rfl, fun _ => rfl, fun hnow => absurd hnow hdue, hports⟩

end Sys2Proof.Machine
end

section
/-! SUPPORT. The site frame: the end of start-up (R175, R178), and what a SITE_FRAME does in each part of a part's life. -/

namespace Sys2Proof.Machine

variable {s t u : State} {switch : Table 512 ChannelInput}

/-! ### The ports begin to take commands (R178) -/

theorem portRefusal_eq (port : Port) (type : Byte) : portRefusal port type =
    if commandClass type = none then .unknownType
    else if port = .craft ∧ commandClass type = some .provision then .authority else .format := by
  simp only [portRefusal, lacksAuthority, Bool.and_eq_true, beq_iff_eq]

/-- R178: the refusal of a head that spells no command, written to its port. -/
theorem refuseHead_eq (s : State) (port : Port) (q : QueuedCommand) (rest : List QueuedCommand) (result : ResultCode)
    (body : ReplyBody) : (s.takeHead port q rest).reply port result body =
      s.setPort port ((s.port port).answeredWith q rest result body) := by
  cases port <;> simp [State.takeHead, State.reply, PortRecord.answeredWith] <;> rfl

/-- R178: a port of a running part comes to its head. -/
theorem takeRefused_running (h : s.running = true) (port : Port) :
    s.takeRefused port = s.setPort port ((s.port port).settled port) := by
  have hself : s.setPort port (s.port port) = s := by cases port <;> rfl
  unfold State.takeRefused PortRecord.settled
  cases (s.port port).input with
  | nil => exact hself.symm
  | cons q rest =>
    have hfree : s.mayTake port = true ↔ (s.port port).slot = none := by simp [State.mayTake, h]
    simp only [hfree, refuseHead_eq, portRefusal_eq]
    split
    · rfl
    · exact hself.symm

theorem takeRefused_frame (h : s.running = true) (port : Port) : SameBut [.ports] s (s.takeRefused port) := by
  rw [takeRefused_running h]
  exact setPort_frame s port _

/-! ### The end of start-up (R175) -/

/-- The part with start-up ended, before its first frame. -/
def State.awake (s : State) : State := s.setLinks { s.links with startUp := .load 0 }

/-- The part once its first frame is sent and the START report is handed. -/
def State.started (s : State) : State :=
  (s.awake.transmitFrame (quietSwitch s.node.idleCode)).handReport
    (.start s.links.resetCause s.links.primary.rate s.links.craft.rate)

theorem execStartUpEnd_due (h : s.links.startUp.due = true) :
    exec .startUpEnd s = .next ((s.started.takeRefused .primary).takeRefused .craft) :=
  if_pos h

theorem execStartUpEnd_rest (h : s.links.startUp.due = false) : exec .startUpEnd s = .next s :=
  if_neg (by simp [h])

theorem awake_frame (s : State) : SameBut [.startUp] s s.awake :=
  .of_forall fun b => by cases b <;> simp [Block.same, State.awake]

theorem started_frame (s : State) : SameBut [.startUp, .spans, .laneRecords, .overhead, .sending, .reports] s s.started :=
  (((awake_frame s).mono (by decide)).trans ((transmitFrame_frame _ _).mono (by decide))).trans
    ((handReport_frame _ _).mono (by decide))

theorem started_startUp (s : State) : s.started.links.startUp = ⟨0, false⟩ ∧ s.started.links.resetCause = s.links.resetCause :=
  handReport_frame (s.awake.transmitFrame (quietSwitch s.node.idleCode)) _ .startUp (by decide)

theorem started_running (s : State) : s.started.running = true := by
  obtain ⟨hstartUp, -⟩ := started_startUp s
  rw [State.running, hstartUp]
  rfl

theorem started_ports (s : State) : SameBut [.ports] s.started ((s.started.takeRefused .primary).takeRefused .craft) := by
  have hprimary := takeRefused_frame (started_running s) .primary
  obtain ⟨hstartUp, -⟩ := hprimary .startUp (by decide)
  have hrunning : (s.started.takeRefused .primary).running = true := by
    rw [State.running, hstartUp]
    exact started_running s
  exact hprimary.trans (takeRefused_frame hrunning .craft)

/-- R178: at the end of start-up each port comes to its head. -/
theorem started_port (s : State) (port : Port) :
    ((s.started.takeRefused .primary).takeRefused .craft).port port = (s.port port).settled port := by
  have hport : ∀ p, s.started.port p = s.port p := (started_frame s).samePort (by decide)
  have hprimary := takeRefused_running (started_running s) .primary
  have hrunning : (s.started.takeRefused .primary).running = true := by
    rw [hprimary]
    exact started_running s
  rw [takeRefused_running hrunning, hprimary]
  cases port with
  | primary => simp [hport]
  | craft => simp [hport]

/-- R175: the first frame of the part, FC as reset left it. -/
theorem started_transmitted (s : State) : Transmitted (.fill ⟨s.node.idleCode, .idle⟩) s.fc s s.started := by
  have hsent : Transmitted (quietSwitch s.node.idleCode) s.fc s (s.awake.transmitFrame (quietSwitch s.node.idleCode)) :=
    (transmitFrame_spec s.awake (quietSwitch s.node.idleCode)).of_start (fun _ => rfl) (fun _ => rfl) (fun _ => rfl) rfl
      (fun _ => rfl) rfl rfl
  have hreport : SameBut [.reports] (s.awake.transmitFrame (quietSwitch s.node.idleCode)) s.started := handReport_frame _ _
  exact hsent.of_end hreport (fun n => by rw [hreport.sameSpan (by decide)]) (by decide) (by decide) (by decide) (by decide)

theorem started_span (s : State) (n : SpanNo) : s.started.span n = { s.span n with transmit := (s.started.span n).transmit } := by
  rw [State.started, (handReport_frame _ _).sameSpan (by decide), transmitFrame_span]
  rfl

theorem LaneRecord.send_rest (l : LaneRecord) (f : LaneFrame) : l.send f = { l with transmit := (l.send f).transmit } := rfl

theorem started_lane (s : State) (i : Lane) : s.started.lane i = { s.lane i with transmit := (s.started.lane i).transmit } := by
  rw [State.started, (handReport_frame _ _).sameLane (by decide), transmitFrame_lane]
  exact LaneRecord.send_rest ..

/-- R175: START_UP_END sends the first frame, hands the START report, and lets the ports come to their heads. -/
theorem startUpEnd_due (h : s.links.startUp.due = true) :
    Happens s .startUpEnd [.startUp, .spans, .laneRecords, .overhead, .sending, .reports, .ports] fun t =>
      t.links.startUp = ⟨0, false⟩ ∧ t.links.resetCause = s.links.resetCause ∧
      Reported [.start s.links.resetCause (s.port .primary).rate (s.port .craft).rate] s t ∧
      Transmitted (.fill ⟨s.node.idleCode, .idle⟩) s.fc s t ∧
      (∀ n, t.span n = { s.span n with transmit := (t.span n).transmit }) ∧
      (∀ port, t.port port = (s.port port).settled port) ∧
      ∀ i, t.lane i = { s.lane i with transmit := (t.lane i).transmit } := by
  have hports := started_ports s
  obtain ⟨hstartUp, hcause⟩ := hports .startUp (by decide)
  obtain ⟨hended, hkept⟩ := started_startUp s
  have hsent : SameBut [.startUp, .spans, .laneRecords, .overhead, .sending] s (s.awake.transmitFrame (quietSwitch s.node.idleCode)) :=
    ((awake_frame s).mono (by decide)).trans ((transmitFrame_frame _ _).mono (by decide))
  have hreported := ((handReport_reported (s.awake.transmitFrame (quietSwitch s.node.idleCode))
    (.start s.links.resetCause s.links.primary.rate s.links.craft.rate)).after_frame hsent (by decide) (by decide)).of_frame hports
  refine ⟨_, execStartUpEnd_due h, ((started_frame s).mono (by decide)).trans (hports.mono (by decide)), hstartUp.trans hended,
    hcause.trans hkept, hreported (by decide), ?_, fun n => ?_, started_port s, fun i => ?_⟩
  · exact (started_transmitted s).of_end hports (fun n => by rw [hports.sameSpan (by decide)]) (by decide) (by decide) (by decide)
      (by decide)
  · rw [hports.sameSpan (by decide)]
    exact started_span s n
  · rw [hports.sameLane (by decide)]
    exact started_lane s i

/-! ### The site frame -/

/-- Settles O48: a running part's frame is its work (`frameTaken`), then the slip steps of the spans whose stores were empty; the frames
of start-up and its end are `siteFrame_startUp` and `startUpEnd_due`. -/
theorem siteFrame : Obligations.SiteFrame := by
  refine ⟨fun s switch hrunning => ⟨s.frameWork switch, frameTaken s switch, ?_⟩, fun s switch hstopped => siteFrame_startUp hstopped switch,
    fun s hdue => startUpEnd_due hdue, fun s hrest => execStartUpEnd_rest hrest⟩
  rw [← repeating_eq]
  exact if_pos hrunning

end Sys2Proof.Machine
end

section
/-! SUPPORT. PEER STATUS, QUERY MISS and LINK STATUS: what they carry, and what each clears when asked (R139, R156, R185). -/

namespace Sys2Proof.Machine

variable {s t : State} {port : Port} {q : QueuedCommand} {rest : List QueuedCommand}

/-! ### PEER STATUS (R139) -/

theorem responses_running (s : State) : (s.peer.response.data.filter Option.isSome).length =
    ((List.finRange 512).filter fun c => (s.peer.response.get c).isSome).length := Table.filter_data_length ..

theorem clearPeerCounts_frame (s : State) : SameBut [.peerCounts] s (s.setPeer s.peer.cleared) :=
  .of_forall fun b => by cases b <;> simp [Block.same, PeerEngine.cleared]

theorem peerStatus_spec (tag : Byte) (clear : Bool) (h : Heads s port (.peerStatus port tag clear) q rest) :
    Completes s (.peerStatus port tag clear) port q rest .ok (.peerStatus s.peerView) [.peerCounts] fun t =>
      if clear = true then Block.peerCounts.same (s.setPeer s.peer.cleared) t else Block.peerCounts.same s t := by
  have hauth := h.authority (by nofun)
  cases clear with
  | true => exact completes_of_rule rfl h hauth rfl (clearPeerCounts_frame _) (by decide) fun u hu => hu .peerCounts (by decide)
  | false => exact completes_of_rule rfl h hauth rfl (.refl _ _) (by decide) fun u hu => hu .peerCounts (by decide)

/-! ### QUERY MISS (R156) -/

theorem clearMiss_frame (s : State) : SameBut [.misses] s s.clearMiss :=
  .of_forall fun b => by cases b <;> simp [Block.same, State.clearMiss]

theorem queryMiss_spec (tag : Byte) (clear : Bool) (h : Heads s port (.queryMiss port tag clear) q rest) :
    Completes s (.queryMiss port tag clear) port q rest .ok (.miss s.directory.lastMiss s.directory.missCount) [.misses] fun t =>
      if clear = true then t.directory.lastMiss = none ∧ t.directory.missCount = 0 else Block.misses.same s t := by
  have hauth := h.authority (by nofun)
  cases clear with
  | true => exact completes_of_rule rfl h hauth rfl (clearMiss_frame _) (by decide) fun u hu => hu .misses (by decide)
  | false => exact completes_of_rule rfl h hauth rfl (.refl _ _) (by decide) fun u hu => hu .misses (by decide)

/-! ### LINK STATUS (R185) -/

/-- R185: the part after a LINK STATUS has been taken, and before its reply. -/
def State.linkCleared (s : State) (clear : Bool) : State := if clear then s.setLinks s.links.cleared else s

theorem linkCleared_port (s : State) (clear : Bool) (p : Port) : (s.linkCleared clear).port p =
    if clear = true then { s.port p with counts := ⟨0, 0, 0, 0, 0, 0, 0⟩ } else s.port p := by
  cases clear <;> cases p <;> rfl

theorem linkCleared_reports (s : State) (clear : Bool) : (s.linkCleared clear).links.reports = s.links.reports ∧
    (s.linkCleared clear).links.lostFlag = s.links.lostFlag ∧
    (s.linkCleared clear).links.reportsLost = if clear = true then 0 else s.links.reportsLost := by
  cases clear <;> exact ⟨rfl, rfl, rfl⟩

theorem linkCleared_frame (s : State) (clear : Bool) : SameBut [.ports, .reports] s (s.linkCleared clear) := by
  cases clear with
  | true => exact .of_forall fun b => by cases b <;> simp [Block.same, State.linkCleared, Links.cleared]
  | false => exact .refl _ s

/-- R178: a reply for the command in the slot is a write of its port. -/
theorem reply_eq {e : ExecSlot} (h : (s.port port).slot = some e) (result : ResultCode) (body : ReplyBody) :
    s.reply port result body = s.setPort port { s.port port with
      output := (s.port port).output ++ [.reply e.tag e.type result body], slot := some { e with phase := .sending } } := by
  rw [State.reply, h]

/-- R185: the slot of the asking port is TAKEN in the reply, and its queue is the one behind the command. -/
theorem linkView_port (s : State) (port : Port) (q : QueuedCommand) (rest : List QueuedCommand) (p : Port) :
    ((s.takeHead port q rest).port p).view = ⟨(s.port p).rate, (s.port p).receiver.isSome,
      if p = port then rest.length else (s.port p).input.length, if p = port then some ⟨.taken, q.tag, q.type⟩ else (s.port p).slot,
      fullAnswers (s.port p).output, (s.port p).counts⟩ := by
  by_cases hp : p = port
  · subst hp; simp [PortRecord.view]
  · simp [PortRecord.view, State.takeHead, Ne.symm hp, hp]

/-- R185: the counts of the management links that the reply carries are those from before. -/
theorem linkView_eq (s : State) (port : Port) (q : QueuedCommand) (rest : List QueuedCommand) :
    (s.takeHead port q rest).linkView = .linkStatus ((s.takeHead port q rest).port .primary).view
      ((s.takeHead port q rest).port .craft).view s.links.reports.length s.links.lostFlag s.links.reportsLost s.links.resetCause := by
  cases port <;> rfl

/-- R185: LINK STATUS clears the counts of both ports beside its reply. -/
theorem linkStatus_port (s : State) (clear : Bool) (q : QueuedCommand) (rest : List QueuedCommand) (body : ReplyBody) (p : Port) :
    (((s.takeHead port q rest).linkCleared clear).reply port .ok body).port p =
      (let r := if p = port then (s.port p).answeredWith q rest .ok body else s.port p
       if clear = true then { r with counts := ⟨0, 0, 0, 0, 0, 0, 0⟩ } else r) := by
  have hport := linkCleared_port (s.takeHead port q rest) clear
  have hslot : (((s.takeHead port q rest).linkCleared clear).port port).slot = some ⟨.taken, q.tag, q.type⟩ := by
    rw [hport]; split <;> simp
  rw [reply_eq hslot]
  by_cases hp : p = port
  · subst hp
    rw [State.setPort_port_eq, hport, takeHead_port, if_pos rfl]
    cases clear <;> rfl
  · rw [State.setPort_port_ne _ _ (Ne.symm hp), hport, if_neg hp]
    simp [State.takeHead, Ne.symm hp]

theorem linkStatus_frame (s : State) (clear : Bool) (q : QueuedCommand) (rest : List QueuedCommand) (body : ReplyBody) :
    SameBut [.ports, .reports] s (((s.takeHead port q rest).linkCleared clear).reply port .ok body) := by
  have htaken := ((takeHead_frame s port q rest).mono (by decide)).trans (linkCleared_frame (s.takeHead port q rest) clear)
  unfold State.reply
  split
  · exact htaken.trans ((setPort_frame _ port _).mono (by decide))
  · exact htaken

theorem linkStatus_reports (s : State) (clear : Bool) (q : QueuedCommand) (rest : List QueuedCommand) (body : ReplyBody) :
    let t := ((s.takeHead port q rest).linkCleared clear).reply port .ok body
    t.links.reports = s.links.reports ∧ t.links.lostFlag = s.links.lostFlag ∧
      t.links.reportsLost = if clear = true then 0 else s.links.reportsLost := by
  have htake : Block.reports.same s (s.takeHead port q rest) := takeHead_frame s port q rest _ (by decide)
  obtain ⟨hreports, hflag, hlost⟩ := linkCleared_reports (s.takeHead port q rest) clear
  obtain ⟨hreports', hflag', hlost'⟩ := htake
  have hreply : Block.reports.same ((s.takeHead port q rest).linkCleared clear)
      (((s.takeHead port q rest).linkCleared clear).reply port .ok body) := by
    unfold State.reply
    split
    · exact setPort_frame _ port _ _ (by decide)
    · exact Block.same_refl _ _
  obtain ⟨hreports'', hflag'', hlost''⟩ := hreply
  exact ⟨by rw [hreports'', hreports, hreports'], by rw [hflag'', hflag, hflag'], by rw [hlost'', hlost, hlost']⟩

/-- Settles O24: each reply carries the values from before the clearing, and each clearing is one write. -/
theorem clearingQueries : Obligations.ClearingQueries := by
  intro s port tag clear q rest
  refine ⟨fun h => ?_, queryMiss_spec tag clear, fun h => ?_⟩
  · obtain ⟨t, hexec, hanswer, hframe, heffect⟩ := peerStatus_spec tag clear h
    rw [State.peerView, responses_running] at hanswer
    refine ⟨t, hexec, hanswer, hframe, ?_⟩
    cases clear with
    | false => exact heffect
    | true =>
      obtain ⟨hreceived, hdiscards, hdeclines, habandon, hrevert⟩ := heffect
      exact ⟨fun i => by rw [hreceived]; exact Table.get_fill 0 i, hdiscards, fun i => by rw [hdeclines]; exact Table.get_fill 0 i,
        habandon, hrevert⟩
  · obtain ⟨hreports, hflag, hlost⟩ := linkStatus_reports (port := port) s clear q rest (s.takeHead port q rest).linkView
    refine ⟨((s.takeHead port q rest).port .primary).view, ((s.takeHead port q rest).port .craft).view, _,
      runCommand_taken (ruleLinkStatus clear) h (h.authority (by nofun)), fun p v hv => ?_, fun p => ?_, hreports, hflag, hlost,
      linkStatus_frame s clear q rest _⟩
    · obtain rfl : v = ((s.takeHead port q rest).port p).view := by rcases hv with ⟨rfl, rfl⟩ | ⟨rfl, rfl⟩ <;> rfl
      rw [linkView_port]
      exact ⟨rfl, rfl, rfl, rfl, rfl, rfl⟩
    · rw [← linkView_eq]
      exact linkStatus_port s clear q rest _ p

end Sys2Proof.Machine
end

section
/-! SUPPORT. A received message: taken from the inbox and counted, then discarded, declined, or handed to the circuit that its code
resolves to (R124, R125, R144). -/

namespace Sys2Proof.Machine

variable {s t : State} {m : PeerMessage} {rest : List PeerMessage}

/-! ### The head of the inbox (R124) -/

/-- R124: the part as the rule of a received message finds it: the message taken, and its type counted. -/
def State.received (s : State) (m : PeerMessage) (rest : List PeerMessage) : State :=
  s.setPeer { s.peer with inbox := rest, received := s.peer.received.modify (messageIndex m) raise }

theorem takeMessage_head (h : s.peer.inbox = m :: rest) (rule : State → State) :
    takeMessage m rule s = .next (rule (s.received m rest)) := by
  unfold takeMessage
  rw [h]
  exact if_pos rfl

theorem received_spec (h : s.peer.inbox = m :: rest) : Received m rest s (s.received m rest) := by
  refine ⟨h, rfl, fun i => ?_, ⟨rfl, rfl, rfl, rfl⟩, .of_forall fun b => by cases b <;> simp [Block.same, State.received]⟩
  show (s.peer.received.modify (messageIndex m) raise).get i = _
  rw [Table.get_modify]
  by_cases hi : i = messageIndex m
  · subst hi; rfl
  · rw [if_neg hi, if_neg (Ne.symm hi)]

theorem Lawful.received (h : Lawful s) (m : PeerMessage) (rest : List PeerMessage) : Lawful (s.received m rest) := h.setPeer _

/-! ### Discards and declines (R124, R125) -/

theorem setDiscards_discarded (s : State) (d : DiscardCounts) : Discarded d s (s.setDiscards d) :=
  ⟨rfl, rfl, rfl, rfl, rfl, setDiscards_frame s d⟩

theorem countIgnored_spec (s : State) :
    Discarded { s.peer.discards with ignored := raise s.peer.discards.ignored } s s.countIgnored := setDiscards_discarded s _

theorem countUnresolved_spec (s : State) :
    Discarded { s.peer.discards with unresolved := raise s.peer.discards.unresolved } s s.countUnresolved := setDiscards_discarded s _

theorem countStale_spec (s : State) : Stale s s.countStale := setDiscards_discarded s _

theorem countInapplicable_spec (s : State) : Inapplicable s s.countInapplicable := setDiscards_discarded s _

theorem sendDecline_spec (s : State) (code : TrunkCode) (number : Byte) (reason : DeclineReason) :
    DeclineSent code number reason s (s.sendDecline code number reason) := by
  have hpeer : (s.sendDecline code number reason).peer = { s.peer with declines := s.peer.declines.modify (declineCode reason) raise } :=
    queueMessage_peer _ _
  have hcounted : SameBut [.peerCounts] s (s.setPeer { s.peer with declines := s.peer.declines.modify (declineCode reason) raise }) :=
    .of_forall fun b => by cases b <;> simp [Block.same]
  refine ⟨fun i => ?_, by rw [hpeer], by rw [hpeer], by rw [hpeer], by rw [hpeer], (queueMessage_sent _ _).after_frame hcounted (by decide),
    (sendDecline_frame s code number reason).mono (by decide)⟩
  rw [hpeer, Table.get_modify]
  by_cases hi : i = declineCode reason
  · subst hi; simp
  · rw [if_neg hi, if_neg (Ne.symm hi)]

/-! ### The circuit that a message names (R124, R144) -/

theorem recordMiss_spec (s : State) (code : TrunkCode) (m : PeerMessage) :
    SameBut [.misses] s (s.recordMiss code .peer (messageType m)) ∧
      (s.recordMiss code .peer (messageType m)).directory.missCount = raise s.directory.missCount ∧
      (s.recordMiss code .peer (messageType m)).directory.lastMiss = some ⟨code, .peer, BitVec.ofNat 8 ((messageIndex m).val + 1),
        (primaryBucket code).val, (secondaryBucket code).val, s.fc⟩ := ⟨recordMiss_frame s code _ _, rfl, rfl⟩

section
variable {code : TrunkCode} {miss : State → State} {rule : CircuitNo → State → State}

theorem dispatch_ignored (h : s.peer.state ≠ .up) : dispatch m code miss rule s = s.countIgnored := if_pos h

theorem dispatch_resolved {c : CircuitNo} {found : Found} (hup : s.peer.state = .up) (h : s.directory.lookup code = some (c, found)) :
    dispatch m code miss rule s = rule c s := by
  rw [dispatch, if_neg (not_not.mpr hup), h]

theorem dispatch_missed (hup : s.peer.state = .up) (h : s.directory.lookup code = none) :
    dispatch m code miss rule s = miss (s.recordMiss code .peer (messageType m)) := by
  rw [dispatch, if_neg (not_not.mpr hup), h]

/-- R124: a message whose code resolves to `c` is taken by its rule for that circuit. -/
theorem takeMessage_resolved {c : CircuitNo} {found : Found} (hin : s.peer.inbox = m :: rest) (hup : s.peer.state = .up)
    (h : s.directory.lookup code = some (c, found)) :
    takeMessage m (dispatch m code miss rule) s = .next (rule c (s.received m rest)) :=
  (takeMessage_head hin _).trans (congrArg Host.Outcome.next (dispatch_resolved (s := s.received m rest) hup h))

end

end Sys2Proof.Machine
end

section
/-! SUPPORT. The peer link: a HELLO judged in each state of the link, the HELLO timer, and the silence limit (R118 to R120, R122,
R123). -/

namespace Sys2Proof.Machine

variable {s t : State}

/-! ### The test of a HELLO (R119, R123) -/

/-- R123: the test that a failing HELLO names. -/
def failedTest (own node : Nat) : FailedTest := if node = 0 then .nodeZero else if node = own then .nodeEqual else .mode

theorem helloTest_good {own node : Nat} {ownMode mode : HandshakeMode} (h : node ≠ 0 ∧ node ≠ own ∧ mode = ownMode) :
    helloTest own ownMode node mode = none := by
  obtain ⟨h0, hown, hmode⟩ := h
  simp [helloTest, h0, hown, hmode]

theorem helloTest_bad {own node : Nat} {ownMode mode : HandshakeMode} (h : ¬ (node ≠ 0 ∧ node ≠ own ∧ mode = ownMode)) :
    helloTest own ownMode node mode = some (failedTest own node) := by
  unfold helloTest failedTest
  split
  · rfl
  · split
    · rfl
    · exact if_pos (by tauto)

/-! ### A HELLO judged, by the state of the link (R119, R122) -/

section
variable (s : State) {node : Nat} {mode : HandshakeMode}

theorem judgeHello_enters (hgood : node ≠ 0 ∧ node ≠ s.node.node ∧ mode = s.node.mode) (hst : s.peer.state ≠ .up) :
    s.judgeHello node mode = s.enterUp node mode := by
  cases h : s.peer.state with
  | up => exact absurd h hst
  | down => simp only [State.judgeHello, helloTest_good hgood, h]
  | mismatch => simp only [State.judgeHello, helloTest_good hgood, h]

theorem judgeHello_same (hgood : node ≠ 0 ∧ node ≠ s.node.node ∧ mode = s.node.mode) (hst : s.peer.state = .up)
    (hq : s.peer.qualified = some node) : s.judgeHello node mode = s := by
  simp only [State.judgeHello, helloTest_good hgood, hst]
  exact if_pos hq

theorem judgeHello_changed (hgood : node ≠ 0 ∧ node ≠ s.node.node ∧ mode = s.node.mode) (hst : s.peer.state = .up)
    (hq : s.peer.qualified ≠ some node) :
    s.judgeHello node mode = (s.leaveUp .down fun n => .down .peerChange s.heardNode n).enterUp node mode := by
  simp only [State.judgeHello, helloTest_good hgood, hst]
  exact if_neg hq

theorem judgeHello_down (hbad : ¬ (node ≠ 0 ∧ node ≠ s.node.node ∧ mode = s.node.mode)) (hst : s.peer.state = .down) :
    s.judgeHello node mode = (s.setPeer { s.peer with state := .mismatch }).handReport
      (.peer s.node.node s.node.mode (.mismatch (failedTest s.node.node node) node mode 0)) := by
  simp only [State.judgeHello, helloTest_bad hbad, hst]
  rfl

theorem judgeHello_mismatch (hbad : ¬ (node ≠ 0 ∧ node ≠ s.node.node ∧ mode = s.node.mode)) (hst : s.peer.state = .mismatch) :
    s.judgeHello node mode = s := by
  simp only [State.judgeHello, helloTest_bad hbad, hst]

theorem judgeHello_loses (hbad : ¬ (node ≠ 0 ∧ node ≠ s.node.node ∧ mode = s.node.mode)) (hst : s.peer.state = .up) :
    s.judgeHello node mode = s.leaveUp .mismatch fun n => .mismatch (failedTest s.node.node node) node mode n := by
  simp only [State.judgeHello, helloTest_bad hbad, hst]

end

theorem leaveUp_node (s : State) (after : LinkState) (kind : Nat → PeerReportKind) : (s.leaveUp after kind).node = s.node :=
  ((abandonAll_frame _).sameNode (by decide)).trans ((handReport_frame _ _).sameNode (by decide))

/-- R119, R123: the link enters UP with the peer node. -/
theorem enterUp_eq (s : State) (node : Nat) (mode : HandshakeMode) : s.enterUp node mode =
    (s.setPeer { s.peer with state := .up, qualified := some node }).handReport (.peer s.node.node s.node.mode (.up node mode)) := rfl

theorem leaveUp_enterUp (s : State) (kind : Nat → PeerReportKind) (node : Nat) (mode : HandshakeMode) :
    (s.leaveUp .down kind).enterUp node mode =
      ((s.leaveUp .down kind).setPeer { (s.leaveUp .down kind).peer with state := .up, qualified := some node }).handReport
        (.peer s.node.node s.node.mode (.up node mode)) := by
  rw [enterUp_eq, leaveUp_node]

/-- R119, R120: a valid HELLO is heard, and the silence limit starts again. -/
def State.heardHello (s : State) (node : Nat) (mode : HandshakeMode) : State :=
  s.setPeer { s.peer with heard := some ⟨node, mode, s.fc⟩, silence := some ⟨2400, false⟩ }

theorem heardHello_frame (s : State) (node : Nat) (mode : HandshakeMode) : SameBut [.link] s (s.heardHello node mode) :=
  setPeer_link_frame s s.peer.state s.peer.hello _ _ s.peer.qualified

/-- R119: a HELLO that is heard is judged once the own node number is set. -/
theorem takeHello_judged (h : s.node.node ≠ 0) {node : Nat} {mode : HandshakeMode} {judged : State}
    (hj : (s.heardHello node mode).judgeHello node mode = judged) : s.takeHello node mode = judged := (if_neg h).trans hj

/-- R118: the HELLO of the timer, which starts again. -/
theorem sendHello_spec (s : State) : SameBut [.link, .overhead] s s.sendHello ∧
    s.sendHello.peer = { s.peer with hello := some ⟨800, false⟩ } ∧ Sent [.hello s.node.node s.node.mode] s s.sendHello := by
  have hlink := setPeer_link_frame s s.peer.state (some ⟨800, false⟩) s.peer.silence s.peer.heard s.peer.qualified
  exact ⟨(hlink.mono (by decide)).trans ((queueMessage_frame _ _).mono (by decide)), queueMessage_peer _ _,
    (queueMessage_sent _ _).after_frame hlink (by decide)⟩

/-- Settles O49: a HELLO by the state of the link and the test that it fails, and the two timers. -/
theorem peerLink : Obligations.PeerLink := by
  refine ⟨?_, fun s x hx hdue => ?_, fun s x hlaw hx hdue => ?_⟩
  · intro s node mode rest hlaw hin up failed good
    let k := s.received (.hello node mode) rest
    let m := k.heardHello node mode
    have hbatch : BatchLaw m := hlaw.congr rfl fun _ => rfl
    refine ⟨_, takeMessage_head hin fun s => s.takeHello node mode, k, m, received_spec hin, heardHello_frame k node mode, rfl, rfl, rfl,
      rfl, rfl, fun h0 => if_pos h0, fun h0 hgood hst => takeHello_judged (s := k) h0 (judgeHello_enters m hgood hst),
      fun h0 hgood hst hq => takeHello_judged (s := k) h0 (judgeHello_same m hgood hst hq),
      fun h0 hgood hst hq => ⟨_, leaveUp_spec hbatch (by decide) fun n => .down .peerChange m.heardNode n, ?_⟩,
      fun h0 hbad hst => takeHello_judged (s := k) h0 (judgeHello_down m hbad hst),
      fun h0 hbad hst => takeHello_judged (s := k) h0 (judgeHello_mismatch m hbad hst), fun h0 hbad hst => ?_⟩
    · exact takeHello_judged (s := k) h0 ((judgeHello_changed m hgood hst hq).trans (leaveUp_enterUp m _ node mode))
    · rw [takeHello_judged (s := k) h0 (judgeHello_loses m hbad hst)]
      exact leaveUp_spec hbatch (by decide) _
  · obtain ⟨hframe, hpeer, hsent⟩ := sendHello_spec s
    refine ⟨_, if_pos (by simp [hx, hdue]), hframe, ?_⟩
    rw [hpeer]
    exact ⟨rfl, rfl, rfl, rfl, rfl, hsent⟩
  · let m := s.setPeer { s.peer with silence := none }
    have hbatch : BatchLaw m := hlaw.congr rfl fun _ => rfl
    exact ⟨_, if_pos (by simp [hx, hdue]), m, rfl, fun hst => linkDown_up hbatch hst .silence,
      fun hst => linkDown_mismatch (s := m) hst .silence, fun hst => linkDown_down (s := m) hst .silence⟩

end Sys2Proof.Machine
end

section
/-! SUPPORT. ACCEPT, DECLINE and CONFIRM, and what every message for a circuit comes to while the link is not UP or its code does not
resolve (R26, R27, R31, R124, R132 to R134). -/

namespace Sys2Proof.Machine

variable {s t : State} {c : CircuitNo} {x : Context}

/-! ### One record rewritten -/

/-- A record rewritten with its copper attachment and its membership keeps what the turns of a circuit rest on. -/
theorem Becomes.sound {r : Circuit} {l : List Block} (hb : Becomes c r s t) (h : Sound s) (hf : SameBut l s t)
    (hbatches : Block.batches ∉ l) (hspans : Block.spans ∉ l) (hlanes : Block.laneRecords ∉ l) (htimeslots : t.timeslots = s.timeslots)
    (hbatch : r.batch = (s.circuit c).batch) (hcopper : r.copper = (s.circuit c).copper) : Sound t := by
  have hothers : ∀ d, d ≠ c → t.circuit d = s.circuit d := fun d hd => hb.2 d (by simpa using hd)
  refine ⟨h.batches.of_frame hf hbatches fun d => ?_, fun d => ?_, fun d p hd => ?_⟩
  · by_cases hd : d = c
    · rw [hd, hb.1]; exact hbatch
    · rw [hothers d hd]
  · by_cases hd : d = c
    · rw [hd, hb.1, evaluated_evaluated]
    · rw [hothers d hd, hf.evaluated_eq hspans hlanes]; exact h.conditioned d
  · rw [State.timeslotOwner, htimeslots]
    by_cases hd' : d = c
    · subst hd'
      rw [hb.1, evaluated_copper, hcopper] at hd
      exact h.copper d p hd
    · rw [hothers d hd'] at hd
      exact h.copper d p hd

/-- R32, R33: an entry to BRIDGE-WAIT is the record's, and then the test on it. -/
theorem enterBridgeWait_judged (h : Sound s) (hx : (s.circuit c).context = some x) {y : Context}
    (hy : ((s.enterMeasuring c .bridgeWait).circuit c).context = some y) :
    BridgeWaitJudged c y (s.enterMeasuring c .bridgeWait) (s.enterBridgeWait c) := by
  have hb := enterMeasuring_becomes hx .bridgeWait
  have hsound := hb.sound h (enterMeasuring_frame s c .bridgeWait) (by decide) (by decide) (by decide)
    ((enterMeasuring_frame s c .bridgeWait).sameOwner (by decide)).1 rfl rfl
  refine bridgeWaitTest_spec hsound (by rw [hb.1]; rfl) hy ?_
  rw [hb.1] at hy
  obtain rfl := Option.some.inj hy
  rfl

/-! ### ACCEPT (R26, R132) -/

/-- R26: the part with the circuit of a matching ACCEPT bridged, and the CONFIRM of a THREE-WAY handshake sent. -/
def State.bridgedFor (s : State) (c : CircuitNo) (number : Byte) : State :=
  let t := (s.stopResponse c).putCircuit c { s.circuit c with fibreTransmit := .bridged }
  if s.node.mode = .threeWay then t.sendFor c fun code => .confirm code number else t

theorem accepted_eq (s : State) (c : CircuitNo) (number : Byte) : s.accepted c number = (s.bridgedFor c number).enterBridgeWait c := rfl

theorem bridgedFor_spec (s : State) (c : CircuitNo) (number : Byte) :
    Becomes c { s.circuit c with fibreTransmit := .bridged } s (s.bridgedFor c number) ∧ Timed c none s (s.bridgedFor c number) ∧
      Sent (if s.node.mode = .threeWay then (s.circuit c).messages fun own => .confirm own number else []) s (s.bridgedFor c number) ∧
      SameBut [.circuits, .overhead, .responses] s (s.bridgedFor c number) := by
  have hstop := stopResponse_frame s c
  have hput := putCircuit_frame (s.stopResponse c) c { s.circuit c with fibreTransmit := .bridged }
  have hbecomes := (putCircuit_becomes (s.stopResponse c) c { s.circuit c with fibreTransmit := .bridged }).after_frame hstop (by decide)
  have htimed : Timed c none s ((s.stopResponse c).putCircuit c { s.circuit c with fibreTransmit := .bridged }) :=
    setResponse_timed s c none
  have hsame : SameBut [.circuits, .responses] s _ := (hstop.mono (by decide)).trans (hput.mono (by decide))
  unfold State.bridgedFor
  simp only
  split
  · have hcode : (((s.stopResponse c).putCircuit c { s.circuit c with fibreTransmit := .bridged }).circuit c).code = (s.circuit c).code := by
      rw [State.putCircuit_circuit_eq]; rfl
    obtain ⟨hsent, hsend⟩ := sendFor_spec _ c (fun code => .confirm code number) hcode
    exact ⟨hbecomes.of_frame hsend (by decide) (by decide) (by decide), by rw [Timed, hsend.sameResponse (by decide)]; exact htimed,
      hsent.after_frame hsame (by decide), (hsame.mono (by decide)).trans (hsend.mono (by decide))⟩
  · exact ⟨hbecomes, htimed, hsame.sentNone (by decide), hsame.mono (by decide)⟩

/-- R26: circuit `c` has bridged at a matching ACCEPT, and takes the test of BRIDGE-WAIT. -/
def BridgedAtAccept (c : CircuitNo) (x : Context) (number : Byte) (s t : State) : Prop :=
  ∃ m, Becomes c ({ s.circuit c with fibreTransmit := .bridged }.measuringRecord x .bridgeWait) s m ∧ Timed c none s m ∧
    Sent (if s.node.mode = .threeWay then (s.circuit c).messages fun own => .confirm own number else []) s m ∧
    SameBut [.circuits, .overhead, .responses] s m ∧ ∀ y, (m.circuit c).context = some y → BridgeWaitJudged c y m t

theorem accepted_spec (h : Sound s) (hx : (s.circuit c).context = some x) (number : Byte) :
    BridgedAtAccept c x number s (s.accepted c number) := by
  rw [accepted_eq]
  obtain ⟨hbecomes, htimed, hsent, hframe⟩ := bridgedFor_spec s c number
  have hx' : ((s.bridgedFor c number).circuit c).context = some x := by rw [hbecomes.1]; exact hx
  have hsound := hbecomes.sound h hframe (by decide) (by decide) (by decide) (hframe.sameOwner (by decide)).1 rfl rfl
  have henter := enterMeasuring_frame (s.bridgedFor c number) c .bridgeWait
  obtain ⟨hrecord, hothers⟩ := enterMeasuring_becomes hx' .bridgeWait
  refine ⟨(s.bridgedFor c number).enterMeasuring c .bridgeWait, ⟨?_, fun d hd => (hothers d hd).trans (hbecomes.2 d hd)⟩, ?_,
    hsent.of_frame henter (by decide), hframe.trans (henter.mono (by decide)), fun y hy => enterBridgeWait_judged hsound hx' hy⟩
  · rw [hrecord, hbecomes.1]; rfl
  · rw [Timed, henter.sameResponse (by decide)]; exact htimed

/-- R132: the checks of an ACCEPT, in their order. -/
theorem takeAccept_spec (h : Sound s) (hx : (s.circuit c).context = some x) (slot : SlotNo) (number : Byte) :
    if x.number ≠ number then Stale s (s.takeAccept c slot number)
    else if (s.circuit c).state ≠ .proposing then Inapplicable s (s.takeAccept c slot number)
    else if x.backoff.isSome then Stale s (s.takeAccept c slot number)
    else if (s.circuit c).fibre ≠ some slot then Inapplicable s (s.takeAccept c slot number)
    else BridgedAtAccept c x number s (s.takeAccept c slot number) := by
  simp only [State.takeAccept, hx]
  split
  · exact countStale_spec s
  split
  · exact countInapplicable_spec s
  split
  · exact countStale_spec s
  split
  · exact countInapplicable_spec s
  next hslot => rw [if_pos (not_not.mp hslot)]; exact accepted_spec h hx number

theorem takeAccept_none (hx : (s.circuit c).context = none) (slot : SlotNo) (number : Byte) :
    Inapplicable s (s.takeAccept c slot number) := by
  rw [State.takeAccept, hx]
  exact countInapplicable_spec s

/-! ### DECLINE (R27, R133) -/

/-- R133: the checks of a DECLINE of a proposal, in their order. -/
theorem takeDecline_spec (h : BatchLaw s) {reason : DeclineReason} (hr : reason ≠ .noFallback) (hx : (s.circuit c).context = some x)
    (code : TrunkCode) (number : Byte) :
    if x.number ≠ number then Stale s (s.takeDecline c code number reason)
    else if (s.circuit c).state ≠ .proposing then Inapplicable s (s.takeDecline c code number reason)
    else if x.backoff.isSome then Stale s (s.takeDecline c code number reason)
    else Abandoned c .peerDeclined (some reason) s (s.takeDecline c code number reason) ∧
      SameBut turnBlocks s (s.takeDecline c code number reason) := by
  simp only [State.takeDecline, if_neg hr, hx]
  split
  · exact countStale_spec s
  split
  · exact countInapplicable_spec s
  split
  · exact countStale_spec s
  · exact ⟨abandon_spec h c _ _, abandon_frame s c _ _⟩

theorem takeDecline_none {reason : DeclineReason} (hr : reason ≠ .noFallback) (hx : (s.circuit c).context = none) (code : TrunkCode)
    (number : Byte) : Inapplicable s (s.takeDecline c code number reason) := by
  rw [State.takeDecline, if_neg hr, hx]
  exact countInapplicable_spec s

/-- R133: a DECLINE that answers a REVERT. -/
theorem takeDecline_noFallback (s : State) (c : CircuitNo) (code : TrunkCode) (number : Byte) :
    (s.takeDecline c code number .noFallback).peer = { s.peer with
      lastRevertDecline := some ⟨code, s.fc⟩
      discards := { s.peer.discards with inapplicable := raise s.peer.discards.inapplicable } } ∧
    SameBut [.peerCounts] s (s.takeDecline c code number .noFallback) :=
  ⟨rfl, .of_forall fun b => by
    cases b <;> simp [Block.same, State.takeDecline, State.countInapplicable, State.setDiscards]⟩

/-! ### CONFIRM (R31, R134) -/

/-- R31: circuit `c` has entered MEASURING at a CONFIRM, and takes the test of BRIDGE-WAIT. -/
def BridgedAtConfirm (c : CircuitNo) (x : Context) (s t : State) : Prop :=
  ∃ m, Becomes c ((s.circuit c).measuringRecord x .bridgeWait) s m ∧ Timed c none s m ∧ SameBut [.circuits, .responses] s m ∧
    ∀ y, (m.circuit c).context = some y → BridgeWaitJudged c y m t

theorem confirmed_spec (h : Sound s) (hx : (s.circuit c).context = some x) :
    BridgedAtConfirm c x s ((s.stopResponse c).enterBridgeWait c) := by
  have hstop := stopResponse_frame s c
  have henter := enterMeasuring_frame (s.stopResponse c) c .bridgeWait
  have hsound : Sound (s.stopResponse c) := h.of_frame hstop (by decide) (by decide) (by decide) (by decide) (by decide)
  refine ⟨(s.stopResponse c).enterMeasuring c .bridgeWait, (enterMeasuring_becomes (s := s.stopResponse c) hx .bridgeWait).after_frame hstop
    (by decide), ?_, (hstop.mono (by decide)).trans (henter.mono (by decide)), fun y hy => enterBridgeWait_judged hsound hx hy⟩
  rw [Timed, henter.sameResponse (by decide)]
  exact setResponse_timed s c none

/-- R134: the checks of a CONFIRM, in their order. -/
theorem takeConfirm_spec (h : Sound s) (hx : (s.circuit c).context = some x) (number : Byte) :
    if x.number ≠ number then Stale s (s.takeConfirm c number)
    else if (s.circuit c).state ≠ .awaiting then Inapplicable s (s.takeConfirm c number)
    else BridgedAtConfirm c x s (s.takeConfirm c number) := by
  simp only [State.takeConfirm, hx]
  split
  · exact countStale_spec s
  split
  · exact countInapplicable_spec s
  next hst => rw [if_pos (not_not.mp hst)]; exact confirmed_spec h hx

theorem takeConfirm_none (hx : (s.circuit c).context = none) (number : Byte) : Inapplicable s (s.takeConfirm c number) := by
  rw [State.takeConfirm, hx]
  exact countInapplicable_spec s

/-! ### Messages that reach no circuit (R124) -/

/-- R124, R137: what becomes of a message whose code does not resolve: a REVERT is declined, every other one is counted. -/
def Unresolved (msg : PeerMessage) (code : TrunkCode) (d : DiscardCounts) (k t : State) : Prop :=
  if msg = .revert code then DeclineSent code 0 .noFallback k t else Discarded { d with unresolved := raise d.unresolved } k t

theorem unresolved_counted {msg : PeerMessage} {code : TrunkCode} (h : msg ≠ .revert code) (k : State) :
    Unresolved msg code k.peer.discards k k.countUnresolved := by
  rw [Unresolved, if_neg h]
  exact countUnresolved_spec k

theorem unresolved_revert (code : TrunkCode) (k : State) : Unresolved (.revert code) code k.peer.discards k (k.noFallback code) := by
  rw [Unresolved, if_pos rfl]
  exact sendDecline_spec k code 0 .noFallback

/-- R124: what a message for a circuit comes to while the link is not UP, and while its code does not resolve. -/
theorem unreached_spec {i : Instr} {msg : PeerMessage} {rest : List PeerMessage} {code : TrunkCode} {miss : State → State}
    {rule : CircuitNo → State → State} (hexec : exec i s = takeMessage msg (dispatch msg code miss rule) s)
    (hin : s.peer.inbox = msg :: rest) (hmiss : ∀ k, Unresolved msg code k.peer.discards k (miss k)) :
    (s.peer.state ≠ .up → ∃ k t, exec i s = .next t ∧ Received msg rest s k ∧
      Discarded { s.peer.discards with ignored := raise s.peer.discards.ignored } k t) ∧
    (s.peer.state = .up → s.directory.lookup code = none → ∃ k m t, exec i s = .next t ∧ Received msg rest s k ∧
      SameBut [.misses] k m ∧ m.directory.missCount = raise s.directory.missCount ∧
      m.directory.lastMiss = some ⟨code, .peer, BitVec.ofNat 8 ((messageIndex msg).val + 1), (primaryBucket code).val,
        (secondaryBucket code).val, s.fc⟩ ∧ Unresolved msg code s.peer.discards m t) := by
  have hnext := hexec.trans (takeMessage_head hin _)
  refine ⟨fun hdown => ⟨_, _, hnext, received_spec hin, ?_⟩, fun hup hnone => ?_⟩
  · rw [dispatch_ignored (s := s.received msg rest) hdown]
    exact countIgnored_spec (s.received msg rest)
  · rw [dispatch_missed (s := s.received msg rest) hup hnone] at hnext
    obtain ⟨hframe, hcount, hlast⟩ := recordMiss_spec (s.received msg rest) code msg
    exact ⟨_, _, _, hnext, received_spec hin, hframe, hcount, hlast, hmiss _⟩

/-- Settles O51: the messages that reach no circuit, then ACCEPT, DECLINE and CONFIRM by the checks in their order. -/
theorem receivedAnswers : Obligations.ReceivedAnswers := by
  refine ⟨fun s code slot number decline reason i msg rest hi hin => ?_, fun s code slot number rest c found hlaw hin hup hfound => ?_,
    fun s code number reason rest c found hlaw hin hup hfound => ?_, fun s code number rest c found hlaw hin hup hfound => ?_⟩
  · simp only [List.mem_cons, Prod.mk.injEq, List.not_mem_nil, or_false] at hi
    rcases hi with ⟨rfl, rfl⟩ | ⟨rfl, rfl⟩ | ⟨rfl, rfl⟩ | ⟨rfl, rfl⟩ | ⟨rfl, rfl⟩ | ⟨rfl, rfl⟩ | ⟨rfl, rfl⟩ | ⟨rfl, rfl⟩
    case inr.inr.inr.inr.inr.inl => exact unreached_spec rfl hin (unresolved_revert code)
    all_goals exact unreached_spec rfl hin (unresolved_counted (by nofun))
  · exact ⟨_, _, takeMessage_resolved hin hup hfound, received_spec hin,
      fun hx => takeAccept_none (s := s.received _ rest) hx slot number,
      fun x hx => takeAccept_spec (hlaw.received _ rest).sound hx slot number⟩
  · refine ⟨_, _, takeMessage_resolved hin hup hfound, received_spec hin, fun hr => ?_,
      fun hr hx => takeDecline_none (s := s.received _ rest) hr hx code number,
      fun x hr hx => takeDecline_spec (hlaw.received _ rest).batches hr hx code number⟩
    subst hr
    obtain ⟨hpeer, hframe⟩ := takeDecline_noFallback (s.received (.decline code number .noFallback) rest) c code number
    rw [hpeer]
    exact ⟨rfl, rfl, rfl, rfl, rfl, hframe⟩
  · exact ⟨_, _, takeMessage_resolved hin hup hfound, received_spec hin,
      fun hx => takeConfirm_none (s := s.received _ rest) hx number,
      fun x hx => takeConfirm_spec (hlaw.received _ rest).sound hx number⟩

end Sys2Proof.Machine
end

section
/-! SUPPORT. The messages after the bridge: SPLICED, ABANDON, REVERT, REVERT-DONE and RELEASE for a circuit (R45, R46, R49, R51, R91,
R135 to R138). -/

namespace Sys2Proof.Machine

variable {s t : State} {c : CircuitNo} {x : Context} {code : TrunkCode}

/-! ### SPLICED (R45, R135) -/

theorem takeSpliced_none (hx : (s.circuit c).context = none) : s.takeSpliced c = s.countInapplicable := by rw [State.takeSpliced, hx]

theorem takeSpliced_some (hx : (s.circuit c).context = some x) :
    s.takeSpliced c = (s.putContext c { x with peerSpliced := true }).releaseTest c := by rw [State.takeSpliced, hx]

/-- R45: the release test of a circuit whose peer has spliced. -/
theorem takeSpliced_spec (h : Sound s) (hx : (s.circuit c).context = some x) :
    ∃ m, TakesContext c { x with peerSpliced := true } s m ∧ SameBut [.circuits] s m ∧
      if (s.circuit c).state = .fibre ∧ (s.circuit c).autoRelease = true ∧ x.hold.map Countdown.left = some 0 then
        Released c .holdExpired m (s.takeSpliced c) ∧ SameBut releaseBlocks m (s.takeSpliced c)
      else s.takeSpliced c = m := by
  have hput : Sound (s.putContext c { x with peerSpliced := true }) := h.putCircuit rfl rfl
  have hdue : ((s.putContext c { x with peerSpliced := true }).circuit c).releaseDue = true ↔
      (s.circuit c).state = .fibre ∧ (s.circuit c).autoRelease = true ∧ x.hold.map Countdown.left = some 0 := by
    rw [State.putContext, State.putCircuit_circuit_eq]
    cases hst : (s.circuit c).state <;> simp [Circuit.releaseDue, hst]
  refine ⟨s.putContext c { x with peerSpliced := true }, putContext_takes s c _, putContext_frame s c _, ?_⟩
  rw [takeSpliced_some hx, State.releaseTest]
  split
  next hrel =>
    rw [if_pos (hdue.mpr hrel)]
    exact ⟨releaseFallback_spec c _ hput.conditioned hput.copper, releaseFallback_frame _ c _⟩
  next hrel => exact if_neg (mt hdue.mp hrel)

/-! ### ABANDON (R51, R136) -/

/-- R4: a fallback kept on a span that is UP. -/
def State.keptUp (s : State) (c : CircuitNo) : Prop :=
  (s.circuit c).state = .fibre ∧ (s.circuit c).context.isSome ∧ s.spanUpOf (s.circuit c) = true

theorem keptUp_iff : s.keptUp c ↔ (s.circuit c).kept = true ∧ s.spanUpOf (s.circuit c) = true := by
  simp [State.keptUp, Circuit.kept, and_assoc]

theorem keptUp_settled (h : s.keptUp c) : (s.circuit c).migrating = false := by
  simp [Circuit.migrating, h.1]

theorem abandonReverts_iff : s.abandonReverts (s.circuit c) = true ↔
    s.keptUp c ∧ ((s.circuit c).context.any fun x => x.peerSpliced) = false := by
  rw [keptUp_iff, State.abandonReverts]
  cases hx : (s.circuit c).context <;> simp [Circuit.kept, hx]

/-- R136: the part with the last ABANDON received recorded. -/
def State.abandonHeard (s : State) (code : TrunkCode) (reason : Reason) : State :=
  s.setPeer { s.peer with lastAbandon := some ⟨code, reason, s.fc⟩ }

theorem abandonHeard_frame (s : State) (code : TrunkCode) (reason : Reason) : SameBut [.peerCounts] s (s.abandonHeard code reason) :=
  .of_forall fun b => by cases b <;> simp [Block.same, State.abandonHeard]

theorem takeAbandon_eq (s : State) (c : CircuitNo) (code : TrunkCode) (reason : Reason) : s.takeAbandon c code reason =
    if (s.circuit c).migrating then (s.abandonHeard code reason).abandon c .peerAbandoned none
    else if s.abandonReverts (s.circuit c) then (s.abandonHeard code reason).revertCircuit c .peerAbandoned
    else (s.abandonHeard code reason).countInapplicable := rfl

/-- R136: an ABANDON after its record, by the state of the circuit. -/
theorem takeAbandon_spec (h : BatchLaw s) (c : CircuitNo) (code : TrunkCode) (reason : Reason) :
    let m := s.abandonHeard code reason
    let t := s.takeAbandon c code reason
    ((s.circuit c).migrating = true → Abandoned c .peerAbandoned none m t ∧ SameBut turnBlocks m t) ∧
    (s.keptUp c → ((s.circuit c).context.any fun x => x.peerSpliced) = false →
      ∃ j, Reverted c .peerAbandoned j m t ∧ SameBut outcomeBlocks m t) ∧
    ((s.circuit c).migrating = false → ¬ (s.keptUp c ∧ ((s.circuit c).context.any fun x => x.peerSpliced) = false) →
      Inapplicable m t) := by
  intro m t
  have hbatch : BatchLaw m := h.congr rfl fun _ => rfl
  have ht : t = _ := takeAbandon_eq s c code reason
  refine ⟨fun hm => ?_, fun hk hspl => ?_, fun hm hk => ?_⟩
  · rw [ht, if_pos hm]
    exact ⟨abandon_spec hbatch c _ _, abandon_frame m c _ _⟩
  · rw [ht, if_neg (by simp [keptUp_settled hk]), if_pos (abandonReverts_iff.mpr ⟨hk, hspl⟩)]
    exact ⟨_, revertCircuit_spec c _ m, revertCircuit_frame m c _⟩
  · rw [ht, if_neg (by simp [hm]), if_neg (mt abandonReverts_iff.mp hk)]
    exact countInapplicable_spec m

/-! ### REVERT (R49, R137) -/

theorem takeRevert_migrating (hm : (s.circuit c).migrating = true) :
    s.takeRevert c code = (s.abandon c .peerAbandoned none).queueMessage (.revertDone code) := by
  rcases Circuit.migrating_iff.mp hm with hst | hst | hst | hst
  all_goals simp only [State.takeRevert, hst]

theorem takeRevert_fibre (hst : (s.circuit c).state = .fibre) : s.takeRevert c code =
    if (s.circuit c).kept ∧ s.spanUpOf (s.circuit c) = true then s.revertCircuit c .peerReverted else s.noFallback code := by
  simp only [State.takeRevert, hst]

theorem takeRevert_copper (hst : (s.circuit c).state = .copper) : s.takeRevert c code = s.queueMessage (.revertDone code) := by
  simp only [State.takeRevert, hst]

theorem takeRevert_vacant (hst : (s.circuit c).state = .vacant) : s.takeRevert c code = s.noFallback code := by
  simp only [State.takeRevert, hst]

theorem noFallback_spec (s : State) (code : TrunkCode) : DeclineSent code 0 .noFallback s (s.noFallback code) :=
  sendDecline_spec s code 0 .noFallback

/-- R137: a REVERT, by the state of the circuit. -/
theorem takeRevert_spec (h : BatchLaw s) (c : CircuitNo) (code : TrunkCode) :
    let t := s.takeRevert c code
    (s.keptUp c → ∃ j, Reverted c .peerReverted j s t ∧ SameBut outcomeBlocks s t) ∧
    ((s.circuit c).state = .fibre → ¬ s.keptUp c → DeclineSent code 0 .noFallback s t) ∧
    ((s.circuit c).migrating = true → ∃ m, Abandoned c .peerAbandoned none s m ∧ SameBut turnBlocks s m ∧
      t = m.queueMessage (.revertDone code)) ∧
    ((s.circuit c).state = .copper → t = s.queueMessage (.revertDone code)) ∧
    ((s.circuit c).state = .vacant → DeclineSent code 0 .noFallback s t) := by
  refine ⟨fun hk => ?_, fun hst hk => ?_, fun hm => ?_, fun hst => takeRevert_copper hst, fun hst => ?_⟩
  · rw [takeRevert_fibre hk.1, if_pos (keptUp_iff.mp hk)]
    exact ⟨_, revertCircuit_spec c _ s, revertCircuit_frame s c _⟩
  · rw [takeRevert_fibre hst, if_neg (mt keptUp_iff.mpr hk)]
    exact noFallback_spec s code
  · exact ⟨_, abandon_spec h c _ _, abandon_frame s c _ _, takeRevert_migrating hm⟩
  · rw [takeRevert_vacant hst]
    exact noFallback_spec s code

/-! ### REVERT-DONE and RELEASE (R46, R91, R138) -/

theorem takeRevertDone_spec (s : State) (c : CircuitNo) :
    let t := s.takeRevertDone c
    ((s.circuit c).draining = true → Becomes c { s.circuit c with fibreTransmit := .off } s t ∧ SameBut [.circuits] s t) ∧
    ((s.circuit c).draining = false → Inapplicable s t) := by
  refine ⟨fun hd => ?_, fun hd => ?_⟩
  · rw [State.takeRevertDone, if_pos hd]
    exact ⟨putCircuit_becomes s c _, putCircuit_frame s c _⟩
  · rw [State.takeRevertDone, if_neg (by simp [hd])]
    exact countInapplicable_spec s

theorem takeRelease_spec (h : Sound s) (c : CircuitNo) :
    if (s.circuit c).state = .fibre ∧ (s.circuit c).context.isSome then
      Released c .peerReleased s (s.takeRelease c) ∧ SameBut releaseBlocks s (s.takeRelease c)
    else Inapplicable s (s.takeRelease c) := by
  have hkept : (s.circuit c).kept = true ↔ (s.circuit c).state = .fibre ∧ (s.circuit c).context.isSome := by simp [Circuit.kept]
  rw [State.takeRelease]
  split
  next hk =>
    rw [if_pos (hkept.mpr hk)]
    exact ⟨releaseFallback_spec c _ h.conditioned h.copper, releaseFallback_frame s c _⟩
  next hk =>
    rw [if_neg (mt hkept.mp hk)]
    exact countInapplicable_spec s

/-- Settles O52: each message taken from the inbox, and then its rule for the circuit that its code resolves to. -/
theorem receivedLater : Obligations.ReceivedLater := by
  intro s code reason rest c found hlaw hup hfound keptUp
  have hlawful (m : PeerMessage) : Lawful (s.received m rest) := hlaw.received m rest
  refine ⟨fun hin => ?_, fun hin => ?_, fun hin => ?_, fun hin => ?_, fun hin => ?_⟩
  · refine ⟨_, _, takeMessage_resolved hin hup hfound, received_spec hin, fun hx => ?_, fun x hx => takeSpliced_spec (hlawful _).sound hx⟩
    rw [takeSpliced_none (s := s.received _ rest) hx]
    exact countInapplicable_spec _
  · exact ⟨_, _, _, takeMessage_resolved hin hup hfound, received_spec hin, abandonHeard_frame _ code reason, rfl,
      takeAbandon_spec (hlawful _).batches c code reason⟩
  · exact ⟨_, _, takeMessage_resolved hin hup hfound, received_spec hin, takeRevert_spec (hlawful _).batches c code⟩
  · exact ⟨_, _, takeMessage_resolved hin hup hfound, received_spec hin, takeRevertDone_spec (s.received _ rest) c⟩
  · exact ⟨_, _, takeMessage_resolved hin hup hfound, received_spec hin, takeRelease_spec (hlawful _).sound c⟩

end Sys2Proof.Machine
end

section
/-! SUPPORT. PROPOSE: acceptance, collision, repetition and refusal, by the state of the circuit (R29, R30, R125, R128, R130, R131). -/

namespace Sys2Proof.Machine

variable {s t u : State} {c : CircuitNo} {x : Context} {code : TrunkCode} {slot : SlotNo} {number : Byte}

/-- Of two rewritings of one record the later one stays. -/
theorem Becomes.then {r q : Circuit} (h : Becomes c r s t) (k : Becomes c q t u) : Becomes c q s u :=
  ⟨k.1, fun d hd => (k.2 d hd).trans (h.2 d hd)⟩

/-! ### The slot of a proposal (R29) -/

/-- R29: circuit `c` holds the slot of a proposal, attached in this step where it held none. -/
structure SlotAttached (c : CircuitNo) (slot : SlotNo) (s t : State) : Prop where
  record : Becomes c { s.circuit c with fibre := some slot } s t
  owners : ∀ j, t.slotOwner j = if j = slot then some c else s.slotOwner j
  timeslots : t.timeslots = s.timeslots
  otherRings : ∀ d, d ≠ c → t.ring d = s.ring d
  keptRing : (s.circuit c).fibre.isSome → t.ring c = s.ring c
  filledRing : (s.circuit c).fibre = none → ∀ j, (t.ring c).get j = s.node.idleCode
  frame : SameBut [.circuits, .occupancy, .rings] s t

/-- A circuit that holds the slot already is as an attachment would leave it. -/
theorem SlotAttached.held (h : Lawful s) (hf : (s.circuit c).fibre = some slot) : SlotAttached c slot s s := by
  have hrecord : { s.circuit c with fibre := some slot } = s.circuit c := by rw [← hf]
  refine ⟨⟨?_, fun _ _ => rfl⟩, fun j => ?_, rfl, fun _ _ => rfl, fun _ => rfl, fun hn => by simp [hf] at hn, .refl _ s⟩
  · rw [hrecord]; exact (h.sound.conditioned c).symm
  · by_cases hj : j = slot
    · rw [if_pos hj, hj]; exact (h.occupancy.slots slot c).mpr hf
    · rw [if_neg hj]

theorem SlotAttached.taken (hf : (s.circuit c).fibre = none) : SlotAttached c slot s
    (((s.setSlotOwner slot (some c)).putCircuit c { s.circuit c with fibre := some slot }).fillRing c) := by
  have hslot : SameBut [.occupancy] s (s.setSlotOwner slot (some c)) := markFibre_frame s (some slot) (some c)
  have hput := putCircuit_frame (s.setSlotOwner slot (some c)) c { s.circuit c with fibre := some slot }
  have hring := fillRing_frame ((s.setSlotOwner slot (some c)).putCircuit c { s.circuit c with fibre := some slot }) c
  refine ⟨((putCircuit_becomes _ c _).of_frame hring (by decide) (by decide) (by decide)).after_frame hslot (by decide), fun j => ?_, rfl,
    fun d hd => Table.get_set_ne _ _ (Ne.symm hd), fun hs => by simp [hf] at hs, fun _ j => ?_,
    ((hslot.mono (by decide)).trans (hput.mono (by decide))).trans (hring.mono (by decide))⟩
  · show (s.slotOwners.set slot (some c)).get j = _
    rw [Table.get_set]
    by_cases hj : j = slot
    · rw [if_pos hj, if_pos hj.symm]
    · rw [if_neg hj, if_neg (Ne.symm hj)]; rfl
  · show ((s.align.rings.set c (.fill s.node.idleCode)).get c).get j = _
    rw [Table.get_set_eq, Table.get_fill]

theorem attachProposed_spec (h : Lawful s) (hf : ∀ n, (s.circuit c).fibre = some n → n = slot) :
    SlotAttached c slot s (s.attachProposed c slot) := by
  cases hfib : (s.circuit c).fibre with
  | some n =>
    rw [State.attachProposed, if_pos (by simp [hfib])]
    exact .held h (hf n hfib ▸ hfib)
  | none =>
    rw [State.attachProposed, if_neg (by simp [hfib])]
    exact .taken hfib

/-! ### An acceptor goes on by the handshake mode (R29, R30) -/

theorem acceptorGoesOn_threeWay (h : s.node.mode = .threeWay) : s.acceptorGoesOn c =
    (s.putCircuit c { s.circuit c with state := .awaiting, buildOut := 0 }).startResponse c := by simp only [State.acceptorGoesOn, h]

theorem acceptorGoesOn_twoWay (h : s.node.mode = .twoWay) : s.acceptorGoesOn c = s.enterMeasuring c .bridgeWait := by
  simp only [State.acceptorGoesOn, h]

/-- R29, R30: a bridged acceptor takes the record and the response timer of the handshake mode. -/
theorem acceptorGoesOn_spec (hx : (s.circuit c).context = some x) (hb : (s.circuit c).fibreTransmit = .bridged) :
    Becomes c ((s.circuit c).acceptorRecord s.node.mode x) s (s.acceptorGoesOn c) ∧
      Timed c (if s.node.mode = .threeWay then some ⟨2000, false⟩ else s.peer.response.get c) s (s.acceptorGoesOn c) ∧
      SameBut [.circuits, .responses] s (s.acceptorGoesOn c) := by
  cases hmode : s.node.mode with
  | threeWay =>
    have hput := putCircuit_frame s c { s.circuit c with state := .awaiting, buildOut := 0 }
    have hstart := startResponse_frame (s.putCircuit c { s.circuit c with state := .awaiting, buildOut := 0 }) c
    have hrecord : (s.circuit c).acceptorRecord .threeWay x = { s.circuit c with state := .awaiting, buildOut := 0 } := by
      rw [Circuit.acceptorRecord, ← hb, ← hx]
    rw [acceptorGoesOn_threeWay hmode, hrecord, if_pos rfl]
    exact ⟨(putCircuit_becomes s c _).of_frame hstart (by decide) (by decide) (by decide), setResponse_timed _ c _,
      (hput.mono (by decide)).trans (hstart.mono (by decide))⟩
  | twoWay =>
    have henter := enterMeasuring_frame s c .bridgeWait
    have hrecord : (s.circuit c).acceptorRecord .twoWay x = (s.circuit c).measuringRecord x .bridgeWait := by
      rw [Circuit.acceptorRecord, ← hb]
    rw [acceptorGoesOn_twoWay hmode, hrecord, if_neg (by decide), Timed, henter.sameResponse (by decide)]
    exact ⟨enterMeasuring_becomes hx _, ⟨rfl, fun _ _ => rfl⟩, henter.mono (by decide)⟩

theorem acceptorRecord_evaluated (spans spans' : Table 16 Span) (lanes lanes' : LaneInterface) (r : Circuit) (mode : HandshakeMode)
    (x : Context) :
    evaluated spans lanes ((evaluated spans' lanes' r).acceptorRecord mode x) = evaluated spans lanes (r.acceptorRecord mode x) := by
  cases mode <;> rfl

/-- The record of an acceptor rests neither on the bridge nor on the context before it. -/
theorem acceptorRecord_bridged (r : Circuit) (mode : HandshakeMode) (x : Context) :
    ({ r with fibreTransmit := .bridged, context := some x } : Circuit).acceptorRecord mode x = r.acceptorRecord mode x := by
  cases mode <;> rfl

theorem acceptorRecord_kept (r : Circuit) (mode : HandshakeMode) (x : Context) :
    (r.acceptorRecord mode x).batch = r.batch ∧ (r.acceptorRecord mode x).copper = r.copper := by cases mode <;> exact ⟨rfl, rfl⟩

/-- R29, R30: the part with circuit `c` bridged as acceptor, its ACCEPT `m` sent, and gone on by the handshake mode. -/
def State.answeredAsAcceptor (s : State) (c : CircuitNo) (x : Context) (m : PeerMessage) : State :=
  ((s.putCircuit c { s.circuit c with fibreTransmit := .bridged, context := some x }).queueMessage m).acceptorGoesOn c

theorem answeredAsAcceptor_spec (s : State) (c : CircuitNo) (x : Context) (m : PeerMessage) :
    Becomes c ((s.circuit c).acceptorRecord s.node.mode x) s (s.answeredAsAcceptor c x m) ∧ Sent [m] s (s.answeredAsAcceptor c x m) ∧
      Timed c (if s.node.mode = .threeWay then some ⟨2000, false⟩ else s.peer.response.get c) s (s.answeredAsAcceptor c x m) ∧
      SameBut [.circuits, .overhead, .responses] s (s.answeredAsAcceptor c x m) := by
  have hput := putCircuit_frame s c { s.circuit c with fibreTransmit := .bridged, context := some x }
  have hqueue := queueMessage_frame (s.putCircuit c { s.circuit c with fibreTransmit := .bridged, context := some x }) m
  have hframe : SameBut [.circuits, .overhead] s _ := (hput.mono (by decide)).trans (hqueue.mono (by decide))
  have hbridged := (putCircuit_becomes s c { s.circuit c with fibreTransmit := .bridged, context := some x }).of_frame hqueue (by decide)
    (by decide) (by decide)
  have hcirc := hbridged.1
  obtain ⟨hbecomes, htimed, hgo⟩ := acceptorGoesOn_spec (x := x) (congrArg Circuit.context hcirc) (congrArg Circuit.fibreTransmit hcirc)
  rw [hcirc, hframe.sameNode (by decide)] at hbecomes
  rw [Timed, hframe.sameNode (by decide), hframe.sameResponse (by decide)] at htimed
  obtain ⟨hrecord, hothers⟩ := hbridged.then hbecomes
  rw [acceptorRecord_evaluated, acceptorRecord_bridged] at hrecord
  exact ⟨⟨hrecord, hothers⟩, ((queueMessage_sent _ m).after_frame hput (by decide)).of_frame hgo (by decide), htimed,
    (hframe.mono (by decide)).trans (hgo.mono (by decide))⟩

/-- R31, R33: an acceptor in THREE-WAY waits for its CONFIRM; in TWO-WAY it takes the test of BRIDGE-WAIT. -/
theorem acceptorGoesOn_tested (h : Sound t) {r : Circuit} (hb : Becomes c (r.acceptorRecord s.node.mode x) s t) (hn : t.node = s.node)
    (hrole : x.role = .acceptor) : AcceptorGoesOn c x t (t.bridgeWaitTest c) := by
  have hrecord := hb.1
  rw [← hn] at hrecord
  unfold AcceptorGoesOn
  split
  next hmode =>
    rw [hmode] at hrecord
    exact bridgeWaitTest_other (.inl (by rw [hrecord]; nofun))
  next hmode =>
    rw [hmode] at hrecord
    intro y hy
    rw [hrecord] at hy
    obtain rfl := Option.some.inj hy
    exact ⟨rfl, hrole, bridgeWaitTest_spec h (congrArg Circuit.state hrecord) (congrArg Circuit.context hrecord) rfl⟩

/-! ### Acceptance (R29) -/

theorem acceptProposal_eq (s : State) (c : CircuitNo) (code : TrunkCode) (slot : SlotNo) (number : Byte) :
    s.acceptProposal c code slot number =
      (((s.attachProposed c slot).answeredAsAcceptor c (startContext (s.attachProposed c slot) .acceptor number)
        (.accept code slot number)).watchEvent c .migrateStart none).bridgeWaitTest c := rfl

/-- R29: the acceptance of a proposal whose slot the circuit holds, or can take. -/
theorem acceptProposal_spec (h : Lawful s) (hf : ∀ n, (s.circuit c).fibre = some n → n = slot) (code : TrunkCode) (number : Byte) :
    AcceptedAt c code slot number s (s.acceptProposal c code slot number) := by
  have ha := attachProposed_spec h hf
  have hnode : (s.attachProposed c slot).node = s.node := ha.frame.sameNode (by decide)
  obtain ⟨hanswered, hsent, htimed, hgo⟩ := answeredAsAcceptor_spec (s.attachProposed c slot) c (startContext s .acceptor number)
    (.accept code slot number)
  rw [acceptProposal_eq, startContext_congr _ _ hnode]
  generalize (s.attachProposed c slot).answeredAsAcceptor c (startContext s .acceptor number) (.accept code slot number) = m at *
  have hevent := watchEvent_frame m c .migrateStart none
  have hframe : SameBut [.circuits, .occupancy, .rings, .overhead, .responses] s m :=
    (ha.frame.mono (by decide)).trans (hgo.mono (by decide))
  have htimeslots : m.timeslots = s.timeslots := (hgo.sameOwner (by decide)).1.trans ha.timeslots
  have hring : ∀ d, m.ring d = (s.attachProposed c slot).ring d := hgo.sameRing (by decide)
  have hbecomes : Becomes c ({ s.circuit c with fibre := some slot }.acceptorRecord s.node.mode (startContext s .acceptor number)) s m := by
    obtain ⟨hrecord, hothers⟩ := ha.record.then hanswered
    rw [ha.record.1, hnode, acceptorRecord_evaluated] at hrecord
    exact ⟨hrecord, hothers⟩
  obtain ⟨hbatch, hcopper⟩ := acceptorRecord_kept { s.circuit c with fibre := some slot } s.node.mode (startContext s .acceptor number)
  have hsound : Sound m := hbecomes.sound h.sound hframe (by decide) (by decide) (by decide) htimeslots hbatch hcopper
  rw [Timed, hnode, ha.frame.sameResponse (by decide)] at htimed
  refine ⟨m, m.watchEvent c .migrateStart none, hbecomes, fun j => ?_, htimeslots, fun d hd => ?_, fun hs => ?_, fun hn j => ?_,
    hsent.after_frame ha.frame (by decide), htimed, hframe, ⟨Block.same_refl _ _, Block.same_refl _ _⟩, hevent, ?_⟩
  · rw [hgo.sameSlotOwner (by decide)]; exact ha.owners j
  · rw [hring]; exact ha.otherRings d hd
  · rw [hring]; exact ha.keptRing hs
  · rw [hring]; exact ha.filledRing hn j
  · exact acceptorGoesOn_tested (hsound.of_frame hevent (by decide) (by decide) (by decide) (by decide) (by decide))
      (hbecomes.of_frame hevent (by decide) (by decide) (by decide))
      ((hevent.sameNode (by decide)).trans (hframe.sameNode (by decide))) rfl

/-! ### A collision and a repetition (R30, R130, R131) -/

/-- R30: the context of a circuit that yields. -/
def Context.yielding (x : Context) (number : Byte) : Context := { x with role := .acceptor, number := number, backoff := none }

theorem yieldTo_eq (hx : (s.circuit c).context = some x) (code : TrunkCode) (slot : SlotNo) (number : Byte) :
    s.yieldTo c code slot number =
      ((s.stopResponse c).answeredAsAcceptor c (x.yielding number) (.accept code slot number)).bridgeWaitTest c := by
  rw [State.yieldTo, hx]
  rfl

/-- R30: circuit `c` has yielded to the other end's proposal. -/
def Yielded (c : CircuitNo) (x : Context) (code : TrunkCode) (slot : SlotNo) (number : Byte) (s t : State) : Prop :=
  ∃ m, Becomes c ((s.circuit c).acceptorRecord s.node.mode (x.yielding number)) s m ∧ Sent [.accept code slot number] s m ∧
    Timed c (if s.node.mode = .threeWay then some ⟨2000, false⟩ else none) s m ∧
    SameBut [.circuits, .overhead, .responses] s m ∧ AcceptorGoesOn c (x.yielding number) m t

/-- R30: a circuit in PROPOSING yields to the proposal of the other end. -/
theorem yieldTo_spec (h : Sound s) (hx : (s.circuit c).context = some x) (code : TrunkCode) (slot : SlotNo) (number : Byte) :
    Yielded c x code slot number s (s.yieldTo c code slot number) := by
  have hstop := stopResponse_frame s c
  obtain ⟨hanswered, hsent, ⟨hown, hrest⟩, hgo⟩ := answeredAsAcceptor_spec (s.stopResponse c) c (x.yielding number)
    (.accept code slot number)
  obtain ⟨hstopped, hothers⟩ : Timed c none s (s.stopResponse c) := setResponse_timed s c none
  rw [yieldTo_eq hx]
  generalize (s.stopResponse c).answeredAsAcceptor c (x.yielding number) (.accept code slot number) = m at *
  have hframe : SameBut [.circuits, .overhead, .responses] s m := (hstop.mono (by decide)).trans hgo
  have hbecomes : Becomes c ((s.circuit c).acceptorRecord s.node.mode (x.yielding number)) s m := hanswered.after_frame hstop (by decide)
  obtain ⟨hbatch, hcopper⟩ := acceptorRecord_kept (s.circuit c) s.node.mode (x.yielding number)
  have hsound : Sound m := hbecomes.sound h hframe (by decide) (by decide) (by decide) (hframe.sameOwner (by decide)).1 hbatch hcopper
  rw [hstopped] at hown
  refine ⟨m, hbecomes, hsent.after_frame hstop (by decide), ⟨hown, fun d hd => (hrest d hd).trans (hothers d hd)⟩, hframe,
    acceptorGoesOn_tested hsound hbecomes (hframe.sameNode (by decide)) rfl⟩

/-- R131: a repeated proposal is answered again, and in AWAITING the response timer starts again. -/
def AnsweredAgain (c : CircuitNo) (x : Context) (code : TrunkCode) (slot : SlotNo) (number : Byte) (s t : State) : Prop :=
  TakesContext c { x with number := number } s t ∧ Sent [.accept code slot number] s t ∧
    Timed c (if (s.circuit c).state = .awaiting then some ⟨2000, false⟩ else s.peer.response.get c) s t ∧
    SameBut [.circuits, .overhead, .responses] s t

theorem repeatProposal_spec (s : State) (c : CircuitNo) (x : Context) (code : TrunkCode) (slot : SlotNo) (number : Byte) :
    AnsweredAgain c x code slot number s (s.repeatProposal c x code slot number) := by
  have hput := putContext_frame s c { x with number := number }
  have hqueue := queueMessage_frame (s.putContext c { x with number := number }) (.accept code slot number)
  have hframe : SameBut [.circuits, .overhead] s _ := (hput.mono (by decide)).trans (hqueue.mono (by decide))
  have htakes := (putContext_takes s c { x with number := number }).of_frame hqueue (by decide) (by decide) (by decide)
  have hsent := (queueMessage_sent (s.putContext c { x with number := number }) (.accept code slot number)).after_frame hput (by decide)
  have hstate : (((s.putContext c { x with number := number }).queueMessage (.accept code slot number)).circuit c).state =
      (s.circuit c).state := by rw [htakes.1]; rfl
  simp only [AnsweredAgain, State.repeatProposal, hstate]
  split
  · have hstart := startResponse_frame ((s.putContext c { x with number := number }).queueMessage (.accept code slot number)) c
    obtain ⟨hown, hrest⟩ := setResponse_timed ((s.putContext c { x with number := number }).queueMessage (.accept code slot number)) c
      (some ⟨2000, false⟩)
    rw [hframe.sameResponse (by decide)] at hrest
    exact ⟨htakes.of_frame hstart (by decide) (by decide) (by decide), hsent.of_frame hstart (by decide), ⟨hown, hrest⟩,
      (hframe.mono (by decide)).trans (hstart.mono (by decide))⟩
  · rw [Timed, hframe.sameResponse (by decide)]
    exact ⟨htakes, hsent, ⟨rfl, fun _ _ => rfl⟩, hframe.mono (by decide)⟩

/-! ### A PROPOSE, by the state of the circuit (R128) -/

theorem takePropose_notReady (hst : (s.circuit c).state = .vacant ∨ (s.circuit c).state = .aligned ∨ (s.circuit c).state = .fibre) :
    DeclineSent code number .notReady s (s.takePropose c code slot number) := by
  have hdeclined : s.takePropose c code slot number = s.sendDecline code number .notReady := by
    rcases hst with hst | hst | hst <;> simp only [State.takePropose, hst]
  rw [hdeclined]
  exact sendDecline_spec s code number .notReady

/-- R9: the slot of a circuit without a fibre attachment is taken when its entry names any circuit. -/
theorem slotTaken_eq (h : OccupancyLaw s) (hf : (s.circuit c).fibre = none) (slot : SlotNo) :
    s.slotTaken slot c = (s.slotOwner slot).isSome := by
  unfold State.slotTaken
  cases ho : s.slotOwner slot with
  | none => rfl
  | some d =>
    have hd : d ≠ c := fun e => by
      have := (h.slots slot d).mp ho
      rw [e, hf] at this
      contradiction
    simpa using hd

theorem proposeToCopper_eq (h : OccupancyLaw s) (c : CircuitNo) (code : TrunkCode) (slot : SlotNo) (number : Byte) :
    s.proposeToCopper c code slot number =
      if (s.circuit c).inhibit = true then s.sendDecline code number .inhibited
      else if ((s.circuit c).fibre.isSome ∧ (s.circuit c).fibre ≠ some slot) ∨ ((s.circuit c).fibre = none ∧ (s.slotOwner slot).isSome) then
        s.sendDecline code number .slotConflict
      else s.acceptProposal c code slot number := by
  unfold State.proposeToCopper
  cases hf : (s.circuit c).fibre with
  | some n => by_cases hn : n = slot <;> simp [hn]
  | none => simp [slotTaken_eq h hf]

theorem takePropose_copper (h : Lawful s) (hst : (s.circuit c).state = .copper) (code : TrunkCode) (slot : SlotNo) (number : Byte) :
    if (s.circuit c).inhibit = true then DeclineSent code number .inhibited s (s.takePropose c code slot number)
    else if ((s.circuit c).fibre.isSome ∧ (s.circuit c).fibre ≠ some slot) ∨ ((s.circuit c).fibre = none ∧ (s.slotOwner slot).isSome) then
      DeclineSent code number .slotConflict s (s.takePropose c code slot number)
    else AcceptedAt c code slot number s (s.takePropose c code slot number) := by
  simp only [State.takePropose, hst, proposeToCopper_eq h.occupancy]
  split
  · exact sendDecline_spec s code number .inhibited
  split
  · exact sendDecline_spec s code number .slotConflict
  next hfree =>
    refine acceptProposal_spec h (fun n hn => ?_) code number
    by_contra hne
    exact hfree (.inl ⟨by simp [hn], by simpa [hn] using hne⟩)

/-- R130: a collision, settled by node number. -/
theorem takePropose_proposing (h : Sound s) (hst : (s.circuit c).state = .proposing) (hx : (s.circuit c).context = some x) (code : TrunkCode)
    (slot : SlotNo) (number : Byte) :
    if (s.circuit c).fibre ≠ some slot then DeclineSent code number .slotConflict s (s.takePropose c code slot number)
    else if s.peer.qualified.getD 0 < s.node.node then Inapplicable s (s.takePropose c code slot number)
    else Yielded c x code slot number s (s.takePropose c code slot number) := by
  simp only [State.takePropose, hst, State.collide]
  split
  · exact sendDecline_spec s code number .slotConflict
  next hslot =>
    rw [if_pos (not_not.mp hslot)]
    split
    · exact countInapplicable_spec s
    · exact yieldTo_spec h hx code slot number

/-- R131: a PROPOSE for an acceptor that has answered one. -/
theorem takePropose_again (hst : (s.circuit c).state = .awaiting ∨ (s.circuit c).state = .measuring) (hx : (s.circuit c).context = some x)
    (code : TrunkCode) (slot : SlotNo) (number : Byte) :
    if x.role = .initiator then DeclineSent code number .notReady s (s.takePropose c code slot number)
    else if (s.circuit c).fibre ≠ some slot then DeclineSent code number .slotConflict s (s.takePropose c code slot number)
    else AnsweredAgain c x code slot number s (s.takePropose c code slot number) := by
  have hagain : s.takePropose c code slot number = s.proposeAgain c x code slot number := by
    rcases hst with hst | hst <;> simp only [State.takePropose, hst, hx]
  rw [hagain, State.proposeAgain]
  split
  · exact sendDecline_spec s code number .notReady
  split
  · exact sendDecline_spec s code number .slotConflict
  next hslot =>
    rw [if_pos (not_not.mp hslot)]
    exact repeatProposal_spec s c x code slot number

/-! ### A PROPOSE, by the state of the link and of the directory (R124, R144) -/

theorem judgePropose_ignored (h : s.peer.state ≠ .up) (code : TrunkCode) (slot : SlotNo) (number : Byte) :
    s.judgePropose code slot number = s.countIgnored := (if_neg fun hb => h hb.1).trans (dispatch_ignored h)

theorem judgePropose_busy (hup : s.peer.state = .up) (hbusy : s.directory.busy = true) (code : TrunkCode) (slot : SlotNo) (number : Byte) :
    s.judgePropose code slot number = s.sendDecline code number .busy := if_pos ⟨hup, hbusy⟩

theorem judgePropose_idle (hidle : s.directory.busy = false) (code : TrunkCode) (slot : SlotNo) (number : Byte) :
    s.judgePropose code slot number = dispatch (.propose code slot number) code (fun s => s.sendDecline code number .unknownTrunk)
      (fun c s => s.takePropose c code slot number) s := if_neg (by simp [hidle])

/-- Settles O50: a PROPOSE by the state of the link and of the directory, then by the state of its circuit. -/
theorem receivedPropose : Obligations.ReceivedPropose := by
  intro s code slot number rest hlaw hin
  let k := s.received (.propose code slot number) rest
  have hk : Lawful k := hlaw.received _ rest
  refine ⟨k, k.judgePropose code slot number, takeMessage_head hin _, received_spec hin, fun hdown => ?_, fun hup hbusy => ?_,
    fun hup hidle hnone => ?_, fun c found hup hidle hfound => ?_⟩
  · rw [judgePropose_ignored (s := k) hdown]
    exact countIgnored_spec k
  · rw [judgePropose_busy (s := k) hup hbusy]
    exact sendDecline_spec k code number .busy
  · rw [judgePropose_idle (s := k) hidle, dispatch_missed (s := k) hup hnone]
    obtain ⟨hframe, hcount, hlast⟩ := recordMiss_spec k code (.propose code slot number)
    exact ⟨_, hframe, hcount, hlast, sendDecline_spec _ code number .unknownTrunk⟩
  · rw [judgePropose_idle (s := k) hidle, dispatch_resolved (s := k) hup hfound]
    exact ⟨takePropose_notReady (s := k), fun hst => takePropose_copper hk hst code slot number,
      fun x hst hx => takePropose_proposing hk.sound hst hx code slot number,
      fun x hst hx => takePropose_again (s := k) hst hx code slot number⟩

end Sys2Proof.Machine
end

section
/-! SUPPORT. The entries of the Trunk Directory: what a search of them finds, what they resolve, and how the law of the directory is
made of a law of the entries and their agreement with the records (R141 to R143, R145). -/

namespace Sys2Proof.Machine

variable {s t : State} {d d' : Directory} {code : TrunkCode} {c : CircuitNo}

/-! ### Searches -/

theorem RangeEntry.covers_iff {e : RangeEntry} :
    e.covers code = true ↔ e.route = code.route ∧ e.member ≤ code.member ∧ code.member < e.member + e.size := by
  simp [RangeEntry.covers, and_assoc, @eq_comm _ code.route]

/-- A range search that finds nothing has passed an entry of every index. -/
theorem findRange_none_iff : d.findRange code = none ↔ ∀ i e, d.ranges.get i = some e → e.covers code = false := by
  simp only [Directory.findRange, List.findSome?_eq_none_iff, List.mem_finRange, forall_const]
  refine forall_congr' fun i => ?_
  cases d.ranges.get i with
  | none => simp
  | some e => simp

theorem findWay_none_iff {b : Fin 128} : d.findWay b code = none ↔ ∀ w e, (d.trunks.get b).get w = some e → e.code ≠ code := by
  simp only [Directory.findWay, List.findSome?_eq_none_iff, List.mem_finRange, forall_const]
  refine forall_congr' fun w => ?_
  cases (d.trunks.get b).get w with
  | none => simp
  | some e => simp

theorem findTrunk_none_iff : d.findTrunk code = none ↔
    d.findWay (primaryBucket code) code = none ∧ d.findWay (secondaryBucket code) code = none := by
  unfold Directory.findTrunk
  split
  next h => simp [h]
  next h => split <;> simp_all

/-! ### The law of the entries (R141, R142, R145) -/

/-- What the entries keep among themselves: the clauses of the directory's law that no record has a say in. -/
structure EntryLaw (d : Directory) : Prop where
  ranges : ∀ i e, d.ranges.get i = some e → e.lawful
  apart : ∀ i j e x, d.ranges.get i = some e → d.ranges.get j = some x → i ≠ j → e.overlaps x = false
  codes : ∀ b w e, (d.trunks.get b).get w = some e → codeValid e.code = true
  placed : ∀ b w e, (d.trunks.get b).get w = some e → b = primaryBucket e.code ∨ b = secondaryBucket e.code
  unshadowed : ∀ b w e, (d.trunks.get b).get w = some e → d.findRange e.code = none
  single : ∀ b w e b' w' e', (d.trunks.get b).get w = some e → (d.trunks.get b').get w' = some e' → e.code = e'.code → b = b' ∧ w = w'

/-- An entry of `d` resolves `code` to `c` (R141, R143). -/
def Directory.Resolves (d : Directory) (code : TrunkCode) (c : CircuitNo) : Prop :=
  (∃ i e, d.ranges.get i = some e ∧ e.covers code = true ∧ e.circuitFor code = some c) ∨
    ∃ b w e, (d.trunks.get b).get w = some e ∧ e.code = code ∧ e.circuit = c

/-- Two ranges that cover a code overlap. -/
theorem RangeEntry.overlaps_of_covers {e x : RangeEntry} (he : e.covers code = true) (hx : x.covers code = true) : e.overlaps x = true := by
  rw [RangeEntry.covers_iff] at he hx
  simp [RangeEntry.overlaps]
  omega

/-- A lawful range gives a circuit for every code that it covers. -/
theorem RangeEntry.lawful.circuitFor {e : RangeEntry} (h : e.lawful) (hc : e.covers code = true) :
    ∃ c : CircuitNo, c.val = e.base + (code.member - e.member) ∧ e.circuitFor code = some c := by
  have hcirc := h.circuits
  rw [RangeEntry.covers_iff] at hc
  have hlt : e.base + (code.member - e.member) < 512 := by omega
  exact ⟨⟨_, hlt⟩, rfl, by simp [RangeEntry.circuitFor, circuitOf, hlt]⟩

/-- A lawful range covers valid codes alone. -/
theorem RangeEntry.lawful.valid_of_covers {e : RangeEntry} (h : e.lawful) (hc : e.covers code = true) : codeValid code = true := by
  have hroute := h.route
  have hmembers := h.members
  rw [RangeEntry.covers_iff] at hc
  simp [codeValid]
  omega

section
variable (h : EntryLaw d)
include h

/-- The range that covers a code is the one that a search finds. -/
theorem EntryLaw.findRange {i : Fin 8} {e : RangeEntry} (hi : d.ranges.get i = some e) (hc : e.covers code = true) :
    d.findRange code = some (i, e) := by
  cases hf : d.findRange code with
  | none => simp [findRange_none_iff.mp hf i e hi] at hc
  | some x =>
    obtain ⟨j, y⟩ := x
    obtain ⟨hj, hy⟩ := findRange_some hf
    by_cases hij : i = j
    · subst hij
      rw [hi] at hj
      cases hj
      rfl
    · exact absurd (RangeEntry.overlaps_of_covers hc hy) (by simp [h.apart i j e y hi hj hij])

/-- The trunk entry that holds a code is the one that a search finds. -/
theorem EntryLaw.findTrunk {b : Fin 128} {w : Fin 4} {e : TrunkEntry} (hb : (d.trunks.get b).get w = some e) (hc : e.code = code) :
    d.findTrunk code = some (b, w, e) := by
  cases hf : d.findTrunk code with
  | none =>
    obtain ⟨hp, hs⟩ := findTrunk_none_iff.mp hf
    rcases h.placed b w e hb with rfl | rfl
    · exact absurd hc (findWay_none_iff.mp (hc ▸ hp) w e hb)
    · exact absurd hc (findWay_none_iff.mp (hc ▸ hs) w e hb)
  | some x =>
    obtain ⟨b', w', e'⟩ := x
    obtain ⟨hb', hc'⟩ := findTrunk_some hf
    obtain ⟨rfl, rfl⟩ := h.single b w e b' w' e' hb hb' (hc.trans hc'.symm)
    rw [hb] at hb'
    cases hb'
    rfl

/-- R143: a lookup finds what the entries resolve. -/
theorem EntryLaw.lookup_iff : (d.lookup code).map Prod.fst = some c ↔ d.Resolves code c := by
  constructor
  · intro hl
    unfold Directory.lookup at hl
    split at hl
    next i e hf =>
      obtain ⟨hi, hc⟩ := findRange_some hf
      exact .inl ⟨i, e, hi, hc, by simpa [Option.map_map, Function.comp_def] using hl⟩
    next =>
      split at hl
      next b w e hf =>
        obtain ⟨hb, hc⟩ := findTrunk_some hf
        exact .inr ⟨b, w, e, hb, hc, by simpa using hl⟩
      next => simp at hl
  · rintro (⟨i, e, hi, hc, hcirc⟩ | ⟨b, w, e, hb, rfl, rfl⟩)
    · simp [Directory.lookup, h.findRange hi hc, hcirc]
    · simp [Directory.lookup, h.unshadowed b w e hb, h.findTrunk hb rfl]

/-- Only valid codes resolve. -/
theorem EntryLaw.valid_of_resolves (hr : d.Resolves code c) : codeValid code = true := by
  obtain ⟨i, e, hi, hc, -⟩ | ⟨b, w, e, hb, rfl, -⟩ := hr
  · exact (h.ranges i e hi).valid_of_covers hc
  · exact h.codes b w e hb

end

/-- R145: each record carries the code that an entry resolves to its circuit, and no other. -/
def CodesAgree (s : State) : Prop := ∀ c code, (s.circuit c).code = some code ↔ s.directory.Resolves code c

theorem DirectoryLaw.entries (h : DirectoryLaw s) : EntryLaw s.directory := ⟨h.ranges, h.apart, h.codes, h.placed, h.unshadowed, h.single⟩

/-- R145: the law of the directory is the law of its entries, their agreement with the records, and the law of the walk. -/
theorem directoryLaw_iff : DirectoryLaw s ↔ EntryLaw s.directory ∧ CodesAgree s ∧ WalkLaw s.directory := by
  constructor
  · intro h
    refine ⟨h.entries, fun c code => ⟨fun hc => ?_, fun hr => ?_⟩, h.walk⟩
    · exact h.entries.lookup_iff.mp ((h.carried c code (h.valid c code hc)).mp hc)
    · exact (h.carried c code (h.entries.valid_of_resolves hr)).mpr (h.entries.lookup_iff.mpr hr)
  · rintro ⟨he, ha, hw⟩
    exact ⟨he.ranges, he.apart, he.codes, he.placed, he.unshadowed, he.single,
      fun c code _ => (ha c code).trans he.lookup_iff.symm, fun c code hc => he.valid_of_resolves ((ha c code).mp hc), hw⟩

/-- Settles O23: a search of the entries finds the one that the law of the directory allows. -/
theorem resolution : Obligations.Resolution := by
  intro s code h
  have he := h.entries
  refine ⟨fun i e hi hroute hlow hhigh => ?_, fun b w e hb hc => ?_, fun hranges htrunks => ?_, rfl,
    by simp [secondaryBucket, Fin.val_rev], fun hp => ?_⟩
  · have hc : e.covers code = true := RangeEntry.covers_iff.mpr ⟨hroute, hlow, hhigh⟩
    obtain ⟨c, hval, hcirc⟩ := (he.ranges i e hi).circuitFor hc
    exact ⟨c, hval, by simp [Directory.lookup, he.findRange hi hc, hcirc]⟩
  · have hr := he.unshadowed b w e hb
    rw [hc] at hr
    simp [Directory.lookup, hr, he.findTrunk hb hc]
  · have hr : s.directory.findRange code = none :=
      findRange_none_iff.mpr fun i e hi => Bool.eq_false_iff.mpr (mt RangeEntry.covers_iff.mp (hranges i e hi))
    have ht : s.directory.findTrunk code = none := findTrunk_none_iff.mpr ⟨findWay_none_iff.mpr (htrunks _), findWay_none_iff.mpr (htrunks _)⟩
    simp [Directory.lookup, hr, ht]
  · have hval := congrArg Fin.val hp
    simp only [secondaryBucket, Fin.val_rev] at hval
    omega

end Sys2Proof.Machine
end

section
/-! SUPPORT. What the law of the directory rests on: the entries, the walk's range check and the codes that the records carry. No turn
of a circuit writes any of it (R22, R145). -/

namespace Sys2Proof.Machine

variable {s t : State} {c : CircuitNo}

/-! ### The holdings of the law -/

/-- The range check of a walk: its next bucket, the pending range and what it has found. -/
def Walk.check : Walk → Option (Nat × RangeEntry × Option FoundTrunk)
  | .rangeCheck next _ _ _ e found => some (next, e, found)
  | .purge .. => none
  | .idle => none

/-- What the law of the directory rests on. -/
structure CodeHolding where
  ranges : Table 8 (Option RangeEntry)
  trunks : Table 128 (Table 4 (Option TrunkEntry))
  check : Option (Nat × RangeEntry × Option FoundTrunk)
  carried : CircuitNo → Option TrunkCode

def State.codes (s : State) : CodeHolding :=
  ⟨s.directory.ranges, s.directory.trunks, s.directory.walk.check, fun c => (s.circuit c).code⟩

theorem circuit_code (s : State) (c : CircuitNo) : (s.circuit c).code = s.codes.carried c := rfl

theorem walkLaw_iff {d : Directory} : WalkLaw d ↔ ∀ next e found, d.walk.check = some (next, e, found) →
    e.lawful ∧ d.overlapping e = none ∧ (found = none → ∀ b : Fin 128, b.val < next → d.insideBucket e b = none) := by
  cases hw : d.walk <;> simp [WalkLaw, Walk.check, hw]

/-- From `s` to `t` the law of the directory holds on. -/
def KeepsDirectory (s t : State) : Prop := DirectoryLaw s → DirectoryLaw t

theorem KeepsDirectory.trans {u : State} (h : KeepsDirectory s t) (k : KeepsDirectory t u) : KeepsDirectory s u := k ∘ h

/-- R145: a step that leaves the entries, the walk's check and the codes leaves the law. -/
theorem keepsDirectory_of_codes (h : t.codes = s.codes) : KeepsDirectory s t := by
  have hr : t.directory.ranges = s.directory.ranges := congrArg CodeHolding.ranges h
  have ht : t.directory.trunks = s.directory.trunks := congrArg CodeHolding.trunks h
  have hw : t.directory.walk.check = s.directory.walk.check := congrArg CodeHolding.check h
  have hc : ∀ c, (t.circuit c).code = (s.circuit c).code := fun c => congrFun (congrArg CodeHolding.carried h) c
  rw [KeepsDirectory, directoryLaw_iff, directoryLaw_iff, walkLaw_iff, walkLaw_iff]
  rintro ⟨⟨e1, e2, e3, e4, e5, e6⟩, ha, hl⟩
  simp only [CodesAgree, Directory.Resolves, Directory.findRange, Directory.overlapping, Directory.insideBucket] at *
  refine ⟨⟨?_, ?_, ?_, ?_, ?_, ?_⟩, ?_, ?_⟩ <;> simp only [hr, ht, hw, hc, Directory.findRange] <;> assumption

/-! ### Single writes -/

section
variable (s)

@[simp] theorem setPending_codes (x : List Instr) : (s.setPending x).codes = s.codes := (rfl)
@[simp] theorem setNode_codes (x : NodeParams) : (s.setNode x).codes = s.codes := (rfl)
@[simp] theorem setSlotOwners_codes (x : Table 512 (Option CircuitNo)) : (s.setSlotOwners x).codes = s.codes := (rfl)
@[simp] theorem setHighway_codes (x : Highway) : (s.setHighway x).codes = s.codes := (rfl)
@[simp] theorem setSpans_codes (x : Table 16 Span) : (s.setSpans x).codes = s.codes := (rfl)
@[simp] theorem setLanes_codes (x : LaneInterface) : (s.setLanes x).codes = s.codes := (rfl)
@[simp] theorem setAlign_codes (x : AlignmentUnit) : (s.setAlign x).codes = s.codes := (rfl)
@[simp] theorem setPeer_codes (x : PeerEngine) : (s.setPeer x).codes = s.codes := (rfl)
@[simp] theorem setBatches_codes (x : Table 8 (Option Batch)) : (s.setBatches x).codes = s.codes := (rfl)
@[simp] theorem setWatches_codes (x : WatchUnit) : (s.setWatches x).codes = s.codes := (rfl)
@[simp] theorem setLinks_codes (x : Links) : (s.setLinks x).codes = s.codes := (rfl)
@[simp] theorem drawn_codes : s.drawn.codes = s.codes := (rfl)
@[simp] theorem setSpan_codes (n : SpanNo) (x : Span) : (s.setSpan n x).codes = s.codes := (rfl)
@[simp] theorem setLane_codes (i : Lane) (x : LaneRecord) : (s.setLane i x).codes = s.codes := (rfl)
@[simp] theorem setUnit_codes (u : UnitNo) (x : Matcher) : (s.setUnit u x).codes = s.codes := (rfl)
@[simp] theorem setPort_codes (p : Port) (x : PortRecord) : (s.setPort p x).codes = s.codes := (rfl)
@[simp] theorem setBatch_codes (b : Fin 8) (x : Option Batch) : (s.setBatch b x).codes = s.codes := (rfl)
@[simp] theorem setSlotOwner_codes (n : SlotNo) (c : Option CircuitNo) : (s.setSlotOwner n c).codes = s.codes := (rfl)
@[simp] theorem recordMiss_codes (code : TrunkCode) (source : MissSource) (asked : Byte) :
    (s.recordMiss code source asked).codes = s.codes := (rfl)
@[simp] theorem stopResponse_codes (c : CircuitNo) : (s.stopResponse c).codes = s.codes := (rfl)
@[simp] theorem startResponse_codes (c : CircuitNo) : (s.startResponse c).codes = s.codes := (rfl)
@[simp] theorem takeNumber_codes : s.takeNumber.codes = s.codes := (rfl)
@[simp] theorem joinQueue_codes (c : CircuitNo) (k : SearchKind) : (s.joinQueue c k).codes = s.codes := (rfl)
@[simp] theorem releaseMatcher_codes (c : CircuitNo) : (s.releaseMatcher c).codes = s.codes := (rfl)
@[simp] theorem fillRing_codes (c : CircuitNo) : (s.fillRing c).codes = s.codes := (rfl)
@[simp] theorem markCopper_codes (p : Option CopperPosition) (c : Option CircuitNo) : (s.markCopper p c).codes = s.codes := by
  cases p <;> rfl
@[simp] theorem markFibre_codes (n : Option SlotNo) (c : Option CircuitNo) : (s.markFibre n c).codes = s.codes := by cases n <;> rfl

/-- The records written in any way that leaves the codes. -/
theorem setCircuits_codes {x : Table 512 Circuit} (h : ∀ c, (x.get c).code = s.codes.carried c) : (s.setCircuits x).codes = s.codes := by
  have hc : ((s.setCircuits x).codes).carried = s.codes.carried := funext h
  exact congrArg (CodeHolding.mk s.directory.ranges s.directory.trunks s.directory.walk.check) hc

/-- R22: a record written with the code that it carries. -/
@[simp] theorem putCircuit_codes {c : CircuitNo} {r : Circuit} (h : r.code = s.codes.carried c) : (s.putCircuit c r).codes = s.codes :=
  setCircuits_codes s fun d => by
    rw [Table.get_set]
    split
    next e => subst e; exact h
    next => rfl

@[simp] theorem putContext_codes (c : CircuitNo) (x : Context) : (s.putContext c x).codes = s.codes := putCircuit_codes s rfl

@[simp] theorem evaluateAll_codes : s.evaluateAll.codes = s.codes :=
  setCircuits_codes s fun c => by rw [Table.get_map]; rfl

/-- Any number of steps that leave the codes. -/
theorem foldl_codes {α : Type} {f : State → α → State} (h : ∀ s a, (f s a).codes = s.codes) :
    ∀ (xs : List α) (s : State), (xs.foldl f s).codes = s.codes
  | [], _ => rfl
  | x :: xs, s => (foldl_codes h xs (f s x)).trans (h s x)

/-! ### Reports, messages, watches -/

@[simp] theorem handReport_codes (b : ReportBody) : (s.handReport b).codes = s.codes := by
  unfold State.handReport
  split <;> rfl

@[simp] theorem queueMessage_codes (m : PeerMessage) : (s.queueMessage m).codes = s.codes := by
  unfold State.queueMessage
  split <;> rfl

@[simp] theorem sendFor_codes (c : CircuitNo) (m : TrunkCode → PeerMessage) : (s.sendFor c m).codes = s.codes := by
  unfold State.sendFor
  split <;> simp

@[simp] theorem sendDecline_codes (code : TrunkCode) (number : Byte) (reason : DeclineReason) :
    (s.sendDecline code number reason).codes = s.codes := by simp [State.sendDecline]

@[simp] theorem watchEvent_codes (c : CircuitNo) (cls : EventClass) (o : Option OutcomeCode) : (s.watchEvent c cls o).codes = s.codes := by
  unfold State.watchEvent
  simp only
  split <;> simp

/-! ### Starts and batches (R25, R159, R160, R162) -/

@[simp] theorem sendPropose_codes (c : CircuitNo) (number : Byte) : (s.sendPropose c number).codes = s.codes := by
  unfold State.sendPropose
  split <;> simp

@[simp] theorem startMigration_codes (c : CircuitNo) : (s.startMigration c).codes = s.codes := by
  simp [State.startMigration, circuit_code]

@[simp] theorem putBatch_codes (c : CircuitNo) (x : Option (Fin 8)) :
    (s.putCircuit c { s.circuit c with batch := x }).codes = s.codes := putCircuit_codes s rfl

/-- The memberships of a list of members written or cleared. -/
@[simp] theorem putBatches_codes (l : List Member) (x : Option (Fin 8)) :
    (l.foldl (fun s m => s.putCircuit m.circuit { s.circuit m.circuit with batch := x }) s).codes = s.codes :=
  foldl_codes (fun s m => putBatch_codes s m.circuit x) l s

@[simp] theorem closeBatch_codes (id : Fin 8) (cause : BatchCause) : (s.closeBatch id cause).codes = s.codes := by
  unfold State.closeBatch
  split <;> simp

theorem startMember_codes (id : Fin 8) (p : StartProgress) (i : Nat) : (startMember id p i).state.codes = p.state.codes := by
  unfold startMember
  repeat' split
  all_goals simp

theorem startMembers_codes (id : Fin 8) : ∀ (l : List Nat) (p : StartProgress), (l.foldl (startMember id) p).state.codes = p.state.codes
  | [], _ => rfl
  | i :: l, p => (startMembers_codes id l (startMember id p i)).trans (startMember_codes id p i)

@[simp] theorem startStep_codes (id : Fin 8) : (s.startStep id).state.codes = s.codes := by
  unfold State.startStep
  simp only
  repeat' split
  all_goals simp [startMembers_codes]

@[simp] theorem openBatch_codes (id : Fin 8) (b : Batch) : (s.openBatch id b).state.codes = s.codes := by simp [State.openBatch]

@[simp] theorem batchOutcome_codes (c : CircuitNo) (o : OutcomeRecord) : (s.batchOutcome c o).codes = s.codes := by
  unfold State.batchOutcome
  repeat' split
  all_goals simp

/-! ### Outcomes (R19) -/

@[simp] theorem watchOutcome_codes (c : CircuitNo) (code : OutcomeCode) : (s.watchOutcome c code).codes = s.codes := by
  unfold State.watchOutcome
  split <;> simp

@[simp] theorem reportOutcome_codes (c : CircuitNo) (o : OutcomeRecord) : (s.reportOutcome c o).codes = s.codes := by
  unfold State.reportOutcome
  split <;> simp

@[simp] theorem handOutcome_codes (c : CircuitNo) (o : OutcomeRecord) : (s.handOutcome c o).codes = s.codes := by
  unfold State.handOutcome
  simp only
  repeat' split
  all_goals simp

@[simp] theorem writeOutcome_codes (c : CircuitNo) (o : OutcomeRecord) : (s.writeOutcome c o).codes = s.codes := by
  simp [State.writeOutcome, circuit_code]

/-! ### Release and collapse (R46, R48, R91) -/

@[simp] theorem retireSpan_codes (n : SpanNo) : (s.retireSpan n).codes = s.codes := by simp [State.retireSpan]

@[simp] theorem autoRetire_codes (n : SpanNo) : (s.autoRetire n).codes = s.codes := by
  unfold State.autoRetire
  split <;> simp

@[simp] theorem releaseFallback_codes (c : CircuitNo) (reason : Reason) : (s.releaseFallback c reason).codes = s.codes := by
  unfold State.releaseFallback
  simp only
  repeat' split
  all_goals simp [circuit_code]

@[simp] theorem releaseTest_codes (c : CircuitNo) : (s.releaseTest c).codes = s.codes := by
  unfold State.releaseTest
  split <;> simp

@[simp] theorem collapseTest_codes (c : CircuitNo) : (s.collapseTest c).codes = s.codes := by
  unfold State.collapseTest
  simp only
  split <;> simp [circuit_code]

/-! ### Splices, abandonments and reverts (R40, R42, R49) -/

@[simp] theorem offset_codes (value : Int) (skipped : Bool) : (s.offset value skipped).1.codes = s.codes := by
  unfold State.offset
  split <;> simp

@[simp] theorem spliceOffset_codes (d : Int) : (s.spliceOffset d).1.codes = s.codes := offset_codes s _ _

@[simp] theorem revertOffset_codes (r : Circuit) : (s.revertOffset r).1.codes = s.codes := by
  unfold State.revertOffset
  split <;> simp

@[simp] theorem splice_codes (c : CircuitNo) (code : OutcomeCode) (b : Nat) (d : Option Int) (j : Option SampleOffset) :
    (s.splice c code b d j).codes = s.codes := by
  unfold State.splice
  simp only
  split <;> simp [circuit_code]

@[simp] theorem spliceSilent_codes (c : CircuitNo) : (s.spliceSilent c).codes = s.codes := splice_codes s c _ _ _ _
@[simp] theorem rescue_codes (c : CircuitNo) (handed : DelayRecord) : (s.rescue c handed).codes = s.codes := splice_codes s c _ _ _ _

@[simp] theorem spliceAligned_codes (c : CircuitNo) (code : OutcomeCode) : (s.spliceAligned c code).codes = s.codes := by
  unfold State.spliceAligned
  split <;> simp

@[simp] theorem abandon_codes (c : CircuitNo) (reason : Reason) (decline : Option DeclineReason) :
    (s.abandon c reason decline).codes = s.codes := by
  unfold State.abandon
  simp only
  split <;> simp [Circuit.backToCopper, circuit_code]

/-- R24: an attempt consumed, and what goes on then. -/
theorem consumeAttempt_codes (c : CircuitNo) (reason : Reason) {goOn : State → State} (hg : ∀ s, (goOn s).codes = s.codes) :
    (s.consumeAttempt c reason goOn).codes = s.codes := by
  unfold State.consumeAttempt
  repeat' split
  all_goals simp [hg]

@[simp] theorem revertCircuit_codes (c : CircuitNo) (reason : Reason) : (s.revertCircuit c reason).codes = s.codes := by
  unfold State.revertCircuit
  simp only
  split <;> simp [Circuit.backToCopper, circuit_code]

/-! ### Measuring and aligned (R32 to R37) -/

@[simp] theorem enterMeasuring_codes (c : CircuitNo) (sub : SubStatus) : (s.enterMeasuring c sub).codes = s.codes := by
  unfold State.enterMeasuring
  split <;> simp [circuit_code]

@[simp] theorem queueForMatch_codes (c : CircuitNo) (x : Context) : (s.queueForMatch c x).codes = s.codes := by simp [State.queueForMatch]

@[simp] theorem bridgeWaitTest_codes (c : CircuitNo) : (s.bridgeWaitTest c).codes = s.codes := by
  unfold State.bridgeWaitTest
  repeat' split
  all_goals simp

@[simp] theorem enterBridgeWait_codes (c : CircuitNo) : (s.enterBridgeWait c).codes = s.codes := by simp [State.enterBridgeWait]

@[simp] theorem requeueFull_codes (c : CircuitNo) : (s.requeueFull c).codes = s.codes := by
  unfold State.requeueFull
  split <;> simp

@[simp] theorem alignedEvaluation_codes (c : CircuitNo) : (s.alignedEvaluation c).codes = s.codes := by
  unfold State.alignedEvaluation
  simp only
  repeat' split
  all_goals simp

@[simp] theorem enterAligned_codes (c : CircuitNo) (d : Int) : (s.enterAligned c d).codes = s.codes := by
  unfold State.enterAligned
  split <;> simp [circuit_code]

@[simp] theorem takeSlippedDelta_codes (c : CircuitNo) (d : Int) : (s.takeSlippedDelta c d).codes = s.codes := by
  unfold State.takeSlippedDelta
  split
  · split
    · simp [circuit_code]
    · simp [consumeAttempt_codes]
  · rfl

/-! ### The idle and busy result, and mass events (R16, R44, R52, R53) -/

@[simp] theorem becameIdle_codes (c : CircuitNo) : (s.becameIdle c).codes = s.codes := by
  unfold State.becameIdle
  repeat' split
  all_goals simp

@[simp] theorem becameBusy_codes (c : CircuitNo) : (s.becameBusy c).codes = s.codes := by
  unfold State.becameBusy
  split <;> simp

@[simp] theorem inputChanged_codes (c : CircuitNo) (wasBusy : Bool) : (s.inputChanged c wasBusy).codes = s.codes := by
  unfold State.inputChanged
  simp only
  repeat' split
  all_goals simp

theorem spanLostFor_codes (handed : DelayRecord) (s : State) (c : CircuitNo) : (State.spanLostFor handed s c).codes = s.codes := by
  unfold State.spanLostFor
  repeat' split
  all_goals simp

@[simp] theorem spanLost_codes (n : SpanNo) (handed : DelayRecord) : (s.spanLost n handed).codes = s.codes := by
  simp [State.spanLost, foldl_codes (spanLostFor_codes handed)]

@[simp] theorem fibreLostFor_codes (c : CircuitNo) : (s.fibreLostFor c).codes = s.codes := by
  unfold State.fibreLostFor
  repeat' split
  all_goals simp

@[simp] theorem fibreLost_codes : s.fibreLost.codes = s.codes := by simp [State.fibreLost, foldl_codes fibreLostFor_codes]

@[simp] theorem linkLostFor_codes (c : CircuitNo) : (s.linkLostFor c).codes = s.codes := by
  unfold State.linkLostFor
  split <;> simp

@[simp] theorem abandonAll_codes : s.abandonAll.codes = s.codes := foldl_codes linkLostFor_codes _ s

end

end Sys2Proof.Machine
end

section
/-! SUPPORT. Every event row of the site frame, the circuits' timers, the Path Alignment Unit, the spans, the lanes and the peer link
leaves the codes, and so keeps the law of the directory (R145). -/

namespace Sys2Proof.Machine

variable {s t : State} {c : CircuitNo}

/-! ### Rows -/

theorem KeepsDirectory.refl (s : State) : KeepsDirectory s s := id

/-- A row that leaves the codes. -/
theorem answers_codes (h : t.codes = s.codes) : Answers (KeepsDirectory s) (.next t) := answers_next (keepsDirectory_of_codes h)

/-- A row that does something where its condition holds, and nothing elsewhere. -/
theorem keepsDirectory_when (b : Prop) [Decidable b] (h : b → t.codes = s.codes) :
    Answers (KeepsDirectory s) (if b then .next t else .next s) :=
  answers_ite b (fun hb => answers_codes (h hb)) fun _ => answers_codes rfl

/-! ### The site frame (R113) -/

section
variable (s)

@[simp] theorem transmitFrame_codes (switch : Table 512 ChannelInput) : (s.transmitFrame switch).codes = s.codes := (rfl)

@[simp] theorem reply_codes (port : Port) (result : ResultCode) (body : ReplyBody) : (s.reply port result body).codes = s.codes := by
  unfold State.reply
  split <;> simp

@[simp] theorem takeHead_codes (port : Port) (q : QueuedCommand) (rest : List QueuedCommand) :
    (s.takeHead port q rest).codes = s.codes := by simp [State.takeHead]

@[simp] theorem takeRefused_codes (port : Port) : (s.takeRefused port).codes = s.codes := by
  unfold State.takeRefused
  repeat' split
  all_goals simp

@[simp] theorem takeSwitchCodes_codes (switch : Table 512 ChannelInput) : (s.takeSwitchCodes switch).codes = s.codes := by
  simp [State.takeSwitchCodes]

@[simp] theorem startUpFrame_codes : s.startUpFrame.codes = s.codes := (rfl)

theorem Walk.tick_check (w : Walk) : w.tick.check = w.check := by cases w <;> rfl

/-- R113: a frame moves the timers of the records and of the walk. -/
@[simp] theorem tickAll_codes : s.tickAll.codes = s.codes := by
  have hcirc : ∀ c, (s.tickAll.circuit c).code = (s.circuit c).code := fun c => by
    rw [show s.tickAll.circuit c = (s.circuit c).tick from Table.get_map ..]
    rfl
  simp only [State.codes, CodeHolding.mk.injEq]
  exact ⟨rfl, rfl, Walk.tick_check _, funext hcirc⟩

@[simp] theorem advanceClock_codes : s.advanceClock.codes = s.codes := (rfl)
@[simp] theorem readStores_codes : s.readStores.codes = s.codes := (rfl)
@[simp] theorem takeSlots_codes : s.takeSlots.codes = s.codes := (rfl)
@[simp] theorem frameUnits_codes : s.frameUnits.codes = s.codes := (rfl)
@[simp] theorem flagClearUnits_codes (content : SlotNo → SlotContent) : (s.flagClearUnits content).codes = s.codes := (rfl)
@[simp] theorem selectRoutes_codes : s.selectRoutes.codes = s.codes := by simp [State.selectRoutes]

@[simp] theorem writeRings_codes : s.writeRings.codes = s.codes := by
  unfold State.writeRings
  split <;> simp

@[simp] theorem frameWork_codes (switch : Table 512 ChannelInput) : (s.frameWork switch).codes = s.codes := by simp [State.frameWork]

@[simp] theorem slipCircuit_codes (kind : SlipKind) (c : CircuitNo) : (State.slipCircuit kind s c).codes = s.codes := by
  unfold State.slipCircuit
  repeat' split
  all_goals simp

@[simp] theorem slipAlign_codes (n : SpanNo) (kind : SlipKind) : (s.slipAlign n kind).codes = s.codes :=
  foldl_codes (fun s c => slipCircuit_codes s kind c) _ (s.slipUnits n kind)

@[simp] theorem slipReport_codes (n : SpanNo) (kind : SlipKind) (fill : Nat) (record : DelayRecord) :
    (s.slipReport n kind fill record).codes = s.codes := by
  unfold State.slipReport
  split <;> simp

@[simp] theorem slipStep_codes (n : SpanNo) (kind : SlipKind) (fill : Nat) : (s.slipStep n kind fill).codes = s.codes := by
  have hwatch : ∀ (l : List CircuitNo) (s : State), (l.foldl (fun s c => s.watchEvent c .slip none) s).codes = s.codes :=
    foldl_codes fun s c => watchEvent_codes s c _ _
  unfold State.slipStep
  simp only
  repeat' split
  all_goals simp [hwatch]

/-! ### A circuit's timers -/

@[simp] theorem backOff_codes (c : CircuitNo) : (s.backOff c).codes = s.codes := by
  unfold State.backOff
  split <;> simp

end

theorem powerOnReset_keepsDirectory (primary craft : Straps) (s : State) :
    Answers (KeepsDirectory s) (execPowerOnReset primary craft s) := answers_next fun _ => (isReset_resetWith ..).directoryLaw

theorem startUpEnd_keepsDirectory (s : State) : Answers (KeepsDirectory s) (execStartUpEnd s) := keepsDirectory_when _ fun _ => by simp

theorem siteFrame_keepsDirectory (switch : Table 512 ChannelInput) (s : State) :
    Answers (KeepsDirectory s) (execSiteFrame switch s) := by
  refine answers_ite _ (fun _ => answers_codes ?_) fun _ => answers_ite _ (fun _ => answers_codes ?_) fun _ => answers_codes ?_
  · exact (foldl_codes (fun s n => slipStep_codes s n _ _) _ _).trans (frameWork_codes s switch)
  · simp
  · simp

theorem switchLineConditionChange_keepsDirectory (c : CircuitNo) (s : State) :
    Answers (KeepsDirectory s) (execSwitchLineConditionChange c s) := keepsDirectory_when _ fun _ => by simp

theorem targetReached_keepsDirectory (c : CircuitNo) (s : State) : Answers (KeepsDirectory s) (execTargetReached c s) := by
  unfold execTargetReached State.atTarget
  repeat' split
  all_goals exact answers_codes (by simp)

theorem responseTimerExpiry_keepsDirectory (c : CircuitNo) (s : State) :
    Answers (KeepsDirectory s) (execResponseTimerExpiry c s) := by
  unfold execResponseTimerExpiry
  simp only
  repeat' split
  all_goals exact answers_codes (by simp [consumeAttempt_codes])

theorem retryBackoffExpiry_keepsDirectory (c : CircuitNo) (s : State) : Answers (KeepsDirectory s) (execRetryBackoffExpiry c s) := by
  unfold execRetryBackoffExpiry
  simp only
  repeat' split
  all_goals exact answers_codes (by simp)

theorem bridgeLimitExpiry_keepsDirectory (c : CircuitNo) (s : State) : Answers (KeepsDirectory s) (execBridgeLimitExpiry c s) :=
  keepsDirectory_when _ fun _ => by simp

theorem deferLimitExpiry_keepsDirectory (c : CircuitNo) (s : State) : Answers (KeepsDirectory s) (execDeferLimitExpiry c s) :=
  keepsDirectory_when _ fun _ => by simp

theorem fallbackHoldExpiry_keepsDirectory (c : CircuitNo) (s : State) : Answers (KeepsDirectory s) (execFallbackHoldExpiry c s) := by
  unfold execFallbackHoldExpiry
  repeat' split
  all_goals exact answers_codes (by simp)

theorem drainEnd_keepsDirectory (c : CircuitNo) (s : State) : Answers (KeepsDirectory s) (execDrainEnd c s) := by
  unfold execDrainEnd
  repeat' split
  all_goals exact answers_codes (by simp [circuit_code])

/-! ### The Path Alignment Unit (chapter 3) -/

section
variable (s)

@[simp] theorem setMatching_codes (c : CircuitNo) : (s.setMatching c).codes = s.codes := by
  unfold State.setMatching
  repeat' split
  all_goals simp

@[simp] theorem writeMatch_codes (c : CircuitNo) (d : Int) : (s.writeMatch c d).codes = s.codes := by
  unfold State.writeMatch
  split <;> simp

@[simp] theorem staleRecord_codes (c : CircuitNo) : (s.staleRecord c).codes = s.codes := by
  unfold State.staleRecord
  split <;> simp

@[simp] theorem matchFailed_codes (c : CircuitNo) (reason : Reason) : (s.matchFailed c reason).codes = s.codes := by
  unfold State.matchFailed
  split
  · simp
  · exact consumeAttempt_codes s c reason fun s => by split <;> simp

@[simp] theorem takeMatch_codes (c : CircuitNo) (x : Context) (result : MatchResult) : (s.takeMatch c x result).codes = s.codes := by
  cases result <;> simp [State.takeMatch]

end

theorem matcherStart_keepsDirectory (s : State) : Answers (KeepsDirectory s) (execMatcherStart s) := by
  unfold execMatcherStart
  simp only
  repeat' split
  all_goals exact answers_codes (by simp)

theorem primingComplete_keepsDirectory (v : UnitNo) (s : State) : Answers (KeepsDirectory s) (execPrimingComplete v s) :=
  keepsDirectory_when _ fun _ => by simp

theorem windowEnd_keepsDirectory (v : UnitNo) (s : State) : Answers (KeepsDirectory s) (execWindowEnd v s) := by
  unfold execWindowEnd
  simp only
  repeat' split
  all_goals exact answers_codes (by simp)

theorem matchOutcome_keepsDirectory (v : UnitNo) (s : State) : Answers (KeepsDirectory s) (execMatchOutcome v s) := by
  unfold execMatchOutcome
  repeat' split
  all_goals exact answers_codes (by simp)

theorem servicePauseEnd_keepsDirectory (s : State) : Answers (KeepsDirectory s) (execServicePauseEnd s) :=
  keepsDirectory_when _ fun _ => by simp

/-! ### Spans (chapter 4) -/

section
variable (s)

@[simp] theorem takeCopperCode_codes (n : SpanNo) (x : TimeslotNo × LineCondition) : (State.takeCopperCode n s x).codes = s.codes := by
  unfold State.takeCopperCode
  simp only
  repeat' split
  all_goals simp

@[simp] theorem signalFrame_codes (n : SpanNo) (f : SpanFrame) : (s.signalFrame n f).codes = s.codes := by
  have htake : ∀ (l : List (TimeslotNo × LineCondition)) (s : State), (l.foldl (State.takeCopperCode n) s).codes = s.codes :=
    foldl_codes fun s x => takeCopperCode_codes s n x
  unfold State.signalFrame State.endMultiframe
  simp only
  repeat' split
  all_goals simp [htake]

@[simp] theorem storeFrame_codes (n : SpanNo) (f : SpanFrame) : (s.storeFrame n f).codes = s.codes := by
  unfold State.storeFrame
  simp only
  repeat' split
  all_goals simp

@[simp] theorem upFrame_codes (n : SpanNo) (f : SpanFrame) : (s.upFrame n f).codes = s.codes := by simp [State.upFrame]

@[simp] theorem spanLowered_codes (n : SpanNo) (cause : SpanDownCause) : (s.spanLowered n cause).codes = s.codes := by
  simp [State.spanLowered]

@[simp] theorem signalLost_codes (n : SpanNo) : (s.signalLost n).codes = s.codes := by
  unfold State.signalLost
  split <;> simp

@[simp] theorem restart_codes (n : SpanNo) : (s.restart n).codes = s.codes := by
  unfold State.restart
  split <;> simp

end

theorem spanFrameReceived_keepsDirectory (n : SpanNo) (f : SpanFrame) (s : State) :
    Answers (KeepsDirectory s) (execSpanFrameReceived n f s) := by
  unfold execSpanFrameReceived
  repeat' split
  all_goals exact answers_codes (by simp)

theorem frameAlignmentFound_keepsDirectory (n : SpanNo) (s : State) : Answers (KeepsDirectory s) (execFrameAlignmentFound n s) :=
  keepsDirectory_when _ fun _ => by simp

theorem multiframeHuntLoss_keepsDirectory (n : SpanNo) (s : State) : Answers (KeepsDirectory s) (execMultiframeHuntLoss n s) :=
  keepsDirectory_when _ fun _ => by simp

theorem spanUp_keepsDirectory (n : SpanNo) (s : State) : Answers (KeepsDirectory s) (execSpanUp n s) :=
  keepsDirectory_when _ fun _ => by simp [State.spanRaised]

theorem spanLossOfSignal_keepsDirectory (n : SpanNo) (s : State) : Answers (KeepsDirectory s) (execSpanLossOfSignal n s) :=
  answers_codes (by simp)

theorem spanBadAlignment_keepsDirectory (n : SpanNo) (s : State) : Answers (KeepsDirectory s) (execSpanBadAlignment n s) :=
  keepsDirectory_when _ fun _ => by simp

theorem spanSignalReturn_keepsDirectory (n : SpanNo) (s : State) : Answers (KeepsDirectory s) (execSpanSignalReturn n s) :=
  answers_codes (by simp)

/-! ### The working lane and the lanes (chapter 5) -/

section
variable (s)

@[simp] theorem staleRecords_codes : s.staleRecords.codes = s.codes := (rfl)

/-- R70: the Δ removed leaves the code. -/
theorem Circuit.laneChanged_code (r : Circuit) : r.laneChanged.code = r.code := by
  unfold Circuit.laneChanged
  split <;> rfl

@[simp] theorem laneChangeAlign_codes : s.laneChangeAlign.codes = s.codes := by
  unfold State.laneChangeAlign
  exact setCircuits_codes _ fun c => (congrArg Circuit.code (Table.get_map ..)).trans (Circuit.laneChanged_code _)

@[simp] theorem requeueFor_codes (c : CircuitNo) : (s.requeueFor c).codes = s.codes := by
  unfold State.requeueFor
  split <;> simp

@[simp] theorem requeueAligned_codes : s.requeueAligned.codes = s.codes := foldl_codes requeueFor_codes _ s

@[simp] theorem changeWorking_codes (cause : WorkingCause) : (s.changeWorking cause).codes = s.codes := by
  simp [State.changeWorking]

@[simp] theorem workingTest_codes (cause : WorkingCause) : (s.workingTest cause).codes = s.codes := by
  unfold State.workingTest
  split <;> simp

@[simp] theorem laneState_codes (i : Lane) (after : LaneRecord) (cause : LaneCause) : (s.laneState i after cause).codes = s.codes := by
  simp [State.laneState]

@[simp] theorem availability_codes (wasUp : Bool) : (s.availability wasUp).codes = s.codes := by
  unfold State.availability State.fibreUnavailable
  repeat' split
  all_goals simp

@[simp] theorem idleRings_codes : s.idleRings.codes = s.codes := by simp [State.idleRings]
@[simp] theorem idleSlots_codes : s.idleSlots.codes = s.codes := (rfl)
@[simp] theorem idleRoutes_codes : s.idleRoutes.codes = s.codes := by simp [State.idleRoutes]
@[simp] theorem idleFrame_codes : s.idleFrame.codes = s.codes := by simp [State.idleFrame]

@[simp] theorem laneRaised_codes (i : Lane) : (s.laneRaised i).codes = s.codes := by simp [State.laneRaised]

@[simp] theorem laneLowered_codes (i : Lane) (cause : LaneCause) : (s.laneLowered i cause).codes = s.codes := by
  unfold State.laneLowered
  simp only
  split <;> simp

@[simp] theorem laneGraded_codes (i : Lane) (after : LaneRecord) (cause : LaneCause) : (s.laneGraded i after cause).codes = s.codes := by
  simp [State.laneGraded]

@[simp] theorem deliver_codes (seq : Byte) (body : List Byte) : (s.deliver seq body).codes = s.codes := by
  unfold State.deliver
  simp only
  repeat' split
  all_goals simp

@[simp] theorem receiveOverhead_codes (i : Lane) (bytes : List Byte) : (s.receiveOverhead i bytes).codes = s.codes := by
  have hdeliver : ∀ (l : List (Byte × List Byte)) (s : State), (l.foldl (fun s m => s.deliver m.1 m.2) s).codes = s.codes :=
    foldl_codes fun s m => deliver_codes s m.1 m.2
  unfold State.receiveOverhead
  simp only
  split <;> simp [hdeliver]

@[simp] theorem updateSlot_codes (n : SlotNo) (f : SlotRecognition → SlotRecognition) : (s.updateSlot n f).codes = s.codes := (rfl)

@[simp] theorem flagRecognised_codes (c : CircuitNo) : (s.flagRecognised c).codes = s.codes := by
  unfold State.flagRecognised
  split <;> simp

end

theorem laneFrameReceived_keepsDirectory (i : Lane) (f : LaneFrame) (s : State) :
    Answers (KeepsDirectory s) (execLaneFrameReceived i f s) := by
  unfold execLaneFrameReceived
  simp only
  repeat' split
  all_goals exact answers_codes (by simp)

theorem slotLineConditionChange_keepsDirectory (n : SlotNo) (s : State) :
    Answers (KeepsDirectory s) (execSlotLineConditionChange n s) := by
  unfold execSlotLineConditionChange
  simp only
  repeat' split
  all_goals exact answers_codes (by simp)

theorem bridgeFlagRecognised_keepsDirectory (n : SlotNo) (s : State) :
    Answers (KeepsDirectory s) (execBridgeFlagRecognised n s) := by
  unfold execBridgeFlagRecognised
  simp only
  repeat' split
  all_goals exact answers_codes (by simp)

theorem laneUp_keepsDirectory (i : Lane) (s : State) : Answers (KeepsDirectory s) (execLaneUp i s) :=
  keepsDirectory_when _ fun _ => by simp

theorem laneLossOfLight_keepsDirectory (i : Lane) (s : State) : Answers (KeepsDirectory s) (execLaneLossOfLight i s) :=
  answers_ite _ (fun _ => answers_codes (by simp)) fun _ => answers_codes (by simp)

theorem laneAlignmentLoss_keepsDirectory (i : Lane) (s : State) : Answers (KeepsDirectory s) (execLaneAlignmentLoss i s) :=
  keepsDirectory_when _ fun _ => by simp

theorem laneDegraded_keepsDirectory (i : Lane) (s : State) : Answers (KeepsDirectory s) (execLaneDegraded i s) :=
  keepsDirectory_when _ fun _ => by simp

theorem errorIntervalEnd_keepsDirectory (i : Lane) (s : State) : Answers (KeepsDirectory s) (execErrorIntervalEnd i s) := by
  unfold execErrorIntervalEnd
  repeat' split
  all_goals exact answers_codes (by simp)

theorem laneLightReturn_keepsDirectory (i : Lane) (s : State) : Answers (KeepsDirectory s) (execLaneLightReturn i s) :=
  answers_codes (by simp)

theorem holdOffExpiry_keepsDirectory (s : State) : Answers (KeepsDirectory s) (execHoldOffExpiry s) :=
  keepsDirectory_when _ fun _ => by simp

theorem duplicateWindowExpiry_keepsDirectory (s : State) : Answers (KeepsDirectory s) (execDuplicateWindowExpiry s) :=
  keepsDirectory_when _ fun _ => by simp

end Sys2Proof.Machine
end

section
/-! SUPPORT. Every row of the peer link and the management links, and every command that writes no entry of the directory, leaves the
codes, and so keeps the law of the directory (R145). -/

namespace Sys2Proof.Machine

variable {s t : State} {c : CircuitNo}

/-! ### The peer link (chapter 6) -/

section
variable (s)

@[simp] theorem sendHello_codes : s.sendHello.codes = s.codes := by simp [State.sendHello]

@[simp] theorem leaveUp_codes (after : LinkState) (kind : Nat → PeerReportKind) : (s.leaveUp after kind).codes = s.codes := by
  simp [State.leaveUp, State.peerReport]

@[simp] theorem enterUp_codes (node : Nat) (mode : HandshakeMode) : (s.enterUp node mode).codes = s.codes := by
  simp [State.enterUp, State.peerReport]

@[simp] theorem linkDown_codes (cause : PeerDownCause) : (s.linkDown cause).codes = s.codes := by
  unfold State.linkDown
  split <;> simp [State.peerReport]

@[simp] theorem judgeHello_codes (node : Nat) (mode : HandshakeMode) : (s.judgeHello node mode).codes = s.codes := by
  unfold State.judgeHello
  repeat' split
  all_goals simp [State.peerReport]

@[simp] theorem takeHello_codes (node : Nat) (mode : HandshakeMode) : (s.takeHello node mode).codes = s.codes := by
  unfold State.takeHello
  simp only
  split <;> simp

end

theorem helloTimerExpiry_keepsDirectory (s : State) : Answers (KeepsDirectory s) (execHelloTimerExpiry s) :=
  keepsDirectory_when _ fun _ => by simp

theorem silenceExpiry_keepsDirectory (s : State) : Answers (KeepsDirectory s) (execSilenceExpiry s) :=
  keepsDirectory_when _ fun _ => by simp

/-! ### Received messages (R124, R128 to R138) -/

section
variable (s)

@[simp] theorem countUnresolved_codes : s.countUnresolved.codes = s.codes := (rfl)
@[simp] theorem countIgnored_codes : s.countIgnored.codes = s.codes := (rfl)
@[simp] theorem countStale_codes : s.countStale.codes = s.codes := (rfl)
@[simp] theorem countInapplicable_codes : s.countInapplicable.codes = s.codes := (rfl)

/-- R124, R144: a miss of the directory writes no entry. -/
theorem dispatch_codes (m : PeerMessage) (code : TrunkCode) {miss : State → State} {rule : CircuitNo → State → State}
    (hm : ∀ s, (miss s).codes = s.codes) (hr : ∀ c s, (rule c s).codes = s.codes) : (dispatch m code miss rule s).codes = s.codes := by
  unfold dispatch
  repeat' split
  all_goals simp [hm, hr]

@[simp] theorem acceptorGoesOn_codes (c : CircuitNo) : (s.acceptorGoesOn c).codes = s.codes := by
  unfold State.acceptorGoesOn
  split <;> simp [circuit_code]

@[simp] theorem attachProposed_codes (c : CircuitNo) (slot : SlotNo) : (s.attachProposed c slot).codes = s.codes := by
  unfold State.attachProposed
  split <;> simp [circuit_code]

@[simp] theorem acceptProposal_codes (c : CircuitNo) (code : TrunkCode) (slot : SlotNo) (number : Byte) :
    (s.acceptProposal c code slot number).codes = s.codes := by simp [State.acceptProposal, circuit_code]

@[simp] theorem yieldTo_codes (c : CircuitNo) (code : TrunkCode) (slot : SlotNo) (number : Byte) :
    (s.yieldTo c code slot number).codes = s.codes := by
  unfold State.yieldTo
  split <;> simp [circuit_code]

@[simp] theorem takePropose_codes (c : CircuitNo) (code : TrunkCode) (slot : SlotNo) (number : Byte) :
    (s.takePropose c code slot number).codes = s.codes := by
  unfold State.takePropose State.proposeToCopper State.collide State.proposeAgain State.repeatProposal
  simp only
  repeat' split
  all_goals simp

@[simp] theorem accepted_codes (c : CircuitNo) (number : Byte) : (s.accepted c number).codes = s.codes := by
  unfold State.accepted
  simp only
  split <;> simp [circuit_code]

@[simp] theorem takeAccept_codes (c : CircuitNo) (slot : SlotNo) (number : Byte) : (s.takeAccept c slot number).codes = s.codes := by
  unfold State.takeAccept
  repeat' split
  all_goals simp

@[simp] theorem takeDecline_codes (c : CircuitNo) (code : TrunkCode) (number : Byte) (reason : DeclineReason) :
    (s.takeDecline c code number reason).codes = s.codes := by
  unfold State.takeDecline
  repeat' split
  all_goals simp

@[simp] theorem takeConfirm_codes (c : CircuitNo) (number : Byte) : (s.takeConfirm c number).codes = s.codes := by
  unfold State.takeConfirm
  repeat' split
  all_goals simp

@[simp] theorem takeSpliced_codes (c : CircuitNo) : (s.takeSpliced c).codes = s.codes := by
  unfold State.takeSpliced
  split <;> simp

@[simp] theorem takeAbandon_codes (c : CircuitNo) (code : TrunkCode) (reason : Reason) : (s.takeAbandon c code reason).codes = s.codes := by
  unfold State.takeAbandon
  simp only
  repeat' split
  all_goals simp

@[simp] theorem noFallback_codes (code : TrunkCode) : (State.noFallback code s).codes = s.codes := by simp [State.noFallback]

@[simp] theorem takeRevert_codes (c : CircuitNo) (code : TrunkCode) : (s.takeRevert c code).codes = s.codes := by
  unfold State.takeRevert
  repeat' split
  all_goals simp

@[simp] theorem takeRevertDone_codes (c : CircuitNo) : (s.takeRevertDone c).codes = s.codes := by
  unfold State.takeRevertDone
  split <;> simp [circuit_code]

@[simp] theorem takeRelease_codes (c : CircuitNo) : (s.takeRelease c).codes = s.codes := by
  unfold State.takeRelease
  split <;> simp

end

theorem takeMessage_keepsDirectory (m : PeerMessage) {rule : State → State} (hr : ∀ s, (rule s).codes = s.codes) (s : State) :
    Answers (KeepsDirectory s) (takeMessage m rule s) := by
  unfold takeMessage
  repeat' split
  all_goals exact answers_codes (by simp [hr])

/-- A message for a circuit that is counted as unresolved when its code resolves to none. -/
theorem received_keepsDirectory (m : PeerMessage) (code : TrunkCode) {rule : CircuitNo → State → State}
    (hr : ∀ c s, (rule c s).codes = s.codes) (s : State) :
    Answers (KeepsDirectory s) (takeMessage m (dispatch m code State.countUnresolved rule) s) :=
  takeMessage_keepsDirectory m (fun s => dispatch_codes s m code countUnresolved_codes hr) s

theorem receivedPropose_keepsDirectory (code : TrunkCode) (slot : SlotNo) (number : Byte) (s : State) :
    Answers (KeepsDirectory s) (execReceivedPropose code slot number s) := by
  refine takeMessage_keepsDirectory _ (fun s => ?_) s
  unfold State.judgePropose
  split
  · simp
  · exact dispatch_codes s _ _ (fun s => by simp) fun c s => takePropose_codes s c code slot number

theorem receivedRevert_keepsDirectory (code : TrunkCode) (s : State) : Answers (KeepsDirectory s) (execReceivedRevert code s) :=
  takeMessage_keepsDirectory _ (fun s => dispatch_codes s _ _ (fun s => by simp) fun c s => takeRevert_codes s c code) s

/-! ### The management links (R175 to R184) -/

section
variable (s)

@[simp] theorem pend_codes (port : Port) : (s.pend port).codes = s.codes := by
  unfold State.pend
  split <;> simp

@[simp] theorem startReport_codes (port : Port) : (s.startReport port).codes = s.codes := by
  unfold State.startReport
  split <;> simp

@[simp] theorem endReply_codes (port : Port) : (s.endReply port).codes = s.codes := by simp [State.endReply]

theorem finish_codes (h : Handled) (port : Port) : (h.finish port).codes = h.1.codes := by
  unfold Handled.finish
  split <;> simp

end

theorem managementFrameReceived_keepsDirectory (port : Port) (bytes : List LinkByte) (s : State) :
    Answers (KeepsDirectory s) (execManagementFrameReceived port bytes s) :=
  answers_codes (foldl_codes (fun s b => by simp [State.receiveByte]) bytes s)

theorem interByteTimeout_keepsDirectory (port : Port) (s : State) : Answers (KeepsDirectory s) (execInterByteTimeout port s) :=
  keepsDirectory_when _ fun _ => by simp

theorem frameTransmitStart_keepsDirectory (port : Port) (s : State) :
    Answers (KeepsDirectory s) (execFrameTransmitStart port s) := by
  unfold execFrameTransmitStart
  repeat' split
  all_goals exact answers_codes (by simp)

theorem frameTransmitEnd_keepsDirectory (port : Port) (s : State) : Answers (KeepsDirectory s) (execFrameTransmitEnd port s) := by
  unfold execFrameTransmitEnd
  repeat' split
  · exact answers_next fun _ => (isReset_resetWith ..).directoryLaw
  all_goals exact answers_codes (by simp)

/-! ### How a command runs (R178, R25) -/

/-- R178: what a command's rule keeps, the command keeps. -/
theorem runCommand_keepsDirectory {rule : State → Handled} (hr : ∀ s, KeepsDirectory s (rule s).1) (i : Instr) (port : Port) (s : State) :
    Answers (KeepsDirectory s) (runCommand i port rule s) := by
  unfold runCommand
  split
  next q rest _ =>
    have hq : KeepsDirectory s (s.takeHead port q rest) := keepsDirectory_of_codes (takeHead_codes s port q rest)
    refine answers_ite _ (fun _ => answers_ite _ (fun _ => answers_next ?_) fun _ => answers_next ?_) fun _ => answers_codes rfl
    · exact hq.trans (keepsDirectory_of_codes (reply_codes _ port _ _))
    · exact (hq.trans (hr _)).trans (keepsDirectory_of_codes (finish_codes _ port))
  next => exact answers_codes rfl

/-- A command whose rule leaves the codes. -/
theorem runCommand_codes {rule : State → Handled} (hr : ∀ s, (rule s).1.codes = s.codes) (i : Instr) (port : Port) (s : State) :
    Answers (KeepsDirectory s) (runCommand i port rule s) := runCommand_keepsDirectory (fun s => keepsDirectory_of_codes (hr s)) i port s

theorem withSelector_codes {rule : CircuitNo → Handled} (hr : ∀ c, (rule c).1.codes = s.codes) (port : Port) (type : Byte)
    (sel : Selector) : (s.withSelector port type sel rule).1.codes = s.codes := by
  unfold State.withSelector
  split <;> simp [hr]

theorem withLane_codes {rule : Lane → Handled} (hr : ∀ i, (rule i).1.codes = s.codes) (lane : Nat) :
    (withLane s lane rule).1.codes = s.codes := by
  unfold withLane
  split <;> simp [hr]

/-! ### The commands on circuits (R10 to R13, R20, R25, R39, R43, R47, R50, R171) -/

section
variable (s)

@[simp] theorem attach_codes (c : CircuitNo) (p : Option CopperPosition) (n : Option SlotNo) : (s.attach c p n).codes = s.codes := by
  have hcode : ((s.circuit c).attached p n).code = (s.circuit c).code := by cases p <;> rfl
  unfold State.attach
  simp only
  split <;> simp [hcode, circuit_code]

theorem ruleAttach_codes (circuit : Nat) (copper : Option (Nat × Nat)) (fibre : Option Nat) :
    (ruleAttach circuit copper fibre s).1.codes = s.codes := by
  unfold ruleAttach State.attachChecked
  simp only
  repeat' split
  all_goals simp

@[simp] theorem detach_codes (c : CircuitNo) (copper fibre : Bool) : (s.detach c copper fibre).codes = s.codes := by
  have hcode : ((s.circuit c).detached copper fibre).code = (s.circuit c).code := by
    have hfibre : ((s.circuit c).withoutFibre).code = (s.circuit c).code := by
      unfold Circuit.withoutFibre
      split <;> rfl
    cases copper <;> cases fibre <;> simp [Circuit.detached, Circuit.withoutCopper, hfibre]
  simp [detach_eq, hcode, circuit_code]

theorem ruleDetach_codes (circuit : Nat) (copper fibre : Bool) : (ruleDetach circuit copper fibre s).1.codes = s.codes := by
  unfold ruleDetach
  repeat' split
  all_goals simp

@[simp] theorem activate_codes (c : CircuitNo) : (s.activate c).codes = s.codes := by simp [State.activate, circuit_code]

theorem ruleActivate_codes (circuit : Nat) : (ruleActivate circuit s).1.codes = s.codes := by
  unfold ruleActivate
  repeat' split
  all_goals simp

@[simp] theorem setOptions_codes (c : CircuitNo) (notify autoRelease : Option Bool) (hold : Option Nat) (inhibit : Option Bool) :
    (s.setOptions c notify autoRelease hold inhibit).codes = s.codes := by
  unfold State.setOptions
  simp only
  split <;> simp [Circuit.withOptions, circuit_code]

theorem ruleSetCircuit_codes (circuit : Nat) (notify autoRelease : Option Bool) (hold : Option Nat) (inhibit : Option Bool) :
    (ruleSetCircuit circuit notify autoRelease hold inhibit s).1.codes = s.codes := by
  unfold ruleSetCircuit
  repeat' split
  all_goals simp

theorem ruleQueryCircuit_codes (circuit : Nat) (clear : Bool) : (ruleQueryCircuit circuit clear s).1.codes = s.codes := by
  unfold ruleQueryCircuit
  split
  · cases clear <;> simp [State.clearChanged, circuit_code]
  · simp

theorem ruleMigrate_codes (port : Port) (sel : Selector) : (ruleMigrate port sel s).1.codes = s.codes := by
  refine withSelector_codes (fun c => ?_) _ _ _
  unfold State.migrate
  split <;> simp

theorem ruleAbandon_codes (port : Port) (sel : Selector) : (ruleAbandon port sel s).1.codes = s.codes := by
  refine withSelector_codes (fun c => ?_) _ _ _
  split <;> simp

theorem ruleRevert_codes (port : Port) (sel : Selector) : (ruleRevert port sel s).1.codes = s.codes := by
  refine withSelector_codes (fun c => ?_) _ _ _
  unfold State.revert
  repeat' split
  all_goals simp

theorem ruleRelease_codes (port : Port) (sel : Selector) : (ruleRelease port sel s).1.codes = s.codes := by
  refine withSelector_codes (fun c => ?_) _ _ _
  split <;> simp

theorem ruleResume_codes (port : Port) (sel : Selector) : (ruleResume port sel s).1.codes = s.codes := by
  refine withSelector_codes (fun c => ?_) _ _ _
  unfold State.resume
  repeat' split
  all_goals simp

@[simp] theorem fillAttachedRing_codes (c : CircuitNo) : (s.fillAttachedRing c).codes = s.codes := by
  unfold State.fillAttachedRing
  split <;> simp

@[simp] theorem exchangeCopper_codes (a b : CircuitNo) : (s.exchangeCopper a b).codes = s.codes := by
  simp [State.exchangeCopper, Circuit.withCopper, circuit_code]

@[simp] theorem exchangeFibre_codes (a b : CircuitNo) : (s.exchangeFibre a b).codes = s.codes := by
  simp [State.exchangeFibre, circuit_code]

theorem ruleExchange_codes (kind a stateA b stateB : Nat) : (ruleExchange kind a stateA b stateB s).1.codes = s.codes := by
  unfold ruleExchange State.exchange
  repeat' split
  all_goals simp

/-! ### The commands of the other blocks -/

theorem ruleQueryAlignment_codes (circuit first : Option Nat) : (ruleQueryAlignment circuit first s).1.codes = s.codes := by
  unfold ruleQueryAlignment
  repeat' split
  all_goals simp

theorem examineEntries_codes {port : Port} {h : Handled} : ∀ (entries : List Selector) (done : List CircuitNo),
    s.examineEntries port done entries = .error h → h.1.codes = s.codes
  | [], _, e => by cases e
  | entry :: rest, done, e => by
    unfold State.examineEntries at e
    repeat' split at e
    · cases e
      cases entry
      · rfl
      · exact recordMiss_codes s _ _ _
    · cases e; rfl
    · cases e; rfl
    · cases e; rfl
    · exact examineEntries_codes rest _ e

theorem ruleOpenBatch_codes (port : Port) (tag : Byte) (batch mode limit : Nat) (entries : List Selector) :
    (ruleOpenBatch port tag batch mode limit entries s).1.codes = s.codes := by
  unfold ruleOpenBatch
  repeat' split
  iterate 6 exact rfl
  next e => exact examineEntries_codes s _ _ e
  next => simp

theorem ruleCancelBatch_codes (batch : Nat) : (ruleCancelBatch batch s).1.codes = s.codes := by
  unfold ruleCancelBatch
  repeat' split
  all_goals simp

theorem ruleBatchStatus_codes (batch : Nat) : (ruleBatchStatus batch s).1.codes = s.codes := by
  unfold ruleBatchStatus
  repeat' split
  all_goals simp

theorem ruleSetWatch_codes (watch : Nat) (p : WatchSettings) : (ruleSetWatch watch p s).1.codes = s.codes := by
  unfold ruleSetWatch
  repeat' split
  all_goals simp

theorem ruleWatchStatus_codes (clear : Nat) : (ruleWatchStatus clear s).1.codes = s.codes := by
  unfold ruleWatchStatus
  split <;> simp

@[simp] theorem writeNode_codes (p : NodeSettings) : (s.writeNode p).codes = s.codes := by
  unfold State.writeNode State.localChange State.rehello
  simp only
  repeat' split
  all_goals simp

theorem ruleSetNode_codes (p : NodeSettings) : (ruleSetNode p s).1.codes = s.codes := by
  unfold ruleSetNode
  repeat' split
  all_goals simp

theorem rulePeerStatus_codes (clear : Bool) : (rulePeerStatus clear s).1.codes = s.codes := by cases clear <;> simp [rulePeerStatus]

theorem ruleLinkStatus_codes (clear : Bool) : (ruleLinkStatus clear s).1.codes = s.codes := by cases clear <;> simp [ruleLinkStatus]

theorem ruleSetSpan_codes (span : Nat) (p : SpanSettings) : (ruleSetSpan span p s).1.codes = s.codes := by
  unfold ruleSetSpan
  simp only
  repeat' split
  all_goals simp

theorem ruleSpanStatus_codes (span : Nat) : (ruleSpanStatus span s).1.codes = s.codes := by
  unfold ruleSpanStatus
  split <;> simp

theorem ruleRestartSpan_codes (span : Nat) : (ruleRestartSpan span s).1.codes = s.codes := by
  unfold ruleRestartSpan
  split <;> simp

theorem ruleRetireSpan_codes (span : Nat) : (ruleRetireSpan span s).1.codes = s.codes := by
  unfold ruleRetireSpan
  repeat' split
  all_goals simp

theorem ruleSelect_codes (lane : Nat) : (ruleSelect lane s).1.codes = s.codes := by
  refine withLane_codes (fun i => ?_) lane
  repeat' split
  all_goals simp

@[simp] theorem setLockout_codes (i : Lane) (flag : Bool) (cause : WorkingCause) : (s.setLockout i flag cause).codes = s.codes := by
  simp [State.setLockout]

theorem ruleLockout_codes (lane : Nat) : (ruleLockout lane s).1.codes = s.codes := by
  refine withLane_codes (fun i => ?_) lane
  repeat' split
  all_goals simp

theorem ruleClear_codes (lane : Nat) : (ruleClear lane s).1.codes = s.codes := by
  refine withLane_codes (fun i => ?_) lane
  split <;> simp

@[simp] theorem setShutdown_codes (i : Lane) (flag : Bool) : (s.setShutdown i flag).codes = s.codes := by simp [State.setShutdown]

theorem ruleShut_codes (lane : Nat) : (ruleShut lane s).1.codes = s.codes := by
  refine withLane_codes (fun i => ?_) lane
  repeat' split
  all_goals simp

theorem ruleRestore_codes (lane : Nat) : (ruleRestore lane s).1.codes = s.codes := withLane_codes (fun i => by simp) lane

/-- R72: a load of FC moves the targets, the rings and the histories alone. -/
@[simp] theorem shiftFrameClock_codes (shift : FrameCount) : (s.shiftFrameClock shift).codes = s.codes := by
  unfold State.shiftFrameClock
  exact setCircuits_codes _ fun c => by rw [Table.get_map]; rfl

theorem ruleSetFrameClock_codes (value : FrameCount) : (ruleSetFrameClock value s).1.codes = s.codes := by
  simp [ruleSetFrameClock, State.loadFrameClock]

/-! ### The commands on the directory that write no entry (R144, R155, R156) -/

theorem ruleLookup_codes (port : Port) (operand : LookupOperand) : (ruleLookup port operand s).1.codes = s.codes := by
  unfold ruleLookup State.lookupCode
  simp only
  repeat' split
  all_goals simp

theorem ruleQueryMiss_codes (clear : Bool) : (ruleQueryMiss clear s).1.codes = s.codes := by
  cases clear
  · rfl
  · exact (rfl)

end

end Sys2Proof.Machine
end

section
/-! SUPPORT. Entries written and removed: what the law of the entries and their resolutions become, and what the records of a range's
circuits become (R141, R142, R145 to R154). -/

namespace Sys2Proof.Machine

variable {s t : State} {d d' : Directory} {code k : TrunkCode} {c : CircuitNo} {b : Fin 128} {w : Fin 4} {i : Fin 8}

/-! ### Entries written and removed -/

theorem setTrunk_get (d : Directory) (b b' : Fin 128) (w w' : Fin 4) (x : Option TrunkEntry) :
    ((d.setTrunk b w x).trunks.get b').get w' = if b' = b ∧ w' = w then x else (d.trunks.get b').get w' := by
  simp only [Directory.setTrunk, Table.get_set]
  split
  next hb =>
    subst hb
    rw [Table.get_set]
    simp [eq_comm]
  next hb => simp [Ne.symm hb]

theorem setRange_get (d : Directory) (i j : Fin 8) (x : Option RangeEntry) :
    (d.ranges.set i x).get j = if j = i then x else d.ranges.get j := by simp [Table.get_set, eq_comm]

theorem overlapping_none_iff {e : RangeEntry} :
    d.overlapping e = none ↔ ∀ i x, d.ranges.get i = some x → x.overlaps e = false := by
  simp only [Directory.overlapping, List.find?_eq_none, List.mem_finRange, forall_const, Option.any_eq_true, not_exists, not_and,
    Bool.not_eq_true]

theorem insideBucket_none_iff {e : RangeEntry} :
    d.insideBucket e b = none ↔ ∀ w x, (d.trunks.get b).get w = some x → e.covers x.code = false := by
  simp only [Directory.insideBucket, List.findSome?_eq_none_iff, List.mem_finRange, forall_const]
  refine forall_congr' fun w => ?_
  cases (d.trunks.get b).get w with
  | none => simp
  | some x => simp

theorem RangeEntry.overlaps_comm (e x : RangeEntry) : e.overlaps x = x.overlaps e := by
  rw [Bool.eq_iff_iff]
  simp [RangeEntry.overlaps]
  omega

/-! ### The law of the entries -/

section
variable (h : EntryLaw d)
include h

/-- Fewer entries, each with the code that it had. -/
theorem EntryLaw.mono (hr : ∀ i e, d'.ranges.get i = some e → d.ranges.get i = some e)
    (ht : ∀ b w e, (d'.trunks.get b).get w = some e → ∃ x, (d.trunks.get b).get w = some x ∧ x.code = e.code) : EntryLaw d' where
  ranges i e hi := h.ranges i e (hr i e hi)
  apart i j e x hi hj := h.apart i j e x (hr i e hi) (hr j x hj)
  codes b w e hb := by
    obtain ⟨x, hx, hcode⟩ := ht b w e hb
    exact hcode ▸ h.codes b w x hx
  placed b w e hb := by
    obtain ⟨x, hx, hcode⟩ := ht b w e hb
    exact hcode ▸ h.placed b w x hx
  unshadowed b w e hb := by
    obtain ⟨x, hx, hcode⟩ := ht b w e hb
    have hfind := findRange_none_iff.mp (h.unshadowed b w x hx)
    exact findRange_none_iff.mpr fun i y hy => hcode ▸ hfind i y (hr i y hy)
  single b w e b' w' e' hb hb' hcode := by
    obtain ⟨x, hx, hxe⟩ := ht b w e hb
    obtain ⟨x', hx', hxe'⟩ := ht b' w' e' hb'
    exact h.single b w x b' w' x' hx hx' (by rw [hxe, hxe', hcode])

/-- R142, R146: an entry for a valid code that no entry resolves, in a bucket of the code. -/
theorem EntryLaw.setTrunk {e : TrunkEntry} (hv : codeValid e.code = true) (hp : b = primaryBucket e.code ∨ b = secondaryBucket e.code)
    (hr : d.findRange e.code = none) (ht : d.findTrunk e.code = none) (w : Fin 4) : EntryLaw (d.setTrunk b w (some e)) := by
  have habsent : ∀ b' w' x, (d.trunks.get b').get w' = some x → x.code ≠ e.code := fun b' w' x hx hc => by
    simp [h.findTrunk hx hc] at ht
  have hentry : ∀ b' w' x, ((d.setTrunk b w (some e)).trunks.get b').get w' = some x →
      (b' = b ∧ w' = w ∧ x = e) ∨ ((d.trunks.get b').get w' = some x ∧ x.code ≠ e.code) := fun b' w' x hx => by
    rw [setTrunk_get] at hx
    split at hx
    next hbw =>
      cases hx
      exact .inl ⟨hbw.1, hbw.2, rfl⟩
    next => exact .inr ⟨hx, habsent _ _ _ hx⟩
  refine ⟨h.ranges, h.apart, fun b' w' x hx => ?_, fun b' w' x hx => ?_, fun b' w' x hx => ?_, fun b₁ w₁ x₁ b₂ w₂ x₂ h₁ h₂ hcode => ?_⟩
  · obtain ⟨rfl, rfl, rfl⟩ | ⟨hold, -⟩ := hentry b' w' x hx
    · exact hv
    · exact h.codes _ _ _ hold
  · obtain ⟨rfl, rfl, rfl⟩ | ⟨hold, -⟩ := hentry b' w' x hx
    · exact hp
    · exact h.placed _ _ _ hold
  · obtain ⟨rfl, rfl, rfl⟩ | ⟨hold, -⟩ := hentry b' w' x hx
    · exact hr
    · exact h.unshadowed _ _ _ hold
  · obtain ⟨rfl, rfl, rfl⟩ | ⟨hold₁, hne₁⟩ := hentry _ _ _ h₁
    · obtain ⟨rfl, rfl, -⟩ | ⟨-, hne₂⟩ := hentry _ _ _ h₂
      · exact ⟨rfl, rfl⟩
      · exact absurd hcode.symm hne₂
    · obtain ⟨-, -, rfl⟩ | ⟨hold₂, -⟩ := hentry _ _ _ h₂
      · exact absurd hcode hne₁
      · exact h.single _ _ _ _ _ _ hold₁ hold₂ hcode

/-- R147, R148: a lawful range that meets no range and covers no trunk entry. -/
theorem EntryLaw.setRange {e : RangeEntry} (hl : e.lawful) (ho : d.overlapping e = none)
    (ht : ∀ b w x, (d.trunks.get b).get w = some x → e.covers x.code = false) (i : Fin 8) :
    EntryLaw { d with ranges := d.ranges.set i (some e) } := by
  have hapart := overlapping_none_iff.mp ho
  have hentry : ∀ j x, (d.ranges.set i (some e)).get j = some x → (j = i ∧ x = e) ∨ (j ≠ i ∧ d.ranges.get j = some x) := fun j x hx => by
    rw [setRange_get] at hx
    split at hx
    next hj => exact .inl ⟨hj, (Option.some.inj hx).symm⟩
    next hj => exact .inr ⟨hj, hx⟩
  refine ⟨fun j x hx => ?_, fun j₁ j₂ x₁ x₂ h₁ h₂ hne => ?_, h.codes, h.placed,
    fun b w x hx => findRange_none_iff.mpr fun j y hy => ?_, h.single⟩
  · obtain ⟨-, rfl⟩ | ⟨-, hold⟩ := hentry j x hx
    · exact hl
    · exact h.ranges j x hold
  · obtain ⟨rfl, rfl⟩ | ⟨-, hold₁⟩ := hentry _ _ h₁
    · obtain ⟨rfl, -⟩ | ⟨-, hold₂⟩ := hentry _ _ h₂
      · exact absurd rfl hne
      · rw [RangeEntry.overlaps_comm]
        exact hapart _ _ hold₂
    · obtain ⟨-, rfl⟩ | ⟨-, hold₂⟩ := hentry _ _ h₂
      · exact hapart _ _ hold₁
      · exact h.apart _ _ _ _ hold₁ hold₂ hne
  · obtain ⟨-, rfl⟩ | ⟨-, hold⟩ := hentry j y hy
    · exact ht b w x hx
    · exact findRange_none_iff.mp (h.unshadowed b w x hx) j y hold

/-- R145: no code resolves twice. -/
theorem EntryLaw.resolves_unique {c' : CircuitNo} (hc : d.Resolves code c) (hc' : d.Resolves code c') : c = c' :=
  Option.some.inj ((h.lookup_iff.mpr hc).symm.trans (h.lookup_iff.mpr hc'))

/-! ### Resolutions -/

/-- R149, R153: a trunk entry removed takes its code away, and no other. -/
theorem EntryLaw.resolves_removeTrunk {e : TrunkEntry} (hb : (d.trunks.get b).get w = some e) :
    (d.setTrunk b w none).Resolves k c ↔ d.Resolves k c ∧ k ≠ e.code := by
  constructor
  · rintro (⟨i, x, hi, hcov, hcirc⟩ | ⟨b', w', x, hx, rfl, rfl⟩)
    · refine ⟨.inl ⟨i, x, hi, hcov, hcirc⟩, fun hk => ?_⟩
      simp [hk, findRange_none_iff.mp (h.unshadowed b w e hb) i x hi] at hcov
    · rw [setTrunk_get] at hx
      split at hx
      · simp at hx
      next hne => exact ⟨.inr ⟨b', w', x, hx, rfl, rfl⟩, fun hk => hne (h.single b' w' x b w e hx hb hk)⟩
  · rintro ⟨⟨i, x, hi, hcov, hcirc⟩ | ⟨b', w', x, hx, rfl, rfl⟩, hk⟩
    · exact .inl ⟨i, x, hi, hcov, hcirc⟩
    · refine .inr ⟨b', w', x, ?_, rfl, rfl⟩
      rw [setTrunk_get, if_neg, hx]
      rintro ⟨rfl, rfl⟩
      rw [hb] at hx
      exact hk (by cases hx; rfl)

/-- R150: a range entry removed takes the codes that it covers away, and no other. -/
theorem EntryLaw.resolves_removeRange {e : RangeEntry} (hi : d.ranges.get i = some e) :
    { d with ranges := d.ranges.set i none }.Resolves k c ↔ d.Resolves k c ∧ e.covers k = false := by
  constructor
  · rintro (⟨j, x, hj, hcov, hcirc⟩ | ⟨b, w, x, hx, rfl, rfl⟩)
    · simp only [setRange_get] at hj
      split at hj
      · simp at hj
      next hne =>
        refine ⟨.inl ⟨j, x, hj, hcov, hcirc⟩, Bool.eq_false_iff.mpr fun he => ?_⟩
        simpa [h.apart i j e x hi hj (Ne.symm hne)] using RangeEntry.overlaps_of_covers he hcov
    · exact ⟨.inr ⟨b, w, x, hx, rfl, rfl⟩, findRange_none_iff.mp (h.unshadowed b w x hx) i e hi⟩
  · rintro ⟨⟨j, x, hj, hcov, hcirc⟩ | ⟨b, w, x, hx, rfl, rfl⟩, hk⟩
    · refine .inl ⟨j, x, ?_, hcov, hcirc⟩
      simp only [setRange_get]
      rw [if_neg, hj]
      rintro rfl
      rw [hi] at hj
      cases hj
      simp [hk] at hcov
    · exact .inr ⟨b, w, x, hx, rfl, rfl⟩

end

/-- R146: a trunk entry written in a free way. -/
theorem resolves_addTrunk {e : TrunkEntry} (hfree : (d.trunks.get b).get w = none) :
    (d.setTrunk b w (some e)).Resolves k c ↔ d.Resolves k c ∨ (e.code = k ∧ e.circuit = c) := by
  constructor
  · rintro (hr | ⟨b', w', x, hx, rfl, rfl⟩)
    · exact .inl (.inl hr)
    · rw [setTrunk_get] at hx
      split at hx
      · cases hx; exact .inr ⟨rfl, rfl⟩
      · exact .inl (.inr ⟨b', w', x, hx, rfl, rfl⟩)
  · rintro ((hr | ⟨b', w', x, hx, rfl, rfl⟩) | ⟨rfl, rfl⟩)
    · exact .inl hr
    · refine .inr ⟨b', w', x, ?_, rfl, rfl⟩
      rw [setTrunk_get, if_neg, hx]
      rintro ⟨rfl, rfl⟩
      simp [hfree] at hx
    · exact .inr ⟨b, w, e, by simp [setTrunk_get], rfl, rfl⟩

/-- R148: a range entry written at a free index. -/
theorem resolves_addRange {e : RangeEntry} (hfree : d.ranges.get i = none) :
    { d with ranges := d.ranges.set i (some e) }.Resolves k c ↔ d.Resolves k c ∨ (e.covers k = true ∧ e.circuitFor k = some c) := by
  constructor
  · rintro (⟨j, x, hj, hcov, hcirc⟩ | ht)
    · simp only [setRange_get] at hj
      split at hj
      · cases hj; exact .inr ⟨hcov, hcirc⟩
      · exact .inl (.inl ⟨j, x, hj, hcov, hcirc⟩)
    · exact .inl (.inr ht)
  · rintro ((⟨j, x, hj, hcov, hcirc⟩ | ht) | ⟨hcov, hcirc⟩)
    · refine .inl ⟨j, x, ?_, hcov, hcirc⟩
      simp only [setRange_get]
      rw [if_neg, hj]
      rintro rfl
      simp [hfree] at hj
    · exact .inr ht
    · exact .inl ⟨i, e, by simp, hcov, hcirc⟩

/-! ### The circuits of a range (R141) -/

/-- R141: the circuits of a range. -/
def RangeEntry.Owns (e : RangeEntry) (c : CircuitNo) : Prop := e.base ≤ c.val ∧ c.val < e.base + e.size

/-- R141: the code that a range gives a circuit of its own. -/
def RangeEntry.codeOf (e : RangeEntry) (c : CircuitNo) : TrunkCode := ⟨e.route, e.member + (c.val - e.base)⟩

/-- A range resolves exactly the codes that it gives its circuits. -/
theorem RangeEntry.resolves_iff {e : RangeEntry} : e.covers k = true ∧ e.circuitFor k = some c ↔ e.Owns c ∧ k = e.codeOf c := by
  obtain ⟨route, member⟩ := k
  have hc := c.isLt
  simp only [RangeEntry.covers_iff, RangeEntry.circuitFor, circuitOf, RangeEntry.Owns, RangeEntry.codeOf, TrunkCode.mk.injEq]
  constructor
  · rintro ⟨⟨hroute, hlow, hhigh⟩, hcirc⟩
    split at hcirc
    · cases hcirc
      dsimp only
      omega
    · cases hcirc
  · rintro ⟨⟨hlow, hhigh⟩, hroute, hmember⟩
    refine ⟨by omega, ?_⟩
    rw [dif_pos (by omega), Option.some.injEq, Fin.ext_iff]
    dsimp only
    omega

theorem RangeEntry.mem_members {e : RangeEntry} {m : CircuitNo × TrunkCode} : m ∈ e.members ↔ e.Owns m.1 ∧ m.2 = e.codeOf m.1 := by
  obtain ⟨c, code⟩ := m
  have hc := c.isLt
  simp only [RangeEntry.members, List.mem_filterMap, List.mem_range, circuitOf, RangeEntry.Owns, RangeEntry.codeOf]
  constructor
  · rintro ⟨j, hj, hm⟩
    split at hm
    · cases hm
      exact ⟨⟨by simp, by simpa⟩, by simp⟩
    · cases hm
  · rintro ⟨⟨hlow, hhigh⟩, rfl⟩
    refine ⟨c.val - e.base, by omega, ?_⟩
    rw [dif_pos (by omega)]
    simp [Fin.ext_iff]
    omega

/-- The circuits of a range stand in ascending order. -/
theorem RangeEntry.members_ascending (e : RangeEntry) : e.members.Pairwise fun m n => m.1 < n.1 := by
  refine List.Pairwise.filterMap _ (fun i j hij m hm n hn => ?_) List.pairwise_lt_range
  simp only [circuitOf] at hm hn
  split at hm
  · split at hn
    · cases hm
      cases hn
      simpa [Fin.lt_def] using hij
    · cases hn
  · cases hm

/-- R145: codes written to a list of circuits, none of them twice. -/
theorem setCodes_circuit (f : CircuitNo × TrunkCode → Option TrunkCode) : ∀ (l : List (CircuitNo × TrunkCode)) (s : State),
    (l.Pairwise fun m n => m.1 < n.1) →
    (∀ m ∈ l, (l.foldl (fun s m => s.setCode m.1 (f m)) s).circuit m.1 = evaluated s.spans s.lanes { s.circuit m.1 with code := f m }) ∧
      ∀ c, (∀ m ∈ l, m.1 ≠ c) → (l.foldl (fun s m => s.setCode m.1 (f m)) s).circuit c = s.circuit c
  | [], s, _ => by simp
  | m :: l, s, hp => by
    obtain ⟨hm, hl⟩ := List.pairwise_cons.mp hp
    obtain ⟨hin, hout⟩ := setCodes_circuit f l (s.setCode m.1 (f m)) hl
    have hhead : ∀ n ∈ l, n.1 ≠ m.1 := fun n hn => (hm n hn).ne'
    rw [List.foldl_cons]
    constructor
    · rintro n (_ | ⟨_, hn⟩)
      · rw [hout _ hhead]
        exact State.putCircuit_circuit_eq ..
      · rw [hin n hn, State.setCode, State.putCircuit_circuit_ne _ _ (hhead n hn).symm]
        rfl
    · intro c hc
      rw [hout c fun n hn => hc n (.tail _ hn)]
      exact State.putCircuit_circuit_ne _ _ (hc m (.head _))

theorem setCodes_frame (f : CircuitNo × TrunkCode → Option TrunkCode) (l : List (CircuitNo × TrunkCode)) (s : State) :
    SameBut [.circuits] s (l.foldl (fun s m => s.setCode m.1 (f m)) s) := SameBut.foldl (fun s m => setCode_frame s m.1 (f m)) l s

/-- R145: codes written to the circuits of a range, in the step that writes or removes its entry. -/
theorem setCodes_members (e : RangeEntry) (f : CircuitNo × TrunkCode → Option TrunkCode) (s : State) :
    (∀ c, e.Owns c → (e.members.foldl (fun s m => s.setCode m.1 (f m)) s).circuit c =
      evaluated s.spans s.lanes { s.circuit c with code := f (c, e.codeOf c) }) ∧
    ∀ c, ¬ e.Owns c → (e.members.foldl (fun s m => s.setCode m.1 (f m)) s).circuit c = s.circuit c := by
  obtain ⟨hin, hout⟩ := setCodes_circuit f e.members s e.members_ascending
  exact ⟨fun c hc => hin (c, e.codeOf c) (RangeEntry.mem_members.mpr ⟨hc, rfl⟩),
    fun c hc => hout c fun m hm h => hc (h ▸ (RangeEntry.mem_members.mp hm).1)⟩

end Sys2Proof.Machine
end

section
/-! SUPPORT. The rows that write or remove entries keep the law of the directory; then so does every step (R145). -/

namespace Sys2Proof.Machine

variable {s t : State} {c : CircuitNo} {b : Fin 128} {w : Fin 4} {i : Fin 8}

/-! ### The walk -/

/-- A walk that checks no range asks for nothing. -/
theorem walkLaw_of_noCheck {d : Directory} (h : d.walk.check = none) : WalkLaw d := walkLaw_iff.mpr (by simp [h])

theorem noCheck_of_idle {d : Directory} (h : d.busy = false) : d.walk.check = none := by
  unfold Directory.busy at h
  split at h
  next hw => rw [hw]; rfl
  all_goals cases h

/-- R148, R153: a step of the walk writes no entry. -/
theorem setWalk_keepsDirectory (x : Walk) (h : DirectoryLaw s → WalkLaw { s.directory with walk := x }) : KeepsDirectory s (s.setWalk x) :=
  fun hs => ⟨hs.ranges, hs.apart, hs.codes, hs.placed, hs.unshadowed, hs.single, hs.carried, hs.valid, h hs⟩

/-! ### Entries and codes in one step (R145) -/

theorem setCode_code (s : State) (c d : CircuitNo) (x : Option TrunkCode) :
    ((s.setCode c x).circuit d).code = if c = d then x else (s.circuit d).code := by
  rw [State.setCode, putCircuit_circuit]
  split <;> rfl

theorem setCodes_directory (f : CircuitNo × TrunkCode → Option TrunkCode) : ∀ (l : List (CircuitNo × TrunkCode)) (s : State),
    (l.foldl (fun s m => s.setCode m.1 (f m)) s).directory = s.directory
  | [], _ => rfl
  | m :: l, s => setCodes_directory f l (s.setCode m.1 (f m))

/-- The records and the entries lose the same codes. -/
theorem CodesAgree.remove {gone : TrunkCode → Prop} (h : CodesAgree s)
    (hc : ∀ c k, (t.circuit c).code = some k ↔ (s.circuit c).code = some k ∧ ¬ gone k)
    (hd : ∀ c k, t.directory.Resolves k c ↔ s.directory.Resolves k c ∧ ¬ gone k) : CodesAgree t := fun c k => by
  rw [hc, hd, h c k]

/-- The records and the entries gain the same codes. -/
theorem CodesAgree.add {new : TrunkCode → CircuitNo → Prop} (h : CodesAgree s)
    (hc : ∀ c k, (t.circuit c).code = some k ↔ (s.circuit c).code = some k ∨ new k c)
    (hd : ∀ c k, t.directory.Resolves k c ↔ s.directory.Resolves k c ∨ new k c) : CodesAgree t := fun c k => by
  rw [hc, hd, h c k]

/-- R149, R153: a trunk entry removed with its circuit's code. -/
theorem removeTrunkAt_keepsDirectory {e : TrunkEntry} (hw : s.directory.walk.check = none)
    (hb : (s.directory.trunks.get b).get w = some e) : KeepsDirectory s (s.removeTrunkAt b w e) := by
  intro h
  obtain ⟨he, ha, -⟩ := directoryLaw_iff.mp h
  have hheld : s.directory.Resolves e.code e.circuit := .inr ⟨b, w, e, hb, rfl, rfl⟩
  have hcodes : ∀ d k, ((s.removeTrunkAt b w e).circuit d).code = some k ↔ (s.circuit d).code = some k ∧ k ≠ e.code := fun d k => by
    have hcode : ((s.removeTrunkAt b w e).circuit d).code = if e.circuit = d then none else (s.circuit d).code := setCode_code ..
    rw [hcode]
    split
    next hd =>
      have hown : (s.circuit d).code = some e.code := hd ▸ (ha _ _).mpr hheld
      simp [hown, eq_comm]
    next hd =>
      refine ⟨fun hk => ⟨hk, fun hne => hd ?_⟩, And.left⟩
      exact he.resolves_unique hheld (hne ▸ (ha d k).mp hk)
  refine directoryLaw_iff.mpr ⟨he.mono (fun i x hi => hi) fun b' w' x hx => ?_, ha.remove hcodes fun d k => he.resolves_removeTrunk hb,
    walkLaw_of_noCheck hw⟩
  have hget : (((s.directory.setTrunk b w none).trunks.get b').get w') = some x := hx
  rw [setTrunk_get] at hget
  split at hget
  · simp at hget
  · exact ⟨x, hget, rfl⟩

/-- R146: a trunk entry written with its circuit's code. -/
theorem writeTrunk_keepsDirectory {e : TrunkEntry} (hw : s.directory.walk.check = none) (hv : codeValid e.code = true)
    (hp : b = primaryBucket e.code ∨ b = secondaryBucket e.code) (hfree : (s.directory.trunks.get b).get w = none)
    (hr : s.directory.findRange e.code = none) (ht : s.directory.findTrunk e.code = none) (hc : (s.circuit e.circuit).code = none) :
    KeepsDirectory s (s.writeTrunk b w e) := by
  intro h
  obtain ⟨he, ha, -⟩ := directoryLaw_iff.mp h
  refine directoryLaw_iff.mpr ⟨he.setTrunk hv hp hr ht w, ha.add (fun d k => ?_) fun d k => resolves_addTrunk hfree, walkLaw_of_noCheck hw⟩
  have hcode : ((s.writeTrunk b w e).circuit d).code = if e.circuit = d then some e.code else (s.circuit d).code := setCode_code ..
  rw [hcode]
  split
  next hd => simp [← hd, hc]
  next hd => simp [hd]

/-- R151: the pinned flag has no say in what resolves. -/
theorem writePin_keepsDirectory {e : TrunkEntry} {flag : Bool} (hw : s.directory.walk.check = none)
    (hb : (s.directory.trunks.get b).get w = some e) : KeepsDirectory s (s.writePin b w e flag) := by
  intro h
  obtain ⟨he, ha, -⟩ := directoryLaw_iff.mp h
  have hget : ∀ b' w', ((s.writePin b w e flag).directory.trunks.get b').get w' =
      if b' = b ∧ w' = w then some { e with pinned := flag } else (s.directory.trunks.get b').get w' := fun b' w' => setTrunk_get ..
  have hback : ∀ b' w' x, ((s.writePin b w e flag).directory.trunks.get b').get w' = some x →
      ∃ y, (s.directory.trunks.get b').get w' = some y ∧ y.code = x.code ∧ y.circuit = x.circuit := fun b' w' x hx => by
    rw [hget] at hx
    split at hx
    next hbw =>
      obtain ⟨rfl, rfl⟩ := hbw
      cases hx
      exact ⟨e, hb, rfl, rfl⟩
    next => exact ⟨x, hx, rfl, rfl⟩
  have hon : ∀ b' w' y, (s.directory.trunks.get b').get w' = some y →
      ∃ x, ((s.writePin b w e flag).directory.trunks.get b').get w' = some x ∧ x.code = y.code ∧ x.circuit = y.circuit := fun b' w' y hy => by
    rw [hget]
    split
    next hbw =>
      obtain ⟨rfl, rfl⟩ := hbw
      rw [hb] at hy
      cases hy
      exact ⟨_, rfl, rfl, rfl⟩
    next => exact ⟨y, hy, rfl, rfl⟩
  refine directoryLaw_iff.mpr ⟨he.mono (fun i x hi => hi) fun b' w' x hx => ?_, fun d k => (ha d k).trans ⟨?_, ?_⟩, walkLaw_of_noCheck hw⟩
  · obtain ⟨y, hy, hcode, -⟩ := hback b' w' x hx
    exact ⟨y, hy, hcode⟩
  · rintro (hr | ⟨b', w', y, hy, rfl, rfl⟩)
    · exact .inl hr
    · obtain ⟨x, hx, hcode, hcirc⟩ := hon b' w' y hy
      exact .inr ⟨b', w', x, hx, hcode, hcirc⟩
  · rintro (hr | ⟨b', w', x, hx, rfl, rfl⟩)
    · exact .inl hr
    · obtain ⟨y, hy, hcode, hcirc⟩ := hback b' w' x hx
      exact .inr ⟨b', w', y, hy, hcode, hcirc⟩

/-- R150: a range entry removed with the codes of its circuits. -/
theorem removeRangeAt_keepsDirectory {e : RangeEntry} (hw : s.directory.walk.check = none) (hi : s.directory.ranges.get i = some e) :
    KeepsDirectory s (s.removeRangeAt i e) := by
  intro h
  obtain ⟨he, ha, -⟩ := directoryLaw_iff.mp h
  have hdir : (s.removeRangeAt i e).directory = { s.directory with ranges := s.directory.ranges.set i none } := setCodes_directory (fun _ => none) ..
  obtain ⟨hown, hother⟩ := setCodes_members e (fun _ => none) (s.setDirectory { s.directory with ranges := s.directory.ranges.set i none })
  have hcodes : ∀ d k, ((s.removeRangeAt i e).circuit d).code = some k ↔ (s.circuit d).code = some k ∧ ¬ e.covers k = true := fun d k => by
    by_cases hd : e.Owns d
    · have hcov := RangeEntry.resolves_iff.mpr ⟨hd, rfl⟩
      have hheld : (s.circuit d).code = some (e.codeOf d) := (ha _ _).mpr (.inl ⟨i, e, hi, hcov.1, hcov.2⟩)
      have hcode : ((s.removeRangeAt i e).circuit d).code = none := congrArg Circuit.code (hown d hd)
      rw [hcode, hheld]
      refine ⟨(by cases ·), ?_⟩
      rintro ⟨⟨⟩, hk⟩
      exact absurd hcov.1 hk
    · have hcode : ((s.removeRangeAt i e).circuit d).code = (s.circuit d).code := congrArg Circuit.code (hother d hd)
      rw [hcode]
      refine ⟨fun hk => ⟨hk, fun hcov => hd ?_⟩, And.left⟩
      obtain ⟨d', -, hcirc⟩ := (he.ranges i e hi).circuitFor hcov
      rw [he.resolves_unique ((ha d k).mp hk) (.inl ⟨i, e, hi, hcov, hcirc⟩)]
      exact (RangeEntry.resolves_iff.mp ⟨hcov, hcirc⟩).1
  refine directoryLaw_iff.mpr ⟨?_, ha.remove hcodes fun d k => ?_, walkLaw_of_noCheck (hdir ▸ hw)⟩
  · rw [hdir]
    refine he.mono (fun j x hj => ?_) fun b w x hx => ⟨x, hx, rfl⟩
    simp only [setRange_get] at hj
    split at hj
    · cases hj
    · exact hj
  · rw [hdir, Bool.not_eq_true]
    exact he.resolves_removeRange hi

/-- R148: a range entry written with the codes of its circuits. -/
theorem writeRange_keepsDirectory {e : RangeEntry} (hw : s.directory.walk.check = none) (hl : e.lawful)
    (ho : s.directory.overlapping e = none) (ht : ∀ b, s.directory.insideBucket e b = none) (hfree : s.directory.ranges.get i = none)
    (hc : ∀ c, e.Owns c → (s.circuit c).code = none) : KeepsDirectory s (s.writeRange i e) := by
  intro h
  obtain ⟨he, ha, -⟩ := directoryLaw_iff.mp h
  have hdir : (s.writeRange i e).directory = { s.directory with ranges := s.directory.ranges.set i (some e) } :=
    setCodes_directory (fun m => some m.2) ..
  obtain ⟨hown, hother⟩ :=
    setCodes_members e (fun m => some m.2) (s.setDirectory { s.directory with ranges := s.directory.ranges.set i (some e) })
  have hcodes : ∀ d k, ((s.writeRange i e).circuit d).code = some k ↔
      (s.circuit d).code = some k ∨ (e.covers k = true ∧ e.circuitFor k = some d) :=
    fun d k => by
      rw [RangeEntry.resolves_iff]
      by_cases hd : e.Owns d
      · have hcode : ((s.writeRange i e).circuit d).code = some (e.codeOf d) := congrArg Circuit.code (hown d hd)
        simp [hcode, hc d hd, hd, eq_comm]
      · have hcode : ((s.writeRange i e).circuit d).code = (s.circuit d).code := congrArg Circuit.code (hother d hd)
        simp [hcode, hd]
  refine directoryLaw_iff.mpr ⟨?_, ha.add hcodes fun d k => ?_, walkLaw_of_noCheck (hdir ▸ hw)⟩
  · rw [hdir]
    exact he.setRange hl ho (fun b => insideBucket_none_iff.mp (ht b)) i
  · rw [hdir]
    exact resolves_addRange hfree

/-! ### The commands (R146 to R151) -/

theorem freeWay_some {d : Directory} (h : d.freeWay b = some w) : (d.trunks.get b).get w = none := by
  simpa using List.find?_some h

theorem freeRange_some {d : Directory} (h : d.freeRange = some i) : d.ranges.get i = none := by simpa using List.find?_some h

/-- R142: a new entry's place is a free way of a bucket of its code. -/
theorem place_some {d : Directory} {code : TrunkCode} (h : d.place code = some (b, w)) :
    (b = primaryBucket code ∨ b = secondaryBucket code) ∧ (d.trunks.get b).get w = none := by
  unfold Directory.place at h
  split at h
  next hw => cases h; exact ⟨.inl rfl, freeWay_some hw⟩
  next =>
    obtain ⟨v, hv, heq⟩ := Option.map_eq_some_iff.mp h
    cases heq
    exact ⟨.inr rfl, freeWay_some hv⟩

theorem ruleAddTrunk_keepsDirectory (code : TrunkCode) (circuit : Nat) (pinned : Option Bool) (s : State) :
    KeepsDirectory s (ruleAddTrunk code circuit pinned s).1 := by
  unfold ruleAddTrunk State.addTrunk
  repeat' split
  iterate 5 exact .refl s
  next hv hidle _ hr _ ht _ hc _ _ _ hplace =>
    obtain ⟨hp, hfree⟩ := place_some hplace
    exact writeTrunk_keepsDirectory (noCheck_of_idle (by simpa using hidle)) (by simpa using hv) hp hfree hr ht hc
  all_goals exact .refl s

theorem withTrunk_keepsDirectory {rule : Fin 128 → Fin 4 → TrunkEntry → Handled}
    (hr : s.directory.busy = false → ∀ b w e, (s.directory.trunks.get b).get w = some e → KeepsDirectory s (rule b w e).1)
    (port : Port) (type : Byte) (code : TrunkCode) (range : Fin 8 → ReplyBody) :
    KeepsDirectory s (s.withTrunk port type code range rule).1 := by
  unfold State.withTrunk
  split
  · exact .refl s
  split
  · exact .refl s
  next hidle =>
    repeat' split
    · exact .refl s
    next hf => exact hr (by simpa using hidle) _ _ _ (findTrunk_some hf).1
    · exact keepsDirectory_of_codes (recordMiss_codes s _ _ _)

theorem ruleRemoveTrunk_keepsDirectory (port : Port) (code : TrunkCode) (s : State) :
    KeepsDirectory s (ruleRemoveTrunk port code s).1 := by
  refine withTrunk_keepsDirectory (fun hidle b w e hb => ?_) _ _ _ _
  split
  · exact .refl s
  · exact removeTrunkAt_keepsDirectory (noCheck_of_idle hidle) hb

theorem rulePin_keepsDirectory (port : Port) (type : Byte) (code : TrunkCode) (flag : Bool) (s : State) :
    KeepsDirectory s (rulePin port type code flag s).1 :=
  withTrunk_keepsDirectory (fun hidle _ _ _ hb => writePin_keepsDirectory (noCheck_of_idle hidle) hb) _ _ _ _

theorem ruleRemoveRange_keepsDirectory (index : Nat) (s : State) : KeepsDirectory s (ruleRemoveRange index s).1 := by
  unfold ruleRemoveRange
  repeat' split
  iterate 2 exact .refl s
  next hidle _ _ hi _ _ => exact removeRangeAt_keepsDirectory (noCheck_of_idle (by simpa using hidle)) hi
  all_goals exact .refl s

/-! ### ADD RANGE and its walk (R147, R148) -/

/-- R141: a range that stands on a multiple of its size ends within the members of its route. -/
theorem lawful_of_addRange {e : RangeEntry} (hrange : ¬ (4096 ≤ e.route ∨ 256 ≤ e.member ∨ 512 ≤ e.base ∨ 512 < e.base + e.size))
    (hsize : ¬ (rangeSizes.contains e.size = false ∨ e.member % e.size ≠ 0)) : e.lawful := by
  simp only [rangeSizes, not_or, Bool.not_eq_false, List.contains_iff_mem, ne_eq, not_not] at hsize
  obtain ⟨hsize, haligned⟩ := hsize
  refine ⟨by omega, hsize, haligned, ?_, by omega⟩
  have hdvd : e.size ∣ 256 := by
    simp only [List.mem_cons, List.not_mem_nil, or_false] at hsize
    rcases hsize with h | h | h | h | h | h | h | h | h <;> rw [h] <;> decide
  have hgap : e.size ∣ 256 - e.member := Nat.dvd_sub hdvd (Nat.dvd_of_mod_eq_zero haligned)
  have := Nat.le_of_dvd (by omega) hgap
  omega

theorem ruleAddRange_keepsDirectory (port : Port) (tag : Byte) (e : RangeEntry) (s : State) :
    KeepsDirectory s (ruleAddRange port tag e s).1 := by
  unfold ruleAddRange
  repeat' split
  iterate 5 exact .refl s
  next hrange hsize _ _ _ ho =>
    exact setWalk_keepsDirectory _ fun _ => ⟨lawful_of_addRange hrange hsize, ho, fun _ b hb => absurd hb (Nat.not_lt_zero _)⟩

theorem bucketOf_some {n : Nat} (h : bucketOf n = some b) : n = b.val := by
  unfold bucketOf at h
  split at h
  · cases h; rfl
  · cases h

theorem rangeCheckBucket_keepsDirectory (s : State) : Answers (KeepsDirectory s) (execRangeCheckBucket s) := by
  unfold execRangeCheckBucket
  split
  next next due port tag e found hw =>
    split
    next b hb =>
      refine answers_ite _ (fun _ => answers_next (setWalk_keepsDirectory _ fun h => ?_)) fun _ => answers_codes rfl
      obtain rfl := bucketOf_some hb
      have hlaw := h.walk
      simp only [WalkLaw, hw] at hlaw
      obtain ⟨hl, ho, hfound⟩ := hlaw
      refine ⟨hl, ho, fun hnone b' hb' => ?_⟩
      split at hnone
      next hsome => simp [hnone] at hsome
      next hsome =>
        rcases Nat.lt_succ_iff_lt_or_eq.mp hb' with hlt | heq
        · exact hfound (by simpa using hsome) b' hlt
        · exact (Fin.ext heq) ▸ hnone
    next => exact answers_codes rfl
  all_goals exact answers_codes rfl

theorem completeRange_keepsDirectory {e : RangeEntry} {found : Option FoundTrunk} (hw : s.directory.walk.check = none) (hl : e.lawful)
    (ho : s.directory.overlapping e = none) (ht : found = none → ∀ b, s.directory.insideBucket e b = none) :
    KeepsDirectory s (s.completeRange e found).1 := by
  unfold State.completeRange
  repeat' split
  iterate 2 exact .refl s
  next hnone _ i hi =>
    refine writeRange_keepsDirectory hw hl ho (ht rfl) (freeRange_some hi) fun c hc => ?_
    simpa using List.findSome?_eq_none_iff.mp hnone (c, e.codeOf c) (RangeEntry.mem_members.mpr ⟨hc, rfl⟩)
  all_goals exact .refl s

theorem rangeCheckComplete_keepsDirectory (s : State) : Answers (KeepsDirectory s) (execRangeCheckComplete s) := by
  unfold execRangeCheckComplete
  split
  next next due port tag e found hw =>
    refine answers_ite _ (fun hnext => answers_next fun h => ?_) fun _ => answers_codes rfl
    have hlaw := h.walk
    simp only [WalkLaw, hw] at hlaw
    obtain ⟨hl, ho, hfound⟩ := hlaw
    have hidle : KeepsDirectory s (s.setWalk .idle) := setWalk_keepsDirectory _ fun _ => trivial
    have hcomplete : KeepsDirectory (s.setWalk .idle) ((s.setWalk .idle).completeRange e found).1 :=
      completeRange_keepsDirectory rfl hl ho fun hf b => hfound hf b (hnext ▸ b.isLt)
    exact keepsDirectory_of_codes (finish_codes _ port) (hcomplete (hidle h))
  all_goals exact answers_codes rfl

/-! ### PURGE and its walk (R152, R153) -/

theorem rulePurge_keepsDirectory (port : Port) (tag : Byte) (s : State) : KeepsDirectory s (rulePurge port tag s).1 := by
  unfold rulePurge
  split
  · exact .refl s
  · exact setWalk_keepsDirectory _ fun _ => trivial

/-- R153: a way walked keeps the law, and the walk goes on. -/
theorem purgeWay_keepsDirectory (b : Fin 128) (p : State × Nat) (w : Fin 4) (hw : p.1.directory.walk.check = none) :
    KeepsDirectory p.1 (purgeWay b p w).1 ∧ (purgeWay b p w).1.directory.walk.check = none := by
  unfold purgeWay
  repeat' split
  next he _ => exact ⟨removeTrunkAt_keepsDirectory hw he, hw⟩
  all_goals exact ⟨.refl _, hw⟩

theorem purgeWays_keepsDirectory (b : Fin 128) : ∀ (l : List (Fin 4)) (p : State × Nat), p.1.directory.walk.check = none →
    KeepsDirectory p.1 (l.foldl (purgeWay b) p).1
  | [], p, _ => .refl p.1
  | w :: l, p, hw =>
    have hway := purgeWay_keepsDirectory b p w hw
    hway.1.trans (purgeWays_keepsDirectory b l _ hway.2)

theorem purgeBucket_keepsDirectory (s : State) : Answers (KeepsDirectory s) (execPurgeBucket s) := by
  unfold execPurgeBucket
  split
  next next due port tag removed hw =>
    split
    next b hb =>
      refine answers_ite _ (fun _ => answers_next ?_) fun _ => answers_codes rfl
      exact (purgeWays_keepsDirectory b _ (s, removed) (by rw [hw]; rfl)).trans (setWalk_keepsDirectory _ fun _ => trivial)
    next => exact answers_codes rfl
  all_goals exact answers_codes rfl

theorem purgeComplete_keepsDirectory (s : State) : Answers (KeepsDirectory s) (execPurgeComplete s) := by
  unfold execPurgeComplete
  split
  next next due port tag removed hw =>
    refine answers_ite _ (fun _ => answers_next ?_) fun _ => answers_codes rfl
    exact (setWalk_keepsDirectory .idle fun _ => trivial).trans (keepsDirectory_of_codes (finish_codes _ port))
  all_goals exact answers_codes rfl

/-! ### Every row -/

/-- R145: what every command and every event does. -/
theorem exec_keepsDirectory (i : Instr) (s : State) : Answers (KeepsDirectory s) (exec i s) := by
  cases i with
  | powerOnReset primary craft => exact powerOnReset_keepsDirectory primary craft s
  | startUpEnd => exact startUpEnd_keepsDirectory s
  | siteFrame switch => exact siteFrame_keepsDirectory switch s
  | targetReached c => exact targetReached_keepsDirectory c s
  | switchLineConditionChange c => exact switchLineConditionChange_keepsDirectory c s
  | spanFrameReceived n f => exact spanFrameReceived_keepsDirectory n f s
  | frameAlignmentFound n => exact frameAlignmentFound_keepsDirectory n s
  | multiframeHuntLoss n => exact multiframeHuntLoss_keepsDirectory n s
  | spanUp n => exact spanUp_keepsDirectory n s
  | spanLossOfSignal n => exact spanLossOfSignal_keepsDirectory n s
  | spanBadAlignment n => exact spanBadAlignment_keepsDirectory n s
  | laneFrameReceived i f => exact laneFrameReceived_keepsDirectory i f s
  | slotLineConditionChange n => exact slotLineConditionChange_keepsDirectory n s
  | bridgeFlagRecognised n => exact bridgeFlagRecognised_keepsDirectory n s
  | laneUp i => exact laneUp_keepsDirectory i s
  | laneLossOfLight i => exact laneLossOfLight_keepsDirectory i s
  | laneAlignmentLoss i => exact laneAlignmentLoss_keepsDirectory i s
  | laneDegraded i => exact laneDegraded_keepsDirectory i s
  | errorIntervalEnd i => exact errorIntervalEnd_keepsDirectory i s
  | holdOffExpiry => exact holdOffExpiry_keepsDirectory s
  | duplicateWindowExpiry => exact duplicateWindowExpiry_keepsDirectory s
  | matcherStart => exact matcherStart_keepsDirectory s
  | primingComplete v => exact primingComplete_keepsDirectory v s
  | windowEnd v => exact windowEnd_keepsDirectory v s
  | matchOutcome v => exact matchOutcome_keepsDirectory v s
  | servicePauseEnd => exact servicePauseEnd_keepsDirectory s
  | responseTimerExpiry c => exact responseTimerExpiry_keepsDirectory c s
  | retryBackoffExpiry c => exact retryBackoffExpiry_keepsDirectory c s
  | bridgeLimitExpiry c => exact bridgeLimitExpiry_keepsDirectory c s
  | deferLimitExpiry c => exact deferLimitExpiry_keepsDirectory c s
  | fallbackHoldExpiry c => exact fallbackHoldExpiry_keepsDirectory c s
  | drainEnd c => exact drainEnd_keepsDirectory c s
  | helloTimerExpiry => exact helloTimerExpiry_keepsDirectory s
  | silenceExpiry => exact silenceExpiry_keepsDirectory s
  | receivedHello node mode => exact takeMessage_keepsDirectory _ (fun s => takeHello_codes s node mode) s
  | receivedPropose code slot number => exact receivedPropose_keepsDirectory code slot number s
  | receivedAccept code slot number => exact received_keepsDirectory _ code (fun c s => takeAccept_codes s c slot number) s
  | receivedDecline code number reason =>
    exact received_keepsDirectory _ code (fun c s => takeDecline_codes s c code number reason) s
  | receivedConfirm code number => exact received_keepsDirectory _ code (fun c s => takeConfirm_codes s c number) s
  | receivedSpliced code => exact received_keepsDirectory _ code (fun c s => takeSpliced_codes s c) s
  | receivedAbandon code reason => exact received_keepsDirectory _ code (fun c s => takeAbandon_codes s c code reason) s
  | receivedRevert code => exact receivedRevert_keepsDirectory code s
  | receivedRevertDone code => exact received_keepsDirectory _ code (fun c s => takeRevertDone_codes s c) s
  | receivedRelease code => exact received_keepsDirectory _ code (fun c s => takeRelease_codes s c) s
  | attach port tag circuit copper fibre => exact runCommand_codes (fun s => ruleAttach_codes s circuit copper fibre) _ port s
  | detach port tag circuit copper fibre => exact runCommand_codes (fun s => ruleDetach_codes s circuit copper fibre) _ port s
  | activate port tag circuit => exact runCommand_codes (fun s => ruleActivate_codes s circuit) _ port s
  | setCircuit port tag circuit notify autoRelease hold inhibit =>
    exact runCommand_codes (fun s => ruleSetCircuit_codes s circuit notify autoRelease hold inhibit) _ port s
  | queryCircuit port tag circuit clear => exact runCommand_codes (fun s => ruleQueryCircuit_codes s circuit clear) _ port s
  | migrate port tag circuit => exact runCommand_codes (fun s => ruleMigrate_codes s port circuit) _ port s
  | abandon port tag circuit => exact runCommand_codes (fun s => ruleAbandon_codes s port circuit) _ port s
  | revert port tag circuit => exact runCommand_codes (fun s => ruleRevert_codes s port circuit) _ port s
  | release port tag circuit => exact runCommand_codes (fun s => ruleRelease_codes s port circuit) _ port s
  | resume port tag circuit => exact runCommand_codes (fun s => ruleResume_codes s port circuit) _ port s
  | setNode port tag settings => exact runCommand_codes (fun s => ruleSetNode_codes s settings) _ port s
  | queryAlignment port tag circuit first => exact runCommand_codes (fun s => ruleQueryAlignment_codes s circuit first) _ port s
  | setSpan port tag span settings => exact runCommand_codes (fun s => ruleSetSpan_codes s span settings) _ port s
  | spanStatus port tag span => exact runCommand_codes (fun s => ruleSpanStatus_codes s span) _ port s
  | restartSpan port tag span => exact runCommand_codes (fun s => ruleRestartSpan_codes s span) _ port s
  | retireSpan port tag span => exact runCommand_codes (fun s => ruleRetireSpan_codes s span) _ port s
  | laneControlSelect port tag lane => exact runCommand_codes (fun s => ruleSelect_codes s lane) _ port s
  | laneControlLockout port tag lane => exact runCommand_codes (fun s => ruleLockout_codes s lane) _ port s
  | laneControlClear port tag lane => exact runCommand_codes (fun s => ruleClear_codes s lane) _ port s
  | laneControlShut port tag lane => exact runCommand_codes (fun s => ruleShut_codes s lane) _ port s
  | laneControlRestore port tag lane => exact runCommand_codes (fun s => ruleRestore_codes s lane) _ port s
  | laneControlHoldOff port tag seconds => exact runCommand_codes (fun s => setLanes_codes s _) _ port s
  | laneStatus port tag => exact runCommand_codes (fun s => rfl) _ port s
  | setFrameClock port tag value => exact runCommand_codes (fun s => ruleSetFrameClock_codes s value) _ port s
  | peerStatus port tag clear => exact runCommand_codes (fun s => rulePeerStatus_codes s clear) _ port s
  | addTrunk port tag code circuit pinned => exact runCommand_keepsDirectory (ruleAddTrunk_keepsDirectory code circuit pinned) _ port s
  | addRange port tag route member size base =>
    exact runCommand_keepsDirectory (ruleAddRange_keepsDirectory port tag ⟨route, member, size, base⟩) _ port s
  | rangeCheckBucket => exact rangeCheckBucket_keepsDirectory s
  | rangeCheckComplete => exact rangeCheckComplete_keepsDirectory s
  | removeTrunk port tag code => exact runCommand_keepsDirectory (ruleRemoveTrunk_keepsDirectory port code) _ port s
  | removeRange port tag index => exact runCommand_keepsDirectory (ruleRemoveRange_keepsDirectory index) _ port s
  | pin port tag code => exact runCommand_keepsDirectory (rulePin_keepsDirectory port _ code true) _ port s
  | unpin port tag code => exact runCommand_keepsDirectory (rulePin_keepsDirectory port _ code false) _ port s
  | purge port tag => exact runCommand_keepsDirectory (rulePurge_keepsDirectory port tag) _ port s
  | purgeBucket => exact purgeBucket_keepsDirectory s
  | purgeComplete => exact purgeComplete_keepsDirectory s
  | lookup port tag operand => exact runCommand_codes (fun s => ruleLookup_codes s port operand) _ port s
  | queryMiss port tag clear => exact runCommand_codes (fun s => ruleQueryMiss_codes s clear) _ port s
  | openBatch port tag batch mode limit entries =>
    exact runCommand_codes (fun s => ruleOpenBatch_codes s port tag batch mode limit entries) _ port s
  | cancelBatch port tag batch => exact runCommand_codes (fun s => ruleCancelBatch_codes s batch) _ port s
  | batchStatus port tag batch => exact runCommand_codes (fun s => ruleBatchStatus_codes s batch) _ port s
  | setWatch port tag watch settings => exact runCommand_codes (fun s => ruleSetWatch_codes s watch settings) _ port s
  | watchStatus port tag clear => exact runCommand_codes (fun s => ruleWatchStatus_codes s clear) _ port s
  | exchange port tag kind a stateA b stateB => exact runCommand_codes (fun s => ruleExchange_codes s kind a stateA b stateB) _ port s
  | linkStatus port tag clear => exact runCommand_codes (fun s => ruleLinkStatus_codes s clear) _ port s
  | reset port tag => exact runCommand_codes (fun s => rfl) _ port s
  | managementFrameReceived port bytes => exact managementFrameReceived_keepsDirectory port bytes s
  | interByteTimeout port => exact interByteTimeout_keepsDirectory port s
  | frameTransmitStart port => exact frameTransmitStart_keepsDirectory port s
  | frameTransmitEnd port => exact frameTransmitEnd_keepsDirectory port s
  | laneLightReturn i => exact laneLightReturn_keepsDirectory i s
  | spanSignalReturn n => exact spanSignalReturn_keepsDirectory n s

/-- Settles O13: the law of the directory holds on in every row, from a state of which it holds. -/
theorem directoryLawKept : Obligations.DirectoryLawKept := by
  intro s t hs hstep
  unfold step at hstep
  split at hstep
  next i rest _ => exact answers_of_eq (exec_keepsDirectory i _) hstep (keepsDirectory_of_codes (setPending_codes s rest) hs.directory)
  next =>
    cases hstep
    exact hs.directory

end Sys2Proof.Machine
end

section
/-! SUPPORT. LOOKUP: the entry counts, and what it answers in its three forms (R155). -/

namespace Sys2Proof

theorem Table.map_data {α β : Type} {n : Nat} (t : Table n α) (f : α → β) :
    t.data.map f = (List.finRange n).map fun i => f (t.get i) := by
  obtain ⟨data, rfl⟩ := t
  conv_lhs => rw [← List.map_getElem_finRange data, List.map_map]
  rfl

end Sys2Proof

namespace Sys2Proof.Machine

variable {s : State} {port : Port} {tag : Byte} {operand : LookupOperand} {q : QueuedCommand} {rest : List QueuedCommand}
  {result : ResultCode} {body : ReplyBody}

theorem trunkCount_eq (d : Directory) : d.trunkCount = ((List.finRange 128).map fun b =>
    ((List.finRange 4).filter fun w => ((d.trunks.get b).get w).isSome).length).sum := by
  simp only [Directory.trunkCount, Table.map_data, Table.filter_data_length]

theorem rangeCount_eq (d : Directory) : d.rangeCount = ((List.finRange 8).filter fun i => (d.ranges.get i).isSome).length :=
  Table.filter_data_length ..

theorem bucketOf_none {n : Nat} (h : 128 ≤ n) : bucketOf n = none := by simp [bucketOf, h]

@[simp] theorem bucketOf_val (b : Fin 128) : bucketOf b.val = some b := by simp [bucketOf]

/-! ### What the rule answers -/

theorem ruleLookup_unknownForm (s : State) (port : Port) (form : Nat) :
    ruleLookup port (.unknownForm form) s = answered s .format .empty := rfl

theorem ruleLookup_busy (hform : ∀ form, operand ≠ .unknownForm form) (hb : s.directory.busy = true) :
    ruleLookup port operand s = answered s .busy .empty := by
  cases operand with
  | unknownForm form => exact absurd rfl (hform form)
  | byCode code => simp [ruleLookup, hb]
  | byBucket n => simp [ruleLookup, hb]
  | byRange n => simp [ruleLookup, hb]

theorem ruleLookup_byBucket (hb : s.directory.busy = false) (b : Fin 128) : ruleLookup port (.byBucket b.val) s =
    answered s .ok (.lookupBucket (s.directory.bucketView b) s.directory.trunkCount s.directory.rangeCount) := by
  simp [ruleLookup, hb]

theorem ruleLookup_noBucket (hb : s.directory.busy = false) {n : Nat} (hn : 128 ≤ n) :
    ruleLookup port (.byBucket n) s = answered s .range .empty := by simp [ruleLookup, hb, bucketOf_none hn]

theorem ruleLookup_byRange (hb : s.directory.busy = false) (i : Fin 8) : ruleLookup port (.byRange i.val) s =
    answered s .ok (.lookupRange (s.directory.ranges.get i) s.directory.trunkCount s.directory.rangeCount) := by
  simp [ruleLookup, hb]

theorem ruleLookup_noRange (hb : s.directory.busy = false) {n : Nat} (hn : 8 ≤ n) :
    ruleLookup port (.byRange n) s = answered s .range .empty := by simp [ruleLookup, hb, batchOf_none hn]

theorem ruleLookup_byCode (hb : s.directory.busy = false) (code : TrunkCode) :
    ruleLookup port (.byCode code) s = s.lookupCode port code := by simp [ruleLookup, hb]

theorem lookupCode_invalid {code : TrunkCode} (h : codeValid code = false) : s.lookupCode port code = answered s .range .empty := by
  simp [State.lookupCode, h]

theorem lookupCode_found {code : TrunkCode} {c : CircuitNo} {found : Found} (h : codeValid code = true)
    (hl : s.directory.lookup code = some (c, found)) : s.lookupCode port code =
      answered s .ok (.lookupCode c found (s.circuit c).state s.directory.trunkCount s.directory.rangeCount) := by
  simp [State.lookupCode, h, hl]

theorem lookupCode_missed {code : TrunkCode} (h : codeValid code = true) (hl : s.directory.lookup code = none) :
    s.lookupCode port code = answered (s.recordMiss code (portSource port) 0x77) .notFound
      (.lookupMiss (missFields code) s.directory.trunkCount s.directory.rangeCount) := by
  simp [State.lookupCode, h, hl]

/-! ### The command -/

section
variable (h : Heads s port (.lookup port tag operand) q rest)
include h

/-- R155: LOOKUP is taken on both ports. -/
theorem lookup_authority : lacksAuthority port q.type = false := h.authority (by nofun)

/-- R178: the type of the command in the slot. -/
theorem lookup_type : q.type = 0x77 := by
  have hhead : some (port, tag, (0x77 : Byte)) = some (port, q.tag, q.type) := parseCommand_head h.spells
  simp only [Option.some.injEq, Prod.mk.injEq] at hhead
  exact hhead.2.2.symm

/-- An answer that leaves the part alone. -/
theorem lookup_answers (hr : ruleLookup port operand (s.takeHead port q rest) = answered (s.takeHead port q rest) result body) :
    exec (.lookup port tag operand) s = .next (s.answerHead port q rest result body) := refuses_of_rule rfl h (lookup_authority h) hr

/-- R144, R155: a code that no entry resolves. -/
theorem lookup_misses {code : TrunkCode} (ho : operand = .byCode code) (hb : s.directory.busy = false) (hv : codeValid code = true)
    (hl : s.directory.lookup code = none) :
    Completes s (.lookup port tag operand) port q rest .notFound
      (.lookupMiss (missFields code) s.directory.trunkCount s.directory.rangeCount) [.misses] fun t =>
      t.directory.missCount = raise s.directory.missCount ∧
      t.directory.lastMiss = some ⟨code, portSource port, q.type, (primaryBucket code).val, (secondaryBucket code).val, s.fc⟩ := by
  subst ho
  have hrule := (ruleLookup_byCode (port := port) (s := s.takeHead port q rest) hb code).trans (lookupCode_missed hv hl)
  refine completes_of_rule rfl h (lookup_authority h) hrule
    (recordMiss_frame _ _ _ _) (by decide) fun u hu => ?_
  obtain ⟨hlast, hcount⟩ : Block.misses.same _ u := hu .misses (by decide)
  rw [lookup_type h]
  exact ⟨hcount, hlast⟩

end

/-- Settles O22: LOOKUP by its form, the walk, and what the directory finds. -/
theorem lookup : Obligations.Lookup := by
  intro s port tag operand q rest h
  simp only [← trunkCount_eq, ← rangeCount_eq]
  refine ⟨fun form ho => ?_, fun hform hb => lookup_answers h (ruleLookup_busy hform hb), fun hb => ?_⟩
  · subst ho
    exact lookup_answers h (ruleLookup_unknownForm _ _ _)
  have hidle : (s.takeHead port q rest).directory.busy = false := hb
  refine ⟨fun b ho hlt => ?_, fun b ho => ?_, fun i ho hlt => ?_, fun i ho => ?_, fun code ho => ?_⟩ <;> subst ho
  · exact lookup_answers h (ruleLookup_noBucket hidle hlt)
  · exact ⟨s.directory.bucketView b, fun w => by simp [Directory.bucketView], lookup_answers h (ruleLookup_byBucket hidle b)⟩
  · exact lookup_answers h (ruleLookup_noRange hidle hlt)
  · exact lookup_answers h (ruleLookup_byRange hidle i)
  · split
    next hout => exact lookup_answers h ((ruleLookup_byCode hidle code).trans (lookupCode_invalid (codeValid_false.mpr hout)))
    next hin =>
      have hv : codeValid code = true := by simpa using mt codeValid_false.mp hin
      split
      next circuit found hl => exact lookup_answers h ((ruleLookup_byCode hidle code).trans (lookupCode_found hv hl))
      next hl => cases port <;> exact lookup_misses h rfl hb hv hl

end Sys2Proof.Machine
end

section
/-! SUPPORT. ADD TRUNK, REMOVE TRUNK, PIN and UNPIN: what their checks find by the law of the entries, and their writes (R142, R146, R149,
R151). -/

namespace Sys2Proof.Machine

variable {s t u : State} {d : Directory} {port : Port} {tag : Byte} {q : QueuedCommand} {rest : List QueuedCommand} {code : TrunkCode}
  {c : CircuitNo} {b : Fin 128} {w : Fin 4} {result : ResultCode} {body : ReplyBody}

/-! ### What the checks find -/

/-- The range at `i` covers a code (R141). -/
def Directory.Covers (d : Directory) (code : TrunkCode) (i : Fin 8) : Prop :=
  ∃ e, d.ranges.get i = some e ∧ e.route = code.route ∧ e.member ≤ code.member ∧ code.member < e.member + e.size

/-- The way `w` of bucket `b` holds an entry for a code. -/
def Directory.Holds (d : Directory) (code : TrunkCode) (b : Fin 128) (w : Fin 4) (e : TrunkEntry) : Prop :=
  (d.trunks.get b).get w = some e ∧ e.code = code

theorem EntryLaw.findRange_covers (h : EntryLaw d) {i : Fin 8} (hi : d.Covers code i) : ∃ e, d.findRange code = some (i, e) := by
  obtain ⟨e, he, hcov⟩ := hi
  exact ⟨e, h.findRange he (RangeEntry.covers_iff.mpr hcov)⟩

theorem findRange_uncovered (h : ∀ i, ¬ d.Covers code i) : d.findRange code = none :=
  findRange_none_iff.mpr fun i e hi => Bool.eq_false_iff.mpr fun hcov => h i ⟨e, hi, RangeEntry.covers_iff.mp hcov⟩

theorem findTrunk_absent (h : ∀ b w e, ¬ d.Holds code b w e) : d.findTrunk code = none :=
  findTrunk_none_iff.mpr ⟨findWay_none_iff.mpr fun w e he hcode => h _ w e ⟨he, hcode⟩,
    findWay_none_iff.mpr fun w e he hcode => h _ w e ⟨he, hcode⟩⟩

/-- A search of a list in order finds the first element of its kind. -/
theorem find?_first {α : Type} {r : α → α → Prop} {p : α → Bool} {a : α} (hp : p a = true) :
    ∀ {l : List α}, l.Pairwise r → a ∈ l → (∀ x ∈ l, r x a → p x = false) → l.find? p = some a
  | x :: l, hord, ha, hlow => by
    obtain ⟨hx, hl⟩ := List.pairwise_cons.mp hord
    rcases List.mem_cons.mp ha with rfl | ha
    · exact List.find?_cons_of_pos hp
    · rw [List.find?_cons_of_neg (by simp [hlow x (.head _) (hx a ha)])]
      exact find?_first hp hl ha fun y hy => hlow y (.tail _ hy)

theorem find?_finRange {n : Nat} {p : Fin n → Bool} {i : Fin n} (hi : p i = true) (hlow : ∀ j, j < i → p j = false) :
    (List.finRange n).find? p = some i :=
  find?_first hi (List.pairwise_lt_finRange n) (List.mem_finRange i) fun j _ => hlow j

/-- R142: the first free way of a bucket. -/
theorem freeWay_free (hw : (d.trunks.get b).get w = none) (hlow : ∀ v, v < w → ((d.trunks.get b).get v).isSome) :
    d.freeWay b = some w :=
  find?_finRange (by simp [hw]) fun v hv => by simpa using hlow v hv

theorem freeWay_full (h : ∀ w, ((d.trunks.get b).get w).isSome) : d.freeWay b = none :=
  List.find?_eq_none.mpr fun w _ => by simpa [Option.isSome_iff_ne_none] using h w

theorem place_free (hb : b = primaryBucket code ∨ (b = secondaryBucket code ∧ ∀ w, ((d.trunks.get (primaryBucket code)).get w).isSome))
    (hw : (d.trunks.get b).get w = none) (hlow : ∀ v, v < w → ((d.trunks.get b).get v).isSome) : d.place code = some (b, w) := by
  unfold Directory.place
  rcases hb with rfl | ⟨rfl, hfull⟩
  · rw [freeWay_free hw hlow]
  · rw [freeWay_full hfull, freeWay_free hw hlow]
    rfl

theorem place_full (hp : ∀ w, ((d.trunks.get (primaryBucket code)).get w).isSome)
    (hs : ∀ w, ((d.trunks.get (secondaryBucket code)).get w).isSome) : d.place code = none := by
  rw [Directory.place, freeWay_full hp, freeWay_full hs]
  rfl

theorem holdsCode_iff {r : Circuit} : r.holdsCode = true ↔ r.migrating = true ∨ (r.state = .fibre ∧ r.context.isSome) := by
  simp [Circuit.holdsCode, Circuit.kept]

/-! ### The writes (R145) -/

theorem setTrunk_frame (s : State) (b : Fin 128) (w : Fin 4) (x : Option TrunkEntry) :
    SameBut [.entries] s (s.setDirectory (s.directory.setTrunk b w x)) :=
  .of_forall fun b => by cases b <;> simp [Block.same, Directory.setTrunk]

/-- The ways are as they were, but for one. -/
def TrunkBecomes (s : State) (b : Fin 128) (w : Fin 4) (x : Option TrunkEntry) (t : State) : Prop :=
  t.directory.ranges = s.directory.ranges ∧
    ∀ b' w', (t.directory.trunks.get b').get w' = if b' = b ∧ w' = w then x else (s.directory.trunks.get b').get w'

/-- A trunk entry written or removed with its circuit's code, in a command's step. -/
theorem setTrunk_completes {i : Instr} {rule : State → Handled} {x : Option TrunkEntry} {o : Option TrunkCode}
    (he : exec i s = runCommand i port rule s) (h : Takes s port i q rest)
    (hr : rule (s.takeHead port q rest) =
      answered (((s.takeHead port q rest).setDirectory (s.directory.setTrunk b w x)).setCode c o) result body) :
    Completes s i port q rest result body [.entries, .circuits] fun t =>
      TrunkBecomes s b w x t ∧ Becomes c { s.circuit c with code := o } s t := by
  have hhead := takeHead_frame s port q rest
  have hentries : SameBut [.entries] (s.takeHead port q rest) ((s.takeHead port q rest).setDirectory (s.directory.setTrunk b w x)) :=
    setTrunk_frame _ b w x
  refine completes_of_rule he h.toHeads h.authority hr ((hentries.mono (by decide)).trans ((setCode_frame _ c o).mono (by decide)))
    (by decide) fun u hu => ⟨?_, ?_⟩
  · rw [TrunkBecomes, hu.sameDirectory]
    exact ⟨rfl, fun b' w' => setTrunk_get s.directory b b' w w' x⟩
  · exact (((putCircuit_becomes _ c _).of_frame hu (by decide) (by decide) (by decide)).after_frame hentries (by decide)).after_frame
      hhead (by decide)

/-! ### ADD TRUNK (R146) -/

section
variable {circuit : Nat} {pinned : Option Bool}

theorem ruleAddTrunk_range (h : 512 ≤ circuit ∨ codeValid code = false) :
    ruleAddTrunk code circuit pinned s = answered s .range .empty := by
  unfold ruleAddTrunk
  rcases h with h | h
  · rw [circuitOf_none h]
  · split
    · rw [if_pos h]
    · rfl

theorem ruleAddTrunk_busy (hv : codeValid code = true) (hb : s.directory.busy = true) (c : CircuitNo) :
    ruleAddTrunk code c.val pinned s = answered s .busy .empty := by simp [ruleAddTrunk, hv, hb]

theorem ruleAddTrunk_idle (hv : codeValid code = true) (hb : s.directory.busy = false) (c : CircuitNo) :
    ruleAddTrunk code c.val pinned s = s.addTrunk code c (pinned.getD false) := by simp [ruleAddTrunk, hv, hb]

variable {flag : Bool}

theorem addTrunk_shadowed {i : Fin 8} {e : RangeEntry} (hr : s.directory.findRange code = some (i, e)) :
    s.addTrunk code c flag = answered s .shadowed (.shadowedBy i) := by simp [State.addTrunk, hr]

theorem addTrunk_duplicate {e : TrunkEntry} (hr : s.directory.findRange code = none) (ht : s.directory.findTrunk code = some (b, w, e)) :
    s.addTrunk code c flag = answered s .duplicate (.duplicateOf e.circuit b w) := by simp [State.addTrunk, hr, ht]

section
variable (hr : s.directory.findRange code = none) (ht : s.directory.findTrunk code = none)
include hr ht

theorem addTrunk_conflict {own : TrunkCode} (hc : (s.circuit c).code = some own) :
    s.addTrunk code c flag = answered s .conflict (.heldCode own) := by simp [State.addTrunk, hr, ht, hc]

theorem addTrunk_written (hc : (s.circuit c).code = none) (hp : s.directory.place code = some (b, w)) :
    s.addTrunk code c flag = answered (s.writeTrunk b w ⟨code, c, flag⟩) .ok (.trunkWritten b w) := by
  simp [State.addTrunk, hr, ht, hc, hp]

theorem addTrunk_full (hc : (s.circuit c).code = none) (hp : s.directory.place code = none) :
    s.addTrunk code c flag = answered s .full (.buckets (primaryBucket code).val (secondaryBucket code).val) := by
  simp [State.addTrunk, hr, ht, hc, hp]

end

variable (h : Takes s port (.addTrunk port tag code circuit pinned) q rest)
include h

/-- A refusal of ADD TRUNK. -/
theorem addTrunk_refuses (hr : ruleAddTrunk code circuit pinned (s.takeHead port q rest) = answered (s.takeHead port q rest) result body) :
    Refuses s (.addTrunk port tag code circuit pinned) port q rest result body := refuses_of_rule rfl h.toHeads h.authority hr

end

/-! ### REMOVE TRUNK, PIN and UNPIN (R149, R151) -/

section
variable {type : Byte} {range : Fin 8 → ReplyBody} {rule : Fin 128 → Fin 4 → TrunkEntry → Handled}

theorem withTrunk_invalid (hv : codeValid code = false) : s.withTrunk port type code range rule = answered s .range .empty := by
  simp [State.withTrunk, hv]

section
variable (hv : codeValid code = true)
include hv

theorem withTrunk_busy (hb : s.directory.busy = true) : s.withTrunk port type code range rule = answered s .busy .empty := by
  simp [State.withTrunk, hv, hb]

variable (hb : s.directory.busy = false)
include hb

theorem withTrunk_shadowed {i : Fin 8} {e : RangeEntry} (hr : s.directory.findRange code = some (i, e)) :
    s.withTrunk port type code range rule = answered s .shadowed (range i) := by simp [State.withTrunk, hv, hb, hr]

theorem withTrunk_found {e : TrunkEntry} (hr : s.directory.findRange code = none) (ht : s.directory.findTrunk code = some (b, w, e)) :
    s.withTrunk port type code range rule = rule b w e := by simp [State.withTrunk, hv, hb, hr, ht]

theorem withTrunk_missed (hr : s.directory.findRange code = none) (ht : s.directory.findTrunk code = none) :
    s.withTrunk port type code range rule =
      answered (s.recordMiss code (portSource port) type) .notFound (.missed (missFields code)) := by
  simp [State.withTrunk, hv, hb, hr, ht]

end

/-- The command `i` names a trunk entry by `code` and follows `rule` for it; `type` is its command type. -/
structure ByTrunk (i : Instr) (port : Port) (type : Byte) (code : TrunkCode) (range : Fin 8 → ReplyBody)
    (rule : State → Fin 128 → Fin 4 → TrunkEntry → Handled) : Prop where
  runs : ∀ s, exec i s = runCommand i port (fun u => u.withTrunk port type code range (rule u)) s
  typed : ∃ tag body, commandFrame i = some (port, ⟨tag, type, body⟩)

/-- R149, for the entry that the code resolves to. -/
def State.removeTrunkAsked (s : State) (b : Fin 128) (w : Fin 4) (e : TrunkEntry) : Handled :=
  if (s.circuit e.circuit).holdsCode then answered s .state (.circuitState e.circuit (s.circuit e.circuit).state)
  else answered (s.removeTrunkAt b w e) .ok (.trunkRemoved e.circuit b w)

theorem byTrunk_remove (port : Port) (tag : Byte) (code : TrunkCode) :
    ByTrunk (.removeTrunk port tag code) port 0x72 code .shadowedBy State.removeTrunkAsked := ⟨fun _ => rfl, ⟨_, _, rfl⟩⟩

theorem byTrunk_pin (port : Port) (tag : Byte) (code : TrunkCode) : ByTrunk (.pin port tag code) port 0x74 code (fun _ => .empty)
    fun s b w e => answered (s.writePin b w e true) .ok (.pinned e.circuit b w true) := ⟨fun _ => rfl, ⟨_, _, rfl⟩⟩

theorem byTrunk_unpin (port : Port) (tag : Byte) (code : TrunkCode) : ByTrunk (.unpin port tag code) port 0x75 code (fun _ => .empty)
    fun s b w e => answered (s.writePin b w e false) .ok (.pinned e.circuit b w false) := ⟨fun _ => rfl, ⟨_, _, rfl⟩⟩

theorem byTrunk_of_mem {i : Instr} (hi : i ∈ [.removeTrunk port tag code, .pin port tag code, .unpin port tag code]) :
    ∃ type rule, ByTrunk i port type code (fun j => if i = .removeTrunk port tag code then .shadowedBy j else .empty) rule := by
  simp only [List.mem_cons, List.not_mem_nil, or_false] at hi
  rcases hi with rfl | rfl | rfl
  · simpa using ⟨_, _, byTrunk_remove port tag code⟩
  · simpa using ⟨_, _, byTrunk_pin port tag code⟩
  · simpa using ⟨_, _, byTrunk_unpin port tag code⟩

section
variable {i : Instr} {rule : State → Fin 128 → Fin 4 → TrunkEntry → Handled} (y : ByTrunk i port type code range rule)
  (h : Takes s port i q rest)
include y h

theorem ByTrunk.type_eq : q.type = type := by
  obtain ⟨tag, body, hframe⟩ := y.typed
  have hhead := parseCommand_head h.spells
  rw [hframe] at hhead
  simp only [Option.map_some, Option.some.injEq, Prod.mk.injEq] at hhead
  exact hhead.2.2.symm

theorem ByTrunk.refuses (hr : (s.takeHead port q rest).withTrunk port type code range (rule (s.takeHead port q rest)) =
    answered (s.takeHead port q rest) result body) : Refuses s i port q rest result body :=
  refuses_of_rule (y.runs s) h.toHeads h.authority hr

/-- R144: a code that no entry resolves. -/
theorem ByTrunk.missed (hv : codeValid code = true) (hb : s.directory.busy = false) (hr : s.directory.findRange code = none)
    (ht : s.directory.findTrunk code = none) :
    Completes s i port q rest .notFound (.missed (missFields code)) [.misses] fun t =>
      t.directory.missCount = raise s.directory.missCount ∧
      t.directory.lastMiss = some ⟨code, .primary, q.type, (primaryBucket code).val, (secondaryBucket code).val, s.fc⟩ := by
  refine completes_of_rule (y.runs s) h.toHeads h.authority
    (withTrunk_missed (s := s.takeHead port q rest) hv hb hr ht) (recordMiss_frame _ _ _ _) (by decide) fun u hu => ?_
  obtain ⟨hlast, hcount⟩ : Block.misses.same _ u := hu .misses (by decide)
  rw [y.type_eq h]
  obtain rfl := h.allowed
  exact ⟨hcount, hlast⟩

end

/-- R151: the pinned flag written. -/
theorem writePin_completes {i : Instr} {flag : Bool} {e : TrunkEntry} (y : ByTrunk i port type code range
      fun s b w e => answered (s.writePin b w e flag) .ok (.pinned e.circuit b w flag)) (h : Takes s port i q rest)
    (hv : codeValid code = true) (hb : s.directory.busy = false) (hr : s.directory.findRange code = none)
    (ht : s.directory.findTrunk code = some (b, w, e)) :
    Completes s i port q rest .ok (.pinned e.circuit b w flag) [.entries] (TrunkBecomes s b w (some { e with pinned := flag })) := by
  refine completes_of_rule (y.runs s) h.toHeads h.authority (withTrunk_found (s := s.takeHead port q rest) hv hb hr ht)
    (setTrunk_frame _ b w _) (by decide) fun u hu => ?_
  rw [TrunkBecomes, hu.sameDirectory]
  exact ⟨rfl, fun b' w' => setTrunk_get s.directory b b' w w' _⟩

end

/-- Settles O54: each command by what the law of the entries lets its checks find. -/
theorem trunkEntries : Obligations.TrunkEntries := by
  intro s port tag code q rest hs
  have he : EntryLaw s.directory := hs.directory.entries
  simp only [← codeValid_false, Bool.not_eq_false]
  refine ⟨fun circuit pinned h => ⟨fun hout => addTrunk_refuses h (ruleAddTrunk_range hout), fun hc hv hb => ?_, fun c hc hv hb => ?_⟩,
    fun i hi h => ?_, fun b w e hv hb hun hholds => ?_⟩
  · exact addTrunk_refuses h (ruleAddTrunk_busy (s := s.takeHead port q rest) hv hb ⟨circuit, hc⟩)
  · subst hc
    have hidle : ruleAddTrunk code c.val pinned (s.takeHead port q rest) = (s.takeHead port q rest).addTrunk code c (pinned.getD false) :=
      ruleAddTrunk_idle (s := s.takeHead port q rest) hv hb c
    refine ⟨fun j hj _ => ?_, fun b w e hun hholds => ?_, fun own hun habs hcode => ?_,
      fun hun habs hcode => ⟨fun b w hb hfree => ?_, fun hp hsec => ?_⟩⟩
    · obtain ⟨e, hr⟩ := he.findRange_covers hj
      exact addTrunk_refuses h (hidle.trans (addTrunk_shadowed hr))
    · exact addTrunk_refuses h (hidle.trans (addTrunk_duplicate (findRange_uncovered hun) (he.findTrunk hholds.1 hholds.2)))
    · exact addTrunk_refuses h (hidle.trans (addTrunk_conflict (s := s.takeHead port q rest) (findRange_uncovered hun)
        (findTrunk_absent habs) hcode))
    · exact setTrunk_completes rfl h (hidle.trans (addTrunk_written (findRange_uncovered hun) (findTrunk_absent habs) hcode
        (place_free hb hfree.1 hfree.2)))
    · exact addTrunk_refuses h (hidle.trans (addTrunk_full (findRange_uncovered hun) (findTrunk_absent habs) hcode (place_full hp hsec)))
  · obtain ⟨type, rule, y⟩ := byTrunk_of_mem hi
    refine ⟨fun hv => y.refuses h (withTrunk_invalid hv), fun hv hb => y.refuses h (withTrunk_busy hv hb), fun hv hb =>
      ⟨fun j hj _ => ?_, fun hun habs => y.missed h hv hb (findRange_uncovered hun) (findTrunk_absent habs)⟩⟩
    obtain ⟨e, hr⟩ := he.findRange_covers hj
    exact y.refuses h (withTrunk_shadowed (s := s.takeHead port q rest) hv hb hr)
  · have hr := findRange_uncovered hun
    have ht := he.findTrunk hholds.1 hholds.2
    refine ⟨fun h => ?_, writePin_completes (byTrunk_pin port tag code) (hv := hv) (hb := hb) (hr := hr) (ht := ht),
      writePin_completes (byTrunk_unpin port tag code) (hv := hv) (hb := hb) (hr := hr) (ht := ht)⟩
    have y := byTrunk_remove port tag code
    have hfound := withTrunk_found (s := s.takeHead port q rest) (port := port) (type := 0x72) (range := .shadowedBy)
      (rule := (s.takeHead port q rest).removeTrunkAsked) hv hb hr ht
    split
    next hheld => exact y.refuses h (hfound.trans (if_pos (holdsCode_iff.mpr hheld)))
    next hfree => exact setTrunk_completes (y.runs s) h (hfound.trans (if_neg (mt holdsCode_iff.mp hfree)))

end Sys2Proof.Machine
end

section
/-! SUPPORT. ADD RANGE, its walk of the trunk entries, and REMOVE RANGE (R141, R147, R148, R150, R179). -/

namespace Sys2Proof.Machine

variable {s s' t t' u : State} {d : Directory} {port : Port} {tag : Byte} {q : QueuedCommand} {rest : List QueuedCommand} {c : CircuitNo}
  {b : Fin 128} {e : RangeEntry} {i : Fin 8} {result : ResultCode} {body : ReplyBody}

/-! ### A command that walks (R179) -/

/-- R179: a command that begins a walk holds its slot. -/
theorem walks_of_rule {c : Instr} {rule : State → Handled} {x : Walk} (he : exec c s = runCommand c port rule s)
    (h : Takes s port c q rest) (hr : rule (s.takeHead port q rest) = ((s.takeHead port q rest).setWalk x, none)) :
    Happens s c [.ports, .walk] fun t =>
      t.directory.walk = x ∧ t.port (otherPort port) = s.port (otherPort port) ∧
        t.port port = { s.port port with input := rest, slot := some ⟨.pending, q.tag, q.type⟩ } := by
  have hport : ((s.takeHead port q rest).setWalk x).port port = { s.port port with input := rest, slot := some ⟨.taken, q.tag, q.type⟩ } :=
    takeHead_port s port q rest
  have hpend : ((s.takeHead port q rest).setWalk x).pend port = ((s.takeHead port q rest).setWalk x).setPort port
      { s.port port with input := rest, slot := some ⟨.pending, q.tag, q.type⟩ } := by simp [State.pend, hport]
  refine ⟨((s.takeHead port q rest).setWalk x).pend port, ?_, ?_, ?_⟩
  · rw [he, runCommand_taken rule h.toHeads h.authority, hr]
    rfl
  · rw [hpend]
    exact (((takeHead_frame s port q rest).mono (by decide)).trans ((setWalk_frame _ x).mono (by decide))).trans
      ((setPort_frame _ port _).mono (by decide))
  · rw [hpend]
    refine ⟨rfl, ?_, State.setPort_port_eq ..⟩
    rw [State.setPort_port_ne _ _ (otherPort_ne port).symm]
    exact takeHead_otherPort s port q rest

/-- R179: the reply that a walk's completion builds, through steps that leave the ports. -/
theorem finish_walkAnswered {l : List Block} {slot : ExecSlot} (hf : SameBut l s t) (hp : Block.ports ∉ l)
    (hslot : (s.port port).slot = some slot) : WalkAnswered port result body s ((answered t result body).finish port) ∧
      SameBut [.ports] t ((answered t result body).finish port) := by
  have hport : t.port port = s.port port := hf.samePort hp port
  have hreply : (answered t result body).finish port = t.setPort port { s.port port with
      output := (s.port port).output ++ [.reply slot.tag slot.type result body], slot := some { slot with phase := .sending } } := by
    rw [← hport] at hslot ⊢
    exact reply_eq hslot result body
  rw [hreply]
  refine ⟨⟨?_, fun y hy => ?_⟩, setPort_frame t port _⟩
  · rw [State.setPort_port_ne _ _ (otherPort_ne port).symm, hf.samePort hp]
  · rw [State.setPort_port_eq]
    rw [hslot] at hy
    cases hy
    rfl

/-! ### A range written or removed with its circuits' codes (R145, R148, R150) -/

/-- The entry at `i` written, and the codes of the circuits of `e`. -/
def State.putRange (s : State) (i : Fin 8) (x : Option RangeEntry) (e : RangeEntry) (f : CircuitNo × TrunkCode → Option TrunkCode) : State :=
  e.members.foldl (fun s m => s.setCode m.1 (f m)) (s.setDirectory { s.directory with ranges := s.directory.ranges.set i x })

theorem writeRange_eq (s : State) (i : Fin 8) (e : RangeEntry) : s.writeRange i e = s.putRange i (some e) e fun m => some m.2 := rfl

theorem removeRangeAt_eq (s : State) (i : Fin 8) (e : RangeEntry) : s.removeRangeAt i e = s.putRange i none e fun _ => none := rfl

/-- The range entries are as they were but for one, and the circuits of `e` carry the codes `v`. -/
def RangeBecomes (s : State) (i : Fin 8) (x : Option RangeEntry) (e : RangeEntry) (v : CircuitNo → Option TrunkCode) (t : State) : Prop :=
  t.directory.trunks = s.directory.trunks ∧ (∀ j, t.directory.ranges.get j = if j = i then x else s.directory.ranges.get j) ∧
    (∀ c, e.Owns c → t.circuit c = evaluated t.spans t.lanes { s.circuit c with code := v c }) ∧
    ∀ c, ¬ e.Owns c → t.circuit c = s.circuit c

theorem putRange_frame (s : State) (i : Fin 8) (x : Option RangeEntry) (e : RangeEntry) (f : CircuitNo × TrunkCode → Option TrunkCode) :
    SameBut [.entries, .circuits] s (s.putRange i x e f) := by
  have hentries : SameBut [.entries] s (s.setDirectory { s.directory with ranges := s.directory.ranges.set i x }) :=
    .of_forall fun b => by cases b <;> simp [Block.same]
  exact (hentries.mono (by decide)).trans ((setCodes_frame f e.members _).mono (by decide))

theorem putRange_becomes (s : State) (i : Fin 8) (x : Option RangeEntry) (e : RangeEntry) (f : CircuitNo × TrunkCode → Option TrunkCode) :
    RangeBecomes s i x e (fun c => f (c, e.codeOf c)) (s.putRange i x e f) := by
  have hcodes := setCodes_frame f e.members (s.setDirectory { s.directory with ranges := s.directory.ranges.set i x })
  obtain ⟨hranges, htrunks⟩ : Block.entries.same _ (s.putRange i x e f) := hcodes .entries (by decide)
  obtain ⟨hown, hother⟩ := setCodes_members e f (s.setDirectory { s.directory with ranges := s.directory.ranges.set i x })
  refine ⟨htrunks, fun j => ?_, fun c hc => ?_, hother⟩
  · rw [hranges]
    exact setRange_get s.directory i j x
  · rw [(putRange_frame s i x e f).evaluated_eq (by decide) (by decide)]
    exact hown c hc

/-- The effect on a range, between states that differ elsewhere. -/
theorem RangeBecomes.between {l : List Block} {x : Option RangeEntry} {v : CircuitNo → Option TrunkCode} (h : RangeBecomes s i x e v t)
    (hs : SameBut l s' s) (ht : SameBut l t t') (hl : ∀ b ∈ l, b = .ports ∨ b = .walk) : RangeBecomes s' i x e v t' := by
  have hout : ∀ b : Block, b ≠ .ports → b ≠ .walk → b ∉ l := fun b hp hw hb => (hl b hb).elim hp hw
  obtain ⟨htrunks, hranges, hown, hother⟩ := h
  obtain ⟨hr, ht'⟩ : Block.entries.same s' s := hs .entries (hout _ nofun nofun)
  obtain ⟨kr, kt⟩ : Block.entries.same t t' := ht .entries (hout _ nofun nofun)
  have hcirc := hs.sameCircuit (hout .circuits nofun nofun)
  have kcirc := ht.sameCircuit (hout .circuits nofun nofun)
  refine ⟨by rw [kt, htrunks, ht'], fun j => by rw [kr, hranges, hr], fun c hc => ?_, fun c hc => by rw [kcirc, hother c hc, hcirc]⟩
  rw [kcirc, hown c hc, ht.evaluated_eq (hout .spans nofun nofun) (hout .laneRecords nofun nofun), hcirc]

/-! ### ADD RANGE (R147) -/

theorem overlaps_iff {x : RangeEntry} :
    x.overlaps e = true ↔ x.route = e.route ∧ x.member < e.member + e.size ∧ e.member < x.member + x.size := by
  simp [RangeEntry.overlaps, and_assoc]

theorem freeRange_none_iff : d.freeRange = none ↔ ∀ j, (d.ranges.get j).isSome := by
  simp [Directory.freeRange, List.find?_eq_none, Option.isSome_iff_ne_none]

theorem freeRange_free (hi : d.ranges.get i = none) (hlow : ∀ j, j < i → (d.ranges.get j).isSome) : d.freeRange = some i :=
  find?_finRange (by simp [hi]) fun j hj => by simpa using hlow j hj

/-- The range at `j` covers a code of a new range (R147, check 5). -/
def Directory.Meets (d : Directory) (e : RangeEntry) (j : Fin 8) : Prop :=
  ∃ x, d.ranges.get j = some x ∧ x.route = e.route ∧ x.member < e.member + e.size ∧ e.member < x.member + x.size

theorem meets_iff : d.Meets e i ↔ ((d.ranges.get i).any fun x => x.overlaps e) = true := by
  simp [Directory.Meets, Option.any_eq_true, overlaps_iff]

theorem overlapping_first (hi : d.Meets e i) (hlow : ∀ j, j < i → ¬ d.Meets e j) : d.overlapping e = some i :=
  find?_finRange (meets_iff.mp hi) fun j hj => Bool.eq_false_iff.mpr (mt meets_iff.mpr (hlow j hj))

theorem overlapping_meetsNone (h : ∀ j, ¬ d.Meets e j) : d.overlapping e = none :=
  List.find?_eq_none.mpr fun j _ => mt meets_iff.mpr (h j)

theorem badSize_iff : (rangeSizes.contains e.size = false ∨ e.member % e.size ≠ 0) ↔
    (e.size ∉ [1, 2, 4, 8, 16, 32, 64, 128, 256] ∨ e.member % e.size ≠ 0) := by
  rw [rangeSizes, ← Bool.not_eq_true, List.contains_iff_mem]

section
variable (hrange : ¬ (4096 ≤ e.route ∨ 256 ≤ e.member ∨ 512 ≤ e.base ∨ 512 < e.base + e.size))
  (hsize : ¬ (e.size ∉ [1, 2, 4, 8, 16, 32, 64, 128, 256] ∨ e.member % e.size ≠ 0))

theorem ruleAddRange_range (h : 4096 ≤ e.route ∨ 256 ≤ e.member ∨ 512 ≤ e.base ∨ 512 < e.base + e.size) :
    ruleAddRange port tag e s = answered s .range .empty := if_pos h

include hrange in
theorem ruleAddRange_format (h : e.size ∉ [1, 2, 4, 8, 16, 32, 64, 128, 256] ∨ e.member % e.size ≠ 0) :
    ruleAddRange port tag e s = answered s .format .empty := by
  rw [ruleAddRange, if_neg hrange, if_pos (badSize_iff.mpr h)]

include hrange hsize

theorem ruleAddRange_busy (hb : s.directory.busy = true) : ruleAddRange port tag e s = answered s .busy .empty := by
  rw [ruleAddRange, if_neg hrange, if_neg (mt badSize_iff.mp hsize), if_pos hb]

variable (hb : ¬ s.directory.busy = true)
include hb

theorem ruleAddRange_full (hf : ∀ j, (s.directory.ranges.get j).isSome) : ruleAddRange port tag e s = answered s .full .empty := by
  rw [ruleAddRange, if_neg hrange, if_neg (mt badSize_iff.mp hsize), if_neg hb, if_pos (freeRange_none_iff.mpr hf)]

variable (hf : ¬ ∀ j, (s.directory.ranges.get j).isSome)
include hf

theorem ruleAddRange_shadowed (ho : s.directory.overlapping e = some i) : ruleAddRange port tag e s = answered s .shadowed (.shadowedBy i) := by
  rw [ruleAddRange, if_neg hrange, if_neg (mt badSize_iff.mp hsize), if_neg hb, if_neg (mt freeRange_none_iff.mp hf), ho]

theorem ruleAddRange_walks (ho : s.directory.overlapping e = none) :
    ruleAddRange port tag e s = (s.setWalk (.rangeCheck 0 false port tag e none), none) := by
  rw [ruleAddRange, if_neg hrange, if_neg (mt badSize_iff.mp hsize), if_neg hb, if_neg (mt freeRange_none_iff.mp hf), ho]

end

/-- A refusal of ADD RANGE. -/
theorem addRange_refuses (h : Takes s port (.addRange port tag e.route e.member e.size e.base) q rest)
    (hr : ruleAddRange port tag e (s.takeHead port q rest) = answered (s.takeHead port q rest) result body) :
    Refuses s (.addRange port tag e.route e.member e.size e.base) port q rest result body := refuses_of_rule rfl h.toHeads h.authority hr

/-! ### The walk of a bucket (R148) -/

/-- A way of a bucket holds an entry inside a range. -/
def Directory.Inside (d : Directory) (e : RangeEntry) (b : Fin 128) (w : Fin 4) (x : TrunkEntry) : Prop :=
  (d.trunks.get b).get w = some x ∧ x.code.route = e.route ∧ e.member ≤ x.code.member ∧ x.code.member < e.member + e.size

theorem inside_iff {w : Fin 4} {x : TrunkEntry} : d.Inside e b w x ↔ (d.trunks.get b).get w = some x ∧ e.covers x.code = true := by
  rw [Directory.Inside, RangeEntry.covers_iff, @eq_comm _ e.route]

/-- A search of a list in order gives what the first element of its kind gives. -/
theorem findSome?_first {α β : Type} {r : α → α → Prop} {f : α → Option β} {a : α} {y : β} (hf : f a = some y) :
    ∀ {l : List α}, l.Pairwise r → a ∈ l → (∀ x ∈ l, r x a → f x = none) → l.findSome? f = some y
  | x :: l, hord, ha, hlow => by
    obtain ⟨hx, hl⟩ := List.pairwise_cons.mp hord
    rcases List.mem_cons.mp ha with rfl | ha
    · exact List.findSome?_cons_of_isSome (by simp [hf]) |>.trans hf
    · rw [List.findSome?_cons, hlow x (.head _) (hx a ha)]
      exact findSome?_first hf hl ha fun y hy => hlow y (.tail _ hy)

theorem insideBucket_outside (h : ∀ w x, ¬ d.Inside e b w x) : d.insideBucket e b = none :=
  insideBucket_none_iff.mpr fun w x hx => Bool.eq_false_iff.mpr fun hcov => h w x (inside_iff.mpr ⟨hx, hcov⟩)

theorem insideBucket_first {w : Fin 4} {x : TrunkEntry} (h : d.Inside e b w x) (hlow : ∀ v y, v < w → ¬ d.Inside e b v y) :
    d.insideBucket e b = some ⟨b.val, w.val, x.code⟩ := by
  obtain ⟨hx, hcov⟩ := inside_iff.mp h
  refine findSome?_first (by simp [hx, hcov]) (List.pairwise_lt_finRange 4) (List.mem_finRange w) fun v _ hv => ?_
  split
  next y hy => exact if_neg fun hy' => hlow v y hv (inside_iff.mpr ⟨hy, hy'⟩)
  next => rfl

/-- R148: what a walked bucket leaves as found. -/
def State.foundAfter (s : State) (e : RangeEntry) (b : Fin 128) (found : Option FoundTrunk) : Option FoundTrunk :=
  if found.isSome then found else s.directory.insideBucket e b

theorem rangeCheckBucket_happens {found : Option FoundTrunk} (hw : s.directory.walk = .rangeCheck b.val true port tag e found) :
    Happens s .rangeCheckBucket [.walk] fun t => t.directory.walk = .rangeCheck (b.val + 1) false port tag e (s.foundAfter e b found) := by
  have hexec : exec .rangeCheckBucket s = .next (s.setWalk (.rangeCheck (b.val + 1) false port tag e (s.foundAfter e b found))) := by
    show execRangeCheckBucket s = _
    simp only [execRangeCheckBucket, hw, bucketOf_val, if_true]
    rfl
  exact ⟨_, hexec, setWalk_frame s _, rfl⟩

/-! ### The completion (R148) -/

theorem rangeCheckComplete_exec {due : Bool} {found : Option FoundTrunk} (hw : s.directory.walk = .rangeCheck 128 due port tag e found) :
    exec .rangeCheckComplete s = .next (((s.setWalk .idle).completeRange e found).finish port) := by
  show execRangeCheckComplete s = _
  simp [execRangeCheckComplete, hw]

section
variable {slot : ExecSlot} (hslot : (s.port port).slot = some slot)
include hslot

/-- A completion that refuses. -/
theorem rangeCheckComplete_refuses {due : Bool} {found : Option FoundTrunk}
    (hw : s.directory.walk = .rangeCheck 128 due port tag e found)
    (hr : (s.setWalk .idle).completeRange e found = answered (s.setWalk .idle) result body) :
    Happens s .rangeCheckComplete [.walk, .ports] fun t => t.directory.walk = .idle ∧ WalkAnswered port result body s t := by
  have hidle := setWalk_frame s .idle
  obtain ⟨hanswer, hports⟩ := finish_walkAnswered (result := result) (body := body) hidle (by decide) hslot
  refine ⟨_, (rangeCheckComplete_exec hw).trans (congrArg _ (congrArg _ hr)),
    (hidle.mono (by decide)).trans (hports.mono (by decide)), ?_, hanswer⟩
  exact hports .walk (by decide)

end

theorem completeRange_found (s : State) (e : RangeEntry) (f : FoundTrunk) :
    s.completeRange e (some f) = answered s .shadowed (.trunkInside f) := rfl

theorem completeRange_conflict {code : TrunkCode} (hc : e.Owns c) (hcode : (s.circuit c).code = some code)
    (hlow : ∀ d, d < c → e.Owns d → (s.circuit d).code = none) :
    s.completeRange e none = answered s .conflict (.carriedCode c code) := by
  have hfirst : (e.members.findSome? fun m => (s.circuit m.1).code.map fun code => (m.1, code)) = some (c, code) := by
    refine findSome?_first (a := (c, e.codeOf c)) (by simp [hcode]) e.members_ascending (RangeEntry.mem_members.mpr ⟨hc, rfl⟩)
      fun m hm hlt => ?_
    rw [hlow m.1 hlt (RangeEntry.mem_members.mp hm).1]
    rfl
  simp [State.completeRange, hfirst]

theorem completeRange_written (hc : ∀ c, e.Owns c → (s.circuit c).code = none) (hi : s.directory.freeRange = some i) :
    s.completeRange e none = answered (s.putRange i (some e) e fun m => some m.2) .ok (.rangeWritten i) := by
  have hnone : (e.members.findSome? fun m => (s.circuit m.1).code.map fun code => (m.1, code)) = none :=
    List.findSome?_eq_none_iff.mpr fun m hm => by rw [hc m.1 (RangeEntry.mem_members.mp hm).1]; rfl
  simp [State.completeRange, hnone, hi, writeRange_eq]

/-! ### REMOVE RANGE (R150) -/

section
variable {n : Nat}

theorem ruleRemoveRange_range (h : 8 ≤ n) : ruleRemoveRange n s = answered s .range .empty := by
  rw [ruleRemoveRange, batchOf_none h]

theorem ruleRemoveRange_busy (i : Fin 8) (hb : s.directory.busy = true) : ruleRemoveRange i.val s = answered s .busy .empty := by
  simp [ruleRemoveRange, hb]

theorem ruleRemoveRange_notFound (hb : s.directory.busy = false) (hi : s.directory.ranges.get i = none) :
    ruleRemoveRange i.val s = answered s .notFound .empty := by simp [ruleRemoveRange, hb, hi]

/-- R150: a circuit of a range holds its code. -/
def State.HeldIn (s : State) (e : RangeEntry) (c : CircuitNo) : Prop :=
  e.Owns c ∧ ((s.circuit c).migrating = true ∨ ((s.circuit c).state = .fibre ∧ (s.circuit c).context.isSome))

theorem ruleRemoveRange_held (hb : s.directory.busy = false) (hi : s.directory.ranges.get i = some e) (hc : s.HeldIn e c)
    (hlow : ∀ d, d < c → ¬ s.HeldIn e d) : ruleRemoveRange i.val s = answered s .state (.circuitState c (s.circuit c).state) := by
  have hfirst : (e.members.find? fun m => (s.circuit m.1).holdsCode) = some (c, e.codeOf c) :=
    find?_first (a := (c, e.codeOf c)) (holdsCode_iff.mpr hc.2) e.members_ascending (RangeEntry.mem_members.mpr ⟨hc.1, rfl⟩) fun m hm hlt =>
      Bool.eq_false_iff.mpr fun hheld => hlow m.1 hlt ⟨(RangeEntry.mem_members.mp hm).1, holdsCode_iff.mp hheld⟩
  simp [ruleRemoveRange, hb, hi, hfirst]

theorem ruleRemoveRange_removed (hb : s.directory.busy = false) (hi : s.directory.ranges.get i = some e) (hc : ∀ c, ¬ s.HeldIn e c) :
    ruleRemoveRange i.val s = answered (s.putRange i none e fun _ => none) .ok (.rangeRemoved e.size) := by
  have hnone : (e.members.find? fun m => (s.circuit m.1).holdsCode) = none :=
    List.find?_eq_none.mpr fun m hm hheld => hc m.1 ⟨(RangeEntry.mem_members.mp hm).1, holdsCode_iff.mp hheld⟩
  simp [ruleRemoveRange, hb, hi, hnone, removeRangeAt_eq]

variable (h : Takes s port (.removeRange port tag n) q rest)
include h

/-- A refusal of REMOVE RANGE. -/
theorem removeRange_refuses (hr : ruleRemoveRange n (s.takeHead port q rest) = answered (s.takeHead port q rest) result body) :
    Refuses s (.removeRange port tag n) port q rest result body := refuses_of_rule rfl h.toHeads h.authority hr

end

/-- Settles O55: ADD RANGE, a bucket of its walk, its completion, and REMOVE RANGE, each by what its checks find. -/
theorem rangeEntries : Obligations.RangeEntries := by
  refine ⟨fun s port tag e q rest => ?_, fun s b port tag e found hw => ?_, fun s due port tag e found slot _ hw hslot => ?_,
    fun s port tag n q rest _ => ?_⟩
  · intro i h
    split
    next hrange => exact addRange_refuses h (ruleAddRange_range hrange)
    next hrange =>
      split
      next hsize => exact addRange_refuses h (ruleAddRange_format hrange hsize)
      next hsize =>
        split
        next hb => exact addRange_refuses h (ruleAddRange_busy (s := s.takeHead port q rest) hrange hsize hb)
        next hb =>
          split
          next hf => exact addRange_refuses h (ruleAddRange_full (s := s.takeHead port q rest) hrange hsize hb hf)
          next hf =>
            refine ⟨fun j hj hlow => addRange_refuses h ?_, fun hno => walks_of_rule (rule := ruleAddRange port tag e) rfl h ?_⟩
            · exact ruleAddRange_shadowed (s := s.takeHead port q rest) hrange hsize hb hf (overlapping_first hj hlow)
            · exact ruleAddRange_walks (s := s.takeHead port q rest) hrange hsize hb hf (overlapping_meetsNone hno)
  · refine ⟨s.foundAfter e b found, rangeCheckBucket_happens hw, fun hsome => if_pos hsome, fun hnone hno => ?_, fun w x hnone hin hlow => ?_⟩
    · subst hnone
      exact insideBucket_outside hno
    · subst hnone
      exact insideBucket_first hin hlow
  · intro own
    refine ⟨fun f hf => ?_, fun c code hf hc hcode hlow => ?_, fun i hf hc hi hlow => ?_⟩ <;> subst hf
    · exact rangeCheckComplete_refuses hslot hw (completeRange_found ..)
    · exact rangeCheckComplete_refuses hslot hw (completeRange_conflict (s := s.setWalk .idle) hc hcode hlow)
    · have hrule := completeRange_written (s := s.setWalk .idle) (e := e) hc (freeRange_free hi hlow)
      have hidle := setWalk_frame s .idle
      have hput := putRange_frame (s.setWalk .idle) i (some e) e fun m => some m.2
      obtain ⟨hanswer, hports⟩ := finish_walkAnswered (port := port) (result := .ok) (body := .rangeWritten i)
        ((hidle.mono (by decide)).trans (hput.mono (by decide)) : SameBut [.walk, .entries, .circuits] s _) (by decide) hslot
      obtain ⟨htrunks, hranges, hown, hother⟩ := (putRange_becomes (s.setWalk .idle) i (some e) e fun m => some m.2).between
        (s' := s) (hidle.mono (by decide)) (hports.mono (by decide)) (l := [.ports, .walk]) (by simp)
      refine ⟨_, (rangeCheckComplete_exec hw).trans (congrArg _ (congrArg _ hrule)), ?_, ?_, hanswer, htrunks, hranges, hown, hother⟩
      · exact ((hidle.mono (by decide)).trans (hput.mono (by decide))).trans (hports.mono (by decide))
      · have hafter : SameBut [.ports, .entries, .circuits] (s.setWalk .idle) _ := (hput.mono (by decide)).trans (hports.mono (by decide))
        exact hafter .walk (by decide)
  · intro i h
    refine ⟨fun hn => removeRange_refuses h (ruleRemoveRange_range hn), fun j hj => ?_⟩
    subst hj
    refine ⟨fun hb => removeRange_refuses h (ruleRemoveRange_busy (s := s.takeHead port q rest) j hb),
      fun hb hnone => removeRange_refuses h (ruleRemoveRange_notFound (s := s.takeHead port q rest) hb hnone), fun e hb hj => ?_⟩
    refine ⟨fun c hc hlow => removeRange_refuses h (ruleRemoveRange_held (s := s.takeHead port q rest) hb hj hc hlow), fun hc => ?_⟩
    exact completes_of_rule (rule := ruleRemoveRange j.val) rfl h.toHeads h.authority
      (ruleRemoveRange_removed (s := s.takeHead port q rest) hb hj hc) (putRange_frame _ j none e _) (by decide) fun u hu =>
        (putRange_becomes (s.takeHead port q rest) j none e fun _ => none).between (takeHead_frame s port q rest) hu (by simp)

end Sys2Proof.Machine
end

section
/-! SUPPORT. PURGE and its walk: the entries that a bucket loses, and their circuits (R152, R153). -/

namespace Sys2Proof.Machine

variable {s t : State} {b b' : Fin 128} {w w' : Fin 4} {e e' : TrunkEntry} {c : CircuitNo}

/-! ### One way (R153) -/

/-- R153: the entry of a way that the walk removes. -/
def State.Goes (s : State) (b : Fin 128) (w : Fin 4) (e : TrunkEntry) : Prop :=
  (s.directory.trunks.get b).get w = some e ∧ e.pinned = false ∧ (s.circuit e.circuit).holdsCode = false

theorem purgeWay_goes {p : State × Nat} (h : p.1.Goes b w e) : purgeWay b p w = (p.1.removeTrunkAt b w e, p.2 + 1) := by
  obtain ⟨he, hpin, hheld⟩ := h
  simp [purgeWay, he, hpin, hheld]

theorem purgeWay_stays {p : State × Nat} (h : ∀ e, ¬ p.1.Goes b w e) : purgeWay b p w = p := by
  unfold purgeWay
  split
  next e he => exact if_neg fun hgo => h e ⟨he, hgo⟩
  next => rfl

theorem removeTrunkAt_frame (s : State) (b : Fin 128) (w : Fin 4) (e : TrunkEntry) :
    SameBut [.entries, .circuits] s (s.removeTrunkAt b w e) :=
  ((setTrunk_frame s b w none).mono (by decide)).trans ((setCode_frame _ e.circuit none).mono (by decide))

theorem removeTrunkAt_get (s : State) (b b' : Fin 128) (w w' : Fin 4) (e : TrunkEntry) :
    ((s.removeTrunkAt b w e).directory.trunks.get b').get w' =
      if b' = b ∧ w' = w then none else (s.directory.trunks.get b').get w' := setTrunk_get ..

theorem removeTrunkAt_circuit_eq (s : State) (b : Fin 128) (w : Fin 4) (e : TrunkEntry) :
    (s.removeTrunkAt b w e).circuit e.circuit = evaluated s.spans s.lanes { s.circuit e.circuit with code := none } :=
  State.putCircuit_circuit_eq ..

theorem removeTrunkAt_circuit_ne (s : State) (b : Fin 128) (w : Fin 4) (h : e.circuit ≠ c) :
    (s.removeTrunkAt b w e).circuit c = s.circuit c := State.putCircuit_circuit_ne _ _ h

/-- A code removed has no say in whether a circuit holds its code. -/
theorem removeTrunkAt_holdsCode (s : State) (b : Fin 128) (w : Fin 4) (e : TrunkEntry) (c : CircuitNo) :
    ((s.removeTrunkAt b w e).circuit c).holdsCode = (s.circuit c).holdsCode := by
  by_cases h : e.circuit = c
  · subst h
    rw [removeTrunkAt_circuit_eq]
    rfl
  · rw [removeTrunkAt_circuit_ne s b w h]

theorem goes_removeTrunkAt : (s.removeTrunkAt b w e).Goes b w' e' ↔ s.Goes b w' e' ∧ w' ≠ w := by
  simp only [State.Goes, removeTrunkAt_get, removeTrunkAt_holdsCode, true_and]
  split
  next h => simp [h]
  next h => simp [h]

/-! ### The ways of a bucket (R153) -/

/-- No two of the entries that go belong to one circuit. -/
def GoApart (s : State) (b : Fin 128) : Prop := ∀ w w' e e', s.Goes b w e → s.Goes b w' e' → e.circuit = e'.circuit → w = w'

theorem DirectoryLaw.goApart (h : DirectoryLaw s) (b : Fin 128) : GoApart s b := fun w w' e e' hw hw' hc => by
  obtain ⟨he, ha, -⟩ := directoryLaw_iff.mp h
  have hcode : (s.circuit e.circuit).code = some e.code := (ha _ _).mpr (.inr ⟨b, w, e, hw.1, rfl, rfl⟩)
  have hcode' : (s.circuit e'.circuit).code = some e'.code := (ha _ _).mpr (.inr ⟨b, w', e', hw'.1, rfl, rfl⟩)
  rw [hc, hcode'] at hcode
  exact (he.single b w e b w' e' hw.1 hw'.1 (Option.some.inj hcode).symm).2

/-- From `s` to `t` the walk has passed the ways `l` of bucket `b`. -/
structure PurgedWays (b : Fin 128) (l : List (Fin 4)) (s t : State) : Prop where
  frame : SameBut [.entries, .circuits] s t
  ranges : t.directory.ranges = s.directory.ranges
  elsewhere : ∀ b' w, b' ≠ b → (t.directory.trunks.get b').get w = (s.directory.trunks.get b').get w
  gone : ∀ w e, w ∈ l → s.Goes b w e → (t.directory.trunks.get b).get w = none ∧
    t.circuit e.circuit = evaluated s.spans s.lanes { s.circuit e.circuit with code := none }
  kept : ∀ w, (w ∈ l → ∀ e, ¬ s.Goes b w e) → (t.directory.trunks.get b).get w = (s.directory.trunks.get b).get w
  others : ∀ c, (∀ w e, w ∈ l → s.Goes b w e → e.circuit ≠ c) → t.circuit c = s.circuit c

/-- A way that keeps what it holds. -/
theorem PurgedWays.stays {l : List (Fin 4)} (h : PurgedWays b l s t) (hw : ∀ e, ¬ s.Goes b w e) : PurgedWays b (w :: l) s t where
  frame := h.frame
  ranges := h.ranges
  elsewhere := h.elsewhere
  gone v e hv hgo := by
    rcases List.mem_cons.mp hv with rfl | hv
    · exact absurd hgo (hw e)
    · exact h.gone v e hv hgo
  kept v hv := h.kept v fun hin => hv (.tail _ hin)
  others c hc := h.others c fun v e hv => hc v e (.tail _ hv)

/-- A way whose entry goes, before the ways that follow. -/
theorem PurgedWays.goes {l : List (Fin 4)} (h : PurgedWays b l (s.removeTrunkAt b w e) t) (hapart : GoApart s b) (hgo : s.Goes b w e)
    (hw : w ∉ l) : PurgedWays b (w :: l) s t where
  frame := (removeTrunkAt_frame s b w e).trans h.frame
  ranges := h.ranges
  elsewhere b' v hb := by rw [h.elsewhere b' v hb, removeTrunkAt_get, if_neg fun hbw => hb hbw.1]
  gone v x hv hx := by
    rcases List.mem_cons.mp hv with rfl | hv
    · obtain rfl : e = x := Option.some.inj (hgo.1.symm.trans hx.1)
      refine ⟨by rw [h.kept v fun hin => absurd hin hw, removeTrunkAt_get, if_pos ⟨rfl, rfl⟩], ?_⟩
      rw [h.others e.circuit fun v' y _ hy hc => ?_, removeTrunkAt_circuit_eq]
      obtain ⟨hy, hne⟩ := goes_removeTrunkAt.mp hy
      exact hne (hapart _ _ _ _ hy hgo hc)
    · have hne : v ≠ w := fun heq => hw (heq ▸ hv)
      obtain ⟨hnone, hcirc⟩ := h.gone v x hv (goes_removeTrunkAt.mpr ⟨hx, hne⟩)
      refine ⟨hnone, ?_⟩
      rw [hcirc, removeTrunkAt_circuit_ne s b w fun hc => hne (hapart _ _ _ _ hgo hx hc).symm]
      rfl
  kept v hv := by
    have hne : v ≠ w := fun heq => hv (heq ▸ .head _) e (heq ▸ hgo)
    rw [h.kept v fun hin x hx => hv (.tail _ hin) x (goes_removeTrunkAt.mp hx).1, removeTrunkAt_get, if_neg fun hbw => hne hbw.2]
  others c hc := by
    rw [h.others c fun v x hv hx => hc v x (.tail _ hv) (goes_removeTrunkAt.mp hx).1, removeTrunkAt_circuit_ne s b w (hc w e (.head _) hgo)]

theorem purgeWays_purged (b : Fin 128) : ∀ (l : List (Fin 4)) (p : State × Nat), l.Nodup → GoApart p.1 b →
    PurgedWays b l p.1 (l.foldl (purgeWay b) p).1
  | [], p, _, _ => ⟨.refl _ _, rfl, fun _ _ _ => rfl, nofun, fun _ _ => rfl, fun _ _ => rfl⟩
  | w :: l, p, hl, hapart => by
    obtain ⟨hw, hl⟩ := List.nodup_cons.mp hl
    rw [List.foldl_cons]
    by_cases hgo : ∃ e, p.1.Goes b w e
    · obtain ⟨e, hgo⟩ := hgo
      rw [purgeWay_goes hgo]
      have hafter : GoApart (p.1.removeTrunkAt b w e) b := fun v v' x x' hx hx' =>
        hapart v v' x x' (goes_removeTrunkAt.mp hx).1 (goes_removeTrunkAt.mp hx').1
      exact (purgeWays_purged b l (p.1.removeTrunkAt b w e, p.2 + 1) hl hafter).goes hapart hgo hw
    · rw [not_exists] at hgo
      rw [purgeWay_stays hgo]
      exact (purgeWays_purged b l p hl hapart).stays hgo

/-! ### The count (R153) -/

/-- The number of valid entries of a bucket. -/
def Directory.validIn (d : Directory) (b : Fin 128) : Nat := ((List.finRange 4).filter fun w => ((d.trunks.get b).get w).isSome).length

/-- An entry removed leaves one valid entry fewer. -/
theorem removeTrunkAt_validIn (h : (s.directory.trunks.get b).get w = some e) :
    1 + (s.removeTrunkAt b w e).directory.validIn b = s.directory.validIn b := by
  have hmem : w ∈ (List.finRange 4).filter fun v => ((s.directory.trunks.get b).get v).isSome := by simp [h]
  have hnodup : ((List.finRange 4).filter fun v => ((s.directory.trunks.get b).get v).isSome).Nodup := (List.nodup_finRange 4).filter _
  have herase : ((List.finRange 4).filter fun v => (((s.removeTrunkAt b w e).directory.trunks.get b).get v).isSome) =
      ((List.finRange 4).filter fun v => ((s.directory.trunks.get b).get v).isSome).erase w := by
    rw [hnodup.erase_eq_filter, List.filter_filter]
    refine List.filter_congr fun v _ => ?_
    rw [removeTrunkAt_get]
    by_cases hv : v = w <;> simp [hv]
  have hpos := List.length_pos_of_mem hmem
  rw [Directory.validIn, Directory.validIn, herase, List.length_erase_of_mem hmem]
  omega

/-- R153: the walk counts the entries that a bucket loses. -/
theorem purgeWays_count (b : Fin 128) : ∀ (l : List (Fin 4)) (p : State × Nat), ∃ n, (l.foldl (purgeWay b) p).2 = p.2 + n ∧
    n + (l.foldl (purgeWay b) p).1.directory.validIn b = p.1.directory.validIn b
  | [], p => ⟨0, rfl, Nat.zero_add _⟩
  | w :: l, p => by
    rw [List.foldl_cons]
    by_cases hgo : ∃ e, p.1.Goes b w e
    · obtain ⟨e, hgo⟩ := hgo
      rw [purgeWay_goes hgo]
      obtain ⟨n, hn, hcount⟩ := purgeWays_count b l (p.1.removeTrunkAt b w e, p.2 + 1)
      have hone := removeTrunkAt_validIn hgo.1
      dsimp only at hn hcount
      exact ⟨n + 1, by omega, by omega⟩
    · rw [purgeWay_stays (not_exists.mp hgo)]
      exact purgeWays_count b l p

/-! ### The rows -/

theorem purgeBucket_purged (hs : DirectoryLaw s) (b : Fin 128) (removed : Nat) :
    PurgedWays b (List.finRange 4) s (s.purgeBucket b removed).1 :=
  purgeWays_purged b (List.finRange 4) (s, removed) (List.nodup_finRange 4) (hs.goApart b)

theorem purgeBucket_count (s : State) (b : Fin 128) (removed : Nat) : ∃ n, (s.purgeBucket b removed).2 = removed + n ∧
    n + (s.purgeBucket b removed).1.directory.validIn b = s.directory.validIn b := by
  unfold State.purgeBucket
  exact purgeWays_count b (List.finRange 4) (s, removed)

theorem holdsCode_false_iff {r : Circuit} : r.holdsCode = false ↔ r.migrating = false ∧ ¬ (r.state = .fibre ∧ r.context.isSome) := by
  rw [← Bool.not_eq_true, holdsCode_iff, not_or, Bool.not_eq_true]

theorem purgeBucket_exec {port : Port} {tag : Byte} {removed : Nat} (hw : s.directory.walk = .purge b.val true port tag removed) :
    exec .purgeBucket s = .next ((s.purgeBucket b removed).1.setWalk (.purge (b.val + 1) false port tag (s.purgeBucket b removed).2)) := by
  show execPurgeBucket s = _
  simp [execPurgeBucket, hw]

theorem purgeComplete_exec {port : Port} {tag : Byte} {due : Bool} {removed : Nat}
    (hw : s.directory.walk = .purge 128 due port tag removed) :
    exec .purgeComplete s = .next ((answered (s.setWalk .idle) .ok (.purged removed)).finish port) := by
  show execPurgeComplete s = _
  simp [execPurgeComplete, hw]

/-- Settles O56: PURGE, a bucket of its walk by what its ways lose, and its completion. -/
theorem purge : Obligations.Purge := by
  refine ⟨fun s port tag q rest h => ⟨fun hb => ?_, fun hb => ?_⟩, fun s b port tag removed hs hw => ?_,
    fun s due port tag removed slot hw hslot => ?_⟩
  · exact refuses_of_rule (rule := rulePurge port tag) rfl h.toHeads h.authority (if_pos hb)
  · exact walks_of_rule (rule := rulePurge port tag) rfl h (if_neg (Bool.eq_false_iff.mp hb))
  · intro goes
    have hgoes : ∀ {w e}, goes w e → s.Goes b w e := fun ⟨he, hpin, hheld⟩ => ⟨he, hpin, holdsCode_false_iff.mpr hheld⟩
    have hgoes' : ∀ {w e}, s.Goes b w e → goes w e := fun ⟨he, hpin, hheld⟩ => ⟨he, hpin, holdsCode_false_iff.mp hheld⟩
    have hexec := purgeBucket_exec hw
    have hp := purgeBucket_purged hs.directory b removed
    obtain ⟨n, hn, hcount⟩ := purgeBucket_count s b removed
    generalize s.purgeBucket b removed = p at hexec hp hn hcount
    have hall : ∀ w : Fin 4, w ∈ List.finRange 4 := List.mem_finRange
    refine ⟨_, hexec, (hp.frame.mono (by decide)).trans ((setWalk_frame _ _).mono (by decide)), hp.ranges, hp.elsewhere,
      fun w e hgo => ?_, fun w hstay => hp.kept w fun _ e hgo => hstay e (hgoes' hgo),
      fun c hc => hp.others c fun w e _ hgo => hc w e (hgoes' hgo), n, ?_, hcount⟩
    · obtain ⟨hnone, hcirc⟩ := hp.gone w e (hall w) (hgoes hgo)
      exact ⟨hnone, hcirc.trans (hp.frame.evaluated_eq (by decide) (by decide) _).symm⟩
    · exact congrArg (Walk.purge (b.val + 1) false port tag) hn
  · have hidle := setWalk_frame s .idle
    obtain ⟨hanswer, hports⟩ := finish_walkAnswered (result := .ok) (body := .purged removed) hidle (by decide) hslot
    exact ⟨_, purgeComplete_exec hw, (hidle.mono (by decide)).trans (hports.mono (by decide)), hports .walk (by decide), hanswer⟩

end Sys2Proof.Machine
end

section
/-! SUPPORT. The holdings that the law of the batches rests on, and what the Batch Unit's own steps make of them: a closing, an opening,
and the examination of the entries of an OPEN BATCH (R157, R158, R159, R162, R163). -/

namespace Sys2Proof.Machine

variable {s t : State} {c : CircuitNo} {id : Fin 8} {b : Batch}

/-! ### The holdings of the law -/

/-- What the law of the batches rests on: the records, and the membership that each circuit carries. -/
structure Memberships where
  records : Table 8 (Option Batch)
  carried : CircuitNo → Option (Fin 8)

def State.memberships (s : State) : Memberships := ⟨s.batches, fun c => (s.circuit c).batch⟩

theorem circuit_batch (s : State) (c : CircuitNo) : (s.circuit c).batch = s.memberships.carried c := rfl

/-- R157: the open batches are lawful, and a circuit carries a membership exactly when that open batch names it. -/
def Memberships.Lawful (m : Memberships) : Prop :=
  (∀ id b, m.records.get id = some b → b.lawful) ∧
    ∀ c id, m.carried c = some id ↔ ∃ b, m.records.get id = some b ∧ c ∈ b.members.map Member.circuit

theorem batchLaw_iff : BatchLaw s ↔ s.memberships.Lawful := ⟨fun h => ⟨h.records, h.members⟩, fun h => ⟨h.1, h.2⟩⟩

theorem SameBut.sameMemberships {l : List Block} (h : SameBut l s t) (hc : Block.circuits ∉ l) (hb : Block.batches ∉ l) :
    t.memberships = s.memberships := by
  have hbatches : t.batches = s.batches := h _ hb
  simp only [State.memberships, hbatches, h.sameCircuit hc]

/-! ### Closing (R162, R163) -/

/-- A closing seen from before the record that closes was written. -/
theorem BatchClosed.of_setBatch {x : Option Batch} {cause : BatchCause} (h : BatchClosed id b cause (s.setBatch id x) t) :
    BatchClosed id b cause s t where
  record := ⟨h.record.1, fun i hi => (h.record.2 i hi).trans (State.setBatch_batch_ne _ _ (Ne.symm hi))⟩
  members := h.members
  others := h.others
  report := by
    have hreport := h.report
    simp only [Reported, List.foldl_cons, List.foldl_nil] at hreport ⊢
    exact Block.same_trans (handReport_congr _ (setBatch_frame s id x .reports (by decide)) rfl) hreport
  frame := ((setBatch_frame s id x).mono (by decide)).trans h.frame

/-- R157: the closing of an open batch, under whatever statuses of its members. -/
theorem BatchClosed.batchLaw {x : Batch} {cause : BatchCause} (hs : BatchLaw s) (hid : s.batch id = some b)
    (h : BatchClosed id x cause s t) (hx : x.members.map Member.circuit = b.members.map Member.circuit) : BatchLaw t := by
  have hother : ∀ {i y}, t.batch i = some y → i ≠ id ∧ s.batch i = some y := fun {i y} hy => by
    have hi : i ≠ id := fun e => by rw [e, h.record.1] at hy; cases hy
    exact ⟨hi, (h.record.2 i hi) ▸ hy⟩
  refine ⟨fun i y hy => hs.records i y (hother hy).2, fun c i => ?_⟩
  have hin := hs.members c i
  have hmine := hs.members c id
  by_cases hc : c ∈ x.members.map Member.circuit
  · rw [h.members c hc]
    refine ⟨nofun, fun ⟨y, hy, hm⟩ => ?_⟩
    obtain ⟨hi, hy⟩ := hother hy
    have e : some i = some id := (hin.mpr ⟨y, hy, hm⟩).symm.trans (hmine.mpr ⟨b, hid, hx ▸ hc⟩)
    exact absurd (Option.some.inj e) hi
  · rw [h.others c hc, hin]
    refine ⟨fun ⟨y, hy, hm⟩ => ?_, fun ⟨y, hy, hm⟩ => ⟨y, (hother hy).2, hm⟩⟩
    have hi : i ≠ id := fun e => by
      subst e
      rw [hid] at hy
      cases hy
      exact hc (hx ▸ hm)
    exact ⟨y, (h.record.2 i hi).trans hy, hm⟩

theorem Batch.cancelled_circuits (b : Batch) : b.cancelled.members.map Member.circuit = b.members.map Member.circuit := by
  simp only [Batch.cancelled, List.map_map]
  refine List.map_congr_left fun m _ => ?_
  simp only [Function.comp_apply]
  split <;> rfl

/-- R163: CANCEL BATCH closes the batch with its PENDING members CANCELLED. -/
theorem cancel_closed (s : State) (id : Fin 8) (b : Batch) :
    BatchClosed id b.cancelled .cancelled s ((s.setBatch id (some b.cancelled)).closeBatch id .cancelled) :=
  (closeBatch_spec .cancelled (State.setBatch_batch_eq ..)).of_setBatch

/-! ### Opening (R158, R159) -/

/-- R159: the opening step before its start step: the record written, and the membership of every member. -/
def State.joined (s : State) (id : Fin 8) (b : Batch) : State :=
  b.members.foldl (fun s m => s.putCircuit m.circuit { s.circuit m.circuit with batch := some id }) (s.setBatch id (some b))

theorem openBatch_eq (s : State) (id : Fin 8) (b : Batch) : s.openBatch id b = (s.joined id b).startStep id := rfl

theorem joined_frame (s : State) (id : Fin 8) (b : Batch) : SameBut [.circuits, .batches] s (s.joined id b) :=
  ((setBatch_frame s id _).mono (by decide)).trans ((writeMembers b.members (some id) _).2.2.mono (by decide))

theorem joined_batch (s : State) (id : Fin 8) (b : Batch) (i : Fin 8) :
    (s.joined id b).batch i = if i = id then some b else s.batch i := by
  rw [State.joined, (writeMembers b.members (some id) _).2.2.sameBatch (by decide)]
  split
  next e => rw [e, State.setBatch_batch_eq]
  next e => exact State.setBatch_batch_ne _ _ (Ne.symm e)

theorem joined_circuit (s : State) (id : Fin 8) (b : Batch) (c : CircuitNo) : (s.joined id b).circuit c =
    if c ∈ b.members.map Member.circuit then
      evaluated (s.joined id b).spans (s.joined id b).lanes { s.circuit c with batch := some id }
    else s.circuit c := by
  obtain ⟨hin, hout, -⟩ := writeMembers b.members (some id) (s.setBatch id (some b))
  split
  next hc => rw [(joined_frame s id b).evaluated_eq (by decide) (by decide)]; exact hin c hc
  next hc => exact hout c hc

/-- R157: a lawful record opens in a free place with members that carry no membership. -/
theorem joined_batchLaw (hs : BatchLaw s) (hb : b.lawful) (hid : s.batch id = none)
    (hfree : ∀ c ∈ b.members.map Member.circuit, (s.circuit c).batch = none) : BatchLaw (s.joined id b) := by
  refine ⟨fun i y hy => ?_, fun c i => ?_⟩
  · rw [joined_batch] at hy
    split at hy
    · cases hy; exact hb
    · exact hs.records i y hy
  · have hin := hs.members c i
    have hmine := hs.members c id
    rw [joined_batch, joined_circuit]
    by_cases hi : i = id <;> by_cases hc : c ∈ b.members.map Member.circuit
    · simp [-List.mem_map, hi, hc]
    · simp [-List.mem_map, hi, hc, hmine, hid]
    · simp [-List.mem_map, hi, hc, Ne.symm hi, ← hin, hfree c hc]
    · simp [-List.mem_map, hi, hc, hin]

/-- R158, R159: a record opens lawful with up to 64 members, each named once. -/
theorem openedBatch_lawful (port : Port) (tag : Byte) (mode : BatchMode) (limit : Nat) {circuits : List CircuitNo} (fc : FrameCount)
    (hd : circuits.Nodup) (h1 : 1 ≤ circuits.length) (h64 : circuits.length ≤ 64) :
    (openedBatch port tag mode limit circuits fc).lawful where
  size := by simpa [openedBatch] using ⟨h1, h64⟩
  limit := by
    cases mode
    · exact ⟨le_rfl, Nat.le_add_left 1 15⟩
    · simp only [openedBatch, effectiveLimit]
      split
      · omega
      · split <;> omega
  distinct := by simpa [openedBatch, Function.comp_def] using hd
  remaining := by simp [openedBatch, Batch.count, Function.comp_def, List.filter_map]

/-! ### The entries of OPEN BATCH (R158, check 5) -/

/-- The circuits that pass check 5: each once, and none with a membership. -/
theorem examineEntries_ok {port : Port} {circuits : List CircuitNo} : ∀ (entries : List Selector) (done : List CircuitNo),
    s.examineEntries port done entries = .ok circuits → done.Nodup → (∀ c ∈ done, (s.circuit c).batch = none) →
    circuits.Nodup ∧ (∀ c ∈ circuits, (s.circuit c).batch = none) ∧ circuits.length = done.length + entries.length
  | [], done, h, hd, hf => by
    cases h
    exact ⟨hd, hf, rfl⟩
  | e :: rest, done, h, hd, hf => by
    unfold State.examineEntries at h
    split at h
    · cases h
    next c _ =>
      split at h
      · cases h
      next hnew =>
        split at h
        · cases h
        · split at h
          · cases h
          next hb =>
            have hc : c ∉ done := fun hc => by simpa using List.findIdx?_eq_none_iff.mp hnew c hc
            obtain ⟨hnodup, hfree, hlength⟩ := examineEntries_ok rest (done ++ [c]) h
              (List.nodup_append.mpr ⟨hd, List.nodup_singleton c, fun x hx y hy => by
                rintro rfl; rw [List.mem_singleton] at hy; exact hc (hy ▸ hx)⟩)
              (fun x hx => (List.mem_append.mp hx).elim (hf x) fun hx => by rw [List.mem_singleton.mp hx]; exact hb)
            exact ⟨hnodup, hfree, by simpa [Nat.add_assoc, Nat.add_comm 1] using hlength⟩

end Sys2Proof.Machine
end

section
/-! SUPPORT. What leaves the memberships as they are, and the turns of a circuit whose outcome a batch takes: a turn's own writes leave
the memberships, and its outcome keeps the law of the batches (R157, R160). -/

namespace Sys2Proof.Machine

variable {s t : State} {c : CircuitNo}

/-! ### Single writes -/

section
variable (s)

@[simp] theorem setPending_memberships (x : List Instr) : (s.setPending x).memberships = s.memberships := (rfl)
@[simp] theorem setNode_memberships (x : NodeParams) : (s.setNode x).memberships = s.memberships := (rfl)
@[simp] theorem setHighway_memberships (x : Highway) : (s.setHighway x).memberships = s.memberships := (rfl)
@[simp] theorem setSpans_memberships (x : Table 16 Span) : (s.setSpans x).memberships = s.memberships := (rfl)
@[simp] theorem setLanes_memberships (x : LaneInterface) : (s.setLanes x).memberships = s.memberships := (rfl)
@[simp] theorem setAlign_memberships (x : AlignmentUnit) : (s.setAlign x).memberships = s.memberships := (rfl)
@[simp] theorem setPeer_memberships (x : PeerEngine) : (s.setPeer x).memberships = s.memberships := (rfl)
@[simp] theorem setDirectory_memberships (x : Directory) : (s.setDirectory x).memberships = s.memberships := (rfl)
@[simp] theorem setWatches_memberships (x : WatchUnit) : (s.setWatches x).memberships = s.memberships := (rfl)
@[simp] theorem setLinks_memberships (x : Links) : (s.setLinks x).memberships = s.memberships := (rfl)
@[simp] theorem drawn_memberships : s.drawn.memberships = s.memberships := (rfl)
@[simp] theorem setSpan_memberships (n : SpanNo) (x : Span) : (s.setSpan n x).memberships = s.memberships := (rfl)
@[simp] theorem setLane_memberships (i : Lane) (x : LaneRecord) : (s.setLane i x).memberships = s.memberships := (rfl)
@[simp] theorem setUnit_memberships (u : UnitNo) (x : Matcher) : (s.setUnit u x).memberships = s.memberships := (rfl)
@[simp] theorem setPort_memberships (p : Port) (x : PortRecord) : (s.setPort p x).memberships = s.memberships := (rfl)
@[simp] theorem setSlotOwner_memberships (n : SlotNo) (d : Option CircuitNo) : (s.setSlotOwner n d).memberships = s.memberships := (rfl)
@[simp] theorem setWalk_memberships (w : Walk) : (s.setWalk w).memberships = s.memberships := (rfl)
@[simp] theorem recordMiss_memberships (code : TrunkCode) (source : MissSource) (asked : Byte) :
    (s.recordMiss code source asked).memberships = s.memberships := (rfl)
@[simp] theorem stopResponse_memberships (c : CircuitNo) : (s.stopResponse c).memberships = s.memberships := (rfl)
@[simp] theorem startResponse_memberships (c : CircuitNo) : (s.startResponse c).memberships = s.memberships := (rfl)
@[simp] theorem takeNumber_memberships : s.takeNumber.memberships = s.memberships := (rfl)
@[simp] theorem joinQueue_memberships (c : CircuitNo) (k : SearchKind) : (s.joinQueue c k).memberships = s.memberships := (rfl)
@[simp] theorem releaseMatcher_memberships (c : CircuitNo) : (s.releaseMatcher c).memberships = s.memberships := (rfl)
@[simp] theorem fillRing_memberships (c : CircuitNo) : (s.fillRing c).memberships = s.memberships := (rfl)
@[simp] theorem markCopper_memberships (p : Option CopperPosition) (d : Option CircuitNo) :
    (s.markCopper p d).memberships = s.memberships := (markCopper_frame s p d).sameMemberships (by decide) (by decide)
@[simp] theorem markFibre_memberships (n : Option SlotNo) (d : Option CircuitNo) :
    (s.markFibre n d).memberships = s.memberships := (markFibre_frame s n d).sameMemberships (by decide) (by decide)

/-- The records written in any way that leaves the memberships. -/
theorem setCircuits_memberships {x : Table 512 Circuit} (h : ∀ c, (x.get c).batch = s.memberships.carried c) :
    (s.setCircuits x).memberships = s.memberships := congrArg (Memberships.mk s.batches) (funext h)

/-- A record written with the membership that it carries. -/
@[simp] theorem putCircuit_memberships {r : Circuit} (h : r.batch = s.memberships.carried c) :
    (s.putCircuit c r).memberships = s.memberships := congrArg (Memberships.mk s.batches) (funext (putCircuit_batch h))

@[simp] theorem putContext_memberships (c : CircuitNo) (x : Context) : (s.putContext c x).memberships = s.memberships :=
  putCircuit_memberships s rfl

@[simp] theorem setCode_memberships (c : CircuitNo) (code : Option TrunkCode) : (s.setCode c code).memberships = s.memberships :=
  putCircuit_memberships s rfl

@[simp] theorem evaluateAll_memberships : s.evaluateAll.memberships = s.memberships :=
  setCircuits_memberships s fun c => by rw [Table.get_map]; rfl

/-- Any number of steps that leave the memberships. -/
theorem foldl_memberships {α : Type} {f : State → α → State} (h : ∀ s a, (f s a).memberships = s.memberships) :
    ∀ (xs : List α) (s : State), (xs.foldl f s).memberships = s.memberships
  | [], _ => rfl
  | x :: xs, s => (foldl_memberships h xs (f s x)).trans (h s x)

/-! ### Reports, messages, events and the start of a migration -/

@[simp] theorem handReport_memberships (body : ReportBody) : (s.handReport body).memberships = s.memberships :=
  (handReport_frame s body).sameMemberships (by decide) (by decide)

@[simp] theorem queueMessage_memberships (m : PeerMessage) : (s.queueMessage m).memberships = s.memberships :=
  (queueMessage_frame s m).sameMemberships (by decide) (by decide)

@[simp] theorem sendFor_memberships (c : CircuitNo) (m : TrunkCode → PeerMessage) : (s.sendFor c m).memberships = s.memberships :=
  (sendFor_frame s c m).sameMemberships (by decide) (by decide)

@[simp] theorem sendDecline_memberships (code : TrunkCode) (number : Byte) (reason : DeclineReason) :
    (s.sendDecline code number reason).memberships = s.memberships := by simp [State.sendDecline]

@[simp] theorem watchEvent_memberships (c : CircuitNo) (cls : EventClass) (o : Option OutcomeCode) :
    (s.watchEvent c cls o).memberships = s.memberships := (watchEvent_frame s c cls o).sameMemberships (by decide) (by decide)

@[simp] theorem sendPropose_memberships (c : CircuitNo) (number : Byte) : (s.sendPropose c number).memberships = s.memberships :=
  (sendPropose_frame s c number).sameMemberships (by decide) (by decide)

@[simp] theorem startMigration_memberships (c : CircuitNo) : (s.startMigration c).memberships = s.memberships := by
  simp [State.startMigration, circuit_batch]


@[simp] theorem retireSpan_memberships (n : SpanNo) : (s.retireSpan n).memberships = s.memberships := by simp [State.retireSpan]

@[simp] theorem autoRetire_memberships (n : SpanNo) : (s.autoRetire n).memberships = s.memberships := by
  unfold State.autoRetire
  split <;> simp

/-- J draws a free value at most. -/
@[simp] theorem spliceOffset_memberships (d : Int) : (s.spliceOffset d).1.memberships = s.memberships :=
  (spliceOffset_frame s d).sameMemberships (by decide) (by decide)

@[simp] theorem revertOffset_memberships (r : Circuit) : (s.revertOffset r).1.memberships = s.memberships :=
  (revertOffset_frame s r).sameMemberships (by decide) (by decide)

@[simp] theorem enterMeasuring_memberships (c : CircuitNo) (sub : SubStatus) : (s.enterMeasuring c sub).memberships = s.memberships := by
  unfold State.enterMeasuring
  split <;> simp [circuit_batch]

@[simp] theorem queueForMatch_memberships (c : CircuitNo) (x : Context) : (s.queueForMatch c x).memberships = s.memberships := by
  simp [State.queueForMatch]

@[simp] theorem requeueFull_memberships (c : CircuitNo) : (s.requeueFull c).memberships = s.memberships := by
  unfold State.requeueFull
  split <;> simp

end

/-! ### The Batch Unit and outcomes (R19, R158 to R163) -/

section
variable (h : s.memberships.Lawful)
include h

/-- R159: a start step of an open batch. -/
theorem startStep_keepsBatches {id : Fin 8} {b : Batch} (hid : s.batch id = some b) : (s.startStep id).state.memberships.Lawful := by
  have hs := batchLaw_iff.mpr h
  exact batchLaw_iff.mp ((startStep_spec hid (hs.records id b hid)).1.batchLaw hs hid)

theorem openBatch_keepsBatches {id : Fin 8} {b : Batch} (hb : b.lawful) (hid : s.batch id = none)
    (hfree : ∀ c ∈ b.members.map Member.circuit, (s.circuit c).batch = none) : (s.openBatch id b).state.memberships.Lawful :=
  startStep_keepsBatches (batchLaw_iff.mp (joined_batchLaw (batchLaw_iff.mpr h) hb hid hfree)) ((joined_batch s id b id).trans (if_pos rfl))

theorem cancel_keepsBatches {id : Fin 8} {b : Batch} (hid : s.batch id = some b) :
    ((s.setBatch id (some b.cancelled)).closeBatch id .cancelled).memberships.Lawful :=
  batchLaw_iff.mp ((cancel_closed s id b).batchLaw (batchLaw_iff.mpr h) hid b.cancelled_circuits)

/-- R19, R160: the Batch Unit takes the outcome of a member and may start others or close. -/
@[simp] theorem writeOutcome_keepsBatches (c : CircuitNo) (o : OutcomeRecord) : (s.writeOutcome c o).memberships.Lawful := by
  have hput : BatchLaw (s.putCircuit c { s.circuit c with outcome := some o, changed := true }) :=
    batchLaw_iff.mpr (by simpa [circuit_batch] using h)
  obtain ⟨l, hl, -⟩ := handOutcome_handed hput c o
  exact batchLaw_iff.mp hl.law

/-! ### Release and collapse (R46, R48, R91) -/

@[simp] theorem releaseFallback_keepsBatches (c : CircuitNo) (reason : Reason) : (s.releaseFallback c reason).memberships.Lawful := by
  unfold State.releaseFallback
  simp only
  repeat' split
  all_goals simp [h, circuit_batch]

@[simp] theorem releaseTest_keepsBatches (c : CircuitNo) : (s.releaseTest c).memberships.Lawful := by
  unfold State.releaseTest
  split <;> simp [h]

@[simp] theorem collapseTest_keepsBatches (c : CircuitNo) : (s.collapseTest c).memberships.Lawful := by
  unfold State.collapseTest
  simp only
  split <;> simp [h, circuit_batch]

/-! ### Splices, abandonments and reverts (R40, R42, R49) -/

@[simp] theorem splice_keepsBatches (c : CircuitNo) (code : OutcomeCode) (b : Nat) (d : Option Int) (j : Option SampleOffset) :
    (s.splice c code b d j).memberships.Lawful := by
  unfold State.splice
  simp only
  split
  · exact collapseTest_keepsBatches (releaseTest_keepsBatches (by simp [h, circuit_batch]) c) c
  · exact h

@[simp] theorem spliceSilent_keepsBatches (c : CircuitNo) : (s.spliceSilent c).memberships.Lawful := splice_keepsBatches h c _ _ _ _
@[simp] theorem rescue_keepsBatches (c : CircuitNo) (handed : DelayRecord) : (s.rescue c handed).memberships.Lawful :=
  splice_keepsBatches h c _ _ _ _

@[simp] theorem spliceAligned_keepsBatches (c : CircuitNo) (code : OutcomeCode) : (s.spliceAligned c code).memberships.Lawful := by
  unfold State.spliceAligned
  split <;> simp [h]

@[simp] theorem abandon_keepsBatches (c : CircuitNo) (reason : Reason) (decline : Option DeclineReason) :
    (s.abandon c reason decline).memberships.Lawful := by
  unfold State.abandon
  simp only
  split <;> simp [h, Circuit.backToCopper, circuit_batch]

@[simp] theorem revertCircuit_keepsBatches (c : CircuitNo) (reason : Reason) : (s.revertCircuit c reason).memberships.Lawful := by
  unfold State.revertCircuit
  simp only
  split <;> simp [h, Circuit.backToCopper, circuit_batch]

/-! ### Measuring and aligned (R32 to R38) -/

@[simp] theorem bridgeWaitTest_keepsBatches (c : CircuitNo) : (s.bridgeWaitTest c).memberships.Lawful := by
  unfold State.bridgeWaitTest
  repeat' split
  all_goals simp [h]

@[simp] theorem enterBridgeWait_keepsBatches (c : CircuitNo) : (s.enterBridgeWait c).memberships.Lawful := by
  simp [State.enterBridgeWait, h]

@[simp] theorem alignedEvaluation_keepsBatches (c : CircuitNo) : (s.alignedEvaluation c).memberships.Lawful := by
  unfold State.alignedEvaluation
  simp only
  repeat' split
  all_goals simp [h]

@[simp] theorem enterAligned_keepsBatches (c : CircuitNo) (d : Int) : (s.enterAligned c d).memberships.Lawful := by
  unfold State.enterAligned
  split <;> simp [h, circuit_batch]

/-- R24: an attempt consumed, and what goes on then. -/
theorem consumeAttempt_keepsBatches (c : CircuitNo) (reason : Reason) {goOn : State → State}
    (hg : ∀ s, (goOn s).memberships = s.memberships) : (s.consumeAttempt c reason goOn).memberships.Lawful := by
  unfold State.consumeAttempt
  repeat' split
  all_goals simp [h, hg]

@[simp] theorem takeSlippedDelta_keepsBatches (c : CircuitNo) (d : Int) : (s.takeSlippedDelta c d).memberships.Lawful := by
  unfold State.takeSlippedDelta
  split
  · split
    · simp [h, circuit_batch]
    · exact consumeAttempt_keepsBatches (by simp [h]) c _ fun s => requeueFull_memberships s c
  · exact h

/-! ### The idle and busy result, and mass events (R16, R44, R52, R53) -/

@[simp] theorem becameIdle_keepsBatches (c : CircuitNo) : (s.becameIdle c).memberships.Lawful := by
  unfold State.becameIdle
  repeat' split
  all_goals simp [h]

@[simp] theorem becameBusy_keepsBatches (c : CircuitNo) : (s.becameBusy c).memberships.Lawful := by
  unfold State.becameBusy
  split <;> simp [h]

@[simp] theorem inputChanged_keepsBatches (c : CircuitNo) (wasBusy : Bool) : (s.inputChanged c wasBusy).memberships.Lawful := by
  unfold State.inputChanged
  simp only
  repeat' split
  all_goals simp [h]

/-- Any number of steps, each of which keeps the law. -/
theorem foldl_keepsBatches {α : Type} {f : State → α → State} (hf : ∀ s a, s.memberships.Lawful → (f s a).memberships.Lawful) :
    ∀ xs : List α, (xs.foldl f s).memberships.Lawful := fun xs => by
  induction xs generalizing s with
  | nil => exact h
  | cons x xs ih => exact ih (hf s x h)

@[simp] theorem spanLost_keepsBatches (n : SpanNo) (handed : DelayRecord) : (s.spanLost n handed).memberships.Lawful := by
  refine foldl_keepsBatches (by simp [h]) (fun s c hs => ?_) _
  unfold State.spanLostFor
  repeat' split
  all_goals simp [hs]

@[simp] theorem fibreLost_keepsBatches : s.fibreLost.memberships.Lawful := by
  refine foldl_keepsBatches (by simp [h]) (fun s c hs => ?_) _
  unfold State.fibreLostFor
  repeat' split
  all_goals simp [hs]

@[simp] theorem abandonAll_keepsBatches : s.abandonAll.memberships.Lawful := by
  refine foldl_keepsBatches h (fun s c hs => ?_) _
  unfold State.linkLostFor
  split <;> simp [hs]

end

end Sys2Proof.Machine
end

section
/-! SUPPORT. Every event row of the site frame, the circuits' timers, the Path Alignment Unit, the spans, the lanes, the peer link and the
management links keeps the law of the batches (R157). -/

namespace Sys2Proof.Machine

variable {s t : State} {c : CircuitNo}

/-! ### What the rows leave of the memberships -/

section
variable (s)

@[simp] theorem reply_memberships (port : Port) (result : ResultCode) (body : ReplyBody) :
    (s.reply port result body).memberships = s.memberships := by
  unfold State.reply
  split <;> simp

@[simp] theorem pend_memberships (port : Port) : (s.pend port).memberships = s.memberships := by
  unfold State.pend
  split <;> simp

@[simp] theorem takeHead_memberships (port : Port) (q : QueuedCommand) (rest : List QueuedCommand) :
    (s.takeHead port q rest).memberships = s.memberships := by simp [State.takeHead]

@[simp] theorem takeRefused_memberships (port : Port) : (s.takeRefused port).memberships = s.memberships := by
  unfold State.takeRefused
  repeat' split
  all_goals simp

theorem finish_memberships (h : Handled) (port : Port) : (h.finish port).memberships = h.1.memberships := by
  unfold Handled.finish
  split <;> simp

@[simp] theorem startReport_memberships (port : Port) : (s.startReport port).memberships = s.memberships := by
  unfold State.startReport
  split <;> simp

/-- R113: a frame moves the timers of the records. -/
@[simp] theorem tickAll_memberships : s.tickAll.memberships = s.memberships :=
  congrArg (Memberships.mk s.batches) (funext fun c => by
    rw [show s.tickAll.circuit c = (s.circuit c).tick from Table.get_map ..]
    rfl)

@[simp] theorem writeRings_memberships : s.writeRings.memberships = s.memberships := by
  unfold State.writeRings
  split <;> simp

@[simp] theorem frameWork_memberships (switch : Table 512 ChannelInput) : (s.frameWork switch).memberships = s.memberships := by
  simp [State.frameWork, State.advanceClock, State.takeSwitchCodes, State.transmitFrame, State.readStores, State.takeSlots,
    State.frameUnits, State.flagClearUnits, State.selectRoutes]

@[simp] theorem slipReport_memberships (n : SpanNo) (kind : SlipKind) (fill : Nat) (record : DelayRecord) :
    (s.slipReport n kind fill record).memberships = s.memberships := by
  unfold State.slipReport
  split <;> simp

@[simp] theorem backOff_memberships (c : CircuitNo) : (s.backOff c).memberships = s.memberships := by
  unfold State.backOff
  split <;> simp

@[simp] theorem setMatching_memberships (c : CircuitNo) : (s.setMatching c).memberships = s.memberships := by
  unfold State.setMatching
  repeat' split
  all_goals simp

@[simp] theorem writeMatch_memberships (c : CircuitNo) (d : Int) : (s.writeMatch c d).memberships = s.memberships := by
  unfold State.writeMatch
  split <;> simp

@[simp] theorem staleRecord_memberships (c : CircuitNo) : (s.staleRecord c).memberships = s.memberships := by
  unfold State.staleRecord
  split <;> simp

/-- R70: the Δ removed leaves the membership. -/
theorem Circuit.laneChanged_batch (r : Circuit) : r.laneChanged.batch = r.batch := by
  unfold Circuit.laneChanged
  split <;> rfl

@[simp] theorem laneChangeAlign_memberships : s.laneChangeAlign.memberships = s.memberships := by
  unfold State.laneChangeAlign
  exact setCircuits_memberships _ fun c => (congrArg Circuit.batch (Table.get_map ..)).trans (Circuit.laneChanged_batch _)

@[simp] theorem requeueAligned_memberships : s.requeueAligned.memberships = s.memberships := by
  refine foldl_memberships (fun s c => ?_) _ s
  unfold State.requeueFor
  split <;> simp

@[simp] theorem changeWorking_memberships (cause : WorkingCause) : (s.changeWorking cause).memberships = s.memberships := by
  simp [State.changeWorking, State.staleRecords]

@[simp] theorem workingTest_memberships (cause : WorkingCause) : (s.workingTest cause).memberships = s.memberships := by
  unfold State.workingTest
  split <;> simp

@[simp] theorem laneState_memberships (i : Lane) (after : LaneRecord) (cause : LaneCause) :
    (s.laneState i after cause).memberships = s.memberships := by simp [State.laneState]

@[simp] theorem idleFrame_memberships : s.idleFrame.memberships = s.memberships := by
  simp [State.idleFrame, State.idleSlots, State.idleRings, State.idleRoutes, State.flagClearUnits]

@[simp] theorem deliver_memberships (seq : Byte) (body : List Byte) : (s.deliver seq body).memberships = s.memberships := by
  unfold State.deliver
  simp only
  repeat' split
  all_goals simp

@[simp] theorem receiveOverhead_memberships (i : Lane) (bytes : List Byte) : (s.receiveOverhead i bytes).memberships = s.memberships := by
  have hdeliver : ∀ (l : List (Byte × List Byte)) (s : State), (l.foldl (fun s m => s.deliver m.1 m.2) s).memberships = s.memberships :=
    foldl_memberships fun s m => deliver_memberships s m.1 m.2
  unfold State.receiveOverhead
  simp only
  split <;> simp [hdeliver]

@[simp] theorem updateSlot_memberships (n : SlotNo) (f : SlotRecognition → SlotRecognition) :
    (s.updateSlot n f).memberships = s.memberships := (rfl)

@[simp] theorem sendHello_memberships : s.sendHello.memberships = s.memberships := by simp [State.sendHello]

@[simp] theorem enterUp_memberships (node : Nat) (mode : HandshakeMode) : (s.enterUp node mode).memberships = s.memberships := by
  simp [State.enterUp, State.peerReport]

@[simp] theorem countUnresolved_memberships : s.countUnresolved.memberships = s.memberships := (rfl)
@[simp] theorem countIgnored_memberships : s.countIgnored.memberships = s.memberships := (rfl)
@[simp] theorem countStale_memberships : s.countStale.memberships = s.memberships := (rfl)
@[simp] theorem countInapplicable_memberships : s.countInapplicable.memberships = s.memberships := (rfl)

@[simp] theorem acceptorGoesOn_memberships (c : CircuitNo) : (s.acceptorGoesOn c).memberships = s.memberships := by
  unfold State.acceptorGoesOn
  split <;> simp [circuit_batch]

@[simp] theorem attachProposed_memberships (c : CircuitNo) (slot : SlotNo) : (s.attachProposed c slot).memberships = s.memberships := by
  unfold State.attachProposed
  split <;> simp [circuit_batch]

/-- R153: a bucket of a purge removes entries and codes. -/
@[simp] theorem purgeBucket_memberships (b : Fin 128) (removed : Nat) : (s.purgeBucket b removed).1.memberships = s.memberships := by
  have hall : ∀ (l : List (Fin 4)) (p : State × Nat), (l.foldl (purgeWay b) p).1.memberships = p.1.memberships := fun l => by
    induction l with
    | nil => exact fun p => rfl
    | cons w l ih =>
      refine fun p => (ih _).trans ?_
      unfold purgeWay
      repeat' split
      all_goals simp [State.removeTrunkAt]
  exact hall _ _

/-- R148: a range written with the codes of its circuits. -/
@[simp] theorem writeRange_memberships (i : Fin 8) (e : RangeEntry) : (s.writeRange i e).memberships = s.memberships :=
  foldl_memberships (fun s (m : CircuitNo × TrunkCode) => setCode_memberships s m.1 (some m.2)) _ _

@[simp] theorem completeRange_memberships (e : RangeEntry) (found : Option FoundTrunk) :
    (s.completeRange e found).1.memberships = s.memberships := by
  unfold State.completeRange
  repeat' split
  all_goals simp [answered]

end

/-! ### Turns of the rows that hand outcomes on -/

section
variable (h : s.memberships.Lawful)
include h

@[simp] theorem slipStep_keepsBatches (n : SpanNo) (kind : SlipKind) (fill : Nat) : (s.slipStep n kind fill).memberships.Lawful := by
  have hcircuits : ∀ {s : State}, s.memberships.Lawful → (s.slipAlign n kind).memberships.Lawful := fun {s} hs => by
    refine foldl_keepsBatches (by simpa [State.slipUnits] using hs) (fun s c hs => ?_) _
    unfold State.slipCircuit
    repeat' split
    all_goals simp [hs]
  have hwatch : ∀ (l : List CircuitNo) (s : State), (l.foldl (fun s c => s.watchEvent c .slip none) s).memberships = s.memberships :=
    foldl_memberships fun s c => watchEvent_memberships s c _ _
  unfold State.slipStep
  simp only
  repeat' split
  all_goals simp [hwatch, hcircuits, h]

@[simp] theorem matchFailed_keepsBatches (c : CircuitNo) (reason : Reason) : (s.matchFailed c reason).memberships.Lawful := by
  unfold State.matchFailed
  split
  · simp [h]
  · exact consumeAttempt_keepsBatches h c reason fun s => by split <;> simp

@[simp] theorem takeMatch_keepsBatches (c : CircuitNo) (x : Context) (result : MatchResult) : (s.takeMatch c x result).memberships.Lawful := by
  cases result <;> simp [State.takeMatch, h]

@[simp] theorem upFrame_keepsBatches (n : SpanNo) (f : SpanFrame) : (s.upFrame n f).memberships.Lawful := by
  have hcode : ∀ (s : State) (x : TimeslotNo × LineCondition), s.memberships.Lawful → (State.takeCopperCode n s x).memberships.Lawful :=
    fun s x hs => by
      unfold State.takeCopperCode
      simp only
      repeat' split
      all_goals simp [hs]
  have hsignal : (s.signalFrame n f).memberships.Lawful := by
    unfold State.signalFrame State.endMultiframe
    simp only
    repeat' split
    · exact foldl_keepsBatches (by simp [h]) hcode _
    all_goals simp [h]
  unfold State.upFrame State.storeFrame
  simp only
  repeat' split
  all_goals simp [hsignal]

@[simp] theorem spanLowered_keepsBatches (n : SpanNo) (cause : SpanDownCause) : (s.spanLowered n cause).memberships.Lawful := by
  simp [State.spanLowered, h]

@[simp] theorem signalLost_keepsBatches (n : SpanNo) : (s.signalLost n).memberships.Lawful := by
  unfold State.signalLost
  split <;> simp [h]

@[simp] theorem restart_keepsBatches (n : SpanNo) : (s.restart n).memberships.Lawful := by
  unfold State.restart
  split <;> simp [h]

@[simp] theorem availability_keepsBatches (wasUp : Bool) : (s.availability wasUp).memberships.Lawful := by
  unfold State.availability State.fibreUnavailable
  repeat' split
  all_goals simp [h]

@[simp] theorem laneRaised_keepsBatches (i : Lane) : (s.laneRaised i).memberships.Lawful := by simp [State.laneRaised, h]

@[simp] theorem laneLowered_keepsBatches (i : Lane) (cause : LaneCause) : (s.laneLowered i cause).memberships.Lawful := by
  unfold State.laneLowered
  simp only
  split <;> simp [h]

@[simp] theorem laneGraded_keepsBatches (i : Lane) (after : LaneRecord) (cause : LaneCause) :
    (s.laneGraded i after cause).memberships.Lawful := by simp [State.laneGraded, h]

@[simp] theorem flagRecognised_keepsBatches (c : CircuitNo) : (s.flagRecognised c).memberships.Lawful := by
  unfold State.flagRecognised
  split <;> simp [h]

@[simp] theorem leaveUp_keepsBatches (after : LinkState) (kind : Nat → PeerReportKind) : (s.leaveUp after kind).memberships.Lawful := by
  simp [State.leaveUp, State.peerReport, h]

@[simp] theorem linkDown_keepsBatches (cause : PeerDownCause) : (s.linkDown cause).memberships.Lawful := by
  unfold State.linkDown
  split <;> simp [State.peerReport, h]

@[simp] theorem takeHello_keepsBatches (node : Nat) (mode : HandshakeMode) : (s.takeHello node mode).memberships.Lawful := by
  unfold State.takeHello State.judgeHello
  simp only
  repeat' split
  all_goals simp [State.peerReport, h]

/-! ### Received messages (R124, R128 to R138) -/

/-- R124, R144: a message for the circuit that its code resolves to. -/
theorem dispatch_keepsBatches (m : PeerMessage) (code : TrunkCode) {miss : State → State} {rule : CircuitNo → State → State}
    (hm : ∀ s, (miss s).memberships = s.memberships) (hr : ∀ c s, s.memberships.Lawful → (rule c s).memberships.Lawful) :
    (dispatch m code miss rule s).memberships.Lawful := by
  unfold dispatch
  repeat' split
  all_goals simp [hm, hr, h]

@[simp] theorem acceptProposal_keepsBatches (c : CircuitNo) (code : TrunkCode) (slot : SlotNo) (number : Byte) :
    (s.acceptProposal c code slot number).memberships.Lawful := by simp [State.acceptProposal, circuit_batch, h]

@[simp] theorem yieldTo_keepsBatches (c : CircuitNo) (code : TrunkCode) (slot : SlotNo) (number : Byte) :
    (s.yieldTo c code slot number).memberships.Lawful := by
  unfold State.yieldTo
  split <;> simp [circuit_batch, h]

theorem takePropose_keepsBatches (c : CircuitNo) (code : TrunkCode) (slot : SlotNo) (number : Byte) :
    (s.takePropose c code slot number).memberships.Lawful := by
  unfold State.takePropose State.proposeToCopper State.collide State.proposeAgain State.repeatProposal
  simp only
  repeat' split
  all_goals simp [h]

theorem takeAccept_keepsBatches (c : CircuitNo) (slot : SlotNo) (number : Byte) : (s.takeAccept c slot number).memberships.Lawful := by
  have haccepted : (s.accepted c number).memberships.Lawful := by
    unfold State.accepted
    simp only
    split <;> simp [circuit_batch, h]
  unfold State.takeAccept
  repeat' split
  all_goals simp [haccepted, h]

theorem takeDecline_keepsBatches (c : CircuitNo) (code : TrunkCode) (number : Byte) (reason : DeclineReason) :
    (s.takeDecline c code number reason).memberships.Lawful := by
  unfold State.takeDecline
  repeat' split
  all_goals simp [h]

theorem takeConfirm_keepsBatches (c : CircuitNo) (number : Byte) : (s.takeConfirm c number).memberships.Lawful := by
  unfold State.takeConfirm
  repeat' split
  all_goals simp [h]

theorem takeSpliced_keepsBatches (c : CircuitNo) : (s.takeSpliced c).memberships.Lawful := by
  unfold State.takeSpliced
  split <;> simp [h]

theorem takeAbandon_keepsBatches (c : CircuitNo) (code : TrunkCode) (reason : Reason) : (s.takeAbandon c code reason).memberships.Lawful := by
  unfold State.takeAbandon
  simp only
  repeat' split
  all_goals simp [h]

theorem takeRevert_keepsBatches (c : CircuitNo) (code : TrunkCode) : (s.takeRevert c code).memberships.Lawful := by
  unfold State.takeRevert State.noFallback
  repeat' split
  all_goals simp [h]

theorem takeRevertDone_keepsBatches (c : CircuitNo) : (s.takeRevertDone c).memberships.Lawful := by
  unfold State.takeRevertDone
  split <;> simp [circuit_batch, h]

theorem takeRelease_keepsBatches (c : CircuitNo) : (s.takeRelease c).memberships.Lawful := by
  unfold State.takeRelease
  split <;> simp [h]

end

end Sys2Proof.Machine
end

section
/-! SUPPORT. Every row keeps the law of the batches: the events, and the commands by what their rules do (R157). -/

namespace Sys2Proof.Machine

variable {s t : State} {c : CircuitNo}

/-! ### Rows -/

/-- The law of the batches, as a row's meaning answers it. -/
def BatchesHold (t : State) : Prop := t.memberships.Lawful

theorem answers_holds (h : t.memberships.Lawful) : Answers BatchesHold (.next t) := answers_next h

section
variable (h : s.memberships.Lawful)
include h

/-- A row that does something where its condition holds, and nothing elsewhere. -/
theorem holds_when (b : Prop) [Decidable b] (hb : b → t.memberships.Lawful) : Answers BatchesHold (if b then .next t else .next s) :=
  answers_ite b (fun k => answers_holds (hb k)) fun _ => answers_holds h

/-! ### The site frame, and a circuit's inputs and timers -/

theorem siteFrame_holds (switch : Table 512 ChannelInput) : Answers BatchesHold (execSiteFrame switch s) := by
  refine answers_ite _ (fun _ => answers_holds ?_) fun _ => answers_ite _ (fun _ => answers_holds ?_) fun _ => answers_holds ?_
  · exact foldl_keepsBatches (by simp [h]) (fun s n hs => slipStep_keepsBatches hs n _ _) _
  · simpa [State.takeSwitchCodes, State.startUpFrame] using h
  · simpa [State.startUpFrame] using h

theorem targetReached_holds (c : CircuitNo) : Answers BatchesHold (execTargetReached c s) := by
  unfold execTargetReached State.atTarget
  repeat' split
  all_goals exact answers_holds (by simp [h])

theorem responseTimerExpiry_holds (c : CircuitNo) : Answers BatchesHold (execResponseTimerExpiry c s) := by
  have hback := consumeAttempt_keepsBatches (s := s.stopResponse c) (by simp [h]) c .peerTimeout fun t => backOff_memberships t c
  unfold execResponseTimerExpiry
  simp only
  repeat' split
  all_goals exact answers_holds (by simp [hback, h])

theorem retryBackoffExpiry_holds (c : CircuitNo) : Answers BatchesHold (execRetryBackoffExpiry c s) := by
  unfold execRetryBackoffExpiry
  simp only
  repeat' split
  all_goals exact answers_holds (by simp [h])

theorem fallbackHoldExpiry_holds (c : CircuitNo) : Answers BatchesHold (execFallbackHoldExpiry c s) := by
  unfold execFallbackHoldExpiry
  repeat' split
  all_goals exact answers_holds (by simp [h])

theorem drainEnd_holds (c : CircuitNo) : Answers BatchesHold (execDrainEnd c s) := by
  unfold execDrainEnd
  repeat' split
  all_goals exact answers_holds (by simp [circuit_batch, h])

/-! ### The Path Alignment Unit, the spans and the lanes -/

theorem matcherStart_holds : Answers BatchesHold (execMatcherStart s) := by
  unfold execMatcherStart
  simp only
  repeat' split
  all_goals exact answers_holds (by simp [h])

theorem windowEnd_holds (v : UnitNo) : Answers BatchesHold (execWindowEnd v s) := by
  unfold execWindowEnd
  simp only
  repeat' split
  all_goals exact answers_holds (by simp [h])

theorem matchOutcome_holds (v : UnitNo) : Answers BatchesHold (execMatchOutcome v s) := by
  unfold execMatchOutcome
  repeat' split
  all_goals exact answers_holds (by simp [h])

theorem spanFrameReceived_holds (n : SpanNo) (f : SpanFrame) : Answers BatchesHold (execSpanFrameReceived n f s) := by
  unfold execSpanFrameReceived
  repeat' split
  all_goals exact answers_holds (by simp [h])

theorem laneFrameReceived_holds (i : Lane) (f : LaneFrame) : Answers BatchesHold (execLaneFrameReceived i f s) := by
  unfold execLaneFrameReceived
  simp only
  repeat' split
  all_goals exact answers_holds (by simp [h])

theorem slotLineConditionChange_holds (n : SlotNo) : Answers BatchesHold (execSlotLineConditionChange n s) := by
  unfold execSlotLineConditionChange
  simp only
  repeat' split
  all_goals exact answers_holds (by simp [h])

theorem bridgeFlagRecognised_holds (n : SlotNo) : Answers BatchesHold (execBridgeFlagRecognised n s) := by
  unfold execBridgeFlagRecognised
  simp only
  repeat' split
  all_goals exact answers_holds (by simp [h])

theorem laneLossOfLight_holds (i : Lane) : Answers BatchesHold (execLaneLossOfLight i s) :=
  answers_ite _ (fun _ => answers_holds (by simp [h])) fun _ => answers_holds (by simp [h])

theorem errorIntervalEnd_holds (i : Lane) : Answers BatchesHold (execErrorIntervalEnd i s) := by
  unfold execErrorIntervalEnd
  repeat' split
  all_goals exact answers_holds (by simp [h])

/-! ### Received messages (R124) -/

theorem takeMessage_holds (m : PeerMessage) {rule : State → State} (hr : ∀ s, s.memberships.Lawful → (rule s).memberships.Lawful) :
    Answers BatchesHold (takeMessage m rule s) := by
  unfold takeMessage
  repeat' split
  all_goals exact answers_holds (by simp [hr, h])

/-- A message for a circuit that is counted as unresolved when its code resolves to none. -/
theorem received_holds (m : PeerMessage) (code : TrunkCode) {rule : CircuitNo → State → State}
    (hr : ∀ c s, s.memberships.Lawful → (rule c s).memberships.Lawful) :
    Answers BatchesHold (takeMessage m (dispatch m code State.countUnresolved rule) s) :=
  takeMessage_holds h m fun _ hs => dispatch_keepsBatches hs m code countUnresolved_memberships hr

theorem receivedPropose_holds (code : TrunkCode) (slot : SlotNo) (number : Byte) :
    Answers BatchesHold (execReceivedPropose code slot number s) := by
  refine takeMessage_holds h _ fun s hs => ?_
  unfold State.judgePropose
  split
  · simp [hs]
  · exact dispatch_keepsBatches hs _ _ (fun s => by simp) fun c s hs => takePropose_keepsBatches hs c code slot number

theorem receivedRevert_holds (code : TrunkCode) : Answers BatchesHold (execReceivedRevert code s) :=
  takeMessage_holds h _ fun _ hs => dispatch_keepsBatches hs _ _ (fun s => by simp [State.noFallback]) fun c _ hs =>
    takeRevert_keepsBatches hs c code

/-! ### The walk and the management links -/

theorem rangeCheckBucket_holds : Answers BatchesHold (execRangeCheckBucket s) := by
  unfold execRangeCheckBucket
  repeat' split
  all_goals exact answers_holds (by simp [h])

theorem rangeCheckComplete_holds : Answers BatchesHold (execRangeCheckComplete s) := by
  unfold execRangeCheckComplete
  repeat' split
  all_goals exact answers_holds (by simp [finish_memberships, h])

theorem purgeBucket_holds : Answers BatchesHold (execPurgeBucket s) := by
  unfold execPurgeBucket
  repeat' split
  all_goals exact answers_holds (by simp [h])

theorem purgeComplete_holds : Answers BatchesHold (execPurgeComplete s) := by
  unfold execPurgeComplete
  repeat' split
  all_goals exact answers_holds (by simp [finish_memberships, answered, h])

theorem managementFrameReceived_holds (port : Port) (bytes : List LinkByte) :
    Answers BatchesHold (execManagementFrameReceived port bytes s) :=
  answers_holds (foldl_keepsBatches h (fun _ _ hs => by simpa [State.receiveByte] using hs) bytes)

theorem frameTransmitStart_holds (port : Port) : Answers BatchesHold (execFrameTransmitStart port s) := by
  unfold execFrameTransmitStart
  repeat' split
  all_goals exact answers_holds (by simp [h])

theorem frameTransmitEnd_holds (port : Port) : Answers BatchesHold (execFrameTransmitEnd port s) := by
  unfold execFrameTransmitEnd
  repeat' split
  · exact answers_holds (batchLaw_iff.mp (isReset_resetWith ..).batchLaw)
  all_goals exact answers_holds (by simp [State.endReply, h])

/-! ### How a command runs (R178, R25) -/

/-- R178: what a command's rule keeps, the command keeps. -/
theorem runCommand_holds {rule : State → Handled} (hr : ∀ s, s.memberships.Lawful → (rule s).1.memberships.Lawful) (i : Instr)
    (port : Port) : Answers BatchesHold (runCommand i port rule s) := by
  unfold runCommand
  repeat' split
  all_goals exact answers_holds (by simp [finish_memberships, hr, h])

theorem withSelector_holds {rule : CircuitNo → Handled} (hr : ∀ c, (rule c).1.memberships.Lawful) (port : Port) (type : Byte)
    (sel : Selector) : (s.withSelector port type sel rule).1.memberships.Lawful := by
  unfold State.withSelector
  split <;> simp [hr, answered, h]

theorem withLane_holds {rule : Lane → Handled} (hr : ∀ i, (rule i).1.memberships.Lawful) (lane : Nat) :
    (withLane s lane rule).1.memberships.Lawful := by
  unfold withLane
  split <;> simp [hr, answered, h]

theorem withTrunk_holds {rule : Fin 128 → Fin 4 → TrunkEntry → Handled} (hr : ∀ b w e, (rule b w e).1.memberships.Lawful) (port : Port)
    (type : Byte) (code : TrunkCode) (range : Fin 8 → ReplyBody) : (s.withTrunk port type code range rule).1.memberships.Lawful := by
  unfold State.withTrunk
  repeat' split
  all_goals simp [hr, answered, h]

/-! ### The commands on circuits (R10 to R13, R20, R25, R39, R43, R47, R50, R171) -/

theorem ruleAttach_holds (circuit : Nat) (copper : Option (Nat × Nat)) (fibre : Option Nat) :
    (ruleAttach circuit copper fibre s).1.memberships.Lawful := by
  have hattach : ∀ c p n, (s.attach c p n).memberships = s.memberships := fun c p n => by
    have hbatch : ((s.circuit c).attached p n).batch = s.memberships.carried c := by cases p <;> rfl
    unfold State.attach
    simp only
    split <;> simp [hbatch]
  unfold ruleAttach State.attachChecked
  simp only
  repeat' split
  all_goals simp [answered, hattach, h]

theorem ruleDetach_holds (circuit : Nat) (copper fibre : Bool) : (ruleDetach circuit copper fibre s).1.memberships.Lawful := by
  have hdetach : ∀ c, (s.detach c copper fibre).memberships = s.memberships := fun c => by
    have hfibre : ((s.circuit c).withoutFibre).batch = (s.circuit c).batch := by
      unfold Circuit.withoutFibre
      split <;> rfl
    have hbatch : ((s.circuit c).detached copper fibre).batch = s.memberships.carried c := by
      cases copper <;> cases fibre <;> simp [Circuit.detached, Circuit.withoutCopper, hfibre, circuit_batch]
    simp [detach_eq, hbatch]
  unfold ruleDetach
  repeat' split
  all_goals simp [answered, hdetach, h]

theorem ruleActivate_holds (circuit : Nat) : (ruleActivate circuit s).1.memberships.Lawful := by
  unfold ruleActivate State.activate
  repeat' split
  all_goals simp [answered, circuit_batch, h]

theorem ruleSetCircuit_holds (circuit : Nat) (notify autoRelease : Option Bool) (hold : Option Nat) (inhibit : Option Bool) :
    (ruleSetCircuit circuit notify autoRelease hold inhibit s).1.memberships.Lawful := by
  have hoptions : ∀ c, (s.setOptions c notify autoRelease hold inhibit).memberships.Lawful := fun c => by
    unfold State.setOptions
    simp only
    split <;> simp [Circuit.withOptions, circuit_batch, h]
  unfold ruleSetCircuit
  repeat' split
  all_goals simp [answered, hoptions, h]

theorem ruleQueryCircuit_holds (circuit : Nat) (clear : Bool) : (ruleQueryCircuit circuit clear s).1.memberships.Lawful := by
  unfold ruleQueryCircuit
  split
  · cases clear <;> simp [answered, State.clearChanged, circuit_batch, h]
  · simp [answered, h]

theorem ruleMigrate_holds (port : Port) (sel : Selector) : (ruleMigrate port sel s).1.memberships.Lawful := by
  refine withSelector_holds h (fun c => ?_) _ _ _
  unfold State.migrate
  split <;> simp [answered, h]

theorem ruleAbandon_holds (port : Port) (sel : Selector) : (ruleAbandon port sel s).1.memberships.Lawful := by
  refine withSelector_holds h (fun c => ?_) _ _ _
  split <;> simp [answered, h]

theorem ruleRevert_holds (port : Port) (sel : Selector) : (ruleRevert port sel s).1.memberships.Lawful := by
  refine withSelector_holds h (fun c => ?_) _ _ _
  unfold State.revert
  repeat' split
  all_goals simp [answered, h]

theorem ruleRelease_holds (port : Port) (sel : Selector) : (ruleRelease port sel s).1.memberships.Lawful := by
  refine withSelector_holds h (fun c => ?_) _ _ _
  split <;> simp [answered, h]

theorem ruleResume_holds (port : Port) (sel : Selector) : (ruleResume port sel s).1.memberships.Lawful := by
  refine withSelector_holds h (fun c => ?_) _ _ _
  unfold State.resume
  repeat' split
  all_goals simp [answered, h]

theorem ruleExchange_holds (kind a stateA b stateB : Nat) : (ruleExchange kind a stateA b stateB s).1.memberships.Lawful := by
  have hcopper : ∀ a b, (s.exchangeCopper a b).memberships = s.memberships := fun a b => by
    simp [State.exchangeCopper, Circuit.withCopper, circuit_batch]
  have hring : ∀ (s : State) c, (s.fillAttachedRing c).memberships = s.memberships := fun s c => by
    unfold State.fillAttachedRing
    split <;> simp
  have hfibre : ∀ a b, (s.exchangeFibre a b).memberships = s.memberships := fun a b => by
    simp [State.exchangeFibre, hring, circuit_batch]
  unfold ruleExchange State.exchange
  repeat' split
  all_goals simp [answered, hcopper, hfibre, h]

theorem ruleQueryAlignment_holds (circuit first : Option Nat) : (ruleQueryAlignment circuit first s).1.memberships.Lawful := by
  unfold ruleQueryAlignment
  repeat' split
  all_goals simp [answered, h]

/-! ### The commands on batches (R158, R159, R163) -/

/-- R158: a refusal of check 5 writes a miss at most. -/
theorem examineEntries_refused {port : Port} {x : Handled} : ∀ (entries : List Selector) (done : List CircuitNo),
    s.examineEntries port done entries = .error x → x.1.memberships.Lawful
  | [], _, e => by cases e
  | entry :: rest, done, e => by
    unfold State.examineEntries at e
    repeat' split at e
    · cases e
      cases entry <;> simpa [State.entryMiss, answered] using h
    iterate 3 cases e; exact h
    · exact examineEntries_refused rest _ e

theorem ruleOpenBatch_holds (port : Port) (tag : Byte) (batch mode limit : Nat) (entries : List Selector) :
    (ruleOpenBatch port tag batch mode limit entries s).1.memberships.Lawful := by
  unfold ruleOpenBatch
  split
  · exact h
  next id _ =>
    repeat' split
    iterate 5 exact h
    next e => exact examineEntries_refused h _ _ e
    next hlength hid _ _ _ circuits e =>
      obtain ⟨hnodup, hfree, hlen⟩ := examineEntries_ok entries [] e List.nodup_nil (by simp)
      simp only [not_or, not_lt, List.length_nil, Nat.zero_add] at hlength hlen
      refine openBatch_keepsBatches h (openedBatch_lawful port tag _ limit s.fc hnodup (by omega) (by omega)) (by simpa using hid) ?_
      simpa [openedBatch, Function.comp_def] using hfree

theorem ruleCancelBatch_holds (batch : Nat) : (ruleCancelBatch batch s).1.memberships.Lawful := by
  unfold ruleCancelBatch
  repeat' split
  · exact h
  next hid => exact cancel_keepsBatches h hid
  · exact h

/-! ### The commands of the other blocks -/

theorem ruleSetNode_holds (p : NodeSettings) : (ruleSetNode p s).1.memberships.Lawful := by
  unfold ruleSetNode State.writeNode State.localChange State.rehello
  simp only
  repeat' split
  all_goals simp [answered, h]

theorem ruleSetSpan_holds (span : Nat) (p : SpanSettings) : (ruleSetSpan span p s).1.memberships.Lawful := by
  unfold ruleSetSpan
  simp only
  repeat' split
  all_goals simp [answered, h]

theorem ruleRestartSpan_holds (span : Nat) : (ruleRestartSpan span s).1.memberships.Lawful := by
  unfold ruleRestartSpan
  split <;> simp [answered, h]

theorem ruleRetireSpan_holds (span : Nat) : (ruleRetireSpan span s).1.memberships.Lawful := by
  unfold ruleRetireSpan
  repeat' split
  all_goals simp [answered, h]

theorem ruleSelect_holds (lane : Nat) : (ruleSelect lane s).1.memberships.Lawful := by
  refine withLane_holds h (fun i => ?_) lane
  repeat' split
  all_goals simp [answered, h]

theorem ruleLockout_holds (lane : Nat) : (ruleLockout lane s).1.memberships.Lawful := by
  refine withLane_holds h (fun i => ?_) lane
  repeat' split
  all_goals simp [answered, State.setLockout, h]

theorem ruleClear_holds (lane : Nat) : (ruleClear lane s).1.memberships.Lawful := by
  refine withLane_holds h (fun i => ?_) lane
  split <;> simp [answered, State.setLockout, h]

theorem ruleShut_holds (lane : Nat) : (ruleShut lane s).1.memberships.Lawful := by
  refine withLane_holds h (fun i => ?_) lane
  repeat' split
  all_goals simp [answered, State.setShutdown, h]

theorem ruleRestore_holds (lane : Nat) : (ruleRestore lane s).1.memberships.Lawful :=
  withLane_holds h (fun i => by simp [answered, State.setShutdown, h]) lane

/-- R72: a load of FC moves the targets, the rings and the histories alone. -/
theorem ruleSetFrameClock_holds (value : FrameCount) : (ruleSetFrameClock value s).1.memberships.Lawful := by
  have hshift : ∀ shift, (s.shiftFrameClock shift).memberships = s.memberships := fun shift => by
    unfold State.shiftFrameClock
    exact setCircuits_memberships _ fun c => by rw [Table.get_map]; rfl
  simp [ruleSetFrameClock, State.loadFrameClock, answered, hshift, h]

theorem ruleAddTrunk_holds (code : TrunkCode) (circuit : Nat) (pinned : Option Bool) :
    (ruleAddTrunk code circuit pinned s).1.memberships.Lawful := by
  unfold ruleAddTrunk State.addTrunk State.writeTrunk
  repeat' split
  all_goals simp [answered, h]

theorem ruleAddRange_holds (port : Port) (tag : Byte) (e : RangeEntry) : (ruleAddRange port tag e s).1.memberships.Lawful := by
  unfold ruleAddRange
  repeat' split
  all_goals simp [answered, h]

theorem ruleRemoveTrunk_holds (port : Port) (code : TrunkCode) : (ruleRemoveTrunk port code s).1.memberships.Lawful := by
  refine withTrunk_holds h (fun b w e => ?_) _ _ _ _
  split <;> simp [answered, State.removeTrunkAt, h]

theorem ruleRemoveRange_holds (index : Nat) : (ruleRemoveRange index s).1.memberships.Lawful := by
  have hremove : ∀ i e, (s.removeRangeAt i e).memberships = s.memberships := fun i e =>
    foldl_memberships (fun s (m : CircuitNo × TrunkCode) => setCode_memberships s m.1 none) _ _
  unfold ruleRemoveRange
  repeat' split
  all_goals simp [answered, hremove, h]

theorem rulePin_holds (port : Port) (type : Byte) (code : TrunkCode) (flag : Bool) : (rulePin port type code flag s).1.memberships.Lawful :=
  withTrunk_holds h (fun b w e => by simp [answered, State.writePin, h]) _ _ _ _

theorem rulePurge_holds (port : Port) (tag : Byte) : (rulePurge port tag s).1.memberships.Lawful := by
  unfold rulePurge
  split <;> simp [answered, h]

theorem ruleLookup_holds (port : Port) (operand : LookupOperand) : (ruleLookup port operand s).1.memberships.Lawful := by
  unfold ruleLookup State.lookupCode
  simp only
  repeat' split
  all_goals simp [answered, h]

/-! ### The rules that only observe, and those that write no more than a setting -/

theorem ruleSpanStatus_holds (span : Nat) : (ruleSpanStatus span s).1.memberships.Lawful := by
  unfold ruleSpanStatus
  split <;> exact h

theorem ruleBatchStatus_holds (batch : Nat) : (ruleBatchStatus batch s).1.memberships.Lawful := by
  unfold ruleBatchStatus
  split <;> exact h

theorem ruleSetWatch_holds (watch : Nat) (p : WatchSettings) : (ruleSetWatch watch p s).1.memberships.Lawful := by
  unfold ruleSetWatch
  repeat' split
  all_goals exact h

theorem ruleWatchStatus_holds (clear : Nat) : (ruleWatchStatus clear s).1.memberships.Lawful := by
  unfold ruleWatchStatus
  split <;> exact h

theorem rulePeerStatus_holds (clear : Bool) : (rulePeerStatus clear s).1.memberships.Lawful := by cases clear <;> exact h

theorem ruleQueryMiss_holds (clear : Bool) : (ruleQueryMiss clear s).1.memberships.Lawful := by cases clear <;> exact h

theorem ruleLinkStatus_holds (clear : Bool) : (ruleLinkStatus clear s).1.memberships.Lawful := by
  cases clear <;> simp [ruleLinkStatus, answered, h]

/-! ### Every row -/

/-- R157: what every command and every event does. -/
theorem exec_holds (i : Instr) : Answers BatchesHold (exec i s) := by
  cases i with
  | powerOnReset primary craft => exact answers_holds (batchLaw_iff.mp (isReset_resetWith ..).batchLaw)
  | startUpEnd => exact holds_when h _ fun _ => by simp [State.transmitFrame, h]
  | siteFrame switch => exact siteFrame_holds h switch
  | targetReached c => exact targetReached_holds h c
  | switchLineConditionChange c => exact holds_when h _ fun _ => by simp [h]
  | spanFrameReceived n f => exact spanFrameReceived_holds h n f
  | frameAlignmentFound n => exact holds_when h _ fun _ => by simp [h]
  | multiframeHuntLoss n => exact holds_when h _ fun _ => by simp [h]
  | spanUp n => exact holds_when h _ fun _ => by simp [State.spanRaised, h]
  | spanLossOfSignal n => exact answers_holds (by simp [h])
  | spanBadAlignment n => exact holds_when h _ fun _ => by simp [h]
  | laneFrameReceived i f => exact laneFrameReceived_holds h i f
  | slotLineConditionChange n => exact slotLineConditionChange_holds h n
  | bridgeFlagRecognised n => exact bridgeFlagRecognised_holds h n
  | laneUp i => exact holds_when h _ fun _ => by simp [h]
  | laneLossOfLight i => exact laneLossOfLight_holds h i
  | laneAlignmentLoss i => exact holds_when h _ fun _ => by simp [h]
  | laneDegraded i => exact holds_when h _ fun _ => by simp [h]
  | errorIntervalEnd i => exact errorIntervalEnd_holds h i
  | holdOffExpiry => exact holds_when h _ fun _ => by simp [h]
  | duplicateWindowExpiry => exact holds_when h _ fun _ => by simp [h]
  | matcherStart => exact matcherStart_holds h
  | primingComplete v => exact holds_when h _ fun _ => by simp [h]
  | windowEnd v => exact windowEnd_holds h v
  | matchOutcome v => exact matchOutcome_holds h v
  | servicePauseEnd => exact holds_when h _ fun _ => by simp [h]
  | responseTimerExpiry c => exact responseTimerExpiry_holds h c
  | retryBackoffExpiry c => exact retryBackoffExpiry_holds h c
  | bridgeLimitExpiry c => exact holds_when h _ fun _ => by simp [h]
  | deferLimitExpiry c => exact holds_when h _ fun _ => by simp [h]
  | fallbackHoldExpiry c => exact fallbackHoldExpiry_holds h c
  | drainEnd c => exact drainEnd_holds h c
  | helloTimerExpiry => exact holds_when h _ fun _ => by simp [h]
  | silenceExpiry => exact holds_when h _ fun _ => by simp [h]
  | receivedHello node mode => exact takeMessage_holds h _ fun _ hs => takeHello_keepsBatches hs node mode
  | receivedPropose code slot number => exact receivedPropose_holds h code slot number
  | receivedAccept code slot number => exact received_holds h _ code fun c _ hs => takeAccept_keepsBatches hs c slot number
  | receivedDecline code number reason => exact received_holds h _ code fun c _ hs => takeDecline_keepsBatches hs c code number reason
  | receivedConfirm code number => exact received_holds h _ code fun c _ hs => takeConfirm_keepsBatches hs c number
  | receivedSpliced code => exact received_holds h _ code fun c _ hs => takeSpliced_keepsBatches hs c
  | receivedAbandon code reason => exact received_holds h _ code fun c _ hs => takeAbandon_keepsBatches hs c code reason
  | receivedRevert code => exact receivedRevert_holds h code
  | receivedRevertDone code => exact received_holds h _ code fun c _ hs => takeRevertDone_keepsBatches hs c
  | receivedRelease code => exact received_holds h _ code fun c _ hs => takeRelease_keepsBatches hs c
  | attach port tag circuit copper fibre => exact runCommand_holds h (fun _ hs => ruleAttach_holds hs circuit copper fibre) _ port
  | detach port tag circuit copper fibre => exact runCommand_holds h (fun _ hs => ruleDetach_holds hs circuit copper fibre) _ port
  | activate port tag circuit => exact runCommand_holds h (fun _ hs => ruleActivate_holds hs circuit) _ port
  | setCircuit port tag circuit notify autoRelease hold inhibit =>
    exact runCommand_holds h (fun _ hs => ruleSetCircuit_holds hs circuit notify autoRelease hold inhibit) _ port
  | queryCircuit port tag circuit clear => exact runCommand_holds h (fun _ hs => ruleQueryCircuit_holds hs circuit clear) _ port
  | migrate port tag circuit => exact runCommand_holds h (fun _ hs => ruleMigrate_holds hs port circuit) _ port
  | abandon port tag circuit => exact runCommand_holds h (fun _ hs => ruleAbandon_holds hs port circuit) _ port
  | revert port tag circuit => exact runCommand_holds h (fun _ hs => ruleRevert_holds hs port circuit) _ port
  | release port tag circuit => exact runCommand_holds h (fun _ hs => ruleRelease_holds hs port circuit) _ port
  | resume port tag circuit => exact runCommand_holds h (fun _ hs => ruleResume_holds hs port circuit) _ port
  | setNode port tag settings => exact runCommand_holds h (fun _ hs => ruleSetNode_holds hs settings) _ port
  | queryAlignment port tag circuit first => exact runCommand_holds h (fun _ hs => ruleQueryAlignment_holds hs circuit first) _ port
  | setSpan port tag span settings => exact runCommand_holds h (fun _ hs => ruleSetSpan_holds hs span settings) _ port
  | spanStatus port tag span => exact runCommand_holds h (fun _ hs => ruleSpanStatus_holds hs span) _ port
  | restartSpan port tag span => exact runCommand_holds h (fun _ hs => ruleRestartSpan_holds hs span) _ port
  | retireSpan port tag span => exact runCommand_holds h (fun _ hs => ruleRetireSpan_holds hs span) _ port
  | laneControlSelect port tag lane => exact runCommand_holds h (fun _ hs => ruleSelect_holds hs lane) _ port
  | laneControlLockout port tag lane => exact runCommand_holds h (fun _ hs => ruleLockout_holds hs lane) _ port
  | laneControlClear port tag lane => exact runCommand_holds h (fun _ hs => ruleClear_holds hs lane) _ port
  | laneControlShut port tag lane => exact runCommand_holds h (fun _ hs => ruleShut_holds hs lane) _ port
  | laneControlRestore port tag lane => exact runCommand_holds h (fun _ hs => ruleRestore_holds hs lane) _ port
  | laneControlHoldOff port tag seconds => exact runCommand_holds h (rule := ruleHoldOff seconds) (fun _ hs => hs) _ port
  | laneStatus port tag => exact runCommand_holds h (rule := ruleLaneStatus) (fun _ hs => hs) _ port
  | setFrameClock port tag value => exact runCommand_holds h (fun _ hs => ruleSetFrameClock_holds hs value) _ port
  | peerStatus port tag clear => exact runCommand_holds h (fun _ hs => rulePeerStatus_holds hs clear) _ port
  | addTrunk port tag code circuit pinned => exact runCommand_holds h (fun _ hs => ruleAddTrunk_holds hs code circuit pinned) _ port
  | addRange port tag route member size base =>
    exact runCommand_holds h (fun _ hs => ruleAddRange_holds hs port tag ⟨route, member, size, base⟩) _ port
  | rangeCheckBucket => exact rangeCheckBucket_holds h
  | rangeCheckComplete => exact rangeCheckComplete_holds h
  | removeTrunk port tag code => exact runCommand_holds h (fun _ hs => ruleRemoveTrunk_holds hs port code) _ port
  | removeRange port tag index => exact runCommand_holds h (fun _ hs => ruleRemoveRange_holds hs index) _ port
  | pin port tag code => exact runCommand_holds h (fun _ hs => rulePin_holds hs port _ code true) _ port
  | unpin port tag code => exact runCommand_holds h (fun _ hs => rulePin_holds hs port _ code false) _ port
  | purge port tag => exact runCommand_holds h (fun _ hs => rulePurge_holds hs port tag) _ port
  | purgeBucket => exact purgeBucket_holds h
  | purgeComplete => exact purgeComplete_holds h
  | lookup port tag operand => exact runCommand_holds h (fun _ hs => ruleLookup_holds hs port operand) _ port
  | queryMiss port tag clear => exact runCommand_holds h (fun _ hs => ruleQueryMiss_holds hs clear) _ port
  | openBatch port tag batch mode limit entries =>
    exact runCommand_holds h (fun _ hs => ruleOpenBatch_holds hs port tag batch mode limit entries) _ port
  | cancelBatch port tag batch => exact runCommand_holds h (fun _ hs => ruleCancelBatch_holds hs batch) _ port
  | batchStatus port tag batch => exact runCommand_holds h (fun _ hs => ruleBatchStatus_holds hs batch) _ port
  | setWatch port tag watch settings => exact runCommand_holds h (fun _ hs => ruleSetWatch_holds hs watch settings) _ port
  | watchStatus port tag clear => exact runCommand_holds h (fun _ hs => ruleWatchStatus_holds hs clear) _ port
  | exchange port tag kind a stateA b stateB =>
    exact runCommand_holds h (fun _ hs => ruleExchange_holds hs kind a stateA b stateB) _ port
  | linkStatus port tag clear => exact runCommand_holds h (fun _ hs => ruleLinkStatus_holds hs clear) _ port
  | reset port tag => exact runCommand_holds h (rule := ruleReset) (fun _ hs => hs) _ port
  | managementFrameReceived port bytes => exact managementFrameReceived_holds h port bytes
  | interByteTimeout port => exact holds_when h _ fun _ => by simp [h]
  | frameTransmitStart port => exact frameTransmitStart_holds h port
  | frameTransmitEnd port => exact frameTransmitEnd_holds h port
  | laneLightReturn i => exact answers_holds (by simp [h])
  | spanSignalReturn n => exact answers_holds (by simp [h])

end

/-- Settles O11: the law of the batches holds on in every row, from a state of which it holds. -/
theorem batchLawKept : Obligations.BatchLawKept := by
  intro s t hs hstep
  have hlaw : ∀ rest, (s.setPending rest).memberships.Lawful := fun rest => by
    simpa using batchLaw_iff.mp hs.batches
  unfold step at hstep
  split at hstep
  next i rest _ => exact batchLaw_iff.mpr (answers_of_eq (exec_holds (hlaw rest) i) hstep)
  next =>
    cases hstep
    exact hs.batches

end Sys2Proof.Machine
end

section
/-! SUPPORT. CANCEL BATCH and what the Batch Unit makes of an outcome of a member (R160, R162, R163). -/

namespace Sys2Proof.Machine

variable {s t : State} {c : CircuitNo} {id : Fin 8} {b : Batch}

/-! ### A closing seen past the ports -/

/-- R162: a closing rests on no port. -/
theorem BatchClosed.withPortsOf {s' : State} {cause : BatchCause} (h : BatchClosed id b cause s t) (hs : SameBut [.ports] s' s) :
    BatchClosed id b cause s' (t.withPortsOf s') where
  record := ⟨h.record.1, fun i hi => (h.record.2 i hi).trans (hs.sameBatch (by decide) i)⟩
  members c hc := by rw [← hs.sameCircuit (by decide)]; exact h.members c hc
  others c hc := by rw [← hs.sameCircuit (by decide)]; exact h.others c hc
  report := (h.report.of_frame (withPortsOf_frame t s') (by decide)).after_frame hs (by decide) (by decide)
  frame := ((hs.mono (by decide)).trans (h.frame.mono (by decide)) : SameBut [.ports, .circuits, .batches, .reports] s' t).withPortsOf

theorem cancelBatch_spec {port : Port} {tag : Byte} {n : Nat} {q : QueuedCommand} {rest : List QueuedCommand}
    (h : Heads s port (.cancelBatch port tag n) q rest) :
    (8 ≤ n → Refuses s (.cancelBatch port tag n) port q rest .range .empty) ∧
    ∀ id : Fin 8, id.val = n →
      (s.batch id = none → Refuses s (.cancelBatch port tag n) port q rest .state .empty) ∧
      ∀ b, s.batch id = some b →
        Completes s (.cancelBatch port tag n) port q rest .ok (.batchCancelled b.cancelled.countsOf) [.circuits, .batches, .reports] fun t =>
          ∃ k, BatchClosed id b.cancelled .cancelled s k ∧ SameBut [.ports] k t := by
  have hauth := h.authority (by nofun)
  have htake := takeHead_frame s port q rest
  refine ⟨fun hn => refuses_of_rule rfl h hauth (by rw [ruleCancelBatch, batchOf_none hn]), fun id hid => ?_⟩
  subst hid
  have hbatch := htake.sameBatch (by decide) id
  refine ⟨fun hb => refuses_of_rule rfl h hauth (by rw [ruleCancelBatch, batchOf_val]; simp only [hbatch, hb]), fun b hb => ?_⟩
  have hclosed := cancel_closed (s.takeHead port q rest) id b
  refine completes_of_rule (rule := ruleCancelBatch id.val) rfl h hauth ?_ hclosed.frame (by decide) fun u hu =>
    ⟨_, hclosed.withPortsOf htake, (withPortsOf_frame _ s).symm.trans hu⟩
  rw [ruleCancelBatch, batchOf_val]
  simp only [hbatch, hb]
  rfl

/-! ### The outcome of a member (R160) -/

/-- R157: the record with one member changed. -/
theorem Batch.setMember_eq (b : Batch) (i : Nat) (x : Member) : b.setMember i x = { b with
    members := b.members.set i x
    remaining := ((b.members.set i x).filter fun m => m.status = .pending).length +
      ((b.members.set i x).filter fun m => m.status = .active).length } := by
  simp only [Batch.setMember, countOf_open]
  rfl

/-- R157: a lawful batch names a circuit once, so that a search for it finds its member. -/
theorem Batch.lawful.find_member (hb : b.lawful) {i : Nat} {m : Member} (hm : b.members[i]? = some m) :
    b.members.findIdx? (fun x => decide (x.circuit = m.circuit)) = some i := by
  obtain ⟨hi, hmi⟩ := List.getElem?_eq_some_iff.mp hm
  refine List.findIdx?_eq_some_iff_getElem.mpr ⟨hi, by simp [hmi], fun j hj => ?_⟩
  have hinj := hb.distinct.getElem_inj_iff (i := j) (j := i) (hi := by simp; omega) (hj := by simpa using hi)
  simp only [List.getElem_map, hmi] at hinj
  simpa [hinj] using Nat.ne_of_lt hj

/-- R160: the Batch Unit takes an outcome of the circuit of a member. -/
theorem batchOutcome_member (hs : BatchLaw s) (hid : (s.circuit c).batch = some id) (hb : s.batch id = some b) {i : Nat} {m : Member}
    (hm : b.members[i]? = some m) (hmc : m.circuit = c) (o : OutcomeRecord) : s.batchOutcome c o =
      ((memberAfter m o).map fun x => ((s.setBatch id (some (b.setMember i x))).startStep id).state).getD s := by
  subst hmc
  simp only [State.batchOutcome, hid, hb, (hs.records id b hb).find_member hm, hm, Option.bind_some]
  cases memberAfter m o <;> rfl

/-- R160, R159: an outcome that changes its member, and the start step that follows. -/
theorem batchOutcome_stepped (hs : BatchLaw s) (hid : (s.circuit c).batch = some id) (hb : s.batch id = some b) {i : Nat} {m x : Member}
    {o : OutcomeRecord} (hm : b.members[i]? = some m) (hmc : m.circuit = c) (hx : memberAfter m o = some x) :
    BatchStepped id (b.setMember i x) (s.setBatch id (some (b.setMember i x))) (s.batchOutcome c o) := by
  obtain ⟨hxc, -⟩ := memberAfter_some hx
  rw [batchOutcome_member hs hid hb hm hmc, hx, Option.map_some, Option.getD_some]
  exact (startStep_spec (State.setBatch_batch_eq ..) (Batch.lawful_setMember (hs.records id b hb) hm hxc).1).1

/-- Settles O58: CANCEL BATCH by what the record holds, and an outcome by what it makes of its member. -/
theorem batchEnds : Obligations.BatchEnds := by
  refine ⟨fun s port tag n q rest h => ?_, fun s c o id b i m hs hid hb hm hmc => ⟨fun hcode hst => ?_, fun hcode hst => ?_, fun hcase => ?_⟩⟩
  · exact cancelBatch_spec h
  · have hx : memberAfter m o = some { m with status := .done } := by
      rcases hcode with hcode | hcode | hcode <;> rcases hst with hst | hst <;> simp [memberAfter, hcode, hst]
    have hstep := batchOutcome_stepped hs hid hb hm hmc hx
    rwa [Batch.setMember_eq] at hstep
  · have hx : memberAfter m o = some { m with status := .failed, reason := some (.outcome o.reason o.decline) } := by
      simp [memberAfter, hcode, hst]
    have hstep := batchOutcome_stepped hs hid hb hm hmc hx
    rwa [Batch.setMember_eq] at hstep
  · have hx : memberAfter m o = none := by
      unfold memberAfter
      split <;> simp_all
    rw [batchOutcome_member hs hid hb hm hmc, hx, Option.map_none, Option.getD_none]

end Sys2Proof.Machine
end

section
/-! SUPPORT. OPEN BATCH: the entries one by one, the checks in their order, and the opening with its start step (R158, R159). -/

namespace Sys2Proof.Machine

variable {s t : State} {c : CircuitNo} {id : Fin 8} {b : Batch} {port : Port} {q : QueuedCommand} {rest : List QueuedCommand}

/-! ### A start step seen past the ports -/

theorem watchEvents_congr (cls : EventClass) : ∀ (l : List CircuitNo) {s t : State}, Block.watches.same s t → Block.reports.same s t →
    t.fc = s.fc →
    Block.watches.same (l.foldl (fun u c => u.watchEvent c cls none) s) (l.foldl (fun u c => u.watchEvent c cls none) t) ∧
    Block.reports.same (l.foldl (fun u c => u.watchEvent c cls none) s) (l.foldl (fun u c => u.watchEvent c cls none) t)
  | [], _, _, hw, hr, _ => ⟨hw, hr⟩
  | c :: l, s, t, hw, hr, hc => by
    obtain ⟨hw', hr'⟩ := watchEvent_congr c cls none hw hr hc
    refine watchEvents_congr cls l hw' hr' ?_
    rw [(watchEvent_frame t c cls none).sameClock (by decide), (watchEvent_frame s c cls none).sameClock (by decide), hc]

/-- R159: a start step rests on no port. -/
theorem BatchStepped.withPortsOf (h : BatchStepped id b s t) (u : State) : BatchStepped id b (s.withPortsOf u) (t.withPortsOf u) := by
  have hs := (withPortsOf_frame s u).symm
  have ht := withPortsOf_frame t u
  obtain ⟨hwatches, hreports⟩ := watchEvents_congr .migrateStart (b.starts s) (hs .watches (by decide)) (hs .reports (by decide)) rfl
  refine ⟨h.record, h.otherRecords, h.started, h.left, h.counter, ?_, h.timers, ?_, ?_, ?_⟩
  · exact (h.sent.of_frame ht (by decide)).after_frame hs (by decide)
  · exact Block.same_trans (Block.same_trans hwatches h.watched) (ht .watches (by decide))
  · refine Block.same_trans (Block.same_trans ?_ h.reports) (ht .reports (by decide))
    change Block.reports.same (if (b.afterStep s).remaining = 0 then _ else _) _
    split
    · exact handReport_congr _ (hs .reports (by decide)) rfl
    · exact hreports
  · exact SameBut.withPortsOf (s := s.withPortsOf u) ((hs.mono (by decide)).trans (h.frame.mono (by decide)))

/-! ### The entries one by one (R158, check 5) -/

/-- An entry that names a circuit resolves to it. -/
theorem resolveEntry_names {e : Selector} (h : Names s e c) : s.resolveEntry e = some c := by
  cases e with
  | number n =>
    obtain rfl : n = c.val := h
    exact circuitOf_val c
  | code code =>
    obtain ⟨-, -, found, hfound⟩ := h
    simp [State.resolveEntry, hfound]

section
variable {e : Selector} {done : List CircuitNo} (after : List Selector)

theorem examineEntries_passes (h : Names s e c) (hnew : c ∉ done) (hst : (s.circuit c).state = .copper)
    (hb : (s.circuit c).batch = none) : s.examineEntries port done (e :: after) = s.examineEntries port (done ++ [c]) after := by
  have hfind : done.findIdx? (fun d => decide (d = c)) = none :=
    List.findIdx?_eq_none_iff.mpr fun d hd => decide_eq_false fun hdc => hnew (hdc ▸ hd)
  simp [State.examineEntries, resolveEntry_names h, hfind, hst, hb]

theorem examineEntries_duplicate (h : Names s e c) (hd : done.Nodup) {j : Nat} (hj : done[j]? = some c) :
    s.examineEntries port done (e :: after) = .error (answered s .duplicate (.entryDuplicate done.length j)) := by
  obtain ⟨hlt, hc⟩ := List.getElem?_eq_some_iff.mp hj
  have hfind : done.findIdx? (fun d => decide (d = c)) = some j := by
    refine List.findIdx?_eq_some_iff_getElem.mpr ⟨hlt, by simp [hc], fun i hi => ?_⟩
    have hinj := hd.getElem_inj_iff (i := i) (j := j) (hi := by omega) (hj := hlt)
    rw [hc] at hinj
    simpa [hinj] using Nat.ne_of_lt hi
  simp [State.examineEntries, resolveEntry_names h, hfind]

theorem examineEntries_notCopper (h : Names s e c) (hnew : c ∉ done) (hst : (s.circuit c).state ≠ .copper) :
    s.examineEntries port done (e :: after) = .error (answered s .state (.entryState done.length (s.circuit c).state)) := by
  have hfind : done.findIdx? (fun d => decide (d = c)) = none :=
    List.findIdx?_eq_none_iff.mpr fun d hd => decide_eq_false fun hdc => hnew (hdc ▸ hd)
  simp [State.examineEntries, resolveEntry_names h, hfind, hst]

theorem examineEntries_held (h : Names s e c) (hnew : c ∉ done) (hst : (s.circuit c).state = .copper) {held : Fin 8}
    (hb : (s.circuit c).batch = some held) :
    s.examineEntries port done (e :: after) = .error (answered s .conflict (.entryBatch done.length held)) := by
  have hfind : done.findIdx? (fun d => decide (d = c)) = none :=
    List.findIdx?_eq_none_iff.mpr fun d hd => decide_eq_false fun hdc => hnew (hdc ▸ hd)
  simp [State.examineEntries, resolveEntry_names h, hfind, hst, hb]

theorem examineEntries_missed {code : TrunkCode} (h : s.directory.lookup code = none) :
    s.examineEntries port done (.code code :: after) =
      .error (answered (s.recordMiss code (portSource port) 0x80) .notFound (.entryMissed done.length (missFields code))) := by
  simp [State.examineEntries, State.resolveEntry, State.entryMiss, h]

/-- The entries that pass, after earlier ones. -/
theorem examineEntries_append : ∀ {before : List Selector} {new done : List CircuitNo}, List.Forall₂ (Names s) before new →
    (done ++ new).Nodup → (∀ c ∈ new, (s.circuit c).state = .copper ∧ (s.circuit c).batch = none) →
    s.examineEntries port done (before ++ after) = s.examineEntries port (done ++ new) after
  | [], [], done, _, _, _ => by simp
  | e :: before, c :: new, done, h, hd, hf => by
    obtain ⟨he, hrest⟩ := List.forall₂_cons.mp h
    obtain ⟨hst, hb⟩ := hf c (by simp)
    have hassoc : done ++ c :: new = done ++ [c] ++ new := by simp
    have hnew : c ∉ done := fun hc => (List.nodup_append.mp hd).2.2 c hc c (by simp) rfl
    rw [List.cons_append, examineEntries_passes _ he hnew hst hb, hassoc]
    exact examineEntries_append hrest (hassoc ▸ hd) fun d hdn => hf d (by simp [hdn])

end

/-- The entries before one that is looked at have passed. -/
theorem Examined.examineEntries {before after : List Selector} {done : List CircuitNo} (h : Examined s before done) :
    s.examineEntries port [] (before ++ after) = s.examineEntries port done after :=
  examineEntries_append after h.resolved h.distinct h.free

theorem Examined.length_eq {before : List Selector} {done : List CircuitNo} (h : Examined s before done) : before.length = done.length :=
  h.resolved.length_eq

/-- Of the ports the entries know nothing. -/
theorem Examined.takeHead {entries : List Selector} {circuits : List CircuitNo} (h : Examined s entries circuits) (port : Port)
    (q : QueuedCommand) (rest : List QueuedCommand) : Examined (s.takeHead port q rest) entries circuits :=
  ⟨h.resolved.imp fun e c he => by cases e <;> exact he, h.distinct, h.free⟩

/-! ### The checks in their order (R158) -/

/-- The first element of a list that has a property. -/
theorem findIdx?_first {α : Type} {p : α → Bool} {before : List α} {x : α} (after : List α) (hx : p x = true)
    (hb : ∀ y ∈ before, p y = false) : (before ++ x :: after).findIdx? p = some before.length := by
  refine List.findIdx?_eq_some_iff_getElem.mpr ⟨by simp, by simp [hx], fun i hi => ?_⟩
  rw [List.getElem_append_left hi, hb _ (List.getElem_mem hi)]
  simp

theorem batchModeOfCode_eq {m : Nat} (h : ¬ 2 ≤ m) : batchModeOfCode m = some (if m = 0 then .serial else .parallel) := by
  obtain rfl | rfl : m = 0 ∨ m = 1 := by omega
  all_goals rfl

theorem batchModeOfCode_none {m : Nat} (h : 2 ≤ m) : batchModeOfCode m = none := by
  match m, h with
  | _ + 2, _ => rfl

/-- What checks 1 to 4 of R158 let pass, for the batch `id` and its mode. -/
structure OpenChecked (s : State) (id : Fin 8) (mode : Nat) (entries : List Selector) : Prop where
  inside : entries.findIdx? entryOutOfRange = none
  kind : ¬ 2 ≤ mode
  size : ¬ (entries.length = 0 ∨ 64 < entries.length)
  free : s.batch id = none
  idle : (if s.directory.busy then entries.findIdx? entryByCode else none) = none

section
variable {mode limit : Nat} {entries : List Selector} (tag : Byte) (k : OpenChecked s id mode entries)
include k

theorem OpenChecked.refused {h : Handled} (he : s.examineEntries port [] entries = .error h) :
    ruleOpenBatch port tag id.val mode limit entries s = h := by
  simp only [ruleOpenBatch, batchOf_val, k.inside, batchModeOfCode_eq k.kind, if_neg k.size, k.free, k.idle, he]
  rfl

theorem OpenChecked.opens {circuits : List CircuitNo} (he : s.examineEntries port [] entries = .ok circuits) :
    let b := openedBatch port tag (if mode = 0 then .serial else .parallel) limit circuits s.fc
    ruleOpenBatch port tag id.val mode limit entries s = answered (s.openBatch id b).state .ok
      (.batchOpened id (if mode = 0 then .serial else .parallel) b.limit (s.openBatch id b).started (s.openBatch id b).failed) := by
  simp only [ruleOpenBatch, batchOf_val, k.inside, batchModeOfCode_eq k.kind, if_neg k.size, k.free, k.idle, he]
  rfl

end

end Sys2Proof.Machine
end

section
/-! SUPPORT. OPEN BATCH, as its statement says it: the refusals, and the opening seen past the ports (R158, R159). -/

namespace Sys2Proof.Machine

variable {s t : State} {id : Fin 8} {port : Port} {q : QueuedCommand} {rest : List QueuedCommand} {tag : Byte} {mode limit : Nat}
  {entries : List Selector}

theorem effectiveLimit_eq (mode limit : Nat) :
    effectiveLimit (if mode = 0 then .serial else .parallel) limit = if mode = 0 then 1 else max 1 (min limit 16) := by
  split
  · rfl
  · simp only [effectiveLimit]
    split
    · omega
    · split <;> omega

/-- R158, check 1: a selector out of its ranges. -/
theorem entryOutOfRange_number {n : Nat} : entryOutOfRange (.number n) = true ↔ 512 ≤ n := by
  simp [entryOutOfRange, circuitOf]

theorem entryOutOfRange_code {code : TrunkCode} : entryOutOfRange (.code code) = true ↔ 4096 ≤ code.route ∨ 256 ≤ code.member := by
  rw [← codeValid_false]
  simp [entryOutOfRange]

/-- Of the ports the checks know nothing. -/
theorem OpenChecked.takeHead (k : OpenChecked s id mode entries) (port : Port) (q : QueuedCommand) (rest : List QueuedCommand) :
    OpenChecked (s.takeHead port q rest) id mode entries :=
  ⟨k.inside, k.kind, k.size, ((takeHead_frame s port q rest).sameBatch (by decide) id).trans k.free, k.idle⟩

section
variable (k : OpenChecked s id mode entries) (h : Heads s port (.openBatch port tag id.val mode limit entries) q rest)
include k h

/-- A refusal at an entry (R158, check 5). -/
theorem OpenChecked.refuses {result : ResultCode} {body : ReplyBody}
    (he : (s.takeHead port q rest).examineEntries port [] entries = .error (answered (s.takeHead port q rest) result body)) :
    Refuses s (.openBatch port tag id.val mode limit entries) port q rest result body :=
  refuses_of_rule rfl h (h.authority (by nofun)) ((k.takeHead port q rest).refused tag he)

/-- R158, R144: a code that no entry of the directory resolves. -/
theorem OpenChecked.missed {before after : List Selector} {code : TrunkCode} {done : List CircuitNo}
    (he : entries = before ++ .code code :: after) (hex : Examined s before done) (hmiss : s.directory.lookup code = none) :
    Completes s (.openBatch port tag id.val mode limit entries) port q rest .notFound (.entryMissed before.length (missFields code))
      [.misses] fun t => t.directory.missCount = raise s.directory.missCount ∧
        t.directory.lastMiss = some ⟨code, portSource port, q.type, (primaryBucket code).val, (secondaryBucket code).val, s.fc⟩ := by
  have hhead := parseCommand_head h.spells
  simp only [commandFrame, Option.map_some, Option.some.injEq, Prod.mk.injEq] at hhead
  obtain ⟨-, -, htype⟩ := hhead
  refine completes_of_rule (t := (s.takeHead port q rest).recordMiss code (portSource port) 0x80) rfl h (h.authority (by nofun)) ?_
    (recordMiss_frame _ _ _ _) (by decide) fun u hu => ?_
  · refine (k.takeHead port q rest).refused tag ?_
    rw [he, (hex.takeHead port q rest).examineEntries, examineEntries_missed (s := s.takeHead port q rest) after hmiss, hex.length_eq]
  · obtain ⟨hlast, hcount⟩ : Block.misses.same _ u := hu .misses (by decide)
    rw [← htype]
    exact ⟨hcount, hlast⟩

/-- R158: each way in which an entry that names a circuit is refused. -/
theorem OpenChecked.refuses_entry {before after : List Selector} {e : Selector} {done : List CircuitNo} {c : CircuitNo}
    (he : entries = before ++ e :: after) (hex : Examined s before done) (hc : Names s e c) :
    let i : Instr := .openBatch port tag id.val mode limit entries
    (∀ j, done[j]? = some c → Refuses s i port q rest .duplicate (.entryDuplicate before.length j)) ∧
    (c ∉ done → (s.circuit c).state ≠ .copper → Refuses s i port q rest .state (.entryState before.length (s.circuit c).state)) ∧
    ∀ held, c ∉ done → (s.circuit c).state = .copper → (s.circuit c).batch = some held →
      Refuses s i port q rest .conflict (.entryBatch before.length held) := by
  have hex' := hex.takeHead port q rest
  have hc' : Names (s.takeHead port q rest) e c := by cases e <;> exact hc
  rw [hex.length_eq]
  refine ⟨fun j hj => k.refuses h ?_, fun hnew hst => k.refuses h ?_, fun held hnew hst hb => k.refuses h ?_⟩
  · rw [he, hex'.examineEntries, examineEntries_duplicate after hc' hex.distinct hj]
  · rw [he, hex'.examineEntries, examineEntries_notCopper after hc' hnew hst]
    rfl
  · rw [he, hex'.examineEntries, examineEntries_held after hc' hnew hst hb]

/-- R159: the opening of the record, and the start step. -/
theorem OpenChecked.completes {circuits : List CircuitNo} (hex : Examined s entries circuits) :
    let kind : BatchMode := if mode = 0 then .serial else .parallel
    let b := openedBatch port tag kind limit circuits s.fc
    ∃ k m, SameBut [.circuits, .batches] s k ∧ k.batch id = some b ∧ (∀ j, j ≠ id → k.batch j = s.batch j) ∧
      (∀ c ∈ circuits, k.circuit c = evaluated k.spans k.lanes { s.circuit c with batch := some id }) ∧
      (∀ c, c ∉ circuits → k.circuit c = s.circuit c) ∧ BatchStepped id b k m ∧
      Completes s (.openBatch port tag id.val mode limit entries) port q rest .ok
        (.batchOpened id kind b.limit (b.starts k).length ((b.afterStep k).numberOf .failed)) startBlocks (SameBut [.ports] m) := by
  intro kind b
  have hex' := hex.takeHead port q rest
  have hlength := hex.length_eq
  have hsize := k.size
  have hb : b.lawful := openedBatch_lawful port tag kind limit s.fc hex.distinct (by omega) (by omega)
  have hmembers : b.members.map Member.circuit = circuits := by simp [b, openedBatch, Function.comp_def]
  have hfailed : b.numberOf .failed = 0 := by simp [b, openedBatch, Batch.numberOf, List.filter_map, Function.comp_def]
  obtain ⟨u, hu⟩ : ∃ u, u = s.takeHead port q rest := ⟨_, rfl⟩
  have htake : SameBut [.ports] s u := hu ▸ takeHead_frame s port q rest
  have hjoined := joined_frame u id b
  obtain ⟨hstep, hstarted, hcount⟩ := startStep_spec (s := u.joined id b) ((joined_batch u id b id).trans (if_pos rfl)) hb
  refine ⟨(u.joined id b).withPortsOf s, ((u.joined id b).startStep id).state.withPortsOf s, ?_, ?_, fun j hj => ?_, fun c hc => ?_,
    fun c hc => ?_, hstep.withPortsOf s, ?_⟩
  · exact ((htake.mono (by decide)).trans (hjoined.mono (by decide)) : SameBut [.ports, .circuits, .batches] s _).withPortsOf
  · exact (joined_batch u id b id).trans (if_pos rfl)
  · exact ((joined_batch u id b j).trans (if_neg hj)).trans (htake.sameBatch (by decide) j)
  · rw [← htake.sameCircuit (by decide)]
    exact (joined_circuit u id b c).trans (if_pos (hmembers ▸ hc))
  · rw [← htake.sameCircuit (by decide)]
    exact (joined_circuit u id b c).trans (if_neg (hmembers ▸ hc))
  · refine completes_of_rule (t := ((u.joined id b).startStep id).state) rfl h (h.authority (by nofun)) ?_ (hu ▸ openBatch_frame _ id b) (by decide)
      fun w hw => (withPortsOf_frame _ s).symm.trans hw
    have hok : u.examineEntries port [] entries = .ok circuits := by
      rw [← List.append_nil entries, (hu ▸ hex' : Examined u entries circuits).examineEntries]
      rfl
    rw [← hu, (hu ▸ k.takeHead port q rest : OpenChecked u id mode entries).opens tag hok]
    have hfail : (u.openBatch id b).failed = ((b.afterStep (u.joined id b)).numberOf .failed) := by
      rw [← hcount, hfailed]; rfl
    have hfc : u.fc = s.fc := htake.sameClock (by decide)
    rw [hfc, hfail, show (u.openBatch id b).started = _ from hstarted]
    rfl

end

/-- Settles O57: the checks in their order, each entry by what it names, and the opening by `OpenChecked.completes`. -/
theorem openBatch : Obligations.OpenBatch := by
  intro s port tag batch mode limit entries q rest _ i outside byCode h
  have hauth := h.authority (by nofun)
  have hout : ∀ e, outside e ↔ entryOutOfRange e = true := fun e => by
    cases e with
    | number n => exact entryOutOfRange_number.symm
    | code code => exact entryOutOfRange_code.symm
  have hby : ∀ e, byCode e ↔ entryByCode e = true := fun e => by cases e <;> simp [byCode, entryByCode]
  refine ⟨fun hbatch => refuses_of_rule rfl h hauth (by rw [ruleOpenBatch, batchOf_none hbatch]),
    fun before e after hbatch he ho hbefore => refuses_of_rule rfl h hauth ?_, fun hin id hid => ?_⟩
  · obtain ⟨id, rfl⟩ : ∃ id : Fin 8, batch = id.val := ⟨⟨batch, hbatch⟩, rfl⟩
    rw [ruleOpenBatch, batchOf_val, he]
    simp only [findIdx?_first after ((hout e).mp ho) fun x hx => Bool.eq_false_iff.mpr fun hx' => hbefore x hx ((hout x).mpr hx')]
  subst hid
  have hinside : entries.findIdx? entryOutOfRange = none :=
    List.findIdx?_eq_none_iff.mpr fun x hx => Bool.eq_false_iff.mpr fun hx' => hin x hx ((hout x).mpr hx')
  have hopen := (takeHead_frame s port q rest).sameBatch (by decide) id
  refine ite_prop_iff_and.mpr ⟨fun hformat => refuses_of_rule rfl h hauth ?_, fun hformat => ?_⟩
  · simp only [ruleOpenBatch, batchOf_val, hinside]
    by_cases hmode : 2 ≤ mode
    · simp only [batchModeOfCode_none hmode]
    · simp only [batchModeOfCode_eq hmode, if_pos (hformat.resolve_left hmode)]
  obtain ⟨hmode, hsize⟩ := not_or.mp hformat
  refine ite_prop_iff_and.mpr ⟨fun hsome => refuses_of_rule rfl h hauth ?_, fun hnone => ⟨fun before e after hbusy he he' hbefore => ?_,
    fun hidle => ?_⟩⟩
  · simp only [ruleOpenBatch, batchOf_val, hinside, batchModeOfCode_eq hmode, if_neg hsize, hopen, if_pos hsome]
  · refine refuses_of_rule rfl h hauth ?_
    have hfirst : entries.findIdx? entryByCode = some before.length := by
      rw [he]
      exact findIdx?_first after ((hby e).mp he') fun x hx => Bool.eq_false_iff.mpr fun hx' => hbefore x hx ((hby x).mpr hx')
    have hbusy' : (s.takeHead port q rest).directory.busy = true := hbusy
    simp only [ruleOpenBatch, batchOf_val, hinside, batchModeOfCode_eq hmode, if_neg hsize, hopen, if_neg hnone, hbusy', if_true, hfirst]
  · have k : OpenChecked s id mode entries := ⟨hinside, hmode, hsize, by simpa using hnone, by
      rcases hidle with hidle | hnumbers
      · rw [if_neg (Bool.eq_false_iff.mp hidle)]
      · rw [List.findIdx?_eq_none_iff.mpr fun x hx => Bool.eq_false_iff.mpr fun hx' => hnumbers x hx ((hby x).mpr hx'), ite_self]⟩
    refine ⟨fun before e after done he hex => ⟨fun code hcode hmiss => ?_, fun c hc => k.refuses_entry h he hex hc⟩,
      fun circuits hex => ?_⟩
    · subst hcode
      have hmissed := k.missed h he hex hmiss
      cases port <;> exact hmissed
    · have hcompletes := k.completes h hex
      simp only [openedBatch, effectiveLimit_eq] at hcompletes
      exact hcompletes

end Sys2Proof.Machine
end

section
/-! SUPPORT. The watches after a reset (R165), and SET WATCH (R169). -/

namespace Sys2Proof.Machine

variable {s t : State}

/-! ### Reset (R165) -/

theorem IsReset.watches (h : IsReset t) : t.watches = ⟨.reset, .reset, false⟩ := by
  obtain ⟨_, _, _, _, _, _, _, _, rfl⟩ := h; rfl

/-- R166: a watch that is off matches no event. -/
theorem Watch.eventMatch_of_disabled {w : Watch} (hw : w.enable = false) (c : CircuitNo) (cls : EventClass) :
    w.eventMatch c cls = false := by
  simp [Watch.eventMatch, hw]

/-- Settles O4, from the reset values of the watches and of the circuit records. -/
theorem resetWatches : Obligations.ResetWatches := by
  intro s t ht
  have h := isReset_of_afterReset ht
  have hoff : ∀ c cls, Watch.reset.eventMatch c cls = false := Watch.eventMatch_of_disabled rfl
  rw [h.watches]
  refine ⟨fun w hw => ?_, rfl, fun c cls => ?_, fun c => ?_⟩
  · simp only [List.mem_cons, List.not_mem_nil, or_false, or_self] at hw
    exact hw
  · simp [WatchUnit.hits, hoff]
  · rw [h.circuit]
    rfl

/-! ### SET WATCH (R169) -/

theorem noWatchSettings_iff {p : WatchSettings} : noWatchSettings p = true ↔ p = ⟨none, none, none, none, none, none⟩ := by
  cases p
  simp [noWatchSettings, and_assoc]

/-- R188: EQUAL, BELOW and AT-OR-ABOVE are the compares below 3. -/
theorem compareOfCode_eq (v : Nat) :
    compareOfCode v = if 3 ≤ v then none else some (if v = 0 then .equal else if v = 1 then .below else .atOrAbove) := by
  match v with
  | 0 | 1 | 2 => rfl
  | v + 3 => exact (if_pos (by omega)).symm

/-- R188: REPORT and REPORT-AND-HOLD are the actions below 2. -/
theorem actionOfCode_eq (v : Nat) :
    actionOfCode v = if 2 ≤ v then none else some (if v = 0 then .report else .reportAndHold) := by
  match v with
  | 0 | 1 => rfl
  | v + 2 => exact (if_pos (by omega)).symm

/-- R188: INDEPENDENT and JOINT are the combine modes below 2. -/
theorem combineOfCode_eq (v : Nat) : combineOfCode v = if 2 ≤ v then none else some (decide (v = 1)) := by
  match v with
  | 0 | 1 => rfl
  | v + 2 => exact (if_pos (by omega)).symm

section
variable {α : Type} {read : Nat → Option α} {limit : Nat} {value : Nat → α}

/-- An enumeration byte is bad when it stands at or above the number of the values. -/
theorem badCode_eq (hread : ∀ v, read v = if limit ≤ v then none else some (value v)) (x : Option Nat) :
    badCode read x = x.any fun v => decide (limit ≤ v) := by
  cases x with
  | none => rfl
  | some v =>
    simp only [badCode, hread, Option.any_some]
    split <;> simp_all

/-- An enumeration byte that is not bad names its value. -/
theorem bind_read_eq (hread : ∀ v, read v = if limit ≤ v then none else some (value v)) {x : Option Nat}
    (hx : ¬ (x.any fun v => decide (limit ≤ v)) = true) : x.bind read = x.map value := by
  cases x with
  | none => rfl
  | some v =>
    have hv : ¬ limit ≤ v := by simpa using hx
    simp [hread, hv]

end

/-- R169, check 2, in the words of the rule. -/
theorem badWatch_iff (n : Nat) (p : WatchSettings) :
    badWatch n p = true ↔ p = ⟨none, none, none, none, none, none⟩ ∨ (p.compare.any fun v => decide (3 ≤ v)) = true ∨
      (p.action.any fun v => decide (2 ≤ v)) = true ∨ (p.combine.any fun v => decide (2 ≤ v)) = true ∨
      (n = 1 ∧ p.combine.isSome) := by
  simp only [badWatch, badCode_eq compareOfCode_eq, badCode_eq actionOfCode_eq, badCode_eq combineOfCode_eq, Bool.or_eq_true,
    noWatchSettings_iff, Bool.and_eq_true, beq_iff_eq, or_assoc]

/-- R169, check 1, in the words of the rule. -/
theorem watchOutOfRange_iff (n : Nat) (x : Option Nat) :
    2 ≤ n ∨ 512 ≤ x.getD 0 ↔ 2 ≤ n ∨ (x.any fun v => decide (512 ≤ v)) = true := by
  cases x <;> simp

/-- Settles O59: the two checks of the rule in its own words, and the unit that it writes. -/
theorem setWatch : Obligations.SetWatch := by
  intro s port tag n p q rest h
  have hauth := h.authority (by nofun)
  refine ite_prop_iff_and.mpr ⟨fun hrange => refuses_of_rule rfl h hauth (if_pos ((watchOutOfRange_iff n _).mpr hrange)),
    fun hrange => ?_⟩
  have hinside := mt (watchOutOfRange_iff n p.value).mp hrange
  refine ite_prop_iff_and.mpr ⟨fun hbad => refuses_of_rule rfl h hauth ?_, fun hgood => ?_⟩
  · rw [ruleSetWatch, if_neg hinside, if_pos ((badWatch_iff n p).mpr hbad)]
  have hwrites : ruleSetWatch n p (s.takeHead port q rest) = _ :=
    (if_neg hinside).trans (if_neg (mt (badWatch_iff n p).mp hgood))
  obtain ⟨-, hcompare, haction, hcombine, -⟩ : _ ∧ _ ∧ _ ∧ _ ∧ _ := by simpa only [not_or] using hgood
  have hcompletes := completes_of_rule rfl h hauth hwrites (setWatches_frame _ _) (by decide) fun u hu =>
    hu.sameWatches (by decide)
  simp only [(takeHead_frame s port q rest).sameWatches (by decide), WatchUnit.apply, WatchUnit.settingsReply, Watch.apply,
    bind_read_eq compareOfCode_eq hcompare, bind_read_eq actionOfCode_eq haction, bind_read_eq combineOfCode_eq hcombine]
    at hcompletes
  obtain ⟨u, hexec, hanswer, hframe, hwatches⟩ := hcompletes
  exact ⟨u, hexec, hanswer, hframe, hwatches, fun c cls => congrArg (WatchUnit.hits · c cls) hwatches⟩

end Sys2Proof.Machine
end

section
/-! SUPPORT. What an event does to the watches (R166 to R168), what the queues take (R111, R181), and the handings of an
outcome (R19). -/

namespace Sys2Proof.Machine

variable {s t : State}

/-! ### An event at the watches (R166, R167) -/

section
variable {c : CircuitNo} {cls : EventClass} {o : Option OutcomeCode}

theorem watchEvent_of_missed (h1 : ¬ (s.watches.hits c cls).1 = true) (h2 : ¬ (s.watches.hits c cls).2 = true) :
    s.watchEvent c cls o = s := by
  simp only [State.watchEvent, h1, h2, Bool.or_self, Bool.false_eq_true, if_false]

/-- The count that a report carries of a watch is that of its hit. -/
theorem hitCount_eq (hit : Bool) (w v : Watch) :
    (if hit then some (if hit then w else v).hits else none) = if hit then some w.hits else none := by
  cases hit <;> rfl

/-- R167: the one report of an event carries the count of each watch that it hits. -/
theorem watchEvent_hit_reported (h : (s.watches.hits c cls).1 = true ∨ (s.watches.hits c cls).2 = true) :
    Reported [.watch (if (s.watches.hits c cls).1 then some (s.watches.first.hitBy s.fc c cls).hits else none)
      (if (s.watches.hits c cls).2 then some (s.watches.second.hitBy s.fc c cls).hits else none) c cls o]
      s (s.watchEvent c cls o) := by
  rw [← Bool.or_eq_true] at h
  simp only [State.watchEvent, h, if_true, hitCount_eq]
  exact Reported.trans ((setWatches_frame s _).reported (by decide)) (handReport_reported _ _) rfl

end

/-! ### The queues (R111, R181) -/

/-- R181: the report queue takes a report, or loses it when 32 are queued. -/
theorem handReport_spec (s : State) (body : ReportBody) :
    if s.links.reports.length < 32 then
      (s.handReport body).links.reports = s.links.reports ++ [⟨s.fc, s.links.lostFlag, body⟩] ∧
      (s.handReport body).links.lostFlag = false ∧ (s.handReport body).links.reportsLost = s.links.reportsLost
    else (s.handReport body).links.reports = s.links.reports ∧ (s.handReport body).links.lostFlag = true ∧
      (s.handReport body).links.reportsLost =
        (if s.links.reportsLost < 65535 then s.links.reportsLost + 1 else s.links.reportsLost) := by
  refine ite_prop_iff_and.mpr ⟨fun hroom => ?_, fun hfull => ?_⟩
  · have hdepth : s.links.reports.length < Config.reportDepth := hroom
    rw [State.handReport, if_pos hdepth]
    exact ⟨rfl, rfl, rfl⟩
  · have hdepth : ¬ s.links.reports.length < Config.reportDepth := hfull
    rw [State.handReport, if_neg hdepth]
    exact ⟨rfl, rfl, rfl⟩

/-- R111: the overhead transmit queue takes a message, or loses it when 128 are queued. -/
theorem queueMessage_spec (s : State) (m : PeerMessage) :
    if s.lanes.queue.length < 128 then
      (s.queueMessage m).lanes.queue = s.lanes.queue ++ [m] ∧ (s.queueMessage m).lanes.lost = s.lanes.lost
    else (s.queueMessage m).lanes.queue = s.lanes.queue ∧
      (s.queueMessage m).lanes.lost = (if s.lanes.lost < 65535 then s.lanes.lost + 1 else s.lanes.lost) := by
  refine ite_prop_iff_and.mpr ⟨fun hroom => ?_, fun hfull => ?_⟩
  · have hdepth : s.lanes.queue.length < Config.overheadDepth := hroom
    rw [State.queueMessage, if_pos hdepth]
    exact ⟨rfl, rfl⟩
  · have hdepth : ¬ s.lanes.queue.length < Config.overheadDepth := hfull
    rw [State.queueMessage, if_neg hdepth]
    exact ⟨rfl, rfl⟩

/-! ### The record and the handings of an outcome (R19) -/

/-- R19: the record of a written outcome, and its changed flag. -/
theorem writeOutcome_record (h : BatchLaw s) (c : CircuitNo) (o : OutcomeRecord) :
    ((s.writeOutcome c o).circuit c).outcome = some o ∧ ((s.writeOutcome c o).circuit c).changed = true := by
  have hput : BatchLaw (s.putCircuit c { s.circuit c with outcome := some o, changed := true }) :=
    h.of_frame (putCircuit_frame s c _) (by decide) (putCircuit_batch rfl)
  obtain ⟨l, hl, -⟩ := handOutcome_handed hput c o
  rw [State.writeOutcome]
  rcases hl.record with hrecord | ⟨-, hrecord⟩
  all_goals
    rw [hrecord]
    simp

/-- R19: the Batch Unit, the Watch Unit and the report queue, each as it takes an outcome. -/
def outcomeHandings (c : CircuitNo) (o : OutcomeRecord) : List (State → State) :=
  [fun u => u.batchOutcome c o, fun u => u.watchOutcome c o.code, fun u => u.reportOutcome c o]

/-- R19, assumption 11: an outcome comes to each of the three once, in one of their orders. -/
theorem handOutcome_order (s : State) (c : CircuitNo) (o : OutcomeRecord) :
    ∃ k order, (k = s ∨ k = s.drawn) ∧ List.Perm order (outcomeHandings c o) ∧
      s.handOutcome c o = order.foldl (fun u give => give u) k := by
  unfold State.handOutcome outcomeHandings
  set batch : State → State := fun u => u.batchOutcome c o
  set watch : State → State := fun u => u.watchOutcome c o.code
  set report : State → State := fun u => u.reportOutcome c o
  split
  · exact ⟨s, [batch, watch, report], .inl rfl, .refl _, rfl⟩
  · simp only
    split
    · exact ⟨_, [batch, watch, report], .inr rfl, .refl _, rfl⟩
    · exact ⟨_, [batch, report, watch], .inr rfl, .cons _ (.swap _ _ _), rfl⟩
    · exact ⟨_, [watch, batch, report], .inr rfl, .swap _ _ _, rfl⟩
    · exact ⟨_, [watch, report, batch], .inr rfl, .trans (.cons _ (.swap _ _ _)) (.swap _ _ _), rfl⟩
    · exact ⟨_, [report, batch, watch], .inr rfl, .trans (.swap _ _ _) (.cons _ (.swap _ _ _)), rfl⟩
    · exact ⟨_, [report, watch, batch], .inr rfl, List.reverse_perm [batch, watch, report], rfl⟩

/-- Settles O60: the hits by the two matches and the combine mode, the queues by their depths, and an outcome by its record and
the order of its handings. -/
theorem eventsAndQueues : Obligations.EventsAndQueues := by
  refine ⟨fun s c cls o => ?_, fun s body => ⟨handReport_frame s body, handReport_spec s body⟩,
    fun s m => ⟨queueMessage_frame s m, queueMessage_spec s m⟩, fun s c o h => writeOutcome_record h c o, fun s c o => ?_⟩
  · intro fits hit after
    have hfits : ∀ w, w.eventMatch c cls = true ↔ fits w := fun w => by
      simp only [Watch.eventMatch, Watch.passes, Bool.and_eq_true, and_assoc, fits]
      cases w.compare <;> simp
    have hhits : ((s.watches.hits c cls).1 = true ↔ hit s.watches.first) ∧
        ((s.watches.hits c cls).2 = true ↔ hit s.watches.second) := by
      cases hjoint : s.watches.joint <;> simp [WatchUnit.hits, hit, hjoint, hfits]
    obtain ⟨hfirst, hsecond⟩ := hhits
    rw [← hfirst, ← hsecond]
    refine ⟨watchEvent_of_missed, fun h => ⟨watchEvent_frame s c cls o, _, _, ?_, ?_, ?_, ?_, ?_, watchEvent_hit_reported h⟩,
      fun hcls => ?_⟩
    iterate 2
      · intro hw
        rw [watchEvent_watches]
        exact ⟨if_pos hw, if_pos hw⟩
      · intro hw
        rw [watchEvent_watches]
        exact ⟨if_neg hw, if_neg hw⟩
    · rw [watchEvent_watches]
      rfl
    · subst hcls
      simp only [State.watchHolds, Bool.or_eq_true, Bool.and_eq_true, beq_iff_eq]
  · intro cls toBatch toWatch toReports
    obtain ⟨k, order, hk, hperm, hfold⟩ :=
      handOutcome_order (s.putCircuit c { s.circuit c with outcome := some o, changed := true }) c o
    have hwatch : toWatch = fun u => u.watchOutcome c o.code := by
      funext u
      simp only [toWatch, cls, State.watchOutcome]
      cases o.code <;> rfl
    have hbecomes := putCircuit_becomes s c { s.circuit c with outcome := some o, changed := true }
    have hframe := putCircuit_frame s c { s.circuit c with outcome := some o, changed := true }
    refine ⟨k, order, ?_, ?_, hwatch ▸ hperm, hfold⟩
    · rcases hk with rfl | rfl
      · exact hbecomes
      · exact hbecomes.of_frame (drawn_frame _) (by decide) (by decide) (by decide)
    · rcases hk with rfl | rfl
      · exact hframe.mono (by decide)
      · exact (hframe.mono (by decide)).trans ((drawn_frame _).mono (by decide))

end Sys2Proof.Machine
end

section
/-! SUPPORT. EXCHANGE: its checks, and what the swap of a side leaves (R171, R172). -/

namespace Sys2Proof.Machine

variable {s t u : State} {a b : CircuitNo}

/-! ### Two records written in one step (R172) -/

/-- The records of `a` and `b` are these, by the conditioning of the state, and no other record changes. -/
def Rewritten (a b : CircuitNo) (x y : Circuit) (s t : State) : Prop :=
  t.circuit a = evaluated t.spans t.lanes x ∧ t.circuit b = evaluated t.spans t.lanes y ∧ CircuitsBut [a, b] s t

theorem putTwo_frame (s : State) (a b : CircuitNo) (x y : Circuit) : SameBut [.circuits] s ((s.putCircuit a x).putCircuit b y) :=
  (putCircuit_frame s a x).trans (putCircuit_frame _ b y)

theorem putTwo_rewritten (hab : a ≠ b) (x y : Circuit) : Rewritten a b x y s ((s.putCircuit a x).putCircuit b y) := by
  refine ⟨?_, ?_, fun d hd => ?_⟩
  · rw [putTwo_circuit hab, if_neg hab, if_pos rfl, (putTwo_frame s a b x y).evaluated_eq (by decide) (by decide)]
  · rw [putTwo_circuit hab, if_pos rfl, (putTwo_frame s a b x y).evaluated_eq (by decide) (by decide)]
  · obtain ⟨hda, hdb⟩ : d ≠ a ∧ d ≠ b := by simpa using hd
    rw [putTwo_circuit hab, if_neg hdb, if_neg hda]

section
variable {x y : Circuit}

theorem Rewritten.of_frame {l : List Block} (h : Rewritten a b x y s t) (hf : SameBut l t u) (hc : Block.circuits ∉ l)
    (hs : Block.spans ∉ l) (hl : Block.laneRecords ∉ l) : Rewritten a b x y s u := by
  obtain ⟨ha, hb, hothers⟩ := h
  have hcirc := hf.sameCircuit hc
  exact ⟨by rw [hcirc, ha, hf.evaluated_eq hs hl], by rw [hcirc, hb, hf.evaluated_eq hs hl],
    fun d hd => (hcirc d).trans (hothers d hd)⟩

theorem Rewritten.after_frame {l : List Block} (h : Rewritten a b x y t u) (hf : SameBut l s t) (hc : Block.circuits ∉ l) :
    Rewritten a b x y s u := by
  obtain ⟨ha, hb, hothers⟩ := h
  exact ⟨ha, hb, fun d hd => (hothers d hd).trans (hf.sameCircuit hc d)⟩

theorem Rewritten.attachments (h : Rewritten a b x y s t) :
    t.attachments a = ⟨x.copper, x.fibre, x.state⟩ ∧ t.attachments b = ⟨y.copper, y.fibre, y.state⟩ := by
  obtain ⟨ha, hb, -⟩ := h
  simp only [State.attachments, ha, hb]
  exact ⟨rfl, rfl⟩

end

/-! ### Occupancy (R9, R172) -/

/-- The entry of a position that one of two circuits holds may be written in either order. -/
theorem swappedOwner_comm {P : Type} [DecidableEq P] {held : CircuitNo → Option P} {p : P} {owner : Option CircuitNo}
    (hlaw : ∀ c, owner = some c ↔ held c = some p) (hab : a ≠ b) :
    (if held b = some p then some a else if held a = some p then some b else owner) =
      if held a = some p then some b else if held b = some p then some a else owner := by
  by_cases ha : held a = some p
  · have hb : held b ≠ some p := fun hb => hab (Option.some.inj (((hlaw a).mpr ha).symm.trans ((hlaw b).mpr hb)))
    simp only [ha, hb, if_true, if_false]
  · simp only [ha, if_false]

/-! ### The swap of the copper side (R172) -/

theorem exchangeCopper_frame (s : State) (a b : CircuitNo) : SameBut [.circuits, .occupancy] s (s.exchangeCopper a b) :=
  ((markCopper_keepsFrame s _ _ _ _).mono (by decide)).trans ((putTwo_frame _ a b _ _).mono (by decide))

theorem exchangeCopper_rewritten (hab : a ≠ b) :
    Rewritten a b ((s.circuit a).withCopper (s.circuit b).copper) ((s.circuit b).withCopper (s.circuit a).copper) s
      (s.exchangeCopper a b) :=
  (putTwo_rewritten hab _ _).after_frame (markCopper_keepsFrame s _ _ _ _) (by decide)

theorem exchangeCopper_timeslotOwner (hs : OccupancyLaw s) (hab : a ≠ b) (p : CopperPosition) :
    (s.exchangeCopper a b).timeslotOwner p = if (s.circuit a).copper = some p then some b
      else if (s.circuit b).copper = some p then some a else s.timeslotOwner p := by
  rw [← swappedOwner_comm (hs.timeslots p) hab, ← markCopper_owner, ← markCopper_owner]
  exact (putTwo_frame _ a b _ _).sameTimeslotOwner (by decide) p

theorem markCopper_slotOwners (s : State) (p : Option CopperPosition) (c : Option CircuitNo) :
    (s.markCopper p c).slotOwners = s.slotOwners := by
  cases p <;> rfl

theorem exchangeCopper_slotOwners (s : State) (a b : CircuitNo) : (s.exchangeCopper a b).slotOwners = s.slotOwners := by
  refine ((putTwo_frame _ a b _ _).sameOwner (by decide)).2.trans ?_
  rw [markCopper_slotOwners, markCopper_slotOwners]

/-! ### The swap of the fibre side (R172) -/

theorem fillAttachedRing_frame (s : State) (c : CircuitNo) : SameBut [.rings] s (s.fillAttachedRing c) := by
  unfold State.fillAttachedRing
  split
  · exact fillRing_frame s c
  · exact .refl _ s

theorem fillAttachedRing_ring (s : State) (c d : CircuitNo) :
    (s.fillAttachedRing c).ring d = if (s.circuit c).fibre.isSome ∧ c = d then .fill s.node.idleCode else s.ring d := by
  unfold State.fillAttachedRing
  by_cases hfibre : (s.circuit c).fibre.isSome
  · simp only [hfibre, if_true, true_and, fillRing_ring]
  · simp only [hfibre, false_and, if_false, Bool.false_eq_true]

/-- R172, FIBRE: the records and the occupancy entries, before the rings. -/
def State.swapFibre (s : State) (a b : CircuitNo) : State :=
  (((s.markFibre (s.circuit a).fibre (some b)).markFibre (s.circuit b).fibre (some a)).putCircuit a
    { s.circuit a with fibre := (s.circuit b).fibre }).putCircuit b { s.circuit b with fibre := (s.circuit a).fibre }

theorem exchangeFibre_eq (s : State) (a b : CircuitNo) :
    s.exchangeFibre a b = ((s.swapFibre a b).fillAttachedRing a).fillAttachedRing b := rfl

theorem fillTwoRings_frame (s : State) (a b : CircuitNo) : SameBut [.rings] s ((s.fillAttachedRing a).fillAttachedRing b) :=
  (fillAttachedRing_frame s a).trans (fillAttachedRing_frame _ b)

theorem markTwoFibre_frame (s : State) (m n : Option SlotNo) (c d : Option CircuitNo) :
    SameBut [.occupancy] s ((s.markFibre m c).markFibre n d) := (markFibre_frame s m c).trans (markFibre_frame _ n d)

theorem swapFibre_frame (s : State) (a b : CircuitNo) : SameBut [.circuits, .occupancy] s (s.swapFibre a b) :=
  ((markTwoFibre_frame s _ _ _ _).mono (by decide)).trans ((putTwo_frame _ a b _ _).mono (by decide))

theorem exchangeFibre_frame (s : State) (a b : CircuitNo) :
    SameBut [.circuits, .occupancy, .rings] s (s.exchangeFibre a b) :=
  ((swapFibre_frame s a b).mono (by decide)).trans ((fillTwoRings_frame _ a b).mono (by decide))

theorem swapFibre_rewritten (hab : a ≠ b) :
    Rewritten a b { s.circuit a with fibre := (s.circuit b).fibre } { s.circuit b with fibre := (s.circuit a).fibre } s
      (s.swapFibre a b) :=
  (putTwo_rewritten hab _ _).after_frame (markTwoFibre_frame s _ _ _ _) (by decide)

theorem exchangeFibre_rewritten (hab : a ≠ b) :
    Rewritten a b { s.circuit a with fibre := (s.circuit b).fibre } { s.circuit b with fibre := (s.circuit a).fibre } s
      (s.exchangeFibre a b) :=
  (swapFibre_rewritten hab).of_frame (fillTwoRings_frame _ a b) (by decide) (by decide) (by decide)

theorem exchangeFibre_slotOwner (hs : OccupancyLaw s) (hab : a ≠ b) (n : SlotNo) :
    (s.exchangeFibre a b).slotOwner n = if (s.circuit a).fibre = some n then some b
      else if (s.circuit b).fibre = some n then some a else s.slotOwner n := by
  rw [← swappedOwner_comm (hs.slots n) hab, ← markFibre_owner, ← markFibre_owner]
  exact ((fillTwoRings_frame _ a b).sameSlotOwner (by decide) n).trans ((putTwo_frame _ a b _ _).sameSlotOwner (by decide) n)

theorem markFibre_timeslots (s : State) (n : Option SlotNo) (c : Option CircuitNo) :
    (s.markFibre n c).timeslots = s.timeslots := by
  cases n <;> rfl

theorem exchangeFibre_timeslots (s : State) (a b : CircuitNo) : (s.exchangeFibre a b).timeslots = s.timeslots := by
  refine ((fillTwoRings_frame _ a b).sameOwner (by decide)).1.trans (((putTwo_frame _ a b _ _).sameOwner (by decide)).1.trans ?_)
  rw [markFibre_timeslots, markFibre_timeslots]

/-- R55, R172: the ring of each circuit that now holds a fibre attachment is filled. -/
theorem exchangeFibre_ring (hab : a ≠ b) (d : CircuitNo) :
    (s.exchangeFibre a b).ring d = if (s.circuit a).fibre.isSome ∧ b = d then .fill s.node.idleCode
      else if (s.circuit b).fibre.isSome ∧ a = d then .fill s.node.idleCode else s.ring d := by
  obtain ⟨ha, hb, -⟩ := swapFibre_rewritten (s := s) hab
  have hswap := swapFibre_frame s a b
  have hfill := fillAttachedRing_frame (s.swapFibre a b) a
  rw [exchangeFibre_eq, fillAttachedRing_ring, fillAttachedRing_ring, hfill.sameCircuit (by decide), hfill.sameNode (by decide),
    ha, hb, hswap.sameNode (by decide), hswap.sameRing (by decide)]
  rfl

/-! ### The checks (R171) -/

theorem exchangeKind_none {kind : Nat} (h : 2 ≤ kind) : exchangeKind kind = none := by
  match kind, h with
  | k + 2, _ => rfl

/-- Section 10.4: a kind below 2 is FIBRE or COPPER. -/
theorem exists_exchangeKind {kind : Nat} (h : kind < 2) : ∃ copper, exchangeKind kind = some copper ∧ (copper = true ↔ kind = 1) := by
  match kind, h with
  | 0, _ => exact ⟨false, rfl, by decide⟩
  | 1, _ => exact ⟨true, rfl, by decide⟩

theorem stateOfCode_none {n : Nat} (h : 7 ≤ n) : stateOfCode n = none := by
  match n, h with
  | k + 7, _ => rfl

theorem stateOfCode_stateCode (p : PathState) : stateOfCode (stateCode p) = some p := by
  cases p <;> rfl

theorem exists_stateCode {n : Nat} (h : n < 7) : ∃ p, stateCode p = n := by
  match n, h with
  | 0, _ => exact ⟨.vacant, rfl⟩
  | 1, _ => exact ⟨.copper, rfl⟩
  | 2, _ => exact ⟨.proposing, rfl⟩
  | 3, _ => exact ⟨.awaiting, rfl⟩
  | 4, _ => exact ⟨.measuring, rfl⟩
  | 5, _ => exact ⟨.aligned, rfl⟩
  | 6, _ => exact ⟨.fibre, rfl⟩

theorem stateCode_ne_iff {p r : PathState} : stateCode p ≠ stateCode r ↔ p ≠ r := by
  refine not_congr ⟨fun h => ?_, congrArg stateCode⟩
  rw [← Option.some_inj, ← stateOfCode_stateCode, h, stateOfCode_stateCode]

theorem settled_eq_false_iff {r : Circuit} : r.settled = false ↔ ¬ (r.state = .vacant ∨ r.state = .copper) := by
  rw [← Bool.not_eq_true, Circuit.settled, Bool.or_eq_true, beq_iff_eq, beq_iff_eq]

theorem ruleExchange_range {kind na ea nb eb : Nat} (h : 512 ≤ na ∨ 512 ≤ nb) :
    ruleExchange kind na ea nb eb s = answered s .range .empty := by
  unfold ruleExchange
  rcases h with h | h
  · rw [circuitOf_none h]
  · rw [circuitOf_none h]
    cases circuitOf na <;> rfl

theorem ruleExchange_format {kind ea eb : Nat} (h : 2 ≤ kind ∨ 7 ≤ ea ∨ 7 ≤ eb ∨ a = b) :
    ruleExchange kind a.val ea b.val eb s = answered s .format .empty := by
  rw [ruleExchange, circuitOf_val, circuitOf_val]
  simp only
  split
  next copper sa sb hkind ha hb =>
    have hab : a = b := by
      rcases h with h | h | h | h
      · rw [exchangeKind_none h] at hkind; cases hkind
      · rw [stateOfCode_none h] at ha; cases ha
      · rw [stateOfCode_none h] at hb; cases hb
      · exact h
    rw [if_pos hab]
  next => rfl

/-- R171: what is left to check when the operands are in their ranges and name two circuits. -/
theorem ruleExchange_checked {kind : Nat} {copper : Bool} {sa sb : PathState} (hkind : exchangeKind kind = some copper) (hab : a ≠ b) :
    ruleExchange kind a.val (stateCode sa) b.val (stateCode sb) s =
      if stateCode (s.circuit a).state ≠ stateCode sa ∨ stateCode (s.circuit b).state ≠ stateCode sb then
        answered s .mismatch (.states (s.circuit a).state (s.circuit b).state)
      else if ¬ ((s.circuit a).state = .vacant ∨ (s.circuit a).state = .copper) ∨
          ¬ ((s.circuit b).state = .vacant ∨ (s.circuit b).state = .copper) then answered s .state .empty
      else s.exchange copper a b := by
  rw [ruleExchange, circuitOf_val, circuitOf_val, hkind, stateOfCode_stateCode, stateOfCode_stateCode]
  simp only [hab, if_false, stateCode_ne_iff, settled_eq_false_iff]

/-! ### The two kinds (R171, R172) -/

section
variable {i : Instr} {port : Port} {q : QueuedCommand} {rest : List QueuedCommand} {rule : State → Handled}

/-- R172, COPPER: the step that swaps the copper attachments of two idle circuits. -/
theorem exchangeCopper_completes (he : exec i s = runCommand i port rule s) (h : Takes s port i q rest) (hs : OccupancyLaw s)
    (hab : a ≠ b) (hr : rule (s.takeHead port q rest) = (s.takeHead port q rest).exchange true a b)
    (ha : ¬ s.busy a = true) (hb : ¬ s.busy b = true) :
    let ra := (s.circuit a).withCopper (s.circuit b).copper
    let rb := (s.circuit b).withCopper (s.circuit a).copper
    Completes s i port q rest .ok (.exchanged ⟨ra.copper, ra.fibre, ra.state⟩ ⟨rb.copper, rb.fibre, rb.state⟩)
      [.circuits, .occupancy] fun t =>
      t.circuit a = evaluated t.spans t.lanes ra ∧ t.circuit b = evaluated t.spans t.lanes rb ∧ CircuitsBut [a, b] s t ∧
      (∀ p, t.timeslotOwner p = if (s.circuit a).copper = some p then some b
        else if (s.circuit b).copper = some p then some a else s.timeslotOwner p) ∧
      t.slotOwners = s.slotOwners := by
  intro ra rb
  have hrewritten := exchangeCopper_rewritten (s := s.takeHead port q rest) hab
  obtain ⟨hviewA, hviewB⟩ := hrewritten.attachments
  refine completes_of_rule (t := (s.takeHead port q rest).exchangeCopper a b) he h.toHeads h.authority ?_
    (exchangeCopper_frame _ a b) (by decide) fun u hu => ?_
  · rw [hr, State.exchange, if_pos rfl, if_neg (show ¬ (s.takeHead port q rest).busy a = true from ha),
      if_neg (show ¬ (s.takeHead port q rest).busy b = true from hb), hviewA, hviewB]
    rfl
  · obtain ⟨hfirst, hsecond, hothers⟩ := hrewritten.of_frame hu (by decide) (by decide) (by decide)
    refine ⟨hfirst, hsecond, hothers, fun p => (hu.sameTimeslotOwner (by decide) p).trans ?_,
      (hu.sameOwner (by decide)).2.trans (exchangeCopper_slotOwners _ a b)⟩
    exact exchangeCopper_timeslotOwner (s := s.takeHead port q rest) ⟨hs.timeslots, hs.slots, hs.retired⟩ hab p

/-- R172, FIBRE: the step that swaps the fibre attachments of two circuits that do not drain. -/
theorem exchangeFibre_completes (he : exec i s = runCommand i port rule s) (h : Takes s port i q rest) (hs : OccupancyLaw s)
    (hab : a ≠ b) (hr : rule (s.takeHead port q rest) = (s.takeHead port q rest).exchange false a b)
    (hdrain : ¬ ((s.circuit a).draining = true ∨ (s.circuit b).draining = true)) :
    let ra : Circuit := { s.circuit a with fibre := (s.circuit b).fibre }
    let rb : Circuit := { s.circuit b with fibre := (s.circuit a).fibre }
    Completes s i port q rest .ok (.exchanged ⟨ra.copper, ra.fibre, ra.state⟩ ⟨rb.copper, rb.fibre, rb.state⟩)
      [.circuits, .occupancy, .rings] fun t =>
      t.circuit a = evaluated t.spans t.lanes ra ∧ t.circuit b = evaluated t.spans t.lanes rb ∧ CircuitsBut [a, b] s t ∧
      (∀ n, t.slotOwner n = if (s.circuit a).fibre = some n then some b
        else if (s.circuit b).fibre = some n then some a else s.slotOwner n) ∧
      t.timeslots = s.timeslots ∧
      (∀ c, c ≠ a → c ≠ b → t.ring c = s.ring c) ∧
      ∀ c r, (c = a ∧ r = ra) ∨ (c = b ∧ r = rb) →
        (r.fibre.isSome → ∀ k, (t.ring c).get k = s.node.idleCode) ∧ (r.fibre = none → t.ring c = s.ring c) := by
  intro ra rb
  have hrewritten := exchangeFibre_rewritten (s := s.takeHead port q rest) hab
  obtain ⟨hviewA, hviewB⟩ := hrewritten.attachments
  refine completes_of_rule (t := (s.takeHead port q rest).exchangeFibre a b) he h.toHeads h.authority ?_
    (exchangeFibre_frame _ a b) (by decide) fun u hu => ?_
  · rw [hr, State.exchange, if_neg Bool.false_ne_true,
      if_neg (show ¬ (((s.takeHead port q rest).circuit a).draining = true ∨ ((s.takeHead port q rest).circuit b).draining = true)
        from hdrain), hviewA, hviewB]
    rfl
  obtain ⟨hfirst, hsecond, hothers⟩ := hrewritten.of_frame hu (by decide) (by decide) (by decide)
  have hring : ∀ c, u.ring c = if (s.circuit a).fibre.isSome ∧ b = c then .fill s.node.idleCode
      else if (s.circuit b).fibre.isSome ∧ a = c then .fill s.node.idleCode else s.ring c := fun c =>
    (hu.sameRing (by decide) c).trans (exchangeFibre_ring (s := s.takeHead port q rest) hab c)
  refine ⟨hfirst, hsecond, hothers, fun n => (hu.sameSlotOwner (by decide) n).trans ?_,
    (hu.sameOwner (by decide)).1.trans (exchangeFibre_timeslots _ a b), fun c ha hb => ?_, fun c r hc => ?_⟩
  · exact exchangeFibre_slotOwner (s := s.takeHead port q rest) ⟨hs.timeslots, hs.slots, hs.retired⟩ hab n
  · rw [hring, if_neg fun h => hb h.2.symm, if_neg fun h => ha h.2.symm]
  rcases hc with ⟨rfl, rfl⟩ | ⟨rfl, rfl⟩
  · rw [hring, if_neg fun h => hab h.2.symm]
    exact ⟨fun hsome k => by rw [if_pos ⟨hsome, rfl⟩, Table.get_fill], fun hnone => if_neg fun h => by simp_all [ra]⟩
  · rw [hring]
    refine ⟨fun hsome k => by rw [if_pos ⟨hsome, rfl⟩, Table.get_fill], fun hnone => ?_⟩
    rw [if_neg fun h => by simp_all [rb], if_neg fun h => hab h.2]

end

/-- Settles O29: the checks in their order, and the swap of either side. -/
theorem exchange : Obligations.Exchange := by
  intro s port tag kind na ea nb eb q rest h
  have hauth := h.authority
  refine ite_prop_iff_and.mpr ⟨fun hrange => refuses_of_rule rfl h.toHeads hauth (ruleExchange_range hrange), fun hrange =>
    ite_prop_iff_and.mpr ⟨fun hformat => refuses_of_rule rfl h.toHeads hauth ?_, fun hgood a b ha hb => ?_⟩⟩
  · obtain ⟨hna, hnb⟩ := not_or.mp hrange
    obtain ⟨a, rfl⟩ : ∃ a : CircuitNo, a.val = na := ⟨⟨na, not_le.mp hna⟩, rfl⟩
    obtain ⟨b, rfl⟩ : ∃ b : CircuitNo, b.val = nb := ⟨⟨nb, not_le.mp hnb⟩, rfl⟩
    exact ruleExchange_format (by rwa [← Fin.val_inj])
  subst ha hb
  simp only [not_or, not_le] at hgood
  obtain ⟨hkind, hea, heb, hne⟩ := hgood
  have hab : a ≠ b := Fin.val_ne_iff.mp hne
  obtain ⟨sa, rfl⟩ := exists_stateCode hea
  obtain ⟨sb, rfl⟩ := exists_stateCode heb
  obtain ⟨copper, hcopper, hside⟩ := exists_exchangeKind hkind
  have hrule := ruleExchange_checked (s := s.takeHead port q rest) (sa := sa) (sb := sb) hcopper hab
  refine ite_prop_iff_and.mpr ⟨fun hmismatch => refuses_of_rule rfl h.toHeads hauth
    (hrule.trans (if_pos hmismatch)), fun hmatch => ?_⟩
  replace hrule := hrule.trans (if_neg hmatch)
  refine ite_prop_iff_and.mpr ⟨fun hunsettled => refuses_of_rule rfl h.toHeads hauth
    (hrule.trans (if_pos hunsettled)), fun hsettled => ?_⟩
  replace hrule := hrule.trans (if_neg hsettled)
  refine ite_prop_iff_and.mpr ⟨fun hone => ?_, fun hzero => ?_⟩
  · obtain rfl := hside.mpr hone
    refine ite_prop_iff_and.mpr ⟨fun hbusy => refuses_of_rule rfl h.toHeads hauth
      (hrule.trans ((if_pos rfl).trans (if_pos hbusy))), fun hidle => ?_⟩
    refine ite_prop_iff_and.mpr ⟨fun hbusy => refuses_of_rule rfl h.toHeads hauth
      (hrule.trans ((if_pos rfl).trans ((if_neg hidle).trans (if_pos hbusy)))), fun hidle' hs => ?_⟩
    exact exchangeCopper_completes rfl h hs hab hrule hidle hidle'
  · obtain rfl : copper = false := Bool.eq_false_iff.mpr (mt hside.mp hzero)
    refine ite_prop_iff_and.mpr ⟨fun hdrain => refuses_of_rule rfl h.toHeads hauth
      (hrule.trans ((if_neg Bool.false_ne_true).trans (if_pos hdrain))), fun hdrain hs => ?_⟩
    exact exchangeFibre_completes rfl h hs hab hrule hdrain

end Sys2Proof.Machine
end
